-- ==== Sys2Proof/Word.lean ====
section
/-!
DEFINITION. The words of the PKA-880 model and their plainest arithmetic (R6: little-endian, bit 0 least significant).
-/
namespace Sys2Proof

/-- A byte. -/
abbrev Byte := BitVec 8
/-- A 16-bit word. -/
abbrev Half := BitVec 16
/-- A 32-bit word, the width of the register window (R60). -/
abbrev Word := BitVec 32
/-- A 64-bit word, the widest integer object (R45). -/
abbrev DWord := BitVec 64

/-- A domain number, D0 to D7. -/
abbrev Dom := Fin 8
/-- A lane number of a Gwynra port. -/
abbrev Lane := Fin 4
/-- An append log number. -/
abbrev LogNo := Fin 16

/-- Bits `lo + width - 1 .. lo` of a number held as bits. -/
def fieldOf (v lo width : Nat) : Nat := v / 2 ^ lo % 2 ^ width

/-- Bit `n` of a number held as bits. -/
def bitOf (v n : Nat) : Bool := v / 2 ^ n % 2 == 1

/-- A Bool as the number 0 or 1. -/
def b2n (b : Bool) : Nat := if b then 1 else 0

/-- Rounding up division. -/
def ceilDiv (a b : Nat) : Nat := (a + b - 1) / b

/-- The two's complement bits of an integer in `w` bits. -/
def toBits (w : Nat) (i : Int) : Nat := (i % (2 ^ w : Nat)).toNat

/-- The integer that `w` two's complement bits stand for. -/
def ofBits (w v : Nat) : Int :=
  if v % 2 ^ w < 2 ^ (w - 1) then (v % 2 ^ w : Nat) else (v % 2 ^ w : Nat) - (2 ^ w : Nat)

/-- The little-endian bytes of a number (R6). -/
def leBytes : Nat → Nat → List Byte
  | 0, _ => []
  | n + 1, v => BitVec.ofNat 8 v :: leBytes n (v / 256)

/-- The number that little-endian bytes stand for (R6). -/
def ofLeBytes : List Byte → Nat
  | [] => 0
  | b :: bs => b.toNat + 256 * ofLeBytes bs

/-- Insert by a key, after equal keys. -/
def insertBy {α : Type} (key : α → Nat) (x : α) : List α → List α
  | [] => [x]
  | y :: ys => if key x < key y then x :: y :: ys else y :: insertBy key x ys

/-- Sort by a key, keeping the order of equal keys. -/
def sortBy {α : Type} (key : α → Nat) (xs : List α) : List α := xs.foldl (fun acc x => insertBy key x acc) []

/-- Element `i` of a vector. -/
def vget {α : Type} {n : Nat} (v : Vector α n) (i : Fin n) : α := v[i.val]

/-- A vector with element `i` replaced. -/
def vset {α : Type} {n : Nat} (v : Vector α n) (i : Fin n) (x : α) : Vector α n := v.set i.val x i.isLt

end Sys2Proof
end

