-- ==== Sys2Proof/Syntax.lean ====
section
/-!
DEFINITION. The commands of the PKA-880 block: one constructor of Instr for each row of the table of operations and
events, with what the outside world or the part's own hardware brings to it as operands.
-/
namespace Sys2Proof

/-- A Gwynra link port (R77). -/
inductive PortId where
  | a | b
deriving DecidableEq, Repr

/-- Index of a port's object, given port A's (R101, R128). -/
def PortId.index (p : PortId) (base : Nat) : Nat :=
  match p with
  | .a => base
  | .b => base + 0x100

/-- The other port. -/
def PortId.other : PortId → PortId
  | .a => .b
  | .b => .a

/-- Number of a port: its place in two-element vectors and its LINK_BINDING bit (R27). -/
def PortId.fin : PortId → Fin 2
  | .a => 0
  | .b => 1

/-- The 64-byte command of a CMD message, all but its OPCODE byte, reserved parts included (R132). -/
structure CmdBody where
  /-- Byte 1, CMD_FLAGS. -/
  flags : Byte
  /-- Byte 2, bits 3:0, TARGET. -/
  target : BitVec 4
  /-- Byte 2, bits 7:4, reserved. -/
  res2 : BitVec 4
  /-- Byte 3, reserved. -/
  res3 : Byte
  /-- Bytes 4-7, COUNT. -/
  count : Word
  /-- Bytes 8-15, ARG_A. -/
  argA : DWord
  /-- Bytes 16-23, ARG_B. -/
  argB : DWord
  /-- Bytes 24-31, reserved. -/
  res24 : DWord
  /-- Bytes 32-39, HOST_STAMP. -/
  stamp : DWord
  /-- Bytes 40-63, reserved. -/
  res40 : BitVec 192
deriving DecidableEq, Repr

/-- Where a command comes from: the port its CMD arrived on, the domain and TAG of the message header (R107, R108). -/
structure CmdHead where
  port : PortId
  dom : Dom
  tag : BitVec 7
deriving DecidableEq, Repr

/-- The link frame header (R104). -/
structure FrameHeader where
  kind : BitVec 4
  version : BitVec 4
  upstream : Bool
  enum : Bool
  res1 : BitVec 6
  fseq : Half
  dest : Byte
  src : Byte
  streamLength : Half
  cmdUnits : Byte
  adminUnits : Byte
  dataUnits : Byte
  respUnits : Byte
  res12 : Word
deriving DecidableEq, Repr

/-- A message of a received frame: its common header and its bytes from byte 4 on (R107). -/
structure RxMsg where
  type : Byte
  units : Byte
  dom : BitVec 3
  res2 : BitVec 5
  res3 : Byte
  rest : List Byte
deriving DecidableEq, Repr

/-- How a received link frame stands against its CRC and its lane layer (R105). -/
inductive FrameQuality where
  | good | bad | stomped
deriving DecidableEq, Repr

/-- What the bit-slip search meets at one position of the word boundary: in how many lane frames in a row the marker stands
there, or, on an inverted input pair, the end-of-transmission pattern (R90). -/
structure SlipHit where
  slip : BitVec 6
  frames : Byte
  inverted : Bool
deriving DecidableEq, Repr

/-- The party and path of a dictionary write (R51). -/
inductive Writer where
  /-- An SDO of the EtherCAT master. -/
  | sdo
  /-- Process data of an RxPDO. -/
  | rxpdo
  /-- A REGW of a domain on a port. -/
  | regw (port : PortId) (dom : Dom) (reqId : Byte)
  /-- A MGMT write of a domain on a port. -/
  | mgmt (port : PortId) (dom : Dom) (transferId : Byte)
deriving DecidableEq, Repr

/-- A dictionary write as it arrives (R53, R60, R65, R541). -/
inductive ObjWrite where
  /-- SDO download of the bytes to one object, expedited or normal. -/
  | sdo (index : Half) (sub : Byte) (bytes : List Byte)
  /-- SDO download with complete access. -/
  | sdoComplete (index : Half) (sub : Byte) (bytes : List Byte)
  /-- The first request of a segmented SDO download: the total length and the first bytes. -/
  | sdoBegin (complete : Bool) (index : Half) (sub : Byte) (total : Word) (bytes : List Byte)
  /-- A segment of an SDO download with its toggle bit. -/
  | sdoSegment (toggle last : Bool) (bytes : List Byte)
  /-- REGW of a word to a window address. -/
  | regw (port : PortId) (dom : Dom) (reqId : Byte) (addr : Word) (value : Word)
  /-- An object of an RxPDO taking a received value. -/
  | rxpdo (index : Half) (sub : Byte) (value : DWord)
deriving DecidableEq, Repr

/-- A sync manager of the slave controller as the master has set it (R65, R66). -/
structure SyncManager where
  start : Half
  length : Half
  /-- Three buffers; mailbox mode otherwise. -/
  buffered : Bool
  /-- The master writes its buffer. -/
  output : Bool
  enabled : Bool
deriving DecidableEq, Repr

/-- An FMMU as the master has set it (R65): bytes of the logical address space that stand for process RAM. -/
structure Fmmu where
  logical : Word
  length : Half
  physical : Half
  read : Bool
  write : Bool
  enabled : Bool
deriving DecidableEq, Repr

/-- The distributed clock as the master has set it: DC-synchronous operation, and the cycle times of SYNC0 and SYNC1 in ns, 0
for an unused signal (R73). -/
structure DcSettings where
  synchronous : Bool
  cycle0 : Word
  cycle1 : Word
deriving DecidableEq, Repr

/-- The slave controller's settings of the master (R65, R66, R73). -/
structure SlaveSettings where
  sm : Vector SyncManager 8
  fmmu : Vector Fmmu 8
  dc : DcSettings
deriving DecidableEq, Repr

/-- A CoE request other than a download (R65, R469). -/
inductive CoeRequest where
  /-- SDO upload of one object, or with complete access from a subindex on. -/
  | upload (complete : Bool) (index : Half) (sub : Byte)
  /-- The next segment of an SDO upload, with its toggle bit. -/
  | uploadSegment (toggle : Bool)
  /-- SDO information: the object list of a type; the description of an object; the description of an entry. -/
  | objectList (list : Half)
  | objectDescription (index : Half)
  | entryDescription (index : Half) (sub : Byte)
  /-- The master ends the open SDO transfer. -/
  | abort
  /-- An SDO request with a command specifier that is not valid. -/
  | badSpecifier
deriving DecidableEq, Repr

/-- A mailbox request without a row of its own, by protocol (R65). -/
inductive MailboxRequest where
  | eoe | soe | aoe | voe
  | coe (r : CoeRequest)
deriving DecidableEq, Repr

/-- A MGMT request, all but its OPCODE and data: bytes 1-15 of the body (R63). -/
structure MgmtReq where
  complete : Bool
  last : Bool
  /-- FLAGS bits 7:2, reserved. -/
  res1 : BitVec 6
  index : Half
  sub : Byte
  transferId : Byte
  segment : Half
  total : Word
  /-- Bytes 12-15, reserved. -/
  res12 : Word
deriving DecidableEq, Repr

/-- What the board and the dies bring to a start (R433): the strap balls with KILN_EN as bit 15, the fuse array, MR8
of the LPDDR4X ranks and whether each NOR slot reads completely. -/
structure StartEnv where
  straps : Half
  /-- Every fuse row passes its check within three reads (R424). -/
  fuseOk : Bool
  /-- Fuse rows that needed a second read. -/
  secondReads : Byte
  dramSizeMib : Half
  dramRanks : Byte
  dramOk : Bool
  /-- The SPI NOR answers and slots A and B read completely (R428, reason 0x0B). -/
  norA : Bool
  norB : Bool
deriving DecidableEq, Repr

/-- Kinds of a block on tape (R241). -/
inductive BlockKind where
  | log | sector | rawSector | kiln | map | calibration
deriving DecidableEq, Repr

/-- A run of content in a block: bytes of a take entry from `off` on, or one sector, or one Kiln record (R208, R241). -/
structure Piece where
  /-- Take number, sector number or Kiln sequence number. -/
  seq : Nat
  /-- Commit number of the ring item it came from. -/
  commit : Nat
  off : Nat
  bytes : List Byte
deriving DecidableEq, Repr

/-- A block as it stands in a cut (R213, R241): its length on tape and the content it decodes to. -/
structure Block where
  kind : BlockKind
  target : Nat
  length : Nat
  pieces : List Piece
  /-- The 305 code lengths of an LZ_HUFFMAN block, chosen by its engine (R218); none for any other block. -/
  lengths : List (BitVec 4)
deriving DecidableEq, Repr

/-- CUT_KIND (R243). -/
inductive CutKind where
  | data | kiln | bedrock | calibration | map
deriving DecidableEq, Repr

/-- The chains of R244 with their areas: the data area, the Kiln band and the Bedrock zones. -/
inductive Chain where
  | data | kiln | zone (z : Fin 2)
deriving DecidableEq, Repr

/-- A cut on tape with what its slate says (R243) and where it lies: wrap and channel bits from the start of its area in
the write direction. -/
structure Cut where
  serial : Nat
  previous : Nat
  retires : Nat
  /-- ORDER_SERIAL of its map entry (R249). -/
  order : Nat
  kind : CutKind
  dom : Option Dom
  padded : Bool
  replacement : Bool
  reallocated : Bool
  /-- Abandoned or replaced: RETIRED in the map (R252). -/
  retired : Bool
  /-- Complete on tape (R253). -/
  complete : Bool
  /-- Its content was unrecovered by a ladder (R303, R345). -/
  bad : Bool
  chain : Chain
  wrap : Nat
  start : Nat
  length : Nat
  gen : Nat
  /-- First cut serial of its Bedrock generation, and LAST (R243, R247). -/
  generation : Nat
  last : Bool
  /-- Frame-set lengths charged to the spare pool for it (R248). -/
  charge : Nat
  /-- WRITER_ID (R243). -/
  writer : Nat
  /-- ZONE_CUT_INDEX of a Bedrock cut; PART of a map checkpoint and its PARTS (R243). -/
  part : Nat
  parts : Nat
  /-- Its rewrite frame sets in write order: the FS_INDEX each repeats, and the channel bits of the trailing window before it
  (R269, R270). -/
  rewrites : List (Nat × Nat)
  blocks : List Block
deriving DecidableEq, Repr

/-- A state block of the cartridge memory (R255). -/
structure StateBlock where
  updateCount : Nat
  /-- FORMAT_STATE: 0 blank, 1 formatting, 2 formatted. -/
  formatState : Nat
  wrapsFormatted : Nat
  formatGen : Nat
  nextSerial : Nat
  loadCount : Nat
  mapSerial : Nat
  mapWrap : Nat
  mapLpos : Nat
  kilnLastCut : Nat
  kilnCutsUsed : Nat
  kilnLastSeq : Nat
  writerId : Nat
deriving DecidableEq, Repr

/-- A T6 cartridge with its memory and its tape (R228, R255). -/
structure Cartridge where
  /-- CARTRIDGE_ID. -/
  id : Nat
  /-- The manufacturer block reads and passes its CRC (R257). -/
  manufacturer : Bool
  /-- State blocks A and B; none where the CRC fails. -/
  stateA : Option StateBlock
  stateB : Option StateBlock
  /-- The wear block, eighths of a pass by wrap; none where its CRC fails (R278). -/
  wear : Option (List Nat)
  /-- The wrap records of the zone tables; none where the CRC fails (R288). -/
  zones : List (Option (List Nat))
  /-- The cuts on tape, in the order written. -/
  cuts : List Cut
deriving DecidableEq, Repr

/-- What the device reserve of LPDDR4X pages is used for (R190). -/
inductive ReserveUse where
  | tables | capture | ecc | cp | spares | kilnBridge
deriving DecidableEq, Repr

/-- A page requester: a domain, the dailies and self-test, or a device unit, which the device reserve serves (R192, R194). -/
inductive PageHolder where
  | domain (d : Dom)
  | service
  | device (u : ReserveUse)
deriving DecidableEq, Repr

/-- What a wrong LPDDR4X line holds (R188). -/
inductive LineUse where
  /-- Data of a take or sector: of the ring's copy, or captured or decompressed from tape. -/
  | data
  /-- Allocator or pager tables. -/
  | tables
  /-- The Kiln bridge buffer. -/
  | kilnBuffer
  /-- Pages of the self-test or the dailies. -/
  | service
deriving DecidableEq, Repr

/-- A line that a read of LPDDR4X finds wrong: its index, the wrong bits in its lower and upper half, whether it was read from
the wrong address, who holds its page and what it holds (R187, R188). -/
structure EccHit where
  line : BitVec 26
  low : BitVec 9
  high : BitVec 9
  misplaced : Bool
  holder : PageHolder
  holds : LineUse
deriving DecidableEq, Repr

/-- A byte of the boot cache that has gone bad: its slot, sector and offset, and the bits that turned (R199). -/
structure CacheRot where
  dom : Dom
  sector : Half
  off : BitVec 12
  bits : Byte
deriving DecidableEq, Repr

/-- A C1 codeword that the read channel does not bring up clean at once: the global iterations its decoder ran until every parity
check held, or to the end; the channel bits it corrected; whether a bit of it was sampled more than HOLDOVER_BITS after the start
of a clock-track dropout; and the bits in which its result differs from what was written (R264, R268, R291). -/
structure WordRead where
  k : Fin 8
  iterations : Byte
  corrected : Half
  late : Bool
  wrong : List (BitVec 14)
deriving DecidableEq, Repr

/-- A frame as the read channel hands it over: whether its sync mark was found, the bits in which its header copies and its four
wedge words differ from what was written, and its codewords that were not clean (R232-R235, R268). -/
structure FrameRead where
  frame : Fin 16
  sync : Bool
  header1 : List (BitVec 9)
  header2 : List (BitVec 9)
  wedges : Vector DWord 4
  words : List WordRead
deriving DecidableEq, Repr

/-- A frame of one copy of a frame set: the original, 0, or the rewrite with that REWRITE_NUMBER (R269, R273). -/
structure CopyRead where
  fs : BitVec 5
  copy : BitVec 3
  read : FrameRead
deriving DecidableEq, Repr

/-- What the adaptation of an AFE stands at as a pass leaves a zone: gain in 0.125 dB, offset in 0.5 ADC LSB, asymmetry in 1 %
(R283, R289). -/
structure AfeRead where
  gain : Byte
  offset : Byte
  asym : Byte
deriving DecidableEq, Repr

/-- Amplitudes of the 20 µm and the 30 µm tone that a servo reader brings to its demodulator (R295). -/
structure ServoTones where
  a20 : Half
  a30 : Half
deriving DecidableEq, Repr

/-- What the motors, sensors and tape bring to a PWM period (R295, R312, R315, R321): the raw ADC readings of the inputs at
trigger A, the tones of the lower and the upper servo reader, whether the amplitude of each stands, and the 20 µm tone cycles
since the last period. -/
structure PeriodInputs where
  ain : Vector (BitVec 12) 24
  tones : Vector ServoTones 2
  lower : Bool
  upper : Bool
  cycles : Byte
deriving DecidableEq, Repr

/-- What a 1 ms tick measures (R421, R442, R512): converter energy in nJ, Tj in °C, the rails in mV, and
whether a converter has reached its current limit. -/
structure TickInputs where
  converter : Word
  tj : Half
  vcoreMv : Half
  vmramMv : Half
  limit : Bool
deriving DecidableEq, Repr

/-- The commands: one constructor for each row of the table, in its order. -/
inductive Instr where
  /-- PORESET_N_LOW (R371): PORESET_N goes low: PWM and voice-coil outputs are driven low at once, the reels coast and the part is held in reset. -/
  | poresetNLow
  /-- START_REFERENCE (R433): PORESET_N rises, or the internal POR is released if later: straps are sampled, fuses load, ROOT locks, the journal is read and LPDDR4X initialisation and the first slot read begin. -/
  | startReference (env : StartEnv)
  /-- FUSE_LOAD_RETRY (R424): After a fuse row fails three reads, the fuse load starts again every 100 ms and release is withheld. -/
  | fuseLoadRetry (env : StartEnv)
  /-- RELEASE (R433): The start ends: the dictionary is loaded from the checked image or the straps, EtherCAT enters PREOP, ports with AUTO_ENABLE enter LISTEN and the holdup charger starts. -/
  | release (us : BitVec 25) (crystal : DWord)
  /-- ROOT_UNLOCK (R417): ROOT loses lock or the reference stops for 1 µs: the part acts as if PORESET_N went low and restarts 1 ms after relock. -/
  | rootUnlock (stopped : Bool)
  /-- SUPPLY_FAULT (R420): VCORE or VMRAM leaves ±5 % for 2 µs, or a converter stays at its current limit for 10 µs, and the internal POR is asserted. -/
  | supplyFault
  /-- THERMAL_TRIP (R512): TJ_C has read 120 °C or more for 10 ms: the power-fail sequence runs and the internal POR is asserted. -/
  | thermalTrip
  /-- THERMAL_RESTART (R512): TJ_C has read 100 °C or less for 1 s after a thermal trip, and the part starts again. -/
  | thermalRestart (env : StartEnv)
  /-- RESET_REQUEST (R423): A write of 0x0A5C to RESET_REQUEST requests a warm reset; any other value is refused. -/
  | resetRequest (w : Writer) (value : Half)
  /-- WARM_RESET (R370): A requested warm reset is applied once the power-fail sequence has brought the transport to OFF. -/
  | warmReset (env : StartEnv)
  /-- POWER_FAILURE_DETECTED (R366): An enabled source (PFAIL_N or VSENSE) has held its failure condition for 0.5 µs, and the power-fail sequence starts: charger off, braking, write drivers off, credits frozen, ring closed. -/
  | powerFailureDetected (sources : BitVec 2)
  /-- HOLDUP_EXHAUSTED (R369): VHOLD falls below 9.0 V before the reels rest: both bridges short, the head unloads and a HOLDUP_EXHAUSTED record is journalled. -/
  | holdupExhausted (vholdMv : Half)
  /-- SEQUENCE_END (R366): The power-fail sequence ends: persistent values and the SEQUENCE_END record are written and the supplies are released. -/
  | sequenceEnd (energyMj : Word)
  /-- POWER_FAIL_RESTART (R364): After the sequence, with the supply good for 10 ms, the PKA-880 restarts as after a reset that reloads the dictionary. -/
  | powerFailRestart (env : StartEnv)
  /-- HOLDUP_READY (R372): VHOLD reaches HOLDUP_MIN_START and HOLDUP_STATUS READY is set, so threading and motion may start. -/
  | holdupReady
  /-- HOLDUP_LOW (R372): VHOLD falls 0.2 V below HOLDUP_MIN_START: READY clears, and moving tape is stopped after its cut. -/
  | holdupLow
  /-- HOLDUP_CONTROL (R374): A write of 0x01 clears a holdup slot fault and restarts the charger. -/
  | holdupControl (w : Writer) (value : Byte)
  /-- SIGNAL_DETECTED (R94): LOS clears on a lane in LISTEN: the lane sends its own clapper burst and enters LOCK, and the port enters TRAINING. -/
  | signalDetected (p : PortId) (l : Lane)
  /-- LOS (R93): LOS is asserted on a lane: a training lane returns to LISTEN, and an active lane triggers narrowing or LINK_DOWN. -/
  | los (p : PortId) (l : Lane)
  /-- LOL (R96): LOL is asserted on an active lane: the lane enters RETRAIN_WAIT and the port narrows, or retrains if no lane stays aligned. -/
  | lol (p : PortId) (l : Lane)
  /-- LOCK_COMPLETE (R89): LOL has stayed clear for 8 µs, and the lane completes LOCK and enters ALIGN. -/
  | lockComplete (p : PortId) (l : Lane)
  /-- ALIGN_COMPLETE (R90): The bit-slip search confirms the marker and a valid lane word, and the lane enters EQUALIZE, or DESKEW on idle exit or a lone retrain. -/
  | alignComplete (p : PortId) (l : Lane) (word : DWord) (hits : List SlipHit)
  /-- PHASE_TIMER_EXPIRY (R93): The 4 ms phase timer expires: the lane restarts the phase, or enters LISTEN at the fourth expiry. -/
  | phaseTimerExpiry (p : PortId) (l : Lane)
  /-- LANE_FRAME_RECEIVED (R85): A lane frame with its lane word is received, and the lane word values are taken when its CRC passes. -/
  | laneFrameReceived (p : PortId) (l : Lane) (line : List Bool)
  /-- DESKEW_COMPLETE (R92): Every lane of the configured width has reached DESKEW, or 4 ms have passed, and the port chooses its width. -/
  | deskewComplete (p : PortId) (skews : Vector (BitVec 8) 4)
  /-- LISTEN_BURST (R94): 100 ms after its last burst, a lane in LISTEN sends a clapper burst and 4 ms of LOCK frames. -/
  | listenBurst (p : PortId) (l : Lane)
  /-- LONE_RETRAIN (R97): 1 s after entry to RETRAIN_WAIT, or after the last attempt, the lane retrains alone. -/
  | loneRetrain (p : PortId) (l : Lane)
  /-- TAP_REQUEST_TIMEOUT (R88): A tap request unanswered for 1 ms is withdrawn and TAP_UNANSWERED is set. -/
  | tapRequestTimeout (p : PortId) (l : Lane)
  /-- NARROWING_TIMEOUT (R96): The partner still sends at the old width 60 µs after a loss, and the port enters TRAINING. -/
  | narrowingTimeout (p : PortId)
  /-- CLAPPER_BURST (R99): A clapper burst is detected on a port in IDLE, and the short training of idle exit starts. -/
  | clapperBurst (p : PortId)
  /-- END_OF_TRANSMISSION (R98): End-of-transmission markers are received: the port enters DRAINING and sends its own at its quiescent point. -/
  | endOfTransmission (p : PortId)
  /-- IDLE_ENTRY_TIMEOUT (R98): 1 ms passes without the partner's marker, and the idle entry is cancelled, with the port returning to UP. -/
  | idleEntryTimeout (p : PortId)
  /-- PORT_QUIESCENT (R95): A DRAINING port reaches its quiescent point and enters DISABLED, IDLE or LOOPBACK. -/
  | portQuiescent (p : PortId)
  /-- ENABLE (R95): The port STATE_REQUEST ENABLE takes a DISABLED port to LISTEN. -/
  | enable (p : PortId) (w : Writer) (gen : Half)
  /-- DISABLE (R95): The port STATE_REQUEST DISABLE takes the port to DISABLED, through DRAINING from UP. -/
  | disable (p : PortId) (w : Writer) (gen : Half)
  /-- RETRAIN (R95): The port STATE_REQUEST RETRAIN starts a training of the port. -/
  | retrain (p : PortId) (w : Writer) (gen : Half)
  /-- ENTER_IDLE (R98): The port STATE_REQUEST ENTER_IDLE starts the two-sided idle entry. -/
  | enterIdle (p : PortId) (w : Writer) (gen : Half)
  /-- LOOPBACK_NES (R100): The port STATE_REQUEST LOOPBACK_NES enters near-end serial loopback. -/
  | loopbackNes (p : PortId) (w : Writer) (gen : Half)
  /-- LOOPBACK_NEP (R100): The port STATE_REQUEST LOOPBACK_NEP enters near-end parallel loopback. -/
  | loopbackNep (p : PortId) (w : Writer) (gen : Half)
  /-- LOOPBACK_FE (R100): The port STATE_REQUEST LOOPBACK_FE enters far-end loopback. -/
  | loopbackFe (p : PortId) (w : Writer) (gen : Half)
  /-- END_LOOPBACK (R100): The port STATE_REQUEST END_LOOPBACK returns the port to DISABLED. -/
  | endLoopback (p : PortId) (w : Writer) (gen : Half)
  /-- LINK_FRAME_RECEIVED (R110): A link frame is received and checked: it is accepted, acknowledged, NAKed, discarded as stomped, consumed, forwarded or dropped. -/
  | linkFrameReceived (p : PortId)
  /-- ENUMERATION_FRAME (R122): An enumeration frame on port A is taken by an unnumbered node, forwarded, or answered as the end of the chain. -/
  | enumerationFrame (d : Dom) (dest : Byte) (addr : Word) (value : Word) (reqId : Byte)
  /-- ACK (R111): An ACK frees acknowledged frames from the retry buffer. -/
  | ack (p : PortId) (seq : Half)
  /-- NAK (R111): A NAK makes the transmitter replay from EXPECTED_SEQ. -/
  | nak (p : PortId) (seq : Half) (reason : Byte)
  /-- CREDIT (R114): A CREDIT message raises the sender's cumulative limits; a limit behind one already received changes nothing. -/
  | credit (p : PortId) (cmd admin data resp : Half)
  /-- REPLAY_TIMEOUT (R111): 32 lane frame periods pass without an ACK covering the oldest stored frame, and the transmitter replays. -/
  | replayTimeout (p : PortId)
  /-- CREDIT_REFRESH (R114): At least every 100 µs, the receiver sends CREDIT with its current limits. -/
  | creditRefresh (p : PortId)
  /-- OBJECT_WRITE (R53): A write by SDO, REGW, RxPDO or MGMT to an object without a row of its own is checked in the order of R540 and applied as one change. -/
  | objectWrite (w : ObjWrite)
  /-- REGW_LOWER_WORD (R61): A REGW of the lower word of a 64-bit object is checked for address, access and owner, then held until the upper word arrives. -/
  | regwLowerWord (p : PortId) (d : Dom) (reqId : Byte) (addr : Word) (value : Word)
  /-- MGMT_READ (R64): A MGMT READ request or segment returns object data. -/
  | mgmtRead (p : PortId) (d : Dom) (m : MgmtReq)
  /-- MGMT_WRITE (R64): A MGMT WRITE segment is taken, and the write is applied at its last segment. -/
  | mgmtWrite (p : PortId) (d : Dom) (m : MgmtReq) (bytes : List Byte)
  /-- GET_DESCRIPTION (R63): A MGMT GET_DESCRIPTION returns the object's type, access, owner, mapping flag and name. -/
  | getDescription (p : PortId) (d : Dom) (m : MgmtReq)
  /-- ABORT_TRANSFER (R64): A MGMT ABORT_TRANSFER abandons the open transfer of its TRANSFER_ID, or is refused. -/
  | abortTransfer (p : PortId) (d : Dom) (m : MgmtReq)
  /-- UNDEFINED_MGMT_OPCODE (R63): A MGMT request with an undefined OPCODE is refused with INVALID_OPCODE. -/
  | undefinedMgmtOpcode (p : PortId) (d : Dom) (opcode : Byte) (m : MgmtReq)
  /-- MGMT_TRANSFER_TIMEOUT (R64): A MGMT transfer without a segment for 100 ms is abandoned and nothing is written. -/
  | mgmtTransferTimeout (p : PortId)
  /-- SDO_TRANSFER_TIMEOUT (R469): A segmented SDO transfer without a segment for 100 ms is abandoned with abort 0x0504_0000. -/
  | sdoTransferTimeout (index : Half) (sub : Byte)
  /-- MASTER_REQUESTS_INIT (R75): The master requests INIT: the mailbox stops and open SDO transfers or FoE downloads are abandoned. -/
  | masterRequestsInit
  /-- MASTER_REQUESTS_PREOP (R75): The master requests PREOP: process data stops and the non-Kiln locks of R68 are lifted. -/
  | masterRequestsPreop
  /-- MASTER_REQUESTS_SAFEOP (R75): The master requests SAFEOP: SM, PDO and DC settings are checked and the slave enters SAFEOP or keeps PREOP with an error flag. -/
  | masterRequestsSafeop (x : SlaveSettings)
  /-- MASTER_REQUESTS_OP (R75): The master requests OP: outputs are applied and Kiln starts taking records from designated RxPDOs. -/
  | masterRequestsOp
  /-- MASTER_REQUESTS_BOOT (R75): The master requests BOOT: from INIT the slave enters BOOT, otherwise the request is refused with 0x0011. -/
  | masterRequestsBoot
  /-- SM2_WATCHDOG_EXPIRY (R75): The SM2 watchdog expires in OP: the slave falls to SAFEOP with an error flag and Kiln stops taking records. -/
  | sm2WatchdogExpiry
  /-- NEW_OUTPUT_BUFFER (R395): A new SM2 output buffer arrives: RxPDO objects are updated and designated Kiln inputs with an advanced RECORD_COUNT are latched for submission. -/
  | newOutputBuffer (image : List Byte)
  /-- FOE_WRITE (R71): An FoE write of miomen.img in BOOT opens a download into the inactive slot, or is refused. -/
  | foeWrite (name : List Byte)
  /-- FOE_READ (R71): An FoE read is refused with 0x8001 not found. -/
  | foeRead
  /-- FOE_PACKET (R71): An FoE data packet is written into the inactive slot, and the last packet is checked under R428. -/
  | foePacket (number : Word) (last : Bool) (bytes : List Byte)
  /-- DOWNLOAD_TIMEOUT (R72): An image download without a packet for 1 s is abandoned, and both slots stay unchanged. -/
  | downloadTimeout
  /-- IMAGE_PUSH_DATA (R430): A write to IMAGE_PUSH_DATA puts its bytes at IMAGE_PUSH_OFFSET in the inactive slot and opens the push at offset 0. -/
  | imagePushData (w : Writer) (bytes : List Byte)
  /-- IMAGE_PUSH_COMMIT (R430): A write to IMAGE_PUSH_COMMIT names the length and checks the pushed image. -/
  | imagePushCommit (w : Writer) (length : Word)
  /-- IMAGE_ACTIVATE (R431): A write of 0x01 makes the inactive valid slot active through a journalled activation record update. -/
  | imageActivate (w : Writer) (value : Byte)
  /-- CONFIGURE (R33): The domain STATE_REQUEST CONFIGURE checks limits and budgets and takes an UNCONFIGURED domain to OFFLINE. -/
  | configure (d : Dom) (w : Writer) (gen : Half)
  /-- GO_ONLINE (R31): The domain STATE_REQUEST GO_ONLINE takes an OFFLINE domain to STARTING. -/
  | goOnline (d : Dom) (w : Writer) (gen : Half)
  /-- GO_OFFLINE (R31): The domain STATE_REQUEST GO_OFFLINE takes an ONLINE, STARTING or DRAINING domain to DRAINING. -/
  | goOffline (d : Dom) (w : Writer) (gen : Half)
  /-- RESET (R35): The domain STATE_REQUEST RESET ends admitted commands with ABORTED_RESET and takes the domain to RESETTING. -/
  | reset (d : Dom) (w : Writer) (gen : Half)
  /-- UNCONFIGURE (R31): The domain STATE_REQUEST UNCONFIGURE takes an OFFLINE domain with no untaped content to UNCONFIGURED and returns its ring units. -/
  | unconfigure (d : Dom) (w : Writer) (gen : Half)
  /-- DOMAIN_QUIESCENT (R32): A DRAINING domain reaches its quiescent point and enters OFFLINE. -/
  | domainQuiescent (d : Dom)
  /-- DOMAIN_ONLINE (R31): A STARTING domain, with the cartridge READY and its boot cache checked, enters ONLINE. -/
  | domainOnline (d : Dom) (rot : List CacheRot)
  /-- DOMAIN_RESET (R31): The holder-tagged resources of a RESETTING domain have reverted, and it enters STARTING. -/
  | domainReset (d : Dom)
  /-- GUARANTEE_RECOMPUTE (R42): Within 1 ms of a budget or demand change, GUARANTEE_SCALE, LIMITING_BUDGET and every effective guarantee are recomputed. -/
  | guaranteeRecompute
  /-- APPEND (R144): The APPEND command is checked, admitted with a slot and ring room, and commits COUNT bytes to a log as one take. -/
  | append (h : CmdHead) (b : CmdBody)
  /-- READ_LOG (R146): The READ_LOG command returns takes FIRST_SEQ to LAST_SEQ of a log with their take headers. -/
  | readLog (h : CmdHead) (b : CmdBody) (hits : List EccHit)
  /-- WRITE_VOL (R148): The WRITE_VOL command commits whole sectors of a volume, all or nothing. -/
  | writeVol (h : CmdHead) (b : CmdBody)
  /-- READ_VOL (R149): The READ_VOL command returns the newest committed sectors of a volume from buffer or tape. -/
  | readVol (h : CmdHead) (b : CmdBody) (hits : List EccHit) (rot : List CacheRot)
  /-- SYNC (R150): The SYNC command waits until every earlier take and sector of the domain is on tape and verified. -/
  | sync (h : CmdHead) (b : CmdBody)
  /-- TRIM_LOG (R151): The TRIM_LOG command raises FIRST_RETAINED of a log. -/
  | trimLog (h : CmdHead) (b : CmdBody)
  /-- IDENTIFY (R152): The IDENTIFY command returns the 4,096-byte structure selected by CNS. -/
  | identify (h : CmdHead) (b : CmdBody)
  /-- GET_LOG_PAGE (R153): The GET_LOG_PAGE command returns a range of a log page. -/
  | getLogPage (h : CmdHead) (b : CmdBody)
  /-- SELF_TEST (R154): The SELF_TEST command starts the short or extended self-test, or stops the running one. -/
  | selfTest (h : CmdHead) (b : CmdBody)
  /-- RESUME (R173): The RESUME command ends a freeze, retrying or discarding the held commands. -/
  | resume (h : CmdHead) (b : CmdBody)
  /-- SET_POWER (R156): The SET_POWER command sets the domain's power vote, or DEVICE_VOTE with device scope. -/
  | setPower (h : CmdHead) (b : CmdBody)
  /-- ABORT (R157): The ABORT command ends one or all outstanding commands of its domain and port with ABORTED_BY_HOST. -/
  | abort (h : CmdHead) (b : CmdBody)
  /-- METER_RECORD (R158): The METER_RECORD command passes 64 bytes of DATA to Kiln and completes on Kiln's result. -/
  | meterRecord (h : CmdHead) (b : CmdBody)
  /-- LOAD_UNLOAD (R159): The LOAD_UNLOAD command applies its ACTION to the cartridge state machine as a STATE_REQUEST with the current GEN. -/
  | loadUnload (h : CmdHead) (b : CmdBody)
  /-- UNDEFINED_OPCODE (R133): A command with an undefined opcode completes with INVALID_OPCODE without side effect. -/
  | undefinedOpcode (opcode : Byte) (h : CmdHead) (b : CmdBody)
  /-- DATA (R137): A DATA message for an admitted write command is placed in the ring or Kiln, or ends the command if it breaks R136. -/
  | data (h : CmdHead) (offset : Word) (bytes : List Byte) (last : Bool) (spares : Byte)
  /-- DATA_STALL_TIMEOUT (R137): 250 ms pass with a write command's bytes missing and no DATA arriving, and it ends with RANGE, DETAIL 0x06. -/
  | dataStallTimeout (h : CmdHead)
  /-- TAG_CLOSE_TIMEOUT (R136): 250 ms without DATA after a non-SUCCESS completion close the TAG. -/
  | tagCloseTimeout (h : CmdHead)
  /-- RING_ROOM_GRANTED (R169): The head of a domain's ring-wait FIFO takes room when the ring releases enough. -/
  | ringRoomGranted (d : Dom)
  /-- RING_WAIT_LIMIT_EXPIRY (R169): A write has waited RING_WAIT_LIMIT and completes with NO_SPACE_PENDING, DETAIL 0x04. -/
  | ringWaitLimitExpiry (h : CmdHead)
  /-- SELF_TEST_RESUME (R179): No host command has needed the test's resources for 500 ms, and the suspended self-test resumes. -/
  | selfTestResume
  /-- SELF_TEST_STEP_COMPLETE (R178): A self-test step ends: the next step starts, or the test completes with SUCCESS or SELFTEST_FAILED. -/
  | selfTestStepComplete (pass : Bool) (progress : Byte)
  /-- IDLE_TIMEOUT (R182): IDLE_MS passes since a domain's last admission or completion, and its vote moves to REQUESTED_VOTE. -/
  | idleTimeout (d : Dom)
  /-- P1_REACHED (R437): Flush, park locate, tension ramp and head unload are done, the transport is PARKED and the device is in P1. -/
  | p1Reached
  /-- P2_ENTRY (R437): With every port idle, the transport goes OFF, LPDDR4X enters self-refresh and the MRAM powers down, reaching P2. -/
  | p2Entry
  /-- IDLE_ENTRY_RETRY (R438): 100 ms after a partner cancelled idle entry, the PKA-880 asks again while the target is P2. -/
  | idleEntryRetry
  /-- P0_REACHED (R184): The exit from P1 or P2 completes and tape work starts. -/
  | p0Reached
  /-- MR4_READ (R191): Every 32 ms, MR4 of each rank is read and the refresh rate is doubled or restored. -/
  | mr4Read (hot cool : Vector Bool 2)
  /-- PAGE_REQUEST (R192): A requester asks the page allocator for a page and is granted it from its floor or the common pool, or joins a wait list. -/
  | pageRequest (reqs : List (PageHolder × BitVec 4))
  /-- PAGE_RELEASE (R193): A released page returns to its floor reserve or the common pool, and goes at once to the head of the waiting list. -/
  | pageRelease (h : PageHolder) (block : BitVec 4) (page : Half)
  /-- ARBITER_REQUEST (R202): A requester asserts its request, and a higher rank revokes the current grant after the burst in flight. -/
  | arbiterRequest (rank : BitVec 4) (wait : Word) (line : BitVec 26) (lines : BitVec 5) (ended drained : Bool)
  /-- ARBITER_WITHDRAW (R203): A granted requester withdraws, costing one dead arbitration cycle. -/
  | arbiterWithdraw (rank : BitVec 4)
  /-- ARBITER_STARVATION (R205): A request of rank 8 to 11 has waited longer than STARVATION_REPORT_US. -/
  | arbiterStarvation (rank : BitVec 4) (wait : Word)
  /-- BLOCK_GATHER_EXPIRY (R209): BLOCK_GATHER_US has passed since the oldest waiting byte of a log reached a page, and its block starts. -/
  | blockGatherExpiry (d : Dom) (log : LogNo)
  /-- BLOCK_START (R211): A free compression engine takes the next log block or sector to compress. -/
  | blockStart (hits : List EccHit) (bad : List (Nat × Byte)) (spares : Byte)
  /-- BLOCK_COMPRESSED (R222): An engine finishes a block and passes it through the check decoder into cut building, or discards and rebuilds it. -/
  | blockCompressed (n : Fin 2) (lengths : List (BitVec 4)) (wrong : List (Nat × Byte))
  /-- BLOCK_DECOMPRESSED (R223): The decompressor finishes a block, which passes or fails its checks and is served, recopied or reread. -/
  | blockDecompressed (wrong : List (Nat × Byte)) (hits : List EccHit)
  /-- CUT_BOUNDARY (R341): At a cut boundary, the allocator builds the next cut and the scheduler may change speed or end the burst. -/
  | cutBoundary
  /-- STREAM_GAP_EXPIRY (R357): No full cut arrives within 0.4 m of a streaming boundary, so the burst ends and the step falls by one. -/
  | streamGapExpiry
  /-- FRAME_SET_DECISION (R268): The read-while-write decision for a frame set arrives and the frame set passes or misses the verify margin. -/
  | frameSetDecision (fs : BitVec 5) (clock : DWord) (frames : List FrameRead) (window : Half) (written : BitVec 6)
  /-- SPLICE_GAP_END (R250): 0.5 m of tape has passed after an abandoned cut, and the replacement cut starts. -/
  | spliceGapEnd
  /-- CUT_VERIFIED (R272): Every frame set of a cut has passed and no decision is pending, so the cut has ended verified. -/
  | cutVerified
  /-- BACKHITCH_COMPLETE (R359): The backhitch places the tape for the next burst and the P0 claim is kept or released by projection. -/
  | backhitchComplete
  /-- BURST_START (R359): With the transport stopped, a full cut, a pooled threshold or a flush starts a burst. -/
  | burstStart
  /-- CARTRIDGE_INSERTED (R162): A cartridge is inserted and the cartridge goes from ABSENT to PRESENT. -/
  | cartridgeInserted (c : Cartridge)
  /-- CARTRIDGE_REMOVED (R162): A PRESENT cartridge is removed and the cartridge becomes ABSENT. -/
  | cartridgeRemoved
  /-- LOAD (R162): The cartridge STATE_REQUEST LOAD, or AUTO_LOAD, starts threading. -/
  | load (w : Writer) (gen : Half)
  /-- UNLOAD (R162): The cartridge STATE_REQUEST UNLOAD takes the cartridge to DRAINING or UNLOADING. -/
  | unload (w : Writer) (gen : Half)
  /-- EJECT (R162): The cartridge STATE_REQUEST EJECT unloads and pushes out the cartridge. -/
  | eject (w : Writer) (gen : Half)
  /-- FORMAT (R162): The cartridge STATE_REQUEST FORMAT starts formatting an UNFORMATTED cartridge. -/
  | format (w : Writer) (gen : Half)
  /-- FORMAT_FORCE (R162): The cartridge STATE_REQUEST FORMAT_FORCE drains a READY cartridge and formats it. -/
  | formatForce (w : Writer) (gen : Half)
  /-- DISCARD_RING (R143): The cartridge STATE_REQUEST DISCARD_RING gives up another cartridge's untaped content and takes a MISMATCH cartridge to SEARCHING. -/
  | discardRing (w : Writer) (gen : Half)
  /-- THREADED (R162): Threading completes: LOAD_COUNT rises, the cartridge memory is read, and the cartridge enters SEARCHING, UNFORMATTED or MISMATCH. -/
  | threaded (arm : BitVec 12)
  /-- POWER_LOSS_REPLAY (R382): During SEARCHING, the open cut is read back, a splice gap left and untaped ring content rewritten in a replacement cut. -/
  | powerLossReplay
  /-- EOD_FOUND (R254): The end-of-data search ends and, with ring contents scheduled, the cartridge enters READY. -/
  | eodFound (rot : List CacheRot)
  /-- CARTRIDGE_QUIESCENT (R162): A DRAINING cartridge reaches its quiescent point and enters UNLOADING or FORMATTING. -/
  | cartridgeQuiescent
  /-- UNTHREADED (R162): Unthreading completes and the cartridge returns to PRESENT, pushed out on EJECT. -/
  | unthreaded
  /-- FORMAT_WRAP_DONE (R258): A wrap of a format is filled, WRAPS_FORMATTED rises and the journal records the step. -/
  | formatWrapDone
  /-- FORMAT_COMPLETE (R162): Calibration cuts, Bedrock generations and the first checkpoint are written and the cartridge goes to SEARCHING. -/
  | formatComplete
  /-- INDEX_REBUILD_COMPLETE (R346): The volume index rebuild ends and waiting reads of volumes 1–3 proceed. -/
  | indexRebuildComplete
  /-- CUT_READ_COMPLETE (R299): A normal read of a cut ends, serving the data or entering the recovery ladder. -/
  | cutReadComplete (frames : List CopyRead) (seed : BitVec 24)
  /-- LADDER_STEP_COMPLETE (R299): A ladder step ends, and the ladder stops with every needed byte recovered or climbs on. -/
  | ladderStepComplete (frames : List CopyRead)
  /-- HOLDOVER (R291): The clock-track amplitude stays below 25 % for 32 bits and the clock PLL holds its frequency. -/
  | holdover
  /-- HOLDOVER_OVERRUN (R291): A dropout outlasts HOLDOVER_BITS and later codewords count as failed. -/
  | holdoverOverrun
  /-- CLOCK_RELOCK (R291): The clock-track amplitude returns above 50 % and the PLL relocks. -/
  | clockRelock
  /-- ZONE_EXIT (R289): A read pass leaves a zone and the zone entry is replaced if adapted values differ. -/
  | zoneExit (w : BitVec 7) (z : Fin 8) (adapted : Vector AfeRead 17) (lateral : Half)
  /-- WRAP_CHECK (R297): The first frame read after a seek is checked against the expected wrap and track. -/
  | wrapCheck (track : Fin 16) (wedges : Vector DWord 4)
  /-- LOCATE_COMPLETE (R361): A locate ends on wedge confirmation of wrap and LPOS. -/
  | locateComplete (wedge : DWord)
  /-- WRITE_INHIBIT (R298): A position sample beyond WRITE_INHIBIT_LIMIT stops the write drivers within 1 µs. -/
  | writeInhibit (pos : Half)
  /-- SERVO_READER_LOST (R298): A servo reader's amplitude stays low for 4 samples, and following moves to the other and writing is inhibited. -/
  | servoReaderLost (upper : Bool)
  /-- SERVO_READER_FAULT (R298): A servo reader loss lasts 20 ms, or both are lost for 20 ms, a transport fault. -/
  | servoReaderFault
  /-- LPOS_WORD (R296): A valid LPOS word is read and LPOS takes its value. -/
  | lposWord (word : BitVec 40)
  /-- LPOS_WORD_LOSS (R296): The words of both readers fail for 50 mm and LPOS continues from the encoders. -/
  | lposWordLoss
  /-- CALIBRATE (R305): A write of 1 to CALIBRATE starts head calibration. -/
  | calibrate (w : Writer) (value : Byte)
  /-- HEAD_CALIBRATION_COMPLETE (R305): Head calibration ends and new trims are stored, or previous ones kept. -/
  | headCalibrationComplete (decoded : Bool) (trims : Vector Word 17)
  /-- PWM_PERIOD (R312): At each valley, outputs take effect, inputs are latched, due loop slots execute and min-select and PWM windows are computed. -/
  | pwmPeriod (x : PeriodInputs)
  /-- TENSION_FAULT (R326): Tension stays outside its fault window for 20 ms and the transport faults. -/
  | tensionFault
  /-- REELS_AT_REST (R325): The reels come to rest and BRAKING, DRAINING or FAULTED ends its stop. -/
  | reelsAtRest
  /-- HEAD_LOADED (R325): The head is loaded after threading or on leaving PARKED and the transport enters STOPPED. -/
  | headLoaded (wCart wMach : Half)
  /-- CLEAR_FAULT (R325): The transport STATE_REQUEST CLEAR_FAULT leaves FAULTED when the reels rest and the cause is gone. -/
  | clearFault (w : Writer) (gen : Half)
  /-- ENTER_TEST (R325): The transport STATE_REQUEST ENTER_TEST enters TEST from IDLE or STOPPED. -/
  | enterTest (w : Writer) (gen : Half)
  /-- END_TEST (R325): The transport STATE_REQUEST END_TEST enters DRAINING and ramps the speed to 0. -/
  | endTest (w : Writer) (gen : Half)
  /-- APPLY (R311): Writing APPLY loads all six coefficient shadows of a slot at the next valley. -/
  | apply (w : Writer) (n : Fin 16) (control : Byte)
  /-- INJECT_WAVEFORM (R323): A write of a waveform in TEST starts injection of a test signal into one slot. -/
  | injectWaveform (w : Writer) (value : Byte)
  /-- CAPTURE_ARM (R324): CAPTURE_CONTROL 0x01 clears the buffer and arms capture. -/
  | captureArm (w : Writer)
  /-- CAPTURE_STOP (R324): CAPTURE_CONTROL 0x02 stops capture. -/
  | captureStop (w : Writer)
  /-- CAPTURE_FULL (R324): Capture has recorded 4,096 samples and is full. -/
  | captureFull
  /-- ENCODER_FAULT (R338): The fourth double transition within 1,024 samples faults the encoder and the transport. -/
  | encoderFault (r : Fin 2)
  /-- STANDSTILL (R333): No encoder edge arrives for STANDSTILL_TIME, and the speed becomes 0 with the history cleared. -/
  | standstill (r : Fin 2)
  /-- RADIUS_MEASURED (R334): A reel completes 8,192 counts of net motion with valid servo LPOS and its radius is measured. -/
  | radiusMeasured (r : Fin 2)
  /-- SPEED_MISMATCH (R336): Encoder and servo tape speed disagree for 20 ms, and the servo speed is used. -/
  | speedMismatch
  /-- SPEED_AGREEMENT (R336): After a mismatch, the two speeds have agreed for 100 ms and the encoders are used again. -/
  | speedAgreement
  /-- TENSION_ARM_MISMATCH (R337): The torque estimate and the tension arm disagree for 100 ms. -/
  | tensionArmMismatch
  /-- SPEED_EVALUATION (R355): Every SPEED_EVAL_MS, demand is computed and a target step or pooled mode chosen. -/
  | speedEvaluation
  /-- POOL_MAX_AGE_EXPIRY (R342): A domain's oldest waiting byte has waited POOL_MAX_AGE_MS and a flush becomes due. -/
  | poolMaxAgeExpiry (d : Dom)
  /-- READ_EXCURSION_LIMIT (R353): READ_EXCURSION_MS of tape time pass while writes wait and the read excursion ends. -/
  | readExcursionLimit
  /-- READ_WAIT_PRIORITY (R352): A read has waited 5 s and goes ahead of every other read of its class. -/
  | readWaitPriority (h : CmdHead)
  /-- DAILIES_DUE (R354): DAILIES_INTERVAL_H after the previous pass, a dailies pass becomes due. -/
  | dailiesDue
  /-- DAILIES_RESUME (R354): No other tape work for 500 ms, and the dailies resume where they stopped. -/
  | dailiesResume
  /-- BEDROCK_DELAY_EXPIRY (R347): No volume 0 WRITE_VOL for BEDROCK_DELAY_S with newer groups taped, so a new Bedrock generation starts. -/
  | bedrockDelayExpiry
  /-- DERATE_RECOVERY (R358): 600 s without a speed excursion raises the derate by one step. -/
  | derateRecovery
  /-- SEAL_OPEN (R404): SEAL_N has been low for 10 ms: SEAL_OPENED is audited and a SEALED Kiln becomes BROKEN. -/
  | sealOpen (crystal : DWord)
  /-- SEAL_CLOSED (R406): SEAL_N has been high for 100 ms while the procedure is open, and Kiln commits or refuses the staged values. -/
  | sealClosed (crystal : DWord) (interrupted : Bool)
  /-- KILN_POWER_ON (R404): The Kiln island powers on, handling a latched seal opening, a lost clock or an interrupted commit. -/
  | kilnPowerOn (enabled clockLost : Bool) (crystal : DWord)
  /-- VBAT_LOW (R510): VBAT stays below 2.0 V for 1 ms with the main supplies absent and the Kiln island resets. -/
  | vbatLow
  /-- SUBMIT (R396): Kiln receives a SUBMIT and signs and stores the record, or refuses it. -/
  | submit (crystal : DWord) (withdrawn : Bool)
  /-- CONFIRM (R410): Kiln receives CONFIRM and marks records up to the confirmed KILN_SEQ as confirmed. -/
  | confirm (crystal : DWord) (withdrawn : Bool)
  /-- REQUEST_COPY (R409): Kiln receives REQUEST_COPY and sends the copies of a range of records. -/
  | requestCopy (withdrawn : Bool)
  /-- STAGE (R405): A write to 0x6004:01–04 while the procedure is open is carried to Kiln and staged, or refused. -/
  | stage (withdrawn : Bool)
  /-- RESULT (R391): The main side receives Kiln's RESULT and completes the METER_RECORD or STAGE it answers. -/
  | result
  /-- RECORD_COPY (R409): The main side receives a signed record copy into the Kiln bridge buffer, making a Kiln cut due at 6,144. -/
  | recordCopy
  /-- STATE_REPORT (R393): The main side receives Kiln's STATE_REPORT and updates the Kiln objects and BRIDGE_OK. -/
  | stateReport (crystal : DWord)
  /-- KILN_NOT_RESPONDING (R393): No STATE_REPORT for 300 ms clears BRIDGE_OK and METER_RECORD is refused. -/
  | kilnNotResponding
  /-- KILN_CUT_AGE_EXPIRY (R409): The oldest waiting Kiln record copy has waited KILN_CUT_AGE_H and a Kiln cut becomes due. -/
  | kilnCutAgeExpiry
  /-- PIN_CONFIG (R451): A PIN_CONFIG write is checked against the routing limits and takes effect on all fields at the next MOT cycle. -/
  | pinConfig (w : Writer) (port : Fin 5) (pin : Fin 8) (value : Word)
  /-- EVENT_CONFIG (R461): An EVENT_CONFIG write restarts the line's filters and discards its pending event. -/
  | eventConfig (w : Writer) (line : Fin 8) (value : Word)
  /-- PIN_OUT (R456): A domain's PIN_OUT write sets the levels of its own GPIO pins. -/
  | pinOut (w : Writer) (d : Dom) (value : DWord)
  /-- DEVICE_PIN_OUT (R456): A DEVICE_PIN_OUT write sets the levels of device-owned GPIO pins. -/
  | devicePinOut (w : Writer) (value : DWord)
  /-- EVENT_ACCEPTED (R458): A filtered pin change holds for DEBOUNCE_US and is accepted by its event line. -/
  | eventAccepted (line : Fin 8)
  /-- ENERGY_TICK (R443): Each 1 ms tick, metered energy is attributed to domains and the device by weight, or pooled. -/
  | energyTick (x : TickInputs)
  /-- ENERGY_WINDOW (R444): At the end of each 1 s window, the unassigned pool is distributed and counters are journalled. -/
  | energyWindow
  /-- ENERGY_CLEAR (R446): A write of 0x01 clears the energy counters and pool at the next tick. -/
  | energyClear (w : Writer) (value : Byte)
  /-- WATCHDOG_EXPIRY (R478): A block's progress watchdog expires, and the CP masks, resets and reverts its resources. -/
  | watchdogExpiry (block : Byte) (pages : List Half)
  /-- BLOCK_RECOVERY_COMPLETE (R479): The recovered block's reset and mask are released and its work is queued again. -/
  | blockRecoveryComplete (us : Half) (written : BitVec 6) (tablesBad : Bool)
  /-- CP_WATCHDOG (R484): The CP has not served its watchdog for 100 ms and restarts from ROM. -/
  | cpWatchdog
  /-- TABLE_REBUILD_COMPLETE (R485): The rebuild of allocator and pager tables ends and tape work resumes. -/
  | tableRebuildComplete (slates : Half)
  /-- LANE_FRAME_PERIOD (R84): At each lane frame period a port sends one lane frame on every active lane: it builds the link frame, scrambles and stuffs it, pads with filler, and sends fill frames when it has nothing else. -/
  | laneFramePeriod (p : PortId)
  /-- ENCODER_EDGE (R330): A filtered quadrature transition of a reel encoder moves the count by one, or as a double transition raises ILLEGAL_TRANSITIONS and UNCERTAINTY, and records the edge time and direction for the speed estimate. -/
  | encoderEdge (r : Fin 2) (a b : BitVec 15) (tick : BitVec 12)
  /-- PIN_LEVEL_CHANGE (R458): The level at a pin watched by an event line changes, and the glitch filter passes it, starting or restarting the debounce count. -/
  | pinLevelChange (port : Fin 5) (pin : Fin 8) (level : Bool)
  /-- HEAD_UNLOADED (R366): The head unload ends, about 0.3 s after the reels come to rest, and the transport goes from BRAKING or FAULTED to OFF with the bridges set as R320 requires. -/
  | headUnloaded
  /-- EXIT_P1_REACHED (R185): During an exit from P2, LPDDR4X leaves self-refresh and the MRAM powers up, P1 is reached within 6 ms, and waiting commands are admitted. -/
  | exitP1Reached
  /-- UNSUPPORTED_PROTOCOL (R65): A mailbox request of EoE, SoE, AoE or VoE, or a CoE request in BOOT, is answered with the standard mailbox error. The operand is any mailbox request without a row of its own; CoE outside BOOT is served. -/
  | unsupportedProtocol (m : MailboxRequest)
  /-- SII_WRITE (R74): A master's write to the SII area is answered with the controller's EEPROM error indication and changes nothing. -/
  | siiWrite (word : Half) (value : Half)
  /-- REGR_LOWER_WORD (R61): A REGR of the lower word of a 64-bit object returns bits 31:0 and captures bits 63:32 for a following upper-word REGR from the same port. -/
  | regrLowerWord (p : PortId) (d : Dom) (reqId : Byte) (addr : Word)
  /-- BANK_SUPPLY_RISES (R508): The supply of the XA, XB, MII or CTL bank rises, and the PKA-880 fixes the bank's voltage mode until the supply falls below 0.9 V. -/
  | bankSupplyRises (bank : Fin 4) (mv : Half)
deriving DecidableEq, Repr
end Sys2Proof
end

