-- ==== Sys2Proof/Config.lean ====
section
/-!
DEFINITION. What the spec leaves open: free values, constants with no body, each named in a row of the assumption log.
-/
namespace Sys2Proof.Config

/-- Microseconds past the last PWM valley at a moment, before reduction below 25 (log entry 3). -/
opaque subPeriodUs : Nat → Nat

/-- How many queued emergencies the EtherCAT master has fetched by a moment (log entry 4). -/
opaque mailboxFetched : Nat → Nat

/-- The error code of the emergency that reports drops, which R70 does not give (log entry 5). -/
opaque dropReportError : Nat

/-- SHA-256 of bytes: a standard function the spec names and does not define (log entry 6). -/
opaque sha256 : List Byte → BitVec 256

/-- Whether an ECDSA P-256 signature (r, s) over a digest verifies under a public key (log entry 6). -/
opaque ecdsaValid : List Byte → BitVec 256 → BitVec 512 → Bool

/-- Kiln's signature (r, s) over a digest under its device private key, with the nonce of RFC 6979 (R399, log entry 6). -/
opaque kilnSign : BitVec 256 → BitVec 512

/-- Whether the part rounds an inexact quotient up, where the spec gives a formula and no rounding (log entry 7). -/
opaque roundsUp : Int → Int → Bool

/-- A byte of an image push that no write has placed, at a moment (log entry 10). -/
opaque pushGap : Nat → Nat → Byte

/-- The name that GET_DESCRIPTION gives for the count object of an index, which the spec does not name (log entry 11). -/
opaque countName : Nat → List Byte

/-- Level of an output signal that pulses, blinks or carries what the spec does not give, at a moment (log entry 9). -/
opaque pinSignal : Nat → Nat → Bool

/-- Distributed-clock local time at release, and the ticks of 10 ns past the last microsecond at a moment (R73, log entry
147). -/
opaque dcStart : Nat
opaque dcSubTicks : Nat → Nat

/-- The 10 SEC-DED check bits over 32 data bytes and a line index: R187 names no code (log entry 155). -/
opaque secDed : Nat → List Byte → BitVec 10

/-- The sign with which a servo reader's error counts at a stripe boundary of even number; it turns at each boundary (R295, log
entry 167). -/
opaque servoSign : Bool

end Sys2Proof.Config
end

