-- ==== Sys2Proof/Machine/State.lean ====
section
/-!
DEFINITION. The state of the PKA-880 block: every register of the object dictionary, every engine, queue, buffer and
counter the spec names, and the queue of commands that wait. Plain data throughout.
-/
namespace Sys2Proof.Machine

/-- Why the model stops with a fault. No meaning of this model faults; the constructor stands for the empty case and is
raised by nobody (safe). -/
inductive Fault where
  | none
deriving DecidableEq, Repr

/-- Why the model refuses a command. -/
inductive Refusal where
  /-- A command whose meaning is not written: raised by an arm of exec alone (safe: the model goes no further). -/
  | notModelled (mnemonic : String)
deriving DecidableEq, Repr

/-! ### The object dictionary -/

/-- The values of the numeric objects: key (index times 256 plus subindex) and value, keys strictly rising, and no
entry equal to the object's constant default (R44, R48). -/
abbrev Dict := List (Nat × Nat)

/-! ### Events (R470-R476) -/

/-- An event record (R470). -/
structure EventRec where
  code : Nat
  unit : Nat
  severity : Nat
  detail : Nat
  time : Nat
deriving DecidableEq, Repr

/-- A log entry: the event index and the record (R475). -/
structure LogEntry where
  index : Nat
  event : EventRec
deriving DecidableEq, Repr

/-- A CoE emergency waiting in the mailbox queue (R70). -/
structure Emergency where
  error : Nat
  register : Nat
  code : Nat
  unit : Nat
  detail : Nat
deriving DecidableEq, Repr

/-- The event pages and the emergency queue (R70, R475). -/
structure EventState where
  /-- Page 0x80, newest first, at most 256. -/
  log : List LogEntry
  /-- TOTAL_EVENTS of page 0x80. -/
  total : Nat
  /-- Page 0x82, newest first, at most 32; kept through every reset (R475). -/
  faults : List LogEntry
  /-- TOTAL_FAULT_ENTRIES of page 0x82, over the life of the device. -/
  faultTotal : Nat
  /-- Events raised before release, in order; posted at release (R470). -/
  early : List EventRec
  /-- The emergency queue, oldest first, at most 8 (R70). -/
  emergencies : List Emergency
  /-- Emergencies dropped since the last drop report (R70). -/
  emergencyDrops : Nat
deriving DecidableEq, Repr

/-! ### The link: messages, lanes and ports -/

/-- A completion (R139). -/
structure Completion where
  opcode : Nat
  status : Nat
  flags : Nat
  detail : Nat
  count : Nat
  value : Nat
deriving DecidableEq, Repr

/-- Credit classes (R108). -/
inductive CreditClass where
  | cmd | admin | data | resp
deriving DecidableEq, Repr

/-- Where a frame's messages travel: direction, ENUM, and the node its header names (R104, R106). -/
structure FrameRoute where
  upstream : Bool
  enum : Bool
  dest : Nat
  src : Nat
deriving DecidableEq, Repr

/-- A message the PKA-880 sends towards a host (R107, R108), or passes on between its ports (R124). -/
inductive TxMsg where
  /-- A completion of a command; `slot` is the slot it frees when it leaves, none for a refusal (R17, R167). -/
  | cpl (dom : Dom) (tag : Nat) (slot : Option Nat) (c : Completion)
  /-- Read data (R138). -/
  | data (dom : Dom) (tag : Nat) (offset : Nat) (bytes : List Byte) (last : Bool)
  /-- The answer to a register access (R62). -/
  | regd (dom : Dom) (addr : Nat) (reqId : Nat) (status : Nat) (value : Nat)
  /-- The answer to a MGMT request (R63). -/
  | mgmt (dom : Dom) (opcode status index sub transferId segment total abort : Nat) (bytes : List Byte)
  /-- An event (R471). -/
  | evt (dom : Dom) (e : EventRec)
  /-- A transit message: how its frame travels, the port whose receive buffer holds it, the class it is held in there, the
  class that pays for it on the outgoing hop, and the message itself (R113, R115, R124, R125). -/
  | relay (route : FrameRoute) (port : PortId) (held paid : CreditClass) (m : RxMsg)
deriving DecidableEq, Repr

/-- Credit counts of the four message classes (R113, R114). -/
structure Credits where
  cmd : Nat
  admin : Nat
  data : Nat
  resp : Nat
deriving DecidableEq, Repr

/-- No credits of any class. -/
def Credits.zero : Credits := ⟨0, 0, 0, 0⟩

/-- A sequenced frame kept in the retry buffer (R111). -/
structure RetryFrame where
  fseq : Nat
  msgs : List TxMsg
deriving DecidableEq, Repr

/-- The link frame a port sent in the last lane frame period (R84, R104, R106, R112). -/
inductive SentFrame where
  | nothing
  | fill
  | control (ack : Option Nat) (nak : Option (Nat × Nat)) (credit : Option Credits)
  /-- A sequenced frame: FSEQ, route, messages, the credit units its header declares, and the uncredited messages. -/
  | sequenced (fseq : Nat) (route : FrameRoute) (msgs : List TxMsg) (units : Credits) (ack : Option Nat)
      (nak : Option (Nat × Nat)) (credit : Option Credits)
  /-- A sequenced frame begun and not completed: its CRC field is the complement of the CRC (R105, R112). -/
  | stomped (fseq : Nat) (route : FrameRoute) (msgs : List TxMsg)
deriving DecidableEq, Repr

/-- The fields of a lane word (R85). -/
structure LaneWord where
  kind : BitVec 4
  lane : BitVec 2
  rate : BitVec 2
  rxLocked : BitVec 4
  txWidth : BitVec 2
  rxWidth : BitVec 2
  reqPre : BitVec 4
  reqPost : BitVec 5
  reqValid : Bool
  curPre : BitVec 4
  curPost : BitVec 5
  tapStatus : BitVec 2
  frameSeq : BitVec 8
deriving DecidableEq, Repr

/-- Lane states (R89). -/
inductive LaneState where
  | off | listen | lock | align | equalize | deskew | active | standby | retrainWait | idle | loopback
deriving DecidableEq, Repr

/-- Port states (R95). -/
inductive PortState where
  | disabled | listen | training | up | draining | idle | loopback
deriving DecidableEq, Repr

/-- Loopback modes (R100). -/
inductive LoopMode where
  | nes | nep | fe
deriving DecidableEq, Repr

/-- How far a lane of a port in LOOPBACK has trained (R100). -/
inductive LoopPhase where
  | none | lock | align | deskew | run
deriving DecidableEq, Repr

/-- Where a DRAINING port goes at its quiescent point (R95). -/
inductive PortGoal where
  | none | disabled | idle | loopback (m : LoopMode)
deriving DecidableEq, Repr

/-- A lane of a port (R87-R94, R102). -/
structure LaneRt where
  state : LaneState
  los : Bool
  lol : Bool
  rxInverted : Bool
  tapUnanswered : Bool
  slip : Nat
  skew : Nat
  retries : Nat
  partnerPre : Nat
  partnerPost : Nat
  txPre : Nat
  txPost : Nat
  rxBoost : Nat
  /-- Transmit swing in mVppd, 0 before the first training (R87). -/
  swing : Nat
  losEvents : Nat
  lolEvents : Nat
  /-- The lane retrains alone while the port runs (R97). -/
  alone : Bool
  /-- A tap request is being sent to the partner (R88). -/
  requesting : Bool
  /-- TAP_STATUS this lane reports for the partner's last request (R88). -/
  tapStatus : Nat
  /-- The last valid lane word received, none before the first (R85). -/
  word : Option LaneWord
  /-- Consecutive lane frames in which both ends advertised the lane (R97). -/
  advertised : Nat
  /-- Consecutive lane frames without the marker, up to 2 (R86). -/
  missed : Nat
  /-- Clapper bursts sent (R94). -/
  bursts : Nat
  /-- LOCK frames still to send after a burst in LISTEN (R94). -/
  lockLeft : Nat
  /-- Training of a lane in LOOPBACK (R100). -/
  loop : LoopPhase
  /-- The last 58 bits scrambled, and the last 58 bits received before descrambling, newest in bit 0 (R81). -/
  scrambler : BitVec 58
  descrambler : BitVec 58
  /-- The line bits the transmitter sent in the last lane frame period, oldest first; none in electrical idle (R81-R84, R94,
  R100). -/
  txLine : List Bool
  /-- Content of the last lane frame received, and whether a stuffed bit in it was wrong (R82, R84). -/
  rxContent : List Byte
  rxBad : Bool
deriving DecidableEq, Repr

/-- A lane before its port is enabled. -/
def LaneRt.init : LaneRt :=
  { state := .off, los := false, lol := false, rxInverted := false, tapUnanswered := false, slip := 0, skew := 0, retries := 0
    partnerPre := 0, partnerPost := 0, txPre := 0, txPost := 0, rxBoost := 0, swing := 0, losEvents := 0, lolEvents := 0
    alone := false, requesting := false, tapStatus := 0, word := none, advertised := 0, missed := 0, bursts := 0, lockLeft := 0
    loop := .none, scrambler := 0, descrambler := 0, txLine := [], rxContent := [], rxBad := false }

/-- An open MGMT transfer of a port (R64). -/
structure MgmtTransfer where
  write : Bool
  transferId : Nat
  index : Nat
  sub : Nat
  complete : Bool
  total : Nat
  /-- The next SEGMENT number expected. -/
  next : Nat
  /-- Bytes received so far of a write; bytes still to send of a read. -/
  bytes : List Byte
deriving DecidableEq, Repr

/-- A command of a CMD message, as taken from the receive buffer (R132). -/
structure HostCmd where
  opcode : Nat
  head : CmdHead
  body : CmdBody
  /-- The pages it reads hold an uncorrectable line without a ring copy (R188). -/
  badLine : Bool
deriving DecidableEq, Repr

/-- A message left in the receive buffer: a CMD the port does not take out yet (R167, R184), or DATA that follows such a CMD
(R120, R136): its head, OFFSET, bytes, LAST and the spare lines its placing uses. -/
inductive Waiting where
  | cmd (c : HostCmd)
  | data (h : CmdHead) (offset : Nat) (bytes : List Byte) (last : Bool) (spares : Nat)
deriving DecidableEq, Repr

/-- A link port (R77-R131). -/
structure Port where
  state : PortState
  goal : PortGoal
  lanes : Vector LaneRt 4
  /-- The port is in a full training, not the short one of an idle exit (R99). -/
  fullTraining : Bool
  /-- The taps are kept through this training: it follows the loss of every lane (R87). -/
  keepTaps : Bool
  /-- LANE_RATE, CONFIGURED_WIDTH, EQ_TABLE and PORT_B_ROLE in force since the last full training (R101, R128). -/
  rate : Nat
  width : Nat
  eqTable : Nat
  hostRole : Bool
  acceptTaps : Bool
  /-- CURRENT_WIDTH while the port is trained (R101). -/
  curWidth : Nat
  /-- LANE_MAP (R101). -/
  laneMap : Nat
  /-- Width before the port entered IDLE (R99). -/
  idleWidth : Nat
  /-- FRAME_SEQ of the next lane frame (R85). -/
  frameSeq : Nat
  /-- Own end-of-transmission markers sent, and the partner's received (R98). -/
  eotSent : Bool
  eotSeen : Bool
  /-- The partner narrows: a narrowing is under way since a lane was lost (R96). -/
  narrowing : Bool
  /-- Next FSEQ expected from the partner (R110). -/
  rxExpected : Nat
  /-- A NAK for the expected FSEQ has been sent (R110). -/
  nakSent : Bool
  /-- Lane frame periods since that NAK (R110). -/
  nakAge : Nat
  /-- NAK reason to send in the next frame, if any. -/
  nakDue : Option Nat
  /-- Accepted sequenced frames not yet acknowledged, and an ACK due now (R110). -/
  unacked : Nat
  ackDue : Bool
  /-- FSEQ of the next new sequenced frame sent (R110). -/
  txNext : Nat
  /-- The retry buffer, oldest first (R111). -/
  retry : List RetryFrame
  /-- Messages of stored frames to be sent again, oldest first, numbered from `txNext` on (R111). -/
  replaying : List TxMsg
  /-- Consecutive replays of the oldest stored frame, and its FSEQ (R111). -/
  replays : Nat
  replayOf : Nat
  /-- Units received, by class, modulo 65,536; what the sender has consumed (R114). -/
  rxConsumed : Credits
  /-- Units held in the receive buffer (R115). -/
  rxHeld : Credits
  /-- LIMIT advertised, by class (R114). -/
  rxLimit : Credits
  /-- A limit has changed since the last CREDIT sent, or a refresh is due (R114). -/
  creditDue : Bool
  /-- LIMIT last received, and CONSUMED (R114). -/
  txLimit : Credits
  txUsed : Credits
  /-- Messages waiting to be sent, oldest first. -/
  txWait : List TxMsg
  /-- Events dropped since the last EVENTS_LOST sent (R472). -/
  evtLost : Nat
  /-- Domain that had the last turn in the guaranteed class and in the best-effort class (R168). -/
  lastTurn : Vector Nat 2
  /-- Messages left in the receive buffer: the refusal queue is full (R167) or the device is in P2 (R184). -/
  backlog : List Waiting
  /-- A cut-through copy whose received frame failed its CRC goes out stomped in the next lane frame (R112, R125). -/
  stomp : Option (FrameRoute × List RxMsg)
  transfer : Option MgmtTransfer
  /-- Captured upper word of a 64-bit read: object key and bits 63:32 (R61). -/
  capture : Option (Nat × Nat)
  /-- Held lower word of a 64-bit write: object key and bits 31:0 (R61). -/
  held : Option (Nat × Nat)
  /-- What the port sent in the last lane frame period. -/
  sent : SentFrame
deriving DecidableEq, Repr

/-- A port at reset: DISABLED, with nothing received or sent. -/
def Port.init : Port :=
  { state := .disabled, goal := .none, lanes := Vector.replicate 4 LaneRt.init, fullTraining := true, keepTaps := false
    rate := 0, width := 4, eqTable := 0, hostRole := false, acceptTaps := true, curWidth := 0, laneMap := 0
    idleWidth := 0, frameSeq := 0, eotSent := false, eotSeen := false, narrowing := false
    rxExpected := 0, nakSent := false, nakAge := 0, nakDue := none, unacked := 0, ackDue := false, txNext := 0, retry := []
    replaying := [], replays := 0, replayOf := 0, rxConsumed := .zero, rxHeld := .zero, rxLimit := .zero, creditDue := false
    txLimit := .zero, txUsed := .zero, txWait := [], evtLost := 0, lastTurn := Vector.replicate 2 7, backlog := [], stomp := none, transfer := none
    capture := none, held := none, sent := .nothing }

/-! ### Domains, slots and the commit ring -/

/-- Domain states (R31). -/
inductive DomState where
  | unconfigured | offline | starting | online | draining | resetting
deriving DecidableEq, Repr

/-- The completion of a read whose data are on their way (R138, R139). -/
structure ReadReply where
  status : Nat
  detail : Nat
  count : Nat
  value : Nat
  flags : Nat
deriving DecidableEq, Repr

/-- What a command in a slot is waiting for. -/
inductive SlotPhase where
  /-- An earlier command of the domain (R171). -/
  | ordering
  /-- Ring room, in the domain's FIFO (R169). -/
  | ringWait
  /-- The rest of its DATA (R137). -/
  | receiving
  /-- Its commit point: all DATA present, an earlier write of the same sectors or a freeze in the way (R171, R172). -/
  | ready
  /-- Cuts read from tape: their serials (R18). -/
  | tape (cuts : List Nat)
  /-- Every commit before the mark on tape and verified (R150). -/
  | sync (mark : Nat)
  /-- Kiln's RESULT (R21). -/
  | kiln
  /-- The cartridge action's end (R159). -/
  | cartridge (action : Nat)
  /-- The running self-test's end (R154). -/
  | selfTest
  /-- Its turns of at most 64 KiB (R168): the bytes sent and those still to send, in runs that were served from tape or not, the OFFSET
  of the first of these, and the completion that follows the last (R120, R138). -/
  | sending (sent runs : List (Bool × List Byte)) (off : Nat) (reply : ReadReply)
  /-- Its completion is built and waits to leave (R17). -/
  | done
deriving DecidableEq, Repr

/-- A command slot with its completion entry (R164). -/
structure Slot where
  no : Nat
  cmd : HostCmd
  phase : SlotPhase
  /-- Held by a freeze (R172). -/
  held : Bool
  /-- Started: it has drawn ring room, pages, tape or buffer service (R172). -/
  started : Bool
  /-- Admission number: its place in admission order. -/
  order : Nat
  /-- Ring lines and a record are reserved for it (R169, R197). -/
  room : Bool
  /-- DATA received: offset and bytes, oldest first (R137). -/
  data : List (Nat × List Byte)
  /-- Units that its DATA still hold in the receive buffer: until it has ring room, or, of a METER_RECORD, until Kiln takes it
  (R115, R170). -/
  units : Nat
  /-- A DATA with LAST set has arrived (R136). -/
  lastSeen : Bool
  /-- A cut it needed was recovered on the ladder or reread (R224, R301). -/
  recovered : Bool
  /-- Cuts it has read from tape, and cuts whose ladder failed for it (R20, R303). -/
  readCuts : List Nat
  failedCuts : List Nat
  /-- Blocks that it needs and that failed decompression twice: cut serial and place in the cut (R224). -/
  badBlocks : List (Nat × Nat)
  /-- Tape motion was started for it (R19). -/
  moved : Bool
  /-- Place of its last DATA in the order of arrival in its domain, 0 while bytes are missing (R142). -/
  arrived : Nat
  /-- It was held by a freeze that RESUME RETRY ended (R173). -/
  retried : Bool
  /-- Bytes of raw sectors that C1 to C3 left wrong for it: cut serial, sector, place in the sector, bits that differ (R242,
  R262). -/
  misread : List (Nat × Nat × Nat × Byte)
deriving DecidableEq, Repr

/-- An entry of page 0x01 DOMAIN_ERROR_LOG (R177). -/
structure ErrorEntry where
  index : Nat
  opcode : Nat
  status : Nat
  detail : Nat
  port : PortId
  tag : Nat
  value : Nat
  gen : Nat
  target : Nat
  froze : Bool
  time : Nat
deriving DecidableEq, Repr

/-- A log of a domain, kept in the operation journal (R143). -/
structure LogRt where
  firstRetained : Nat
  lastCommitted : Nat
  lastTaped : Nat
  /-- Numbers of takes that DISCARD_RING gave up (R143). -/
  discarded : List Nat
deriving DecidableEq, Repr

/-- A token bucket, in bytes; it may go below zero by one turn (R168). -/
structure Tokens where
  write : Int
  tapeRead : Int
  bufRead : Int
deriving DecidableEq, Repr

/-- A volume group held in a page: the cartridge it belongs to and its sectors (R343, R345). -/
structure Resident where
  volume : Nat
  group : Nat
  cartridge : Option Nat
  sectors : List (Nat × List Byte)
deriving DecidableEq, Repr

/-- A domain's run-time state beside its objects. -/
structure DomainRt where
  state : DomState
  slots : List Slot
  frozen : Bool
  /-- TAGs of completed write commands still open for late DATA (R136). -/
  openTags : List (PortId × Nat)
  /-- REQUESTED_VOTE (R182). -/
  requestedVote : Nat
  /-- IDLE_MS has passed since the last admission or completion (R182). -/
  idle : Bool
  errors : List ErrorEntry
  errorTotal : Nat
  logs : Vector LogRt 16
  tokens : Tokens
  /-- Next ring line of the domain's share (R196). -/
  nextLine : Nat
  /-- LPDDR4X pages granted to PAGE_REQUESTs for it and not yet released; the pages that hold its paged content and its
  resident groups come on top (R192, R194). -/
  pages : Nat
  /-- Resident volume groups, one page each, most recently used first (R343, R345). -/
  resident : List Resident
  /-- The boot cache slot has been checked since the domain entered STARTING (R199). -/
  bootChecked : Bool
deriving DecidableEq, Repr

/-- A domain at reset. -/
def DomainRt.init : DomainRt :=
  { state := .unconfigured, slots := [], frozen := false, openTags := [], requestedVote := 2, idle := false
    errors := [], errorTotal := 0, logs := Vector.replicate 16 ⟨1, 0, 0, []⟩, tokens := ⟨0, 0, 0⟩, nextLine := 0
    pages := 0, resident := [], bootChecked := false }

/-- What a ring record commits: a take or the sectors of one WRITE_VOL (R197). -/
inductive ItemKind where
  | take | sectors
deriving DecidableEq, Repr

/-- A committed take or WRITE_VOL with its data (R12, R197). -/
structure Item where
  /-- Its place in the commit order of the device. -/
  idx : Nat
  dom : Dom
  kind : ItemKind
  /-- Log or volume number. -/
  target : Nat
  /-- Take sequence number, or START_SECTOR. -/
  seq : Nat
  stamp : Nat
  raw : Bool
  bytes : List Byte
  /-- CRC-32C of the data, DATA_CRC of the record and TAKE_CRC of the take (R105, R197). -/
  crc : Nat
deriving DecidableEq, Repr

/-- An item still in the commit ring (R14). -/
structure RingItem where
  item : Item
  /-- Cartridge identity it is bound to, none while none was threaded (R162). -/
  cartridge : Option Nat
  /-- FIRST_LINE of its record (R197). -/
  line : Nat
  /-- Position of its record in the record area (R197). -/
  pos : Nat
  /-- Bytes of its take entry, or groups of its sectors, that the pager has copied to pages (R17, R209). -/
  paged : Nat
  /-- Bytes of its take entry not yet in a verified cut (R14). -/
  leftBytes : Nat
  /-- Sectors of it not yet in a verified cut, by it or by a newer write. -/
  leftSectors : List Nat
  /-- It failed its DATA_CRC when the pager read it (R486). -/
  corrupt : Bool
deriving DecidableEq, Repr

/-- A domain's boot cache slot and its directory entry (R199). -/
structure BootSlot where
  /-- Cartridge identity the content belongs to. -/
  cartridge : Option Nat
  /-- FIRST_STAGE_SIZE the slot was filled for. -/
  size : Nat
  /-- Cached sectors that are not all zero, with the CRC-32C that the directory records. -/
  sectors : List (Nat × List Byte × Nat)
  /-- Sectors that a refill could not read, which are not served from the cache. -/
  failed : List Nat
deriving DecidableEq, Repr

/-- The in-package MRAM: commit ring, boot cache and spare lines (R195-R199). -/
structure Ring where
  /-- Items not yet on tape and verified, in commit order. -/
  items : List RingItem
  /-- The commit number of the next item. -/
  nextIdx : Nat
  /-- Closed by the power-fail sequence (R368). -/
  closed : Bool
  /-- The unit table: units that configured domains hold, each with its domain, in table order (R196). -/
  units : List (Fin 160 × Dom)
  /-- Where the search for the next record position begins (R197). -/
  nextRecord : Nat
  boot : Vector BootSlot 8
deriving DecidableEq, Repr

/-- An empty ring. -/
def Ring.init : Ring :=
  { items := [], nextIdx := 0, closed := false, units := [], nextRecord := 0, boot := Vector.replicate 8 ⟨none, 0, [], []⟩ }

/-- A page request on a wait list, with the block that asks: its number of R478, 0 for the CP (R193, R477). -/
structure PageWait where
  holder : PageHolder
  block : Nat
  /-- It is the pager's, which copies ring content with the page (R17). -/
  pager : Bool
deriving DecidableEq, Repr

/-- A transfer over the arbiter: 1 to 16 data lines of one aligned 1 KiB block, with the block's check line (R201). -/
structure Transfer where
  rank : Nat
  line : Nat
  lines : Nat
deriving DecidableEq, Repr

/-- How LPDDR4X is driven (R421, R436, R493). -/
inductive DramPhase where
  /-- RESET_N, CK, CKE, CS and CA low; DQ, DQS and DMI high impedance, on-die termination off. -/
  | reset
  | active
  | selfRefresh
deriving DecidableEq, Repr

/-- LPDDR4X: the page allocator and the arbiter (R186-R206). -/
structure Dram where
  phase : DramPhase
  /-- DRAM initialisation failed at this start (R186). -/
  failed : Bool
  /-- P as measured at DRAM initialisation, against which the limits of R23 are checked (R190). -/
  pool : Nat
  /-- Pages the dailies and the self-test hold (R194). -/
  servicePages : Nat
  /-- The holder record of every granted page: the block that obtained it and its account (R477). -/
  taken : List (Nat × PageHolder)
  /-- Device reserve pages handed out, by use (R190, R194). -/
  reserve : Vector Nat 6
  commonWait : List PageWait
  ceilingWait : List PageWait
  /-- Pages marked for retirement and not yet withdrawn, each with its holder (R189). -/
  marked : List (Nat × PageHolder)
  /-- Pages withdrawn beyond the 64 spares reported (R189). -/
  sparesReported : Bool
  /-- Lines waiting for rewriting after correction (R188). -/
  rewrites : List Nat
  /-- Corrected lines counted per page since the dictionary was loaded; a marked page counts at least 16 (R189). -/
  pageErrors : List (Nat × Nat)
  /-- Rank of the arbiter's owner and whether the grant is parked (R201, R204). -/
  owner : Nat
  parked : Bool
  /-- The transfer that the owner makes; none where the grant is parked (R201). -/
  current : Option Transfer
  /-- Transfers that wait for the grant, at most one a rank (R202). -/
  requests : List Transfer
  /-- Blocks masked by their sideband signal, by rank (R204). -/
  masked : List Nat
  /-- Dead arbitration cycles spent on withdrawals (R203). -/
  deadCycles : Nat
  /-- Transfers restarted after a revoked grant (R202). -/
  restarts : Nat
  /-- Ranks whose starvation episode is reported (R205). -/
  starving : List Nat
deriving DecidableEq, Repr

/-- The buffer memory before initialisation. -/
def Dram.init : Dram :=
  { phase := .reset, failed := false, pool := 0, servicePages := 0, taken := [], reserve := Vector.replicate 6 0, commonWait := [], ceilingWait := [], marked := []
    sparesReported := false, rewrites := [], pageErrors := [], owner := 0, parked := false, current := none, requests := []
    masked := [], deadCycles := 0, restarts := 0, starving := [] }

/-! ### Start, fuses and images -/

/-- How far the start has come (R433). -/
inductive BootPhase where
  /-- Held in reset: PORESET_N or the internal POR is low, or ROOT is not locked. -/
  | held
  /-- The fuse load keeps failing, or TEST was sampled high: the part does not release (R424, R502). -/
  | stuck
  /-- Started: fuses loaded, journal read, image chosen. -/
  | started
  /-- Released. -/
  | released
  /-- The power-fail sequence is over and the supplies are given up (R366, R440). -/
  | shelf
deriving DecidableEq, Repr

/-- The one-time fuses (R424). -/
structure Fuses where
  uniqueId : BitVec 128
  vendorId : Word
  /-- The image key hash is programmed (FUSE_OPTIONS bit 0). -/
  keyProgrammed : Bool
  keyHash : BitVec 256
  /-- Kiln's device public key and its ID (R413). -/
  kilnPublicKey : List Byte
  kilnKeyId : DWord
deriving DecidableEq, Repr

/-- A slot of the SPI NOR and its status (R429, R431). -/
structure NorSlot where
  bytes : List Byte
  /-- SLOT_n_STATUS STATE: 0 empty or never checked, 1 valid, 2 refused, 3 being written. -/
  status : Nat
  reason : Nat
  version : Nat
deriving DecidableEq, Repr

/-- A copy of the activation record; none where its MAGIC or CRC fails (R429). -/
structure Activation where
  counter : Nat
  slot : Fin 2
deriving DecidableEq, Repr

/-- Who writes an image download (R72). -/
inductive DownloadBy where
  | foe | push (port : Option PortId)
deriving DecidableEq, Repr

/-- The image download in progress (R71, R72, R430). -/
structure Download where
  source : DownloadBy
  bytes : List Byte
  /-- Next FoE packet number. -/
  nextPacket : Nat
deriving DecidableEq, Repr

/-- What a checked image gives (R427). -/
structure ImageContent where
  version : Nat
  /-- Object values in image order: index, subindex, bytes. -/
  values : List (Nat × Nat × List Byte)
  sii : Option (List Byte)
  strings : Option (List Byte)
  patched : Bool
deriving DecidableEq, Repr

/-- Start-up, fuses, straps and image slots. -/
structure Boot where
  phase : BootPhase
  /-- STRAPS as sampled (R504). -/
  straps : Nat
  fuses : Fuses
  slots : Vector NorSlot 2
  copies : Vector (Option Activation) 2
  download : Option Download
  /-- The image in force: which slot, and its content. -/
  image : Option (Fin 2 × ImageContent)
  /-- A slot tried at this start was refused (R423). -/
  imageFailed : Bool
  /-- RESET_CAUSE the next start will show. -/
  cause : Nat
  /-- A warm reset is requested and its sequence runs (R370, R423). -/
  warmPending : Bool
  /-- The journal holds a SEQUENCE_END written since the last release (R422). -/
  sequenceEnded : Bool
  /-- The chip waits for TJ_C to fall after a thermal trip (R512). -/
  thermalHold : Bool
  /-- RELEASE_US of this start. -/
  releaseUs : Nat
  /-- Voltage modes fixed for the XA, XB, MII and CTL banks, in mV; 0 before the bank's supply rises (R508). -/
  bankMode : Vector Nat 4
  /-- Level of the XTALSEL ball as the last start found it, sampled or not (R492). -/
  refSelect : Bool
  /-- The reference runs (R417, R492). -/
  refRuns : Bool
deriving DecidableEq, Repr

/-! ### The field network -/

/-- AL states (R75). -/
inductive AlState where
  | init | preop | boot | safeop | op
deriving DecidableEq, Repr

/-- AL state code (R76). -/
def AlState.code : AlState → Nat
  | .init => 1 | .preop => 2 | .boot => 3 | .safeop => 4 | .op => 8

/-- What the mailbox last answered the master. -/
inductive MailboxReply where
  | nothing
  | sdoDone (bytes : List Byte)
  | sdoAbort (code : Nat)
  /-- An SDO upload: the total length, the bytes sent, and whether they are the last (R65). -/
  | sdoUpload (total : Nat) (bytes : List Byte) (last : Bool)
  /-- A segment of a download is taken (R65). -/
  | sdoSegment (toggle : Bool)
  /-- SDO information (R45, R65). -/
  | sdoInfo (bytes : List Byte)
  | foeAck (packet : Nat)
  | foeError (code : Nat)
  /-- The standard mailbox error "unsupported protocol" or, in BOOT, for CoE (R65, R75). -/
  | mailboxError
  /-- The EEPROM error indication of the slave controller (R74). -/
  | eepromError
deriving DecidableEq, Repr

/-- An open segmented SDO transfer (R65, R469). -/
structure SdoTransfer where
  write : Bool
  complete : Bool
  index : Nat
  sub : Nat
  total : Nat
  /-- The toggle bit the next segment must carry. -/
  toggle : Bool
  /-- Bytes received so far of a download; bytes still to send of an upload. -/
  bytes : List Byte
deriving DecidableEq, Repr

/-- The slave controller before the master has set anything: the mailboxes stand as R66 lays them out, every process data
sync manager and FMMU is disabled (log entry 144). -/
def SlaveSettings.init : Sys2Proof.SlaveSettings :=
  { sm := #v[⟨0x1000, 512, false, true, true⟩, ⟨0x1200, 512, false, false, true⟩, ⟨0x1400, 0, true, true, false⟩,
      ⟨0x2000, 0, true, false, false⟩, ⟨0, 0, false, false, false⟩, ⟨0, 0, false, false, false⟩, ⟨0, 0, false, false, false⟩,
      ⟨0, 0, false, false, false⟩]
    fmmu := Vector.replicate 8 ⟨0, 0, 0, false, false, false⟩, dc := ⟨false, 0, 0⟩ }

/-- The EtherCAT slave (R65-R76). -/
structure Ecat where
  al : AlState
  errorFlag : Bool
  reply : MailboxReply
  /-- The output image last received since SAFEOP was entered; none before the first (R75). -/
  outputs : Option (List Byte)
  /-- What the master has set in the slave controller (R65, R66, R73). -/
  settings : SlaveSettings
  /-- The open segmented SDO transfer (R65, R469). -/
  sdo : Option SdoTransfer
deriving DecidableEq, Repr

/-! ### Self-test -/

/-- A running self-test (R154, R178). -/
structure SelfTestRun where
  code : Nat
  step : Nat
  progress : Nat
  suspended : Bool
  /-- Run time in µs up to the last suspension, and when the run last began or resumed (R177, R179). -/
  ranUs : Nat
  since : Nat
  dom : Dom
  slot : Nat
  /-- Cuts that step 9 still has to read (R178). -/
  cuts : List Nat
deriving DecidableEq, Repr

/-- An entry of page 0x81 SELF_TEST_LOG (R177). -/
structure SelfTestEntry where
  code : Nat
  result : Nat
  step : Nat
  seconds : Nat
  time : Nat
deriving DecidableEq, Repr

/-- The self-test engine. -/
structure SelfTest where
  run : Option SelfTestRun
  log : List SelfTestEntry
deriving DecidableEq, Repr

/-! ### Cartridge, transport, Kiln, power -/

/-- Cartridge states (R162). -/
inductive CartState where
  | absent | present | threading | searching | ready | draining | unloading | formatting | unformatted | faulted
  | mismatch
deriving DecidableEq, Repr

/-- Transport states (R325). -/
inductive XportState where
  | off | idle | threading | stopped | moving | parked | braking | faulted | test | draining
deriving DecidableEq, Repr

/-- Kiln states (R404). -/
inductive KilnState where
  | unsealed | sealed | broken
deriving DecidableEq, Repr

/-! ### Compression and cut building -/

/-- Where a block of the compression path stands (R209, R211). -/
inductive BlockStage where
  | waiting
  /-- In an engine. -/
  | engine (n : Fin 2)
  /-- Checked and in cut building. -/
  | ready
deriving DecidableEq, Repr

/-- A block on its way to tape: one log's bytes or one sector of one domain (R208, R209). -/
structure CompBlock where
  dom : Dom
  /-- A log block; a volume sector otherwise. -/
  isLog : Bool
  target : Nat
  /-- Never compressed: a RAW take's (R209). -/
  raw : Bool
  /-- The engine must store it: a block recopied after a failed check, or started with compression off (R221, R222). -/
  store : Bool
  /-- Commit number of its oldest content. -/
  oldest : Nat
  stage : BlockStage
  /-- As it will stand in the cut, with its length once it is ready. -/
  block : Block
deriving DecidableEq, Repr

/-- A log's content waiting in pages for a block (R209). -/
structure Gather where
  dom : Dom
  log : Nat
  pieces : List Piece
deriving DecidableEq, Repr

/-- A block captured from tape that waits for the decompressor (R223). -/
structure Captured where
  serial : Nat
  blockNo : Nat
  /-- Its cut has been read again after a failed check (R224). -/
  second : Bool
  /-- Bytes of it that C1 to C3 left wrong without finding them wrong, with the bits that differ (R262). -/
  wrong : List (Nat × Byte)
deriving DecidableEq, Repr

/-- The compression path (R208-R227). -/
structure Comp where
  /-- Engines out of service (R222). -/
  out : Vector Bool 2
  /-- Check failures of each engine since the last reset that reloaded the dictionary. -/
  failures : Vector Nat 2
  gathers : List Gather
  /-- Blocks in the order the pager started them. -/
  blocks : List CompBlock
  captured : List Captured
  /-- Blocks that decompression found bad once, by cut serial and place; their cut is read again (R224). -/
  rereads : List (Nat × Nat)
deriving DecidableEq, Repr

/-! ### The cartridge and its tape -/

/-- What a DRAINING cartridge goes on to (R162). -/
inductive DrainGoal where
  | none | unload | eject | format
deriving DecidableEq, Repr

/-- How the write path stands (R239, R250, R270). -/
inductive WritePhase where
  /-- Writing the cut's frame sets. -/
  | writing
  /-- In the splice gap after an abandoned cut (R250). -/
  | gap
deriving DecidableEq, Repr

/-- The cut being written (R239). -/
structure OpenCut where
  cut : Cut
  phase : WritePhase
  /-- The blocks it was built from, for a replacement and for their release. -/
  source : List CompBlock
  /-- FS_INDEX of the frame sets that have passed, each once. -/
  passed : List Nat
  /-- Rewrite positions used, in write order: FS_INDEX repeated or 0xFE, and the MISS_REASON that required it (R276). -/
  rewrites : List (Nat × Nat)
deriving DecidableEq, Repr

/-- An entry of page 0x84 REWRITE_MAP (R276). -/
structure RewriteEntry where
  serial : Nat
  wrap : Nat
  dom : Nat
  outcome : Nat
  positions : List (Nat × Nat)
  lpos : Nat
  forced : Nat
  time : Nat
deriving DecidableEq, Repr

/-- An entry of page 0x85 READ_RECOVERY_LOG (R308). -/
structure RecoveryEntry where
  serial : Nat
  wrap : Nat
  dom : Nat
  outcome : Nat
  rereads : Nat
  failedCodewords : Nat
  c3Failed : Nat
  newSerial : Nat
  source : Nat
  time : Nat
deriving DecidableEq, Repr

/-- Who reads a cut (R299, R308). -/
inductive ReadSource where
  | host | dailies | selfTest | reread
deriving DecidableEq, Repr

/-- What C1 leaves of a cut: the codewords that failed, by frame set, frame and index, and the information bytes that it left
wrong, by frame set, frame and position, with the bits that differ from what was written (R264). -/
structure Symbols where
  failed : List (Nat × Nat × Nat)
  wrong : List (Nat × Nat × Nat × Byte)
deriving DecidableEq, Repr

/-- A running read-recovery ladder (R299). -/
structure Ladder where
  serial : Nat
  step : Nat
  reread : Nat
  source : ReadSource
  failedCodewords : Nat
  /-- What every pass so far has left (R299). -/
  symbols : Symbols
  /-- Frame sets whose equalised samples are captured (R294). -/
  captured : List Nat
deriving DecidableEq, Repr

/-- A recovered cut whose content is held for reallocation (R301, R302). -/
structure Realloc where
  serial : Nat
  /-- Serial of the replacement once it is being written. -/
  replacement : Option Nat
deriving DecidableEq, Repr

/-- An entry of the volume index (R344). -/
structure IndexEntry where
  dom : Dom
  volume : Nat
  group : Nat
  newest : Nat
  older : Nat
deriving DecidableEq, Repr

/-- The volume index in the journal (R344, R346). -/
structure VolIndex where
  cartridge : Option Nat
  /-- INDEX_STATUS: 0x80 valid, else the percentage rebuilt. -/
  status : Nat
  entries : List IndexEntry
  /-- Cuts still to be read by a rebuild, in ORDER_SERIAL order, and how many it reads (R346). -/
  todo : List Nat
  total : Nat
deriving DecidableEq, Repr

/-- A Bedrock zone (R247, R347, R363). -/
structure Zone where
  complete : Bool
  writing : Bool
  marked : Bool
  /-- First cut serial of the latest generation. -/
  first : Nat
deriving DecidableEq, Repr

/-- Where a chain goes on: wrap and channel bits from the start of its area in the write direction, and the serial last
written in it (R239, R244). -/
structure ChainPos where
  wrap : Nat
  bits : Nat
  serial : Nat
  /-- Abandoned in a row in this area (R274). -/
  abandons : Nat
deriving DecidableEq, Repr

/-- The cartridge unit with the tape it holds (R162). -/
structure Cart where
  state : CartState
  /-- The cartridge in the transport. -/
  medium : Option Cartridge
  /-- Threaded: its format objects are valid (R261). -/
  threaded : Bool
  /-- Ejected and not yet removed (R162). -/
  ejected : Bool
  goal : DrainGoal
  /-- The unloading ends with the cartridge pushed out. -/
  pushOut : Bool
  /-- Next position of the four chains: data, Kiln, zone 0, zone 1. -/
  chains : Vector ChainPos 4
  openCut : Option OpenCut
  /-- Abandoned or not, for the last 64 cuts written, newest first (R275). -/
  recent : List Bool
  /-- Every reuse unit has been written once (R350). -/
  filled : Bool
  /-- Data-area cuts since the last map checkpoint (R249). -/
  sinceMap : Nat
  /-- A checkpoint is due (R249, R301). -/
  mapDue : Bool
  /-- Wear remainders in channel bits, by CARTRIDGE_ID and wrap (R278). -/
  wearBits : List (Nat × Nat × Nat)
  /-- Wraps whose wear warning is posted since threading (R279). -/
  warned : List Nat
  /-- Wraps worn and reported (R279). -/
  worn : List Nat
  rewriteTotal : Nat
  rewriteMap : List RewriteEntry
  recoveryTotal : Nat
  recoveryLog : List RecoveryEntry
  ladder : Option Ladder
  reallocs : List Realloc
  reallocQueue : List Nat
  index : VolIndex
  zones : Vector Zone 2
  /-- Wraps whose zone record changed since it was last written (R289). -/
  zonesChanged : List Nat
  /-- Bands whose wrap records were all reset, to be seeded from calibration (R306). -/
  bandsReset : List Nat
  /-- A head calibration is due or runs (R305). -/
  calibration : Bool
  /-- After a power loss: RETIRES_SERIAL of the next data-area cut, the first one after the last verified cut (R382). -/
  replay : Option Nat
  /-- The replay of this threading is done (R382). -/
  replayed : Bool
deriving DecidableEq, Repr

/-! ### The transport and its loops -/

/-- Reels: 0 CART, 1 MACH. -/
abbrev Reel := Fin 2
/-- A loop slot (R309). -/
abbrev SlotNo := Fin 16

/-- Bridge states (R320). -/
inductive Bridge where
  | run | off | short
deriving DecidableEq, Repr

/-- A slot's active coefficients in Q16.16 (R311). -/
structure Coeffs where
  kp : Int
  ki : Int
  kd : Int
  kff : Int
  umin : Int
  umax : Int
deriving DecidableEq, Repr

/-- A loop slot's state (R310-R312, R322). -/
structure LoopRt where
  active : Coeffs
  /-- APPLY was written: the shadows load at the next valley. -/
  apply : Bool
  integ : Int
  ePrev : Int
  lost : Bool
  held : Bool
  satHigh : Bool
  satLow : Bool
  stale : Bool
  staleCount : Nat
  fault : Bool
  ref : Int
  fb : Int
  /-- Output computed in the last execution; it takes effect at the next valley. -/
  next : Int
  /-- Output latched at the last valley. -/
  out : Int
deriving DecidableEq, Repr

/-- A reel encoder (R329-R334). -/
structure EncoderRt where
  a : Bool
  b : Bool
  /-- 32-bit signed count. -/
  count : Int
  /-- Ticks of 10 ns of the last edges in one direction, newest first, at most 5. -/
  edges : List Nat
  /-- Counting down. -/
  down : Bool
  standstill : Bool
  speedValid : Bool
  fault : Bool
  /-- Ticks of the last double transitions, newest first, at most 4. -/
  doubles : List Nat
  radiusMeasured : Bool
  /-- Count, LPOS and whether servo LPOS was valid throughout, since the last whole revolution. -/
  revCount : Int
  revLpos : Int
  revValid : Bool
  /-- Count latched at the last valley. -/
  latched : Int
deriving DecidableEq, Repr

/-- A leg of a reel bridge: carry, the windows applied now and requested next, and how long the high side conducts in the period, in
ticks; `gap` says that the period ends with the low side on or every switch off, so that a dead time stands before the high side
turns on at the next valley (R318-R320). -/
structure Leg where
  carry : Int
  window : Int
  next : Int
  high : Int
  gap : Bool
deriving DecidableEq, Repr

/-- An analogue front end: the gain it was seeded with and the present one in 0.125 dB, offset in 0.5 ADC LSB and asymmetry in
1 % (R283, R284). -/
structure Afe where
  seed : Int
  gain : Int
  offset : Int
  asym : Int
deriving DecidableEq, Repr

/-- The servo and the position along the tape (R290-R298). -/
structure Servo where
  lowerValid : Bool
  upperValid : Bool
  /-- Wrap followed. -/
  wrap : Nat
  /-- Lateral position sample, in 1/256 pitch from the band's zero. -/
  pos : Int
  /-- Offset of a recovery re-read (R299). -/
  offset : Int
  inhibited : Bool
  /-- Consecutive samples within WRITE_INHIBIT_LIMIT since the inhibit. -/
  good : Nat
  /-- 20 µm cycles counted in each of the last 8 periods, newest first. -/
  cycles : List Nat
  /-- LPOS, and the part of a unit beyond it in 1/327,680. -/
  lpos : Int
  lposSub : Int
  /-- LPOS goes on from the encoders (R339). -/
  fromEncoders : Bool
  /-- The clock PLL is locked, and in holdover (R290, R291). -/
  clockLocked : Bool
  holdover : Bool
  /-- The dropout has outlasted HOLDOVER_BITS (R291). -/
  overrun : Bool
  /-- Wrap corrections in a row (R297). -/
  corrections : Nat
  /-- LPOS a running locate goes to, and its wrap. -/
  locate : Option (Nat × Nat)
  /-- The AFEs of the 17 read elements (R283). -/
  afe : Vector Afe 17
deriving DecidableEq, Repr

/-- A test signal being injected (R323): executions so far and the generator's register. -/
structure Inject where
  execs : Nat
  prbs : BitVec 11
deriving DecidableEq, Repr

/-- Capture states (R324). -/
inductive CaptureState where
  | idle | armed | running | full
deriving DecidableEq, Repr

/-- Response capture (R324). -/
structure Capture where
  state : CaptureState
  /-- Samples recorded, newest first: four values each. -/
  samples : List (List Int)
  /-- Clock-slot executions since the last sample. -/
  count : Nat
deriving DecidableEq, Repr

/-- The transport (R309-R328). -/
structure Xport where
  state : XportState
  /-- IDLE or STOPPED, whichever preceded TEST (R325). -/
  before : XportState
  bridge : Bridge
  /-- Both bridges forced SHORT: a current-loop fault, no speed source, or the holdup store exhausted. -/
  forceShort : Bool
  /-- The reels stand. -/
  atRest : Bool
  headLoaded : Bool
  loops : Vector LoopRt 16
  legs : Vector Leg 6
  /-- Voice-coil and charger drive latched at the last valley: slot 9 and slot 10 outputs. -/
  coil : Int
  charger : Int
  /-- Results of the min-select, motor frame, Q16.16: chosen at the last latch (R314). -/
  iqRef : Vector Int 2
  selected : Vector Int 2
  regenFloor : Int
  /-- MACH leads: the tape moves towards EOT. -/
  forward : Bool
  /-- Target speed of MOVING in Q16.16 m/s, signed. -/
  target : Int
  speedRamp : Int
  tensionRamp : Int
  /-- Raw samples of the last trigger-A sets and the zeros of the signed inputs. -/
  raw : Vector (BitVec 12) 24
  zero : Vector Int 24
  zeroSum : Vector Nat 24
  zeroLeft : Nat
  /-- Periods left of a measurement of COMM_OFFSET, 0 when none is due (R315). -/
  commLeft : Nat
  enc : Vector EncoderRt 2
  /-- The servo speed is used in place of the encoders' (R336, R338). -/
  useServo : Bool
  servo : Servo
  inject : Inject
  capture : Capture
  /-- Consecutive speed samples within the band since the writing stopped; writing runs (R317). -/
  inBand : Nat
  offSpeed : Bool
deriving DecidableEq, Repr

/-- The holdup bank and the power-fail sequence (R364-R385). -/
structure Power where
  ready : Bool
  /-- Faulted holdup slots (R374). -/
  slotFaults : List Nat
  faulted : Bool
  /-- The power-fail sequence runs (R366). -/
  failing : Bool
  /-- It runs for a reset request, not for a failing supply (R370). -/
  forReset : Bool
  /-- Source of the last detection: 1 PFAIL_N, 2 VSENSE, 3 both. -/
  source : Nat
  exhaustedLast : Bool
  /-- Microseconds since release at detection. -/
  detectedAt : Nat
deriving DecidableEq, Repr

/-- Energy accounts in nJ (R442-R446): domains 0 to 7 and the device as account 8. -/
structure Energy where
  /-- Weights of the running tick and of the running window. -/
  tick : Vector Nat 9
  window : Vector Nat 9
  accounts : Vector Nat 9
  pool : Nat
  carry : Int
  converter : Nat
  transport : Int
  /-- Transport energy metered in PWM periods and not yet taken by a tick, in 2^-33 nJ (R442). -/
  motor : Int
  /-- Ticks since the window began. -/
  ticks : Nat
  /-- A clear applies at the next tick. -/
  clearDue : Bool
  committed : Nat
  /-- Milliseconds in P0, P1 and P2. -/
  times : Vector Nat 3
deriving DecidableEq, Repr

/-- Empty accounts. -/
def Energy.zero : Energy :=
  ⟨Vector.replicate 9 0, Vector.replicate 9 0, Vector.replicate 9 0, 0, 0, 0, 0, 0, 0, false, 0, Vector.replicate 3 0⟩

/-- An event line (R458-R460). -/
structure EventLine where
  /-- Level out of the glitch filter, and whether the debounce counts. -/
  filtered : Bool
  counting : Bool
  accepted : Bool
deriving DecidableEq, Repr

/-- The crossbar pins (R449-R465). -/
structure Pins where
  /-- Level brought to each pin from outside, one bit a pin. -/
  external : Nat
  /-- PIN_CONFIG is applied: from release until the reset (R463). -/
  applied : Bool
  lines : Vector EventLine 8
deriving DecidableEq, Repr

/-! ### Kiln -/

/-- A record of Kiln's store: bytes 0-95 of R399 by field. -/
structure KilnRecord where
  seq : Nat
  source : Nat
  sourceId : Nat
  flags : Nat
  eventCounter : Nat
  time : Nat
  prevTag : Nat
  data : List Byte
deriving DecidableEq, Repr

/-- An audit entry (R401). -/
structure AuditEntry where
  index : Nat
  event : Nat
  flags : Nat
  counter : Nat
  time : Nat
  recordSeq : Nat
  objIndex : Nat
  sub : Nat
  old : Nat
  new : Nat
  gen : Nat
deriving DecidableEq, Repr

/-- Kiln's parameters (R413). -/
structure KilnParams where
  sources : Nat
  domains : Nat
  selfTest : Nat
deriving DecidableEq, Repr

/-- Values staged during the sealed procedure; none where no write staged one (R405). -/
structure KilnStaged where
  sources : Option Nat
  domains : Option Nat
  selfTest : Option Nat
  setTime : Option Nat
deriving DecidableEq, Repr

/-- Nothing staged. -/
def KilnStaged.none : KilnStaged := ⟨.none, .none, .none, .none⟩

/-- Messages of the isolation bridge (R391). -/
inductive BridgeMsg where
  /-- Main to Kiln: source, source ID, RECORD_COUNT, whether it replaced another (process data), tag, 64 data bytes. -/
  | submit (source sourceId count : Nat) (replaced : Bool) (tag : Nat) (data : List Byte)
  | confirm (seq serial : Nat)
  | requestCopy (first count : Nat)
  | stage (w : Writer) (sub : Nat) (values : List (Nat × Nat))
  /-- Kiln to main: the answer to a SUBMIT, KILN_SEQ or the refusal DETAIL. -/
  | result (source sourceId tag : Nat) (seq : Option Nat) (detail : Nat)
  /-- Kiln to main: the outcome of a STAGE. -/
  | stageResult (w : Writer) (sub : Nat) (code : Nat)
  | recordCopy (r : KilnRecord)
deriving DecidableEq, Repr

/-- Kiln on its own island and the main side's bridge (R386-R414). -/
structure Kiln where
  /-- The island is powered by the main supplies and runs (R386, R412). -/
  powered : Bool
  /-- KILN_EN as sampled at the last Kiln power-on: a disabled island stays in reset (R503). -/
  enabled : Bool
  state : KilnState
  gen : Nat
  /-- SEAL_N open as the seal monitor sees it, and the latch of an opening while the supplies were absent (R403). -/
  sealOpen : Bool
  latched : Option Nat
  /-- Kiln time is the crystal's count plus this offset, modulo 2^64 (R400). -/
  offset : Nat
  timeValid : Bool
  /-- On the 8 MHz fallback oscillator (R387). -/
  fallback : Bool
  params : KilnParams
  staged : KilnStaged
  /-- A commit is under way and its commit word is not written (R407). -/
  committing : Bool
  eventCounter : Nat
  lastSeq : Nat
  /-- Bytes 0-7 of SHA-256 over bytes 0-95 of the newest record (R399). -/
  chainTag : Nat
  confirmed : Nat
  gaps : Nat
  auditFull : Bool
  records : List KilnRecord
  audit : List AuditEntry
  /-- Last RECORD_COUNT taken per process-data source (R395). -/
  lastCounts : Vector Nat 8
  /-- Audit entries whose record waits for a free slot (R405). -/
  auditWaiting : List Nat
  /-- Messages on their way over the bridge, oldest first. -/
  toKiln : List BridgeMsg
  toMain : List BridgeMsg
  /-- Events of Kiln that wait for the next STATE_REPORT, code and detail: the main side did not hear Kiln (R391, R393). -/
  news : List (Nat × Nat)
  /-- Main side: BRIDGE_OK (R393). -/
  bridgeOk : Bool
  /-- Main side: copies in the bridge buffer, oldest first (R409). -/
  copies : List KilnRecord
  /-- Main side: a Kiln cut is due. -/
  cutDue : Bool
  /-- Main side: values of the KILN_INPUT objects: 68 bytes each (R395). -/
  inputs : Vector (List Byte) 8
deriving DecidableEq, Repr

/-! ### The motion scheduler -/

/-- MODE of SCHEDULER_STATUS as the scheduler keeps it; a running locate and a parked transport show over it (R363). -/
inductive SchedMode where
  | idle | streaming | pooled | excursion
deriving DecidableEq, Repr

/-- What the motion scheduler carries from one decision to the next (R341-R363). -/
structure Sched where
  mode : SchedMode
  /-- The cut that a read excursion reads (R353). -/
  reading : Option Nat
  /-- Present speed step. -/
  step : Nat
  /-- Target of the last evaluation; none when pooled. -/
  target : Option Nat
  /-- Targets of the last evaluations that were lower than the step, newest first, at most 3 (R356). -/
  lower : List (Option Nat)
  /-- In pooled mode (R355, R356). -/
  pooled : Bool
  /-- A burst runs (R359). -/
  burst : Bool
  derate : Nat
  /-- Speed excursions in the last 60 s: step and time in periods (R358). -/
  excursions : List (Nat × Nat)
  workClass : Nat
  /-- Domains whose oldest waiting byte has waited POOL_MAX_AGE_MS (R342). -/
  aged : List Dom
  /-- The scheduler claims P0 (R360). -/
  claim : Bool
  /-- Payload bytes that entered pages since the last evaluation (R355). -/
  inflow : Nat
  /-- Cuts written since a read excursion ended by its limit; 4 are owed (R353). -/
  owed : Nat
  /-- Reads that have waited 5 s: domain and slot (R352). -/
  urgent : List (Dom × Nat)
  /-- A dailies pass runs or is due: cuts still to read (R354). -/
  dailies : Option (List Nat)
  dailiesTotal : Nat
  /-- The pass is stopped for other work. -/
  dailiesStopped : Bool
  /-- Domains whose volume 0 has newer groups taped than the latest generation, at BEDROCK_DELAY (R347). -/
  bedrockDue : Bool
  /-- The Bedrock generation under way: its zone, and the cuts still to be written with their domain and groups. -/
  bedrock : Option (Fin 2 × List (Dom × List Nat))
  /-- A unit is being reclaimed: its wrap and the cuts still to copy (R351). -/
  reclaim : Option (Nat × List Nat)
  /-- RECLAIM_STALLED has been posted since a unit last could be reclaimed (R351). -/
  stalled : Bool
  /-- The part is entering P1: every domain flushes (R342, R437). -/
  enteringP1 : Bool
deriving DecidableEq, Repr

/-! ### The operation journal -/

/-- An open operation of the journal: its newest record (R376-R378). -/
structure OpRecord where
  kind : Nat
  step : Nat
  serial : Nat
  cartridge : Option Nat
  param : Nat
deriving DecidableEq, Repr

/-- A record of the operation log, but for MAGIC and CRC (R376). -/
structure OpEntry where
  kind : Nat
  phase : Nat
  serial : Nat
  step : Nat
  cartridge : Option Nat
  /-- PARAMS, 28 bytes. -/
  params : List Byte
deriving DecidableEq, Repr

/-- The operation log of the journal (R375-R377). -/
structure OpLog where
  /-- Newest record first, at most 14,336. -/
  entries : List OpEntry
  /-- Records ever appended: where the next one goes. -/
  appended : Nat
  /-- The next OP_SERIAL. -/
  nextOp : Nat
deriving DecidableEq, Repr

/-- A RING_CLOSE record (R379). -/
structure RingClose where
  serial : Nat
  cartridge : Option Nat
  openSerial : Nat
  openWrap : Nat
  openChain : Nat
  lposStart : Nat
  writtenEnd : Nat
  untaped : Nat
  detectTime : Nat
deriving DecidableEq, Repr

/-- A SEQUENCE_END record (R379). -/
structure SequenceEnd where
  kilnTime : Nat
  energyMj : Nat
  timeMs : Nat
  exhausted : Bool
  kilnTimeValid : Bool
  ringClose : Nat
deriving DecidableEq, Repr

/-- A HOLDUP_EXHAUSTED record (R379). -/
structure Exhausted where
  vholdMv : Nat
  speedMmS : Nat
  time : Nat
deriving DecidableEq, Repr

/-- The operation journal beside the persistent values, which stand in the objects and units they belong to (R375). -/
structure Journal where
  openOps : List OpRecord
  /-- NEXT_SERIAL (R375, R384). -/
  nextSerial : Nat
  ringClose : Option RingClose
  sequenceEnd : Option SequenceEnd
  exhausted : Option Exhausted
  /-- The head trims read valid from the journal (R285, R305). -/
  trimsValid : Bool
  /-- HEAD_LOADS was written 0 since the last threading (R305). -/
  headChanged : Bool
  /-- KIND being resumed, for JOURNAL_STATUS. -/
  resuming : Nat
  /-- The last sequence reached 9.0 V or left no SEQUENCE_END record (R385). -/
  lastExhausted : Bool
deriving DecidableEq, Repr

/-- Block recovery and the CP (R477-R486). -/
structure Recov where
  /-- Blocks under recovery, in the order of their expiry, with its time in periods. -/
  busy : List (Nat × Nat)
  /-- Recoveries of each block in the last 60 s: block and time in periods. -/
  history : List (Nat × Nat)
  rebuilding : Bool
  /-- Starts of the rebuild under way (R485). -/
  rebuilds : Nat
  /-- Time of the last CP restart, in periods. -/
  cpRestart : Option Nat
  /-- MRAM_SPARES_EXHAUSTED has been posted (R486). -/
  sparesPosted : Bool
deriving DecidableEq, Repr

/-! ### The block -/

/-- The state of the PKA-880. -/
structure State where
  /-- Commands that wait, first in, first out. -/
  pending : List Instr
  /-- The model's own counter of free values drawn; no register of the part. -/
  free : Nat
  /-- PWM periods since release: the time base (R309, R312). -/
  periods : Nat
  dict : Dict
  ev : EventState
  ports : Vector Port 2
  doms : Vector DomainRt 8
  ring : Ring
  dram : Dram
  boot : Boot
  ecat : Ecat
  test : SelfTest
  comp : Comp
  cart : Cart
  xport : Xport
  power : Power
  kiln : Kiln
  recov : Recov
  sched : Sched
  jour : Journal
  opLog : OpLog
  energy : Energy
  /-- The energy and time counters as the journal keeps them (R446). -/
  savedEnergy : Energy
  pins : Pins
deriving DecidableEq, Repr

/-! ### Reset -/

/-- Fuses, none of which a reader of the spec knows: zeros (log entry 8). -/
def Fuses.blank : Fuses :=
  { uniqueId := 0, vendorId := 0, keyProgrammed := false, keyHash := 0, kilnPublicKey := List.replicate 64 0, kilnKeyId := 0 }

/-- Start-up state of a part held in reset with both NOR slots empty and no activation record. -/
def Boot.init : Boot :=
  { phase := .held, straps := 0, fuses := .blank, slots := Vector.replicate 2 ⟨[], 0, 0, 0⟩, copies := Vector.replicate 2 none
    download := none, image := none, imageFailed := false, cause := 0, warmPending := false, sequenceEnded := false
    thermalHold := false, releaseUs := 0, bankMode := Vector.replicate 4 0, refSelect := false, refRuns := true }

/-- The compression path, empty. -/
def Comp.init : Comp :=
  { out := Vector.replicate 2 false, failures := Vector.replicate 2 0, gathers := [], blocks := [], captured := [], rereads := [] }

/-- The cartridge unit without a cartridge. -/
def Cart.init : Cart :=
  { state := .absent, medium := none, threaded := false, ejected := false, goal := .none, pushOut := false
    chains := #v[⟨0, 0, 0, 0⟩, ⟨0, 0, 0, 0⟩, ⟨2, 0, 0, 0⟩, ⟨3, 0, 0, 0⟩], openCut := none, recent := [], filled := false
    sinceMap := 0, mapDue := false, wearBits := [], warned := [], worn := [], rewriteTotal := 0, rewriteMap := []
    recoveryTotal := 0, recoveryLog := [], ladder := none, reallocs := [], reallocQueue := [], index := ⟨none, 0, [], [], 0⟩
    zones := Vector.replicate 2 ⟨false, false, false, 0⟩, zonesChanged := [], bandsReset := [], calibration := false
    replay := none, replayed := false }

/-- A loop slot that has not executed. -/
def LoopRt.init : LoopRt :=
  { active := ⟨0, 0, 0, 0, 0, 0⟩, apply := false, integ := 0, ePrev := 0, lost := false, held := false, satHigh := false
    satLow := false, stale := false, staleCount := 0, fault := false, ref := 0, fb := 0, next := 0, out := 0 }

/-- A reel encoder without edges: its reel stands. -/
def EncoderRt.init : EncoderRt :=
  { a := false, b := false, count := 0, edges := [], down := false, standstill := true, speedValid := false, fault := false
    doubles := [], radiusMeasured := false, revCount := 0, revLpos := 0, revValid := false, latched := 0 }

/-- The servo without a reader. -/
def Servo.init : Servo :=
  { lowerValid := false, upperValid := false, wrap := 0, pos := 0, offset := 0, inhibited := false, good := 0
    cycles := [], lpos := 0, lposSub := 0, fromEncoders := false, clockLocked := false, holdover := false, overrun := false, corrections := 0
    locate := none, afe := Vector.replicate 17 ⟨120, 120, 0, 0⟩ }

/-- The transport at rest. -/
def Xport.init : Xport :=
  { state := .off, before := .idle, bridge := .off, forceShort := false, atRest := true, headLoaded := false
    loops := Vector.replicate 16 LoopRt.init, legs := Vector.replicate 6 ⟨0, 0, 0, 0, true⟩, coil := 0, charger := 0
    iqRef := Vector.replicate 2 0, selected := Vector.replicate 2 0, regenFloor := 0, forward := true, target := 0
    speedRamp := 0, tensionRamp := 0, raw := Vector.replicate 24 0, zero := Vector.replicate 24 0
    zeroSum := Vector.replicate 24 0, zeroLeft := 0, commLeft := 0
    enc := Vector.replicate 2 EncoderRt.init, useServo := false, servo := .init, inject := ⟨0, 0x7FF⟩
    capture := ⟨.idle, [], 0⟩, inBand := 0, offSpeed := false }

/-- The holdup bank, empty. -/
def Power.init : Power :=
  { ready := false, slotFaults := [], faulted := false, failing := false, forReset := false, source := 0
    exhaustedLast := false, detectedAt := 0 }

/-- Kiln unsealed, with nothing recorded and no power. -/
def Kiln.init : Kiln :=
  { powered := false, enabled := false, state := .unsealed, gen := 0, sealOpen := false, latched := none, offset := 0, timeValid := false
    fallback := false, params := ⟨0, 0, 1⟩, staged := .none, committing := false, eventCounter := 0, lastSeq := 0
    chainTag := 0, confirmed := 0, gaps := 0, auditFull := false, records := [], audit := []
    lastCounts := Vector.replicate 8 0, auditWaiting := [], toKiln := [], toMain := [], news := [], bridgeOk := false
    copies := [], cutDue := false, inputs := Vector.replicate 8 (List.replicate 68 0) }

/-- The motion scheduler idle. -/
def Sched.init : Sched :=
  { mode := .idle, reading := none, step := 0, target := none, lower := [], pooled := true, burst := false, derate := 15, excursions := []
    workClass := 0, aged := [], claim := false, inflow := 0, owed := 0, urgent := [], dailies := none, dailiesTotal := 0
    dailiesStopped := false, bedrockDue := false, bedrock := none, reclaim := none, stalled := false, enteringP1 := false }

/-- The operation journal, empty. -/
def Journal.init : Journal :=
  { openOps := [], nextSerial := 0, ringClose := none, sequenceEnd := none, exhausted := none, trimsValid := false
    headChanged := false, resuming := 0, lastExhausted := false }

/-- The crossbar before PIN_CONFIG applies. -/
def Pins.init : Pins := { external := 0, applied := false, lines := Vector.replicate 8 ⟨false, false, false⟩ }

/-- The part held in reset, with empty non-volatile memories and no cartridge: every object at its constant default; the
start reference and the release follow as commands (R433; log entries 2 and 8). -/
def State.reset : State :=
  { pending := [], free := 0, periods := 0, dict := []
    ev := { log := [], total := 0, faults := [], faultTotal := 0, early := [], emergencies := [], emergencyDrops := 0 }
    ports := Vector.replicate 2 Port.init, doms := Vector.replicate 8 DomainRt.init, ring := .init, dram := .init
    boot := .init, ecat := ⟨.init, false, .nothing, none, SlaveSettings.init, none⟩, test := ⟨none, []⟩, comp := .init, cart := .init
    xport := .init, power := .init, kiln := .init, recov := ⟨[], [], false, 0, none, false⟩, sched := .init, jour := .init, opLog := ⟨[], 0, 1⟩
    energy := .zero, savedEnergy := .zero, pins := .init }

end Sys2Proof.Machine
end

