-- ==== Sys2Proof/Machine/Coding.lean ====
section
/-!
DEFINITION. The bit-exact codes of the link: CRC-8 and CRC-32C, the lane word, the scrambler, bit stuffing, the marker,
the byte order of a link frame and its header, and the 64-byte command (R81-R85, R103-R108, R132).
-/
namespace Sys2Proof.Machine

/-! ### Checks -/

/-- One bit of CRC-8, polynomial x^8 + x^2 + x + 1 (R85). -/
def crc8Bit (c : BitVec 8) (b : Bool) : BitVec 8 :=
  let fb := c.msb ^^ b
  let c' := c <<< 1
  if fb then c' ^^^ 0x07#8 else c'

/-- CRC-8 over bits, most significant first, from 0 (R85). -/
def crc8 (bits : List Bool) : BitVec 8 := bits.foldl crc8Bit 0#8

/-- Bits of a vector, most significant first. -/
def bitsMsb {w : Nat} (x : BitVec w) : List Bool := (List.range w).map (fun i => x.getMsbD i)

/-- `n` steps of the reflected CRC-32C register (R105). -/
def crc32cShift : Nat → BitVec 32 → BitVec 32
  | 0, c => c
  | n + 1, c => crc32cShift n (if c.getLsbD 0 then (c >>> 1) ^^^ 0x82F63B78#32 else c >>> 1)

/-- CRC-32C over bytes: polynomial 0x1EDC6F41 reflected, initial and final 0xFFFFFFFF (R105). -/
def crc32c (bytes : List Byte) : BitVec 32 :=
  (bytes.foldl (fun c b => crc32cShift 8 (c ^^^ b.setWidth 32)) 0xFFFFFFFF#32) ^^^ 0xFFFFFFFF#32

/-- Bytes with their CRC-32C behind them (R235, R243, R255). -/
def withCrc (b : List Byte) : List Byte := b ++ leBytes 4 (crc32c b).toNat

/-! ### Lane word (R85) -/

/-- A Bool as one bit. -/
def oneBit (b : Bool) : BitVec 1 := if b then 1#1 else 0#1

/-- Bits 63:8 of a lane word. -/
def LaneWord.upper (w : LaneWord) : BitVec 56 :=
  w.kind ++ w.lane ++ w.rate ++ w.rxLocked ++ w.txWidth ++ w.rxWidth ++ w.reqPre ++ w.reqPost ++ oneBit w.reqValid
    ++ 0#2 ++ w.curPre ++ w.curPost ++ w.tapStatus ++ 0#1 ++ w.frameSeq ++ 0#8

/-- The 64-bit lane word with its CRC. -/
def LaneWord.encode (w : LaneWord) : BitVec 64 := w.upper ++ crc8 (bitsMsb w.upper)

/-- The fields of a lane word's bits, its CRC not judged. -/
def LaneWord.fields (x : BitVec 64) : LaneWord :=
  { kind := x.extractLsb' 60 4, lane := x.extractLsb' 58 2, rate := x.extractLsb' 56 2, rxLocked := x.extractLsb' 52 4
    txWidth := x.extractLsb' 50 2, rxWidth := x.extractLsb' 48 2, reqPre := x.extractLsb' 44 4
    reqPost := x.extractLsb' 39 5, reqValid := x.getLsbD 38, curPre := x.extractLsb' 32 4
    curPost := x.extractLsb' 27 5, tapStatus := x.extractLsb' 25 2, frameSeq := x.extractLsb' 16 8 }

/-- A received lane word: none where its CRC fails (R85). -/
def LaneWord.decode (x : BitVec 64) : Option LaneWord :=
  if crc8 (bitsMsb (x.extractLsb' 8 56)) = x.extractLsb' 0 8 then some (LaneWord.fields x) else none

/-- Lanes of a width code: 0b00 1, 0b01 2, 0b10 4 (R85). -/
def widthOfCode (c : BitVec 2) : Nat := if c = 0 then 1 else if c = 1 then 2 else 4

/-! ### Line coding (R81-R84) -/

/-- The marker and the end-of-transmission marker (R83). -/
def marker : BitVec 64 := 0x7FFFFFFFF86B3A55#64
/-- The end-of-transmission marker: the complement (R83). -/
def eotMarker : BitVec 64 := 0x800000000794C5AA#64

/-- One scrambled bit: history holds the last 58 line bits, newest first (R81). -/
def scrambleBit (history : BitVec 58) (b : Bool) : BitVec 58 × Bool :=
  let o := b ^^ history.getLsbD 38 ^^ history.getLsbD 57
  ((history <<< 1) ||| (oneBit o).setWidth 58, o)

/-- One descrambled bit (R81). -/
def descrambleBit (history : BitVec 58) (r : Bool) : BitVec 58 × Bool :=
  ((history <<< 1) ||| (oneBit r).setWidth 58, r ^^ history.getLsbD 38 ^^ history.getLsbD 57)

/-- Scramble a run of bits; the state carries on (R81). -/
def scramble : BitVec 58 → List Bool → BitVec 58 × List Bool
  | h, [] => (h, [])
  | h, b :: bs => let r := scrambleBit h b; let t := scramble r.1 bs; (t.1, r.2 :: t.2)

/-- Descramble a run of bits; the state carries on (R81). -/
def descramble : BitVec 58 → List Bool → BitVec 58 × List Bool
  | h, [] => (h, [])
  | h, b :: bs => let r := descrambleBit h b; let t := descramble r.1 bs; (t.1, r.2 :: t.2)

/-- Insert a complement bit after every run of 30 identical bits (R82): `n` bits of value `v` have run. -/
def stuffFrom : Nat → Bool → List Bool → List Bool
  | n, v, [] => if n = 30 then [!v] else []
  | n, v, b :: bs =>
    if n = 30 then (!v) :: b :: stuffFrom 1 b bs
    else b :: stuffFrom (if b = v then n + 1 else 1) b bs

/-- The stuffed bits of a lane frame after its marker, where the count starts afresh (R82). -/
def stuff (bits : List Bool) : List Bool := stuffFrom 0 false bits

/-- The next `k` bits of a lane frame without the bit after every run of 30 identical ones; false where such a bit was not the
complement, or the line ended (R82). -/
def destuff : List Bool → Nat → Nat → Bool → List Bool × Bool
  | _, 0, _, _ => ([], true)
  | [], _ + 1, _, _ => ([], false)
  | b :: bs, k + 1, n, v =>
    if n = 30 then let r := destuff bs (k + 1) 0 b; (r.1, r.2 && b != v)
    else let r := destuff bs k (if b = v then n + 1 else 1) b; (b :: r.1, r.2)

/-- The number that bits stand for, most significant first. -/
def ofBitsMsb (bits : List Bool) : Nat := bits.foldl (fun n b => 2 * n + b2n b) 0

/-- Bytes of a run of bits, each most significant bit first (R103). -/
def bytesOfBits : List Bool → List Byte
  | a :: b :: c :: d :: e :: f :: g :: h :: rest => BitVec.ofNat 8 (ofBitsMsb [a, b, c, d, e, f, g, h]) :: bytesOfBits rest
  | _ => []

/-- Bits of bytes, each most significant bit first (R103). -/
def bitsOfBytes (bytes : List Byte) : List Bool := bytes.flatMap bitsMsb

/-- A clapper burst: 4,096 UI of 0b1111_0000 repeated (R89). -/
def clapperBurst : List Bool := (List.range 4096).map (fun i => i % 8 < 4)

/-- Filler of `n` line bits: 0b10 repeated (R84). -/
def filler (n : Nat) : List Bool := (List.range n).map (fun i => i % 2 == 0)

/-- The line bits of a lane frame without filler: marker, then lane word and content, scrambled and stuffed (R81-R85); the
scrambler's state after it, and the number of stuffed bits. -/
def laneFrame (history : BitVec 58) (word : BitVec 64) (content : List Byte) : BitVec 58 × List Bool × Nat :=
  let plain := bitsMsb word ++ bitsOfBytes content
  let r := scramble history plain
  let line := stuff r.2
  (r.1, bitsMsb marker ++ line, line.length - plain.length)

/-- The line after the marker, which is looked for at `n` places (R84). -/
def findMarker : Nat → List Bool → Option (List Bool)
  | 0, _ => none
  | n + 1, bits =>
    if bits.take 64 = bitsMsb marker then some (bits.drop 64)
    else match bits with
      | [] => none
      | _ :: rest => findMarker n rest

/-- What a receiver takes from the line after a marker: descrambler state, lane word bits, content, and whether every stuffed
bit was right (R81, R82, R84). -/
def readLaneFrame (history : BitVec 58) (line : List Bool) : BitVec 58 × BitVec 64 × List Byte × Bool :=
  let d := destuff line 8128 0 false
  let r := descramble history d.1
  (r.1, BitVec.ofNat 64 (ofBitsMsb (r.2.take 64)), bytesOfBits (r.2.drop 64), d.2)

/-- The order in which the bit-slip search tries the 64 positions: from 0, or from the last position (R90). -/
def slipOrder (first : Nat) : List Nat := (List.range 64).map (fun i => (first + i) % 64)

/-- The marker, or the end-of-transmission pattern, stands at the boundary for a number of lane frames (R90). -/
def SlipHit.atBoundary (h : SlipHit) (slip frames : Nat) : Bool := h.slip.toNat == slip && decide (frames ≤ h.frames.toNat)

/-- The bit-slip search: the first position with the pattern in 2 and then in 4 lane frames (R90). -/
def slipSearch (first : Nat) (hits : List SlipHit) : Option SlipHit :=
  (slipOrder first).findSome? (fun k => hits.find? (fun h => SlipHit.atBoundary h k 2 && SlipHit.atBoundary h k 4))

/-! ### Link frame (R103, R104) -/

/-- Bytes of a link frame at width W (R103). -/
def frameBytes (w : Nat) : Nat := w * 1008

/-- Logical lane and byte position of content byte `k` at width `w` (R103). -/
def contentPlace (w k : Nat) : Nat × Nat := (k / 4 % w, 4 * (k / (4 * w)) + k % 4)

/-- The longest message stream at a width (R104). -/
def streamLimit (w : Nat) : Nat := if w = 1 then 976 else if w = 2 then 1984 else 4000

/-- A frame header's 16 bytes (R104), byte 0 the least significant. DEDUCED: log entry 186. -/
def FrameHeader.encode (h : FrameHeader) : BitVec 128 :=
  h.res12 ++ h.respUnits ++ h.dataUnits ++ h.adminUnits ++ h.cmdUnits ++ h.streamLength ++ h.src ++ h.dest ++ h.fseq
    ++ h.res1 ++ oneBit h.enum ++ oneBit h.upstream ++ h.kind ++ h.version

/-- The header that 16 bytes hold (R104). -/
def FrameHeader.decode (x : BitVec 128) : FrameHeader :=
  { version := x.extractLsb' 0 4, kind := x.extractLsb' 4 4, upstream := x.getLsbD 8, enum := x.getLsbD 9
    res1 := x.extractLsb' 10 6, fseq := x.extractLsb' 16 16, dest := x.extractLsb' 32 8, src := x.extractLsb' 40 8
    streamLength := x.extractLsb' 48 16, cmdUnits := x.extractLsb' 64 8, adminUnits := x.extractLsb' 72 8
    dataUnits := x.extractLsb' 80 8, respUnits := x.extractLsb' 88 8, res12 := x.extractLsb' 96 32 }

/-! ### The 64-byte command (R132) -/

/-- The 64 bytes of a command, byte 0 the least significant. -/
def CmdBody.encode (opcode : Byte) (b : CmdBody) : BitVec 512 :=
  b.res40 ++ b.stamp ++ b.res24 ++ b.argB ++ b.argA ++ b.count ++ b.res3 ++ b.res2 ++ b.target ++ b.flags ++ opcode

/-- Opcode and body of a command's 64 bytes. -/
def CmdBody.decode (x : BitVec 512) : Byte × CmdBody :=
  (x.extractLsb' 0 8,
   { flags := x.extractLsb' 8 8, target := x.extractLsb' 16 4, res2 := x.extractLsb' 20 4, res3 := x.extractLsb' 24 8
     count := x.extractLsb' 32 32, argA := x.extractLsb' 64 64, argB := x.extractLsb' 128 64
     res24 := x.extractLsb' 192 64, stamp := x.extractLsb' 256 64, res40 := x.extractLsb' 320 192 })

/-- A completion's 16 bytes, byte 0 the least significant (R139). -/
def completionBits (opcode status flags detail : Byte) (count : Word) (value : DWord) : BitVec 128 :=
  value ++ count ++ detail ++ flags ++ status ++ opcode

/-- An event record's 16 bytes, byte 0 the least significant (R470). -/
def eventBits (code : Half) (unit severity : Byte) (detail : Word) (time : DWord) : BitVec 128 :=
  time ++ detail ++ severity ++ unit ++ code

end Sys2Proof.Machine
end

