-- ==== Sys2Proof/Machine/Journal.lean ====
section
/-!
DEFINITION. The operation log of the journal: its records, how they are appended, and what they say of open operations
(R375-R379).
-/
namespace Sys2Proof.Machine

/-- Records that the operation log holds (R375). -/
def logPlaces : Nat := 14336

/-- Address of the record that is the n-th appended, from 0 (R375). -/
def logAddress (n : Nat) : Nat := 0x03D20000 + 64 * (n % logPlaces)

/-- The 64 bytes of a record (R376). -/
def OpEntry.bytes (e : OpEntry) : List Byte :=
  let up := leBytes 2 0x4A52 ++ leBytes 1 e.kind ++ leBytes 1 e.phase ++ leBytes 8 e.serial ++ leBytes 4 e.step
    ++ leBytes 16 (e.cartridge.getD 0) ++ e.params
  up ++ leBytes 4 (crc32c up).toNat

/-- A record that 64 bytes hold; none where MAGIC or CRC fails (R376, R377). -/
def opEntryOf (b : List Byte) : Option OpEntry :=
  let num (off n : Nat) : Nat := ofLeBytes ((b.drop off).take n)
  if b.length = 64 ∧ num 0 2 = 0x4A52 ∧ num 60 4 = (crc32c (b.take 60)).toNat then
    some ⟨num 2 1, num 3 1, num 4 8, num 12 4, if num 16 16 = 0 then none else some (num 16 16), (b.drop 32).take 28⟩
  else none

/-- PARAMS of an operation: its parameter (DESIGN CHOICE, log entry 169). -/
def opParams (param : Nat) : List Byte := leBytes 28 param

/-- The record is the newest one of an operation that is still open (R377). -/
def OpEntry.newestOpen (e : OpEntry) (newer : List OpEntry) : Bool :=
  decide (e.phase ≤ 2) && newer.all (fun x => x.serial != e.serial)

/-- Append a record; before the log wraps over the newest record of an open operation that record is copied (R377). -/
def appendRecord (e : OpEntry) (l : OpLog) : OpLog :=
  let kept : List OpEntry :=
    if l.entries.length < logPlaces then []
    else (l.entries.getLast?.toList).filter (fun o => o.newestOpen (e :: l.entries.dropLast))
  { l with entries := (e :: (kept ++ l.entries)).take logPlaces, appended := l.appended + 1 + kept.length }

/-- Append the record of an operation (R377). -/
def recordOp (phase : Nat) (o : OpRecord) (l : OpLog) : OpLog :=
  appendRecord ⟨o.kind, phase, o.serial, o.step, o.cartridge, opParams o.param⟩ l

/-- Open an operation in place of an open one of its kind, which is closed as rolled back (R377, R380). -/
def Journal.openNew (o : OpRecord) (j : Journal) : Journal :=
  { j with openOps := j.openOps.filter (fun x => x.kind != o.kind) ++ [o] }

/-- The records of a new operation, and of those of its kind that were open (R377). -/
def OpLog.openNew (o : OpRecord) (ops : List OpRecord) (l : OpLog) : OpLog :=
  let l1 := recordOp 1 o ((ops.filter (fun x => x.kind == o.kind)).foldl (fun t x => recordOp 4 x t) l)
  { l1 with nextOp := l.nextOp + 1 }

/-- An open operation after a step. -/
def stepped (kind step param : Nat) (x : OpRecord) : OpRecord :=
  if x.kind = kind then { x with step := step, param := param } else x

/-- A step of the open operation of a kind (R377). -/
def Journal.step (kind step param : Nat) (j : Journal) : Journal := { j with openOps := j.openOps.map (stepped kind step param) }

/-- The record of a step of the open operation of a kind (R377). -/
def OpLog.step (kind step param : Nat) (ops : List OpRecord) (l : OpLog) : OpLog :=
  (ops.filter (fun x => x.kind == kind)).foldl (fun t x => recordOp 2 (stepped kind step param x) t) l

/-- The open operation of a kind is open no longer. -/
def Journal.close (kind : Nat) (j : Journal) : Journal :=
  { j with openOps := j.openOps.filter (fun x => x.kind != kind), resuming := if j.resuming = kind then 0 else j.resuming }

/-- The last record of the open operation of a kind: PHASE 3 at its end, PHASE 4 where it is rolled back (R377). -/
def OpLog.close (phase kind : Nat) (ops : List OpRecord) (l : OpLog) : OpLog :=
  (ops.filter (fun x => x.kind == kind)).foldl (fun t x => recordOp phase x t) l

/-- PARAMS of RING_CLOSE (R379). -/
def RingClose.params (r : RingClose) : List Byte :=
  leBytes 4 r.openSerial ++ leBytes 1 r.openWrap ++ leBytes 1 r.openChain ++ leBytes 2 0 ++ leBytes 4 r.lposStart
    ++ leBytes 4 r.writtenEnd ++ leBytes 4 r.untaped ++ leBytes 8 r.detectTime

/-- PARAMS of SEQUENCE_END (R379). -/
def SequenceEnd.params (r : SequenceEnd) : List Byte :=
  leBytes 8 r.kilnTime ++ leBytes 4 r.energyMj ++ leBytes 2 r.timeMs ++ leBytes 1 (b2n r.exhausted + 2 * b2n r.kilnTimeValid)
    ++ leBytes 1 0 ++ leBytes 8 r.ringClose ++ leBytes 4 0

/-- PARAMS of HOLDUP_EXHAUSTED (R379). -/
def Exhausted.params (r : Exhausted) : List Byte :=
  leBytes 4 r.vholdMv ++ leBytes 4 r.speedMmS ++ leBytes 8 r.time ++ leBytes 12 0

/-- Append a record that is no operation's, with PHASE 0x03: of the power-fail sequence or of the fault history (R379, R475). -/
def OpLog.event (kind : Nat) (cartridge : Option Nat) (params : List Byte) (l : OpLog) : OpLog :=
  { appendRecord ⟨kind, 3, l.nextOp, 0, cartridge, params⟩ l with nextOp := l.nextOp + 1 }

/-- PARAMS of a fault history entry: the event record (R475). -/
def faultParams (e : EventRec) : List Byte :=
  leBytes 16 (eventBits (BitVec.ofNat 16 e.code) (BitVec.ofNat 8 e.unit) (BitVec.ofNat 8 e.severity) (BitVec.ofNat 32 e.detail)
    (BitVec.ofNat 64 e.time)).toNat ++ leBytes 12 0

/-- Kinds of operations that resume or roll back (R378). -/
def resumable (kind : Nat) : Bool := ([1, 2, 3, 5, 6, 7, 8] : List Nat).contains kind

/-- The record that says how an operation stands: the one with the highest STEP and PHASE (R377). -/
def stateRecord (l : List OpEntry) (serial : Nat) : Option OpEntry :=
  (l.filter (fun e => e.serial == serial)).foldl (fun best e =>
    match best with
    | none => some e
    | some b => if b.step < e.step ∨ (b.step = e.step ∧ b.phase < e.phase) then some e else some b) none

/-- The operations that the log leaves open, in the order of their serials (R377, R378). -/
def openFromLog (l : List OpEntry) : List OpRecord :=
  let found := ((l.filter (fun e => resumable e.kind)).map (·.serial)).eraseDups
  let ops := found.filterMap (fun n => (stateRecord l n).bind (fun e =>
    if e.phase ≤ 2 then some (⟨e.kind, e.step, e.serial, e.cartridge, ofLeBytes e.params⟩ : OpRecord) else none))
  sortBy (·.serial) ops

end Sys2Proof.Machine
end

