-- ==== Sys2Proof/Machine/Objects.lean ====
section
/-!
DEFINITION. The object dictionary's table (R44-R46, R531-R537): every object with its type, access right, write owner,
window mapping and constant default, the replicated blocks, window addresses, reserved bits and own ranges.
-/
namespace Sys2Proof.Machine

/-- Object types (R45). -/
inductive ObjType where
  | bool | i8 | i16 | i32 | u8 | u16 | u32 | i64 | u64 | str | oct
deriving DecidableEq, Repr

/-- Width in bits; strings and octet strings have none (R45). -/
def ObjType.width : ObjType → Nat
  | .bool => 1 | .i8 | .u8 => 8 | .i16 | .u16 => 16 | .i32 | .u32 => 32 | .i64 | .u64 => 64 | .str | .oct => 0

/-- Size in bytes of a transfer of the object (R45, R541). -/
def ObjType.bytes : ObjType → Nat
  | .bool | .i8 | .u8 => 1 | .i16 | .u16 => 2 | .i32 | .u32 => 4 | .i64 | .u64 => 8 | .str | .oct => 0

/-- CoE type code (R45). -/
def ObjType.code : ObjType → Nat
  | .bool => 0x1 | .i8 => 0x2 | .i16 => 0x3 | .i32 => 0x4 | .u8 => 0x5 | .u16 => 0x6 | .u32 => 0x7
  | .i64 => 0x15 | .u64 => 0x1B | .str => 0x9 | .oct => 0xA

/-- The signed types. -/
def ObjType.signed : ObjType → Bool
  | .i8 | .i16 | .i32 | .i64 => true
  | _ => false

/-- Strings and octet strings. -/
def ObjType.isText : ObjType → Bool
  | .str | .oct => true
  | _ => false

/-- Access rights (R47). -/
inductive AccessRight where
  | ro | rw | wo
deriving DecidableEq, Repr

/-- Access code of GET_DESCRIPTION (R63). -/
def AccessRight.code : AccessRight → Nat
  | .ro => 0 | .rw => 1 | .wo => 2

/-- Write owners (R51). -/
inductive Owner where
  | nobody | integrator | domain | kiln | cp
deriving DecidableEq, Repr

/-- Owner code of GET_DESCRIPTION (R63). -/
def Owner.code : Owner → Nat
  | .nobody => 0 | .integrator => 1 | .domain => 2 | .kiln => 3 | .cp => 4

/-- One row of the object table: `count` objects from `sub` on, all alike. -/
structure ObjRow where
  index : Nat
  sub : Nat
  count : Nat
  type : ObjType
  access : AccessRight
  owner : Owner
  mapped : Bool
  default : Nat
  name : String
deriving DecidableEq, Repr

/-- Object rows of indices 0x1000 to 0x10FF. -/
def objRows10 : List ObjRow := [
  ⟨0x1000, 0x00, 1, .u32, .ro, .nobody, false, 0, "DEVICE_TYPE"⟩, -- R66
  ⟨0x1001, 0x00, 1, .u8, .ro, .nobody, false, 0, "ERROR_REGISTER"⟩, -- R66
  ⟨0x1008, 0x00, 1, .str, .ro, .nobody, false, 0, "DEVICE_NAME"⟩, -- R66
  ⟨0x1009, 0x00, 1, .str, .ro, .nobody, false, 0, "HARDWARE_VERSION"⟩, -- R66
  ⟨0x100A, 0x00, 1, .str, .ro, .nobody, false, 0, "SOFTWARE_VERSION"⟩, -- R66
  ⟨0x1018, 0x01, 1, .u32, .ro, .nobody, false, 0, "VENDOR_ID"⟩, -- R66
  ⟨0x1018, 0x02, 1, .u32, .ro, .nobody, false, 0x880, "PRODUCT_CODE"⟩, -- R66
  ⟨0x1018, 0x03, 1, .u32, .ro, .nobody, false, 0xa1, "REVISION_NUMBER"⟩, -- R66
  ⟨0x1018, 0x04, 1, .u32, .ro, .nobody, false, 0, "SERIAL_NUMBER"⟩] -- R66

/-- Object rows of indices 0x1600 to 0x16FF. -/
def objRows16 : List ObjRow := [
  ⟨0x1600, 0x01, 32, .u32, .rw, .integrator, false, 0, "RXPDO_MAPPING"⟩] -- R66

/-- Object rows of indices 0x1A00 to 0x1AFF. -/
def objRows1A : List ObjRow := [
  ⟨0x1A00, 0x01, 32, .u32, .rw, .integrator, false, 0, "TXPDO_MAPPING"⟩] -- R66

/-- Object rows of indices 0x1C00 to 0x1CFF. -/
def objRows1C : List ObjRow := [
  ⟨0x1C00, 0x01, 4, .u8, .ro, .nobody, false, 1, "SM_COMM_TYPE"⟩, -- R66
  ⟨0x1C12, 0x01, 8, .u16, .rw, .integrator, false, 0, "RXPDO_ASSIGN"⟩, -- R66
  ⟨0x1C13, 0x01, 8, .u16, .rw, .integrator, false, 0, "TXPDO_ASSIGN"⟩, -- R66
  ⟨0x1C32, 0x01, 1, .u16, .rw, .integrator, false, 0, "SM_OUTPUT_PARAMETERS"⟩, -- R66
  ⟨0x1C32, 0x02, 31, .u16, .ro, .nobody, false, 0, "SM_OUTPUT_PARAMETERS"⟩, -- R66
  ⟨0x1C33, 0x01, 1, .u16, .rw, .integrator, false, 0, "SM_INPUT_PARAMETERS"⟩, -- R66
  ⟨0x1C33, 0x02, 31, .u16, .ro, .nobody, false, 0, "SM_INPUT_PARAMETERS"⟩] -- R66

/-- Object rows of indices 0x2000 to 0x20FF. -/
def objRows20 : List ObjRow := [
  ⟨0x2000, 0x01, 1, .u16, .ro, .nobody, true, 0x880, "PART_CODE"⟩, -- R2
  ⟨0x2000, 0x02, 1, .u8, .ro, .nobody, true, 0xa1, "REVISION_CODE"⟩, -- R2
  ⟨0x2000, 0x03, 1, .u16, .ro, .nobody, true, 0, "STRAPS"⟩, -- R504
  ⟨0x2000, 0x04, 1, .u64, .ro, .nobody, true, 0, "UNIQUE_ID_LOW"⟩, -- R424
  ⟨0x2000, 0x06, 1, .u64, .ro, .nobody, true, 0, "UNIQUE_ID_HIGH"⟩, -- R424
  ⟨0x2000, 0x08, 1, .u32, .ro, .nobody, true, 0, "FUSE_OPTIONS"⟩, -- R424
  ⟨0x2000, 0x09, 1, .oct, .ro, .nobody, false, 0, "IMAGE_KEY_HASH"⟩, -- R424
  ⟨0x2000, 0x0A, 1, .u8, .ro, .nobody, true, 0, "FUSE_STATUS"⟩] -- R424

/-- Object rows of indices 0x2100 to 0x21FF. -/
def objRows21 : List ObjRow := [
  ⟨0x2110, 0x01, 1, .u8, .ro, .nobody, true, 0, "LINK_CLOCK_MODE"⟩, -- R80
  ⟨0x2110, 0x02, 1, .u8, .rw, .integrator, true, 0, "SPREAD_DECLARED"⟩, -- R80
  ⟨0x2120, 0x01, 1, .u16, .ro, .nobody, true, 0, "SUPPLY_STATUS"⟩, -- R421
  ⟨0x2120, 0x02, 1, .u16, .ro, .nobody, true, 0, "VCORE_MV"⟩, -- R421
  ⟨0x2120, 0x03, 1, .u16, .ro, .nobody, true, 0, "VMRAM_MV"⟩, -- R421
  ⟨0x2130, 0x01, 1, .i16, .ro, .nobody, true, 0, "TJ_C"⟩, -- R512
  ⟨0x2130, 0x02, 1, .i16, .ro, .nobody, true, 0xffd8, "TJ_MAX_C"⟩, -- R512
  ⟨0x2130, 0x03, 1, .u32, .ro, .nobody, true, 0, "THERMAL_TRIPS"⟩, -- R512
  ⟨0x2140, 0x01, 1, .u8, .ro, .nobody, true, 0, "POWER_STATE"⟩, -- R184
  ⟨0x2140, 0x02, 1, .u8, .rw, .integrator, true, 2, "DEVICE_VOTE"⟩, -- R184
  ⟨0x2150, 0x01, 1, .u64, .ro, .nobody, true, 0, "TIME_P0_MS"⟩, -- R441
  ⟨0x2150, 0x03, 1, .u64, .ro, .nobody, true, 0, "TIME_P1_MS"⟩, -- R441
  ⟨0x2150, 0x05, 1, .u64, .ro, .nobody, true, 0, "TIME_P2_MS"⟩, -- R441
  ⟨0x2150, 0x07, 1, .u32, .ro, .nobody, true, 0, "LAST_SHELF_S"⟩, -- R441
  ⟨0x2150, 0x08, 1, .u32, .ro, .nobody, true, 0, "P2_ENTRIES"⟩, -- R441
  ⟨0x2160, 0x01, 1, .u64, .ro, .nobody, true, 0, "TOTAL_ENERGY_UJ"⟩, -- R446
  ⟨0x2160, 0x03, 1, .u64, .ro, .nobody, true, 0, "CONVERTER_ENERGY_UJ"⟩, -- R446
  ⟨0x2160, 0x05, 1, .i64, .ro, .nobody, true, 0, "TRANSPORT_ENERGY_UJ"⟩, -- R446
  ⟨0x2160, 0x07, 1, .u64, .ro, .nobody, true, 0, "DEVICE_ENERGY_UJ"⟩, -- R446
  ⟨0x2160, 0x09, 1, .u64, .ro, .nobody, true, 0, "COMMITTED_BYTES"⟩, -- R446
  ⟨0x2160, 0x0B, 1, .u8, .wo, .integrator, true, 0, "ENERGY_CLEAR"⟩, -- R446
  ⟨0x2180, 0x01, 1, .u8, .ro, .nobody, true, 1, "ECAT_STATE"⟩, -- R76
  ⟨0x2180, 0x02, 1, .u16, .ro, .nobody, true, 0, "ECAT_AL_STATUS_CODE"⟩, -- R76
  ⟨0x2180, 0x03, 1, .u8, .rw, .integrator, true, 3, "WRITE_PATHS"⟩] -- R76

/-- Object rows of indices 0x2200 to 0x22FF. -/
def objRows22 : List ObjRow := [
  ⟨0x2200, 0x01, 1, .u32, .ro, .nobody, true, 0, "STARTUP_STATUS"⟩, -- R423
  ⟨0x2200, 0x02, 1, .u8, .ro, .nobody, true, 0, "RESET_CAUSE"⟩, -- R423
  ⟨0x2200, 0x03, 1, .u16, .wo, .integrator, true, 0, "RESET_REQUEST"⟩, -- R423
  ⟨0x2201, 0x01, 1, .u8, .ro, .nobody, true, 0, "ACTIVE_SLOT"⟩, -- R431
  ⟨0x2201, 0x02, 1, .u32, .ro, .nobody, true, 0, "SLOT_A_STATUS"⟩, -- R431
  ⟨0x2201, 0x03, 1, .u32, .ro, .nobody, true, 0, "SLOT_B_STATUS"⟩, -- R431
  ⟨0x2201, 0x04, 1, .u8, .wo, .integrator, true, 0, "IMAGE_ACTIVATE"⟩, -- R431
  ⟨0x2201, 0x05, 1, .u8, .ro, .nobody, true, 0, "LAST_REFUSAL"⟩, -- R431
  ⟨0x2202, 0x01, 1, .u32, .rw, .integrator, true, 0, "IMAGE_PUSH_OFFSET"⟩, -- R431
  ⟨0x2202, 0x02, 1, .oct, .wo, .integrator, false, 0, "IMAGE_PUSH_DATA"⟩, -- R431
  ⟨0x2202, 0x03, 1, .u32, .wo, .integrator, true, 0, "IMAGE_PUSH_COMMIT"⟩] -- R431

/-- Object rows of indices 0x2400 to 0x24FF. -/
def objRows24 : List ObjRow := [
  ⟨0x2400, 0x01, 1, .u8, .ro, .nobody, true, 0, "STATE"⟩, -- R55
  ⟨0x2400, 0x02, 1, .u16, .ro, .nobody, true, 0, "GEN"⟩, -- R55
  ⟨0x2400, 0x03, 1, .u32, .wo, .integrator, true, 0, "STATE_REQUEST"⟩, -- R55
  ⟨0x2400, 0x04, 1, .u8, .ro, .nobody, true, 0, "REQUEST_RESULT"⟩, -- R55
  ⟨0x2401, 0x01, 1, .u8, .rw, .integrator, true, 0, "LANE_RATE"⟩, -- R101
  ⟨0x2401, 0x02, 1, .u8, .rw, .integrator, true, 4, "CONFIGURED_WIDTH"⟩, -- R101
  ⟨0x2401, 0x03, 1, .u8, .ro, .nobody, true, 0, "CURRENT_WIDTH"⟩, -- R101
  ⟨0x2401, 0x04, 1, .u8, .ro, .nobody, true, 0, "LANE_MAP"⟩, -- R101
  ⟨0x2401, 0x05, 1, .u8, .rw, .integrator, true, 0, "EQ_TABLE"⟩, -- R101
  ⟨0x2401, 0x06, 1, .bool, .rw, .integrator, true, 1, "ACCEPT_TAP_REQUESTS"⟩, -- R101
  ⟨0x2401, 0x07, 1, .bool, .rw, .integrator, true, 0, "AUTO_ENABLE"⟩, -- R101
  ⟨0x2402, 0x01, 4, .u32, .ro, .nobody, true, 0, "LANE_STATUS"⟩, -- R101
  ⟨0x2403, 0x01, 4, .u32, .ro, .nobody, true, 0, "LANE_TAPS"⟩, -- R101
  ⟨0x2404, 0x01, 4, .u32, .ro, .nobody, true, 0, "LANE_COUNTS"⟩, -- R101
  ⟨0x2405, 0x01, 4, .u16, .rw, .integrator, true, 0, "PARTNER_TAP_REQUEST"⟩, -- R101
  ⟨0x2406, 0x01, 1, .u32, .ro, .nobody, true, 0, "FRAME_CRC_ERRORS"⟩, -- R127
  ⟨0x2406, 0x02, 1, .u32, .ro, .nobody, true, 0, "NAKS_SENT"⟩, -- R127
  ⟨0x2406, 0x03, 1, .u32, .ro, .nobody, true, 0, "REPLAYS"⟩, -- R127
  ⟨0x2406, 0x04, 1, .u32, .ro, .nobody, true, 0, "STOMPED_FRAMES"⟩, -- R127
  ⟨0x2406, 0x05, 1, .u32, .ro, .nobody, true, 0, "PROTOCOL_ERRORS"⟩, -- R127
  ⟨0x2406, 0x06, 1, .u32, .ro, .nobody, true, 0, "UNROUTABLE_FRAMES"⟩, -- R127
  ⟨0x2407, 0x01, 1, .u16, .ro, .nobody, true, 0x800, "RX_CREDIT_CMD"⟩, -- R127
  ⟨0x2407, 0x02, 1, .u16, .ro, .nobody, true, 0x40, "RX_CREDIT_ADMIN"⟩, -- R127
  ⟨0x2407, 0x03, 1, .u16, .ro, .nobody, true, 0x1000, "RX_CREDIT_DATA"⟩, -- R127
  ⟨0x2407, 0x04, 1, .u16, .ro, .nobody, true, 0x400, "RX_CREDIT_RESP"⟩, -- R127
  ⟨0x2480, 0x01, 1, .u8, .rw, .integrator, true, 0, "NODE_ID"⟩, -- R127
  ⟨0x2480, 0x02, 1, .bool, .rw, .integrator, true, 0, "NODE_ID_VALID"⟩, -- R127
  ⟨0x2480, 0x03, 1, .u8, .rw, .integrator, true, 0, "PORT_B_ROLE"⟩] -- R127

/-- Object rows of indices 0x2600 to 0x26FF. -/
def objRows26 : List ObjRow := [
  ⟨0x2600, 0x01, 1, .u16, .rw, .integrator, true, 0x7d0, "RING_WAIT_LIMIT"⟩, -- R176
  ⟨0x2680, 0x01, 1, .u8, .rw, .integrator, true, 0, "ADMIN_DOMAIN"⟩, -- R28
  ⟨0x2680, 0x02, 1, .u8, .ro, .nobody, true, 0, "CONFIGURED_MASK"⟩, -- R28
  ⟨0x2680, 0x03, 1, .u8, .ro, .nobody, true, 0, "ONLINE_MASK"⟩, -- R28
  ⟨0x2680, 0x04, 1, .u16, .ro, .nobody, true, 0x400, "GUARANTEE_SCALE"⟩, -- R28
  ⟨0x2680, 0x05, 1, .u32, .ro, .nobody, true, 0x753000, "BUDGET_DRAM"⟩, -- R28
  ⟨0x2680, 0x06, 1, .u32, .ro, .nobody, true, 0x15f90, "BUDGET_TAPE"⟩, -- R28
  ⟨0x2680, 0x07, 1, .u32, .ro, .nobody, true, 0, "BUDGET_LINK_A"⟩, -- R28
  ⟨0x2680, 0x08, 1, .u32, .ro, .nobody, true, 0, "BUDGET_LINK_B"⟩, -- R28
  ⟨0x2680, 0x09, 1, .u8, .ro, .nobody, true, 0, "LIMITING_BUDGET"⟩] -- R28

/-- Object rows of indices 0x2800 to 0x28FF. -/
def objRows28 : List ObjRow := [
  ⟨0x2800, 0x01, 1, .u16, .ro, .nobody, true, 0, "DRAM_SIZE_MIB"⟩, -- R207
  ⟨0x2800, 0x02, 1, .u8, .ro, .nobody, true, 0, "DRAM_RANKS"⟩, -- R207
  ⟨0x2800, 0x03, 1, .u32, .ro, .nobody, true, 0, "DOMAIN_PAGE_POOL"⟩, -- R207
  ⟨0x2800, 0x04, 1, .u32, .ro, .nobody, true, 0, "COMMON_FREE_PAGES"⟩, -- R207
  ⟨0x2800, 0x05, 1, .u16, .ro, .nobody, true, 0, "RETIRED_PAGES"⟩, -- R207
  ⟨0x2800, 0x06, 1, .bool, .ro, .nobody, true, 0, "REFRESH_DOUBLED"⟩, -- R207
  ⟨0x2801, 0x01, 1, .u32, .ro, .nobody, true, 0, "ECC_CORRECTED"⟩, -- R207
  ⟨0x2801, 0x02, 1, .u32, .ro, .nobody, true, 0, "ECC_UNCORRECTABLE"⟩, -- R207
  ⟨0x2801, 0x03, 1, .u32, .ro, .nobody, true, 0, "ECC_LAST_LINE"⟩, -- R207
  ⟨0x2802, 0x01, 1, .u16, .ro, .nobody, true, 0, "COMMON_WAITERS"⟩, -- R207
  ⟨0x2802, 0x02, 1, .u16, .ro, .nobody, true, 0, "CEILING_WAITERS"⟩, -- R207
  ⟨0x2803, 0x01, 1, .u8, .ro, .nobody, true, 0xa0, "RING_FREE_UNITS"⟩, -- R207
  ⟨0x2803, 0x02, 1, .u16, .ro, .nobody, true, 0x7f80, "RECORDS_FREE"⟩, -- R207
  ⟨0x2804, 0x01, 12, .u32, .ro, .nobody, true, 0, "ARBITER_MAX_WAIT"⟩, -- R207
  ⟨0x2805, 0x01, 1, .u32, .rw, .integrator, true, 0x2710, "STARVATION_REPORT_US"⟩, -- R207
  ⟨0x2805, 0x02, 1, .u8, .ro, .nobody, true, 0, "ARBITER_OWNER"⟩] -- R207

/-- Object rows of indices 0x2A00 to 0x2AFF. -/
def objRows2A : List ObjRow := [
  ⟨0x2A00, 0x01, 1, .bool, .rw, .integrator, true, 1, "COMPRESSION_ENABLE"⟩, -- R227
  ⟨0x2A00, 0x02, 1, .u16, .rw, .integrator, true, 0xfa, "BLOCK_GATHER_US"⟩, -- R227
  ⟨0x2A00, 0x03, 1, .u8, .ro, .nobody, true, 0, "ENGINE_STATUS"⟩, -- R227
  ⟨0x2A01, 0x01, 1, .u64, .ro, .nobody, true, 0, "BYTES_IN"⟩, -- R227
  ⟨0x2A01, 0x03, 1, .u64, .ro, .nobody, true, 0, "BYTES_OUT"⟩, -- R227
  ⟨0x2A01, 0x05, 1, .u32, .ro, .nobody, true, 0, "STORED_BLOCKS"⟩, -- R227
  ⟨0x2A01, 0x06, 1, .u32, .ro, .nobody, true, 0, "NOT_SMALLER_SECTORS"⟩, -- R227
  ⟨0x2A02, 0x01, 1, .u32, .ro, .nobody, true, 0, "COMPRESS_CHECK_FAILURES_0"⟩, -- R227
  ⟨0x2A02, 0x02, 1, .u32, .ro, .nobody, true, 0, "COMPRESS_CHECK_FAILURES_1"⟩, -- R227
  ⟨0x2A02, 0x03, 1, .u32, .ro, .nobody, true, 0, "DECOMPRESS_FAILURES"⟩, -- R227
  ⟨0x2A02, 0x04, 1, .u8, .ro, .nobody, true, 0, "LAST_FAILURE"⟩] -- R227

/-- Object rows of indices 0x2C00 to 0x2CFF. -/
def objRows2C : List ObjRow := [
  ⟨0x2C00, 0x01, 1, .u8, .ro, .nobody, true, 0, "STATE"⟩, -- R55
  ⟨0x2C00, 0x02, 1, .u16, .ro, .nobody, true, 0, "GEN"⟩, -- R55
  ⟨0x2C00, 0x03, 1, .u32, .wo, .integrator, true, 0, "STATE_REQUEST"⟩, -- R55
  ⟨0x2C00, 0x04, 1, .u8, .ro, .nobody, true, 0, "REQUEST_RESULT"⟩, -- R55
  ⟨0x2C01, 0x01, 1, .bool, .rw, .integrator, true, 1, "AUTO_LOAD"⟩, -- R163
  ⟨0x2C01, 0x02, 1, .u32, .ro, .nobody, true, 0, "LOAD_COUNT"⟩, -- R163
  ⟨0x2C01, 0x03, 1, .u8, .ro, .nobody, true, 0, "FORMAT_PROGRESS"⟩, -- R163
  ⟨0x2C02, 0x01, 1, .u32, .ro, .nobody, true, 0, "FORMAT_GEN"⟩, -- R261
  ⟨0x2C02, 0x02, 1, .u64, .ro, .nobody, true, 0, "CARTRIDGE_ID_LOW"⟩, -- R261
  ⟨0x2C02, 0x04, 1, .u64, .ro, .nobody, true, 0, "CARTRIDGE_ID_HIGH"⟩, -- R261
  ⟨0x2C02, 0x06, 1, .u32, .ro, .nobody, true, 0, "DATA_CUTS"⟩, -- R261
  ⟨0x2C02, 0x07, 1, .u16, .ro, .nobody, true, 0, "SPARE_CUTS_LEFT"⟩, -- R261
  ⟨0x2C02, 0x08, 1, .u32, .ro, .nobody, true, 0, "NEXT_SERIAL"⟩, -- R261
  ⟨0x2C02, 0x09, 1, .u32, .ro, .nobody, true, 0, "ABANDONED_CUTS"⟩, -- R261
  ⟨0x2C02, 0x0A, 1, .u16, .ro, .nobody, true, 0, "KILN_CUTS_FREE"⟩, -- R261
  ⟨0x2C03, 0x01, 1, .u8, .rw, .integrator, true, 2, "VERIFY_ITERATIONS"⟩, -- R277
  ⟨0x2C03, 0x02, 1, .u16, .rw, .integrator, true, 0xb8, "VERIFY_BIT_LIMIT"⟩, -- R277
  ⟨0x2C03, 0x03, 1, .u64, .ro, .nobody, true, 0, "FRAME_SETS_WRITTEN"⟩, -- R277
  ⟨0x2C03, 0x05, 1, .u32, .ro, .nobody, true, 0, "FRAME_SETS_REWRITTEN"⟩, -- R277
  ⟨0x2C03, 0x06, 1, .u32, .ro, .nobody, true, 0, "TRAILING_WINDOWS"⟩, -- R277
  ⟨0x2C03, 0x07, 1, .u8, .ro, .nobody, true, 0, "LAST_MISS_REASON"⟩, -- R277
  ⟨0x2C03, 0x08, 1, .u8, .ro, .nobody, true, 0, "CONSECUTIVE_ABANDONS"⟩, -- R277
  ⟨0x2C04, 0x01, 1, .u32, .ro, .nobody, true, 0, "C1_FAILED_CODEWORDS"⟩, -- R277
  ⟨0x2C04, 0x02, 1, .u32, .ro, .nobody, true, 0, "C2_CORRECTED_POSITIONS"⟩, -- R277
  ⟨0x2C04, 0x03, 1, .u32, .ro, .nobody, true, 0, "C2_FAILED_POSITIONS"⟩, -- R277
  ⟨0x2C04, 0x04, 1, .u32, .ro, .nobody, true, 0, "C3_CORRECTED_POSITIONS"⟩, -- R277
  ⟨0x2C04, 0x05, 1, .u32, .ro, .nobody, true, 0, "C3_FAILED_POSITIONS"⟩, -- R277
  ⟨0x2C05, 0x01, 1, .u16, .ro, .nobody, true, 0, "MAX_WRAP_EIGHTHS"⟩, -- R282
  ⟨0x2C05, 0x02, 1, .u8, .ro, .nobody, true, 0, "WORN_WRAPS"⟩, -- R282
  ⟨0x2C05, 0x03, 1, .u32, .ro, .nobody, true, 0, "WRAP_REFUSALS"⟩, -- R282
  ⟨0x2C05, 0x04, 1, .u32, .rw, .integrator, true, 0, "HEAD_LOADS"⟩] -- R282

/-- Object rows of indices 0x2E00 to 0x2EFF. -/
def objRows2E : List ObjRow := [
  ⟨0x2E00, 0x01, 1, .u8, .rw, .integrator, true, 6, "READ_ITERATIONS"⟩, -- R307
  ⟨0x2E00, 0x02, 1, .u8, .rw, .integrator, true, 4, "LOCAL_ITERATIONS"⟩, -- R307
  ⟨0x2E00, 0x03, 1, .u8, .rw, .integrator, true, 0x18, "EXTENDED_ITERATIONS"⟩, -- R307
  ⟨0x2E00, 0x04, 1, .u8, .rw, .integrator, true, 6, "REREAD_LIMIT"⟩, -- R307
  ⟨0x2E00, 0x05, 1, .u16, .rw, .integrator, true, 0x1000, "HOLDOVER_BITS"⟩, -- R307
  ⟨0x2E00, 0x06, 1, .u8, .rw, .integrator, true, 0x26, "WRITE_INHIBIT_LIMIT"⟩, -- R307
  ⟨0x2E01, 0x01, 1, .u32, .ro, .nobody, true, 0, "CHANNEL_STATUS"⟩, -- R307
  ⟨0x2E01, 0x02, 1, .u32, .ro, .nobody, true, 0, "HOLDOVERS"⟩, -- R307
  ⟨0x2E01, 0x03, 1, .u32, .ro, .nobody, true, 0, "HOLDOVER_OVERRUNS"⟩, -- R307
  ⟨0x2E01, 0x04, 1, .u32, .ro, .nobody, true, 0, "LADDER_ENTRIES"⟩, -- R307
  ⟨0x2E01, 0x05, 1, .u32, .ro, .nobody, true, 0, "LADDER_RECOVERED"⟩, -- R307
  ⟨0x2E01, 0x06, 1, .u32, .ro, .nobody, true, 0, "LADDER_FAILED"⟩, -- R307
  ⟨0x2E01, 0x07, 1, .u8, .ro, .nobody, true, 0, "REALLOCATIONS_PENDING"⟩, -- R307
  ⟨0x2E01, 0x08, 1, .u32, .ro, .nobody, true, 0, "WRITE_INHIBITS"⟩, -- R307
  ⟨0x2E02, 0x01, 1, .u32, .ro, .nobody, true, 0, "SERVO_STATUS"⟩, -- R307
  ⟨0x2E02, 0x02, 1, .u32, .ro, .nobody, true, 0, "WRAP_CORRECTIONS"⟩, -- R307
  ⟨0x2E03, 0x01, 1, .u8, .wo, .integrator, true, 0, "CALIBRATE"⟩, -- R307
  ⟨0x2E10, 0x01, 17, .u32, .ro, .nobody, true, 0x78000000, "ELEMENT_TRIM"⟩, -- R307
  ⟨0x2E80, 0x01, 8, .u32, .ro, .nobody, true, 0, "ZONE"⟩] -- R307

/-- Object rows of indices 0x3000 to 0x30FF. -/
def objRows30 : List ObjRow := [
  ⟨0x3000, 0x01, 1, .i32, .rw, .integrator, true, 0, "KP"⟩, -- R327
  ⟨0x3000, 0x02, 1, .i32, .rw, .integrator, true, 0, "KI"⟩, -- R327
  ⟨0x3000, 0x03, 1, .i32, .rw, .integrator, true, 0, "KD"⟩, -- R327
  ⟨0x3000, 0x04, 1, .i32, .rw, .integrator, true, 0, "KFF"⟩, -- R327
  ⟨0x3000, 0x05, 1, .i32, .rw, .integrator, true, 0, "UMIN"⟩, -- R327
  ⟨0x3000, 0x06, 1, .i32, .rw, .integrator, true, 0, "UMAX"⟩, -- R327
  ⟨0x3000, 0x07, 1, .u8, .rw, .integrator, true, 0, "CONTROL"⟩, -- R327
  ⟨0x3000, 0x08, 1, .u16, .ro, .nobody, true, 0, "STATUS"⟩, -- R327
  ⟨0x3000, 0x09, 1, .i32, .ro, .nobody, true, 0, "REFERENCE"⟩, -- R327
  ⟨0x3000, 0x0A, 1, .i32, .ro, .nobody, true, 0, "FEEDBACK"⟩, -- R327
  ⟨0x3000, 0x0B, 1, .i32, .ro, .nobody, true, 0, "OUTPUT"⟩, -- R327
  ⟨0x3000, 0x0C, 1, .i32, .ro, .nobody, true, 0, "INTEGRATOR"⟩, -- R327
  ⟨0x3010, 0x01, 1, .u8, .rw, .integrator, true, 0, "INJECT_TARGET"⟩, -- R328
  ⟨0x3010, 0x02, 1, .u8, .rw, .integrator, true, 0, "INJECT_WAVEFORM"⟩, -- R328
  ⟨0x3010, 0x03, 1, .i32, .rw, .integrator, true, 0, "INJECT_AMPLITUDE"⟩, -- R328
  ⟨0x3010, 0x04, 1, .u16, .rw, .integrator, true, 1, "INJECT_PERIOD"⟩, -- R328
  ⟨0x3011, 0x01, 1, .u32, .rw, .integrator, true, 0xffffffff, "CAPTURE_SOURCES"⟩, -- R328
  ⟨0x3011, 0x02, 1, .u8, .rw, .integrator, true, 0, "CAPTURE_CLOCK"⟩, -- R328
  ⟨0x3011, 0x03, 1, .u16, .rw, .integrator, true, 1, "CAPTURE_DECIMATION"⟩, -- R328
  ⟨0x3011, 0x04, 1, .u8, .wo, .integrator, true, 0, "CAPTURE_CONTROL"⟩, -- R328
  ⟨0x3011, 0x05, 1, .u16, .ro, .nobody, true, 0, "CAPTURE_STATUS"⟩, -- R328
  ⟨0x3012, 0x00, 1, .oct, .ro, .nobody, false, 0, "CAPTURE_DATA"⟩] -- R328

/-- Object rows of indices 0x3100 to 0x31FF. -/
def objRows31 : List ObjRow := [
  ⟨0x3100, 0x01, 1, .u8, .rw, .integrator, true, 4, "FILTER_LENGTH"⟩, -- R340
  ⟨0x3100, 0x02, 1, .u32, .rw, .integrator, true, 0x2710, "STANDSTILL_TIME_US"⟩, -- R340
  ⟨0x3100, 0x03, 1, .u8, .rw, .integrator, true, 0, "ENCODER_POLARITY"⟩, -- R340
  ⟨0x3100, 0x04, 1, .u8, .ro, .nobody, true, 0, "SPEED_SOURCE"⟩, -- R340
  ⟨0x3100, 0x05, 1, .i32, .ro, .nobody, true, 0, "TAPE_SPEED"⟩, -- R340
  ⟨0x3100, 0x06, 1, .i32, .ro, .nobody, true, 0, "TAPE_SPEED_ENCODER"⟩, -- R340
  ⟨0x3100, 0x07, 1, .i32, .ro, .nobody, true, 0, "TAPE_SPEED_SERVO"⟩, -- R340
  ⟨0x3100, 0x08, 1, .i32, .rw, .integrator, true, 0x51f, "SPEED_CHECK_TOLERANCE"⟩, -- R340
  ⟨0x3100, 0x09, 1, .u32, .ro, .nobody, true, 0, "SPEED_MISMATCHES"⟩, -- R340
  ⟨0x3100, 0x0A, 1, .i32, .rw, .integrator, true, 0xb85, "TORQUE_CONSTANT"⟩, -- R340
  ⟨0x3100, 0x0B, 1, .i32, .rw, .integrator, true, 0x4000, "TENSION_CHECK_TOLERANCE"⟩, -- R340
  ⟨0x3100, 0x0C, 1, .u32, .ro, .nobody, true, 0, "TENSION_MISMATCHES"⟩, -- R340
  ⟨0x3101, 0x01, 1, .i32, .ro, .nobody, true, 0, "COUNT"⟩, -- R340
  ⟨0x3101, 0x02, 1, .i32, .ro, .nobody, true, 0, "SPEED"⟩, -- R340
  ⟨0x3101, 0x03, 1, .u16, .ro, .nobody, true, 0, "ENCODER_STATUS"⟩, -- R340
  ⟨0x3101, 0x04, 1, .u32, .ro, .nobody, true, 0, "ILLEGAL_TRANSITIONS"⟩, -- R340
  ⟨0x3101, 0x05, 1, .u16, .ro, .nobody, true, 0, "UNCERTAINTY"⟩, -- R340
  ⟨0x3101, 0x06, 1, .i32, .ro, .nobody, true, 0, "RADIUS"⟩, -- R340
  ⟨0x3101, 0x07, 1, .i32, .ro, .nobody, true, 0, "SURFACE_SPEED"⟩] -- R340

/-- Object rows of indices 0x3200 to 0x32FF. -/
def objRows32 : List ObjRow := [
  ⟨0x3200, 0x01, 1, .u8, .rw, .integrator, true, 0x32, "DEAD_TIME"⟩, -- R328
  ⟨0x3200, 0x02, 1, .u8, .rw, .integrator, true, 0x64, "MIN_PULSE"⟩, -- R328
  ⟨0x3200, 0x03, 1, .u8, .rw, .integrator, true, 0x44, "POLE_PAIRS"⟩, -- R328
  ⟨0x3200, 0x04, 1, .u16, .rw, .integrator, true, 0, "COMM_OFFSET_CART"⟩, -- R328
  ⟨0x3200, 0x05, 1, .u16, .rw, .integrator, true, 0, "COMM_OFFSET_MACH"⟩, -- R328
  ⟨0x3200, 0x06, 1, .u8, .rw, .integrator, true, 0, "MOTOR_POLARITY"⟩, -- R328
  ⟨0x3200, 0x07, 1, .u32, .ro, .nobody, true, 0, "OMITTED_PULSES"⟩, -- R328
  ⟨0x3200, 0x08, 1, .u32, .ro, .nobody, true, 0, "FULL_ON_PERIODS"⟩, -- R328
  ⟨0x3201, 0x01, 4, .u32, .rw, .integrator, true, 0x40, "ADC_SEQUENCE"⟩, -- R328
  ⟨0x3202, 0x01, 4, .u32, .rw, .integrator, true, 0x688, "ADC_CHANNELS"⟩, -- R328
  ⟨0x3203, 0x01, 4, .u32, .ro, .nobody, true, 0, "ADC_OVERRUNS"⟩, -- R328
  ⟨0x3204, 0x01, 24, .i32, .rw, .integrator, true, 0, "AIN_SCALE"⟩, -- R328
  ⟨0x3205, 0x01, 24, .i32, .ro, .nobody, true, 0, "AIN_SAMPLE"⟩] -- R328

/-- Object rows of indices 0x3400 to 0x34FF. -/
def objRows34 : List ObjRow := [
  ⟨0x3400, 0x01, 1, .u8, .ro, .nobody, true, 0, "STATE"⟩, -- R55
  ⟨0x3400, 0x02, 1, .u16, .ro, .nobody, true, 0, "GEN"⟩, -- R55
  ⟨0x3400, 0x03, 1, .u32, .wo, .integrator, true, 0, "STATE_REQUEST"⟩, -- R55
  ⟨0x3400, 0x04, 1, .u8, .ro, .nobody, true, 0, "REQUEST_RESULT"⟩, -- R55
  ⟨0x3401, 0x01, 1, .i32, .rw, .integrator, true, 0xe666, "TENSION_SETPOINT"⟩, -- R328
  ⟨0x3401, 0x02, 1, .i32, .rw, .integrator, true, 0x1999a, "TENSION_MAX"⟩, -- R328
  ⟨0x3401, 0x03, 1, .i32, .rw, .integrator, true, 0x4ccd, "TENSION_FAULT_LOW"⟩, -- R328
  ⟨0x3401, 0x04, 1, .i32, .rw, .integrator, true, 0x23333, "TENSION_FAULT_HIGH"⟩, -- R328
  ⟨0x3401, 0x05, 1, .i32, .rw, .integrator, true, 0x6666, "PARK_TENSION"⟩, -- R328
  ⟨0x3401, 0x06, 1, .i32, .rw, .integrator, true, 0xa0000, "RAMP_ACCEL"⟩, -- R328
  ⟨0x3401, 0x07, 1, .i32, .ro, .nobody, true, 0xa0000, "EMERGENCY_DECEL"⟩, -- R328
  ⟨0x3401, 0x08, 1, .i32, .rw, .integrator, true, 0, "TEST_SPEED"⟩, -- R328
  ⟨0x3401, 0x09, 1, .i32, .ro, .nobody, true, 0, "TAPE_SPEED_REF"⟩, -- R328
  ⟨0x3401, 0x0A, 1, .i32, .ro, .nobody, true, 0, "TENSION"⟩, -- R328
  ⟨0x3401, 0x0B, 1, .i32, .ro, .nobody, true, 0, "REGEN_FLOOR"⟩, -- R328
  ⟨0x3401, 0x0C, 1, .u32, .ro, .nobody, true, 0, "SPEED_EXCURSIONS"⟩, -- R328
  ⟨0x3401, 0x0D, 1, .u8, .ro, .nobody, true, 0, "FAULT_CAUSE"⟩, -- R328
  ⟨0x3402, 0x01, 1, .u32, .ro, .nobody, true, 0, "SCHEDULER_STATUS"⟩, -- R363
  ⟨0x3402, 0x02, 1, .u8, .rw, .integrator, true, 0xf, "MAX_SPEED_STEP"⟩, -- R363
  ⟨0x3402, 0x03, 1, .u16, .rw, .integrator, true, 0x1f4, "SPEED_EVAL_MS"⟩, -- R363
  ⟨0x3402, 0x04, 1, .u32, .ro, .nobody, true, 0, "INFLOW_KBPS"⟩, -- R363
  ⟨0x3402, 0x05, 1, .u32, .ro, .nobody, true, 0, "BACKLOG_KB"⟩, -- R363
  ⟨0x3402, 0x06, 1, .u32, .rw, .integrator, true, 0x7530, "POOL_MAX_AGE_MS"⟩, -- R363
  ⟨0x3402, 0x07, 1, .u16, .rw, .integrator, true, 0x7d0, "READ_EXCURSION_MS"⟩, -- R363
  ⟨0x3402, 0x08, 1, .u32, .ro, .nobody, true, 0, "BACKHITCHES"⟩, -- R363
  ⟨0x3402, 0x09, 1, .u32, .ro, .nobody, true, 0, "PADDED_CUTS"⟩, -- R363
  ⟨0x3403, 0x01, 1, .u8, .ro, .nobody, true, 0, "FREE_REUSE_UNITS"⟩, -- R363
  ⟨0x3403, 0x02, 1, .u8, .rw, .integrator, true, 8, "RECLAIM_THRESHOLD"⟩, -- R363
  ⟨0x3403, 0x03, 1, .u32, .ro, .nobody, true, 0, "DEAD_CUTS"⟩, -- R363
  ⟨0x3403, 0x04, 1, .u8, .ro, .nobody, true, 0, "BEDROCK_STATUS"⟩, -- R363
  ⟨0x3403, 0x05, 1, .u16, .rw, .integrator, true, 0x3c, "BEDROCK_DELAY_S"⟩, -- R363
  ⟨0x3403, 0x06, 1, .u8, .ro, .nobody, true, 0, "INDEX_STATUS"⟩, -- R363
  ⟨0x3404, 0x01, 1, .bool, .rw, .integrator, true, 1, "DAILIES_ENABLE"⟩, -- R363
  ⟨0x3404, 0x02, 1, .u16, .rw, .integrator, true, 0xa8, "DAILIES_INTERVAL_H"⟩, -- R363
  ⟨0x3404, 0x03, 1, .u8, .ro, .nobody, true, 0, "DAILIES_PROGRESS"⟩, -- R363
  ⟨0x3405, 0x01, 1, .u16, .rw, .integrator, true, 0x18, "KILN_CUT_AGE_H"⟩, -- R413
  ⟨0x3405, 0x02, 1, .u16, .ro, .nobody, true, 0, "KILN_WAITING"⟩, -- R413
  ⟨0x3405, 0x03, 1, .u32, .ro, .nobody, true, 0, "KILN_CUTS_WRITTEN"⟩, -- R413
  ⟨0x3405, 0x04, 1, .u32, .ro, .nobody, true, 0, "BRIDGE_COLLISIONS"⟩] -- R413

/-- Object rows of indices 0x3600 to 0x36FF. -/
def objRows36 : List ObjRow := [
  ⟨0x3600, 0x01, 1, .u8, .rw, .integrator, true, 3, "POWER_FAIL_SOURCE"⟩, -- R385
  ⟨0x3600, 0x02, 1, .u16, .rw, .integrator, true, 0x320, "VSENSE_THRESHOLD"⟩, -- R385
  ⟨0x3600, 0x03, 1, .i32, .rw, .integrator, true, 0xf0000, "VHOLD_TARGET"⟩, -- R385
  ⟨0x3600, 0x04, 1, .i32, .rw, .integrator, true, 0xe0000, "HOLDUP_MIN_START"⟩, -- R385
  ⟨0x3600, 0x05, 1, .u16, .ro, .nobody, true, 0, "HOLDUP_STATUS"⟩, -- R385
  ⟨0x3600, 0x06, 1, .i32, .ro, .nobody, true, 0, "VHOLD"⟩, -- R385
  ⟨0x3601, 0x01, 1, .u32, .ro, .nobody, true, 0, "POWER_FAILS"⟩, -- R385
  ⟨0x3601, 0x02, 1, .u32, .ro, .nobody, true, 0, "LAST_SEQUENCE_ENERGY_MJ"⟩, -- R385
  ⟨0x3601, 0x03, 1, .u16, .ro, .nobody, true, 0, "LAST_SEQUENCE_TIME_MS"⟩, -- R385
  ⟨0x3601, 0x04, 1, .u32, .ro, .nobody, true, 0, "REPLAYS"⟩, -- R385
  ⟨0x3601, 0x05, 1, .u8, .wo, .integrator, true, 0, "HOLDUP_CONTROL"⟩, -- R385
  ⟨0x3602, 0x01, 1, .u32, .ro, .nobody, true, 0, "JOURNAL_STATUS"⟩] -- R385

/-- Object rows of indices 0x3800 to 0x38FF. -/
def objRows38 : List ObjRow := [
  ⟨0x3800, 0x01, 1, .u64, .ro, .nobody, true, 0, "PIN_LEVELS"⟩, -- R465
  ⟨0x3800, 0x03, 1, .u64, .rw, .integrator, true, 0, "DEVICE_PIN_OUT"⟩, -- R465
  ⟨0x3801, 0x01, 8, .u32, .rw, .integrator, true, 0, "PIN_CONFIG"⟩, -- R465
  ⟨0x3806, 0x01, 8, .u32, .rw, .integrator, true, 0, "EVENT_CONFIG"⟩, -- R465
  ⟨0x3807, 0x01, 8, .u32, .ro, .nobody, true, 0, "EVENT_COUNTS"⟩, -- R465
  ⟨0x3808, 0x01, 1, .u8, .rw, .integrator, true, 0, "PDO_OUTPUTS"⟩, -- R465
  ⟨0x3808, 0x02, 1, .u8, .rw, .integrator, true, 0, "PDO_SAFE_OUTPUTS"⟩, -- R465
  ⟨0x3808, 0x03, 1, .u8, .ro, .nobody, true, 0, "PDO_INPUTS"⟩, -- R465
  ⟨0x3808, 0x04, 1, .u8, .ro, .nobody, true, 0, "EVENT_LEVELS"⟩] -- R465

/-- Object rows of indices 0x3A00 to 0x3AFF. -/
def objRows3A : List ObjRow := [
  ⟨0x3A00, 0x01, 1, .u32, .ro, .nobody, true, 0, "FAULT_SUMMARY"⟩, -- R487
  ⟨0x3A00, 0x02, 1, .u32, .ro, .nobody, true, 0, "EVENTS_RAISED"⟩, -- R487
  ⟨0x3A00, 0x03, 1, .u32, .ro, .nobody, true, 0, "EVENTS_DROPPED_A"⟩, -- R487
  ⟨0x3A00, 0x04, 1, .u32, .ro, .nobody, true, 0, "EVENTS_DROPPED_B"⟩, -- R487
  ⟨0x3A00, 0x05, 1, .u32, .ro, .nobody, true, 0, "EMERGENCIES_DROPPED"⟩, -- R487
  ⟨0x3A01, 0x01, 1, .u32, .ro, .nobody, true, 0, "RECOVERIES"⟩, -- R487
  ⟨0x3A01, 0x02, 1, .u32, .ro, .nobody, true, 0, "LAST_RECOVERY"⟩, -- R487
  ⟨0x3A01, 0x03, 1, .u8, .rw, .integrator, true, 3, "RECOVERY_LIMIT"⟩, -- R487
  ⟨0x3A01, 0x04, 1, .u16, .ro, .nobody, true, 0x8000, "MRAM_SPARE_LINES"⟩, -- R487
  ⟨0x3A01, 0x05, 1, .u32, .ro, .nobody, true, 0, "CP_RESTARTS"⟩, -- R487
  ⟨0x3A10, 0x01, 1, .u64, .ro, .nobody, true, 0, "REFUSAL_DETAIL_FIELD"⟩, -- R59
  ⟨0x3A10, 0x03, 1, .u64, .ro, .nobody, true, 0, "REFUSAL_DETAIL_LINK"⟩] -- R59

/-- Object rows of indices 0x4000 to 0x40FF. -/
def objRows40 : List ObjRow := [
  ⟨0x4000, 0x01, 1, .u8, .ro, .nobody, true, 0, "STATE"⟩, -- R27
  ⟨0x4000, 0x02, 1, .u16, .ro, .nobody, true, 0, "GEN"⟩, -- R27
  ⟨0x4000, 0x03, 1, .u32, .wo, .integrator, true, 0, "STATE_REQUEST"⟩, -- R27
  ⟨0x4000, 0x04, 1, .u8, .ro, .nobody, true, 0, "REQUEST_RESULT"⟩, -- R27
  ⟨0x4001, 0x01, 1, .u8, .ro, .nobody, true, 0x80, "SLOT_COUNT"⟩, -- R27
  ⟨0x4001, 0x02, 1, .u16, .rw, .integrator, true, 0, "RING_SHARE"⟩, -- R27
  ⟨0x4001, 0x03, 1, .u32, .rw, .integrator, true, 0, "PAGE_FLOOR"⟩, -- R27
  ⟨0x4001, 0x04, 1, .u32, .rw, .integrator, true, 0, "PAGE_CEILING"⟩, -- R27
  ⟨0x4001, 0x05, 1, .u16, .rw, .integrator, true, 0, "CUT_QUOTA"⟩, -- R27
  ⟨0x4001, 0x06, 1, .u8, .rw, .integrator, true, 3, "LINK_BINDING"⟩, -- R27
  ⟨0x4001, 0x07, 1, .u32, .rw, .integrator, true, 0x80020bb8, "POWER_POLICY"⟩, -- R27
  ⟨0x4002, 0x01, 1, .u32, .rw, .integrator, true, 0, "WRITE_GUARANTEE"⟩, -- R27
  ⟨0x4002, 0x02, 1, .u32, .rw, .integrator, true, 0, "TAPE_READ_GUARANTEE"⟩, -- R27
  ⟨0x4002, 0x03, 1, .u32, .rw, .integrator, true, 0, "BUFFER_READ_GUARANTEE"⟩, -- R27
  ⟨0x4002, 0x04, 1, .u32, .ro, .nobody, true, 0, "EFFECTIVE_WRITE"⟩, -- R27
  ⟨0x4002, 0x05, 1, .u32, .ro, .nobody, true, 0, "EFFECTIVE_TAPE_READ"⟩, -- R27
  ⟨0x4002, 0x06, 1, .u32, .ro, .nobody, true, 0, "EFFECTIVE_BUFFER_READ"⟩, -- R27
  ⟨0x4003, 0x01, 1, .u16, .rw, .integrator, true, 0xffff, "LOG_ENABLE"⟩, -- R27
  ⟨0x4003, 0x02, 1, .u32, .rw, .integrator, true, 0x4000, "VOLUME_SIZE_0"⟩, -- R27
  ⟨0x4003, 0x03, 1, .u32, .rw, .integrator, true, 0, "VOLUME_SIZE_1"⟩, -- R27
  ⟨0x4003, 0x04, 1, .u32, .rw, .integrator, true, 0, "VOLUME_SIZE_2"⟩, -- R27
  ⟨0x4003, 0x05, 1, .u32, .rw, .integrator, true, 0, "VOLUME_SIZE_3"⟩, -- R27
  ⟨0x4003, 0x06, 1, .u16, .rw, .integrator, true, 0x200, "FIRST_STAGE_SIZE"⟩, -- R27
  ⟨0x4004, 0x01, 1, .u32, .ro, .nobody, true, 0, "CUTS_USED"⟩, -- R27
  ⟨0x4004, 0x02, 1, .u32, .ro, .nobody, true, 0, "CUTS_PLEDGED"⟩, -- R27
  ⟨0x4004, 0x03, 1, .u64, .ro, .nobody, true, 0, "PIN_MASK"⟩, -- R27
  ⟨0x4004, 0x05, 1, .u64, .ro, .nobody, true, 0, "ENERGY_UJ"⟩, -- R27
  ⟨0x4005, 0x01, 1, .u32, .ro, .nobody, true, 0, "QUEUE_STATUS"⟩, -- R176
  ⟨0x4005, 0x02, 1, .u32, .ro, .nobody, true, 0, "SLOT_REFUSALS"⟩, -- R176
  ⟨0x4005, 0x03, 1, .u32, .ro, .nobody, true, 0, "RING_WAITS_EXPIRED"⟩, -- R176
  ⟨0x4006, 0x01, 1, .u32, .ro, .nobody, true, 0, "PAGES_HELD"⟩, -- R207
  ⟨0x4006, 0x02, 1, .u32, .ro, .nobody, true, 0, "RING_LINES_USED"⟩, -- R207
  ⟨0x4006, 0x03, 1, .u16, .ro, .nobody, true, 0, "RECORDS_USED"⟩, -- R207
  ⟨0x4006, 0x04, 1, .u32, .ro, .nobody, true, 0, "PAGE_WAITS"⟩, -- R207
  ⟨0x4007, 0x01, 1, .u64, .rw, .domain, true, 0, "PIN_OUT"⟩, -- R465
  ⟨0x4007, 0x03, 1, .u64, .ro, .nobody, true, 0, "PIN_IN"⟩] -- R465

/-- Object rows of indices 0x6000 to 0x60FF. -/
def objRows60 : List ObjRow := [
  ⟨0x6000, 0x01, 1, .u8, .ro, .nobody, true, 0, "STATE"⟩, -- R55
  ⟨0x6000, 0x02, 1, .u16, .ro, .nobody, true, 0, "GEN"⟩, -- R55
  ⟨0x6001, 0x01, 1, .str, .ro, .nobody, false, 0, "ROM_IDENT"⟩, -- R413
  ⟨0x6001, 0x02, 1, .u32, .ro, .nobody, true, 0x3d8a51c6, "ROM_CRC32"⟩, -- R413
  ⟨0x6002, 0x01, 1, .oct, .ro, .nobody, false, 0, "PUBLIC_KEY"⟩, -- R413
  ⟨0x6002, 0x02, 1, .u64, .ro, .nobody, true, 0, "KEY_ID"⟩, -- R413
  ⟨0x6003, 0x01, 1, .u32, .ro, .nobody, true, 0, "EVENT_COUNTER"⟩, -- R413
  ⟨0x6003, 0x02, 1, .u64, .ro, .nobody, true, 0, "LAST_SEQ"⟩, -- R413
  ⟨0x6003, 0x04, 1, .u16, .ro, .nobody, true, 0, "UNCONFIRMED"⟩, -- R413
  ⟨0x6003, 0x05, 1, .u16, .ro, .nobody, true, 0, "AUDIT_USED"⟩, -- R413
  ⟨0x6003, 0x06, 1, .u64, .ro, .nobody, true, 0, "KILN_TIME"⟩, -- R413
  ⟨0x6003, 0x08, 1, .u32, .ro, .nobody, true, 0, "KILN_STATUS"⟩, -- R413
  ⟨0x6003, 0x09, 1, .u32, .ro, .nobody, true, 0, "GAPS"⟩, -- R413
  ⟨0x6004, 0x01, 1, .u8, .rw, .kiln, true, 0, "RXPDO_SOURCES"⟩, -- R413
  ⟨0x6004, 0x02, 1, .u8, .rw, .kiln, true, 0, "AUTHORIZED_DOMAINS"⟩, -- R413
  ⟨0x6004, 0x03, 1, .bool, .rw, .kiln, true, 1, "SELF_TEST_ALLOWED"⟩, -- R413
  ⟨0x6004, 0x04, 1, .u64, .wo, .kiln, true, 0, "SET_TIME"⟩, -- R413
  ⟨0x6005, 0x00, 1, .oct, .ro, .nobody, false, 0, "AUDIT_LOG"⟩, -- R413
  ⟨0x6010, 0x01, 8, .oct, .ro, .nobody, false, 0, "KILN_INPUT"⟩] -- R413

/-- Object rows of indices 0x7000 to 0x70FF. -/
def objRows70 : List ObjRow := [
  ⟨0x7001, 0x01, 1, .u32, .ro, .nobody, true, 0, "SELF_TEST_STATUS"⟩] -- R504

/-- The rows whose index has high byte `g`. -/
def objGroup (g : Nat) : List ObjRow :=
  match g with
  | 0x10 => objRows10
  | 0x16 => objRows16
  | 0x1A => objRows1A
  | 0x1C => objRows1C
  | 0x20 => objRows20
  | 0x21 => objRows21
  | 0x22 => objRows22
  | 0x24 => objRows24
  | 0x26 => objRows26
  | 0x28 => objRows28
  | 0x2A => objRows2A
  | 0x2C => objRows2C
  | 0x2E => objRows2E
  | 0x30 => objRows30
  | 0x31 => objRows31
  | 0x32 => objRows32
  | 0x34 => objRows34
  | 0x36 => objRows36
  | 0x38 => objRows38
  | 0x3A => objRows3A
  | 0x40 => objRows40
  | 0x60 => objRows60
  | 0x70 => objRows70
  | _ => []

/-- The object an index of a replicated block stands for: port B as port A, a loop slot as slot 0, MACH as CART,
zone tables of every wrap, the pin ports, the PDO mappings and the domain blocks (R533). -/
def canonIndex (i : Nat) : Nat :=
  if 0x2500 ≤ i ∧ i ≤ 0x2507 then i - 0x100
  else if 0x3000 ≤ i ∧ i ≤ 0x300F then 0x3000
  else if i = 0x3102 then 0x3101
  else if 0x2E80 ≤ i ∧ i ≤ 0x2EDF then 0x2E80
  else if 0x3801 ≤ i ∧ i ≤ 0x3805 then 0x3801
  else if 0x1600 ≤ i ∧ i ≤ 0x1607 then 0x1600
  else if 0x1A00 ≤ i ∧ i ≤ 0x1A07 then 0x1A00
  else if 0x4000 ≤ i ∧ i ≤ 0x47FF then 0x4000 + i % 0x100
  else i

/-- An index as one domain's block numbers it; the domain is `(i - 0x4000) / 0x100` (R533). -/
def indexDomain (i : Nat) : Option Dom :=
  if h : 0x4000 ≤ i ∧ i ≤ 0x47FF then some ⟨(i - 0x4000) / 0x100, by omega⟩ else none

/-- The rows of an index. -/
def rowsOf (i : Nat) : List ObjRow :=
  (objGroup (canonIndex i / 0x100)).filter (fun r => r.index == canonIndex i)

/-- The count object of subindex 0x00 (R46); the mapping and assignment counts are RW (R66). -/
def countRow (i : Nat) (hi : Nat) : ObjRow :=
  if canonIndex i = 0x1600 ∨ canonIndex i = 0x1A00 ∨ i = 0x1C12 ∨ i = 0x1C13 then
    ⟨canonIndex i, 0, 1, .u8, .rw, .integrator, false, 0, "COUNT"⟩
  else ⟨canonIndex i, 0, 1, .u8, .ro, .nobody, (rowsOf i).any (·.mapped), hi, "COUNT"⟩

/-- The highest subindex present at an index. -/
def highestSub (i : Nat) : Nat :=
  (rowsOf i).foldl (fun m r => max m (r.sub + r.count - 1)) 0

/-- The row of an object, the count objects of R46 included; none where the index or subindex is absent. -/
def findObj (i s : Nat) : Option ObjRow :=
  match (rowsOf i).find? (fun r => r.sub ≤ s && s < r.sub + r.count) with
  | some r => some r
  | none => if s = 0 ∧ rowsOf i ≠ [] then some (countRow i (highestSub i)) else none

/-- Whether an index is present (R531). -/
def indexPresent (i : Nat) : Bool := (rowsOf i) ≠ []

/-- The key an object's value is stored under. -/
def objKey (i s : Nat) : Nat := i * 0x100 + s

/-- Window address of an object (R60, R532). -/
def windowAddr (i s : Nat) : Nat := i * 0x400 + s * 4

/-- Index and subindex a window address decodes to (R532). -/
def windowIndex (a : Nat) : Nat := a / 0x400
/-- Subindex a window address decodes to (R532). -/
def windowSub (a : Nat) : Nat := a % 0x400 / 4

/-- The first window address past the end of the register window (R532). -/
def windowEnd : Nat := 0x02000000

/-- Q16.16 of a decimal given in ten-thousandths, rounded to nearest (R309). -/
def q16 (tenThousandths : Int) : Int := (tenThousandths * 65536 + 5000) / 10000

/-- A Q16.16 value as the 32 bits of an INTEGER32. -/
def q16bits (tenThousandths : Int) : Nat := toBits 32 (q16 tenThousandths)

/-- Default KP, KI, UMIN, UMAX of a loop slot, in ten-thousandths (R309). -/
def slotDefaults (n : Nat) : Int × Int × Int × Int :=
  match n with
  | 0 | 1 | 2 | 3 => (20000, 800, -90000, 90000)
  | 4 => (120000, 500, -60000, 60000)
  | 5 => (80000, 200, -60000, 60000)
  | 6 => (-60000, -400, -60000, 60000)
  | 7 => (100000, 200, -60000, 60000)
  | 8 => (6000, 100, -8000, 8000)
  | 9 => (40000, 2000, -50000, 50000)
  | 10 => (500, 50, 0, 9500)
  | 11 => (5000, 20, 0, 20000)
  | 12 => (-40000, -200, -60000, 0)
  | _ => (0, 0, 0, 0)

/-- Constant defaults of a loop slot's objects (R309, R327). -/
def slotDefault (n s : Nat) : Nat :=
  match s with
  | 1 => q16bits (slotDefaults n).1
  | 2 => q16bits (slotDefaults n).2.1
  | 5 => q16bits (slotDefaults n).2.2.1
  | 6 => q16bits (slotDefaults n).2.2.2
  | 7 => if 4 ≤ n ∧ n ≤ 7 then 3 else if n ≤ 12 then 1 else 0
  | _ => 0

/-- Constant defaults of AIN_SCALE_n (R328). -/
def ainScaleDefault (n : Nat) : Nat :=
  match n with
  | 0 | 1 | 2 | 6 | 7 | 8 => 0x100
  | 3 | 9 => 0x140
  | 12 | 13 | 18 => 0x40
  | _ => 0

/-- FUNCTION of pin n of port p in the map without an image (R464). -/
def pinMapFunction (p n : Nat) : Nat :=
  match p, n with
  | 0, 0 => 0x00 | 0, 1 => 0x01 | 0, 2 => 0x02 | 0, 3 => 0x03
  | 0, 4 => 0x0C | 0, 5 => 0x0D | 0, 6 => 0x0E | 0, 7 => 0x12
  | 1, 0 => 0x04 | 1, 1 => 0x05 | 1, 2 => 0x08 | 1, 3 => 0x09
  | 1, 4 => 0x0A | 1, 5 => 0x0B | 1, 6 => 0x0F | 1, 7 => 0x17
  | _, _ => 0x7E

/-- PIN_CONFIG without an image: the pin map, DRIVE 0b01, PULL 0b01 and SCHMITT 1 (R454, R464). -/
def pinConfigDefault (p n : Nat) : Nat := pinMapFunction p n * 0x1000000 + 0x45000

/-- The value an object takes from its constant default, or where its default is strap, fuse or image and none of
these gives a value (R48, R49, R464). -/
def objDefault (k : Nat) : Nat :=
  let i := k / 0x100
  let s := k % 0x100
  if 0x3000 ≤ i ∧ i ≤ 0x300F ∧ 1 ≤ s then slotDefault (i - 0x3000) s
  else if i = 0x3201 ∧ 1 ≤ s then (match s with | 1 | 2 => 0x40 | 3 => 0x20 | 4 => 0x10 | _ => 0)
  else if i = 0x3202 ∧ 1 ≤ s then (match s with | 1 | 2 => 0x688 | 3 => 0x008 | _ => 0)
  else if i = 0x3204 ∧ 1 ≤ s then ainScaleDefault (s - 1)
  else if 0x3801 ≤ i ∧ i ≤ 0x3805 ∧ 1 ≤ s ∧ s ≤ 8 then pinConfigDefault (i - 0x3801) (s - 1)
  else if i = 0x3806 ∧ 1 ≤ s ∧ s ≤ 8 then 0xE0000000
  else if i = 0x1C00 ∧ 1 ≤ s ∧ s ≤ 4 then s
  else match findObj i s with
    | some r => r.default
    | none => 0

/-- Width in bits of the object under a key. -/
def objWidth (k : Nat) : Nat :=
  match findObj (k / 0x100) (k % 0x100) with
  | some r => r.type.width
  | none => 0

/-- Whether an RxPDO with number `n` may map the object (R537). -/
def rxMappable (n i s : Nat) : Bool :=
  (i == 0x3808 && s == 1) || (canonIndex i == 0x4007 && s == 1) || (i == 0x6010 && s == n + 1)

/-- Whether a TxPDO may map the object (R537). -/
def txMappable (i s : Nat) : Bool :=
  (i == 0x2130 && s == 1) || (i == 0x2160 && (s == 1 || s == 7)) || (i == 0x3100 && s == 5)
    || (canonIndex i == 0x3101 && s == 2) || (i == 0x3401 && (s == 9 || s == 0xA)) || (i == 0x3402 && s == 1)
    || (i == 0x3808 && (s == 3 || s == 4)) || (i == 0x3A00 && s == 1)
    || (canonIndex i == 0x4004 && s == 5) || (canonIndex i == 0x4005 && s == 1) || (canonIndex i == 0x4007 && s == 3)

/-- The objects kept through every reset that reloads the dictionary (R536), GEN of every unit among them. -/
def keptThroughReset (k : Nat) : Bool :=
  let i := k / 0x100
  let s := k % 0x100
  (s == 2 && (canonIndex i == 0x2400 || i == 0x2C00 || i == 0x3400 || canonIndex i == 0x4000))
    || (i == 0x2130 && s == 3) || i == 0x2150 || (i == 0x2160 && s != 0xB) || (i == 0x2800 && s == 5)
    || (i == 0x2C05 && s == 4) || i == 0x2E10 || (i == 0x3601 && s <= 4) || (i == 0x3A01 && (s == 4 || s == 5))
    || (canonIndex i == 0x4004 && s == 5) || i == 0x6000 || i == 0x6003

/-- The reserved bits of an object, which a write must leave zero (R8). Bits that the spec neither names nor marks reserved
(MOTOR_POLARITY 7:2, INJECT_TARGET 7:5, CAPTURE_CLOCK 6:4) are accepted and kept: the model's choice (DESIGN CHOICE, log
entry 139). -/
def reservedBits (i s : Nat) : Nat :=
  match canonIndex i, s with
  | 0x2180, 3 => 0xFC
  | 0x4001, 6 => 0xFC
  | 0x4001, 7 => 0x7FFC0000
  | 0x4000, 3 | 0x2400, 3 | 0x2C00, 3 | 0x3400, 3 => 0xFF000000
  | 0x2405, _ => 0x7E00
  | 0x3000, 7 => 0xF8
  | 0x3100, 3 => 0xFC
  | 0x3201, _ => 0xF
  | 0x3202, _ => 0xFFFC0000
  | 0x3600, 1 => 0xFC
  | 0x3800, 3 => 0xFFFFFF0000000000
  | 0x4007, 1 => 0xFFFFFF0000000000
  | 0x3801, _ => 0x3FF
  | 0x3806, _ => 0x7F0000
  | _, _ => 0

/-- The own range of a writable object, given the value its type reads it as (R540, step 8).
Each line follows the rule of the object's chapter. LINK_BINDING without a port is out of range in every state of the domain:
R27 refuses it as R23 states, and R539's lower ends do not count it out (DEDUCED, log entry 138). -/
def inOwnRange (i s : Nat) (v : Int) : Bool :=
  let between (lo hi : Int) : Bool := lo ≤ v && v ≤ hi
  let n := v.toNat
  match canonIndex i, s with
  | 0x2110, 2 => between 0 5
  | 0x2140, 2 => between 0 2
  | 0x2160, 0xB => v == 1
  | 0x2180, 3 => n % 4 != 0
  | 0x2200, 3 => v == 0x0A5C
  | 0x2201, 4 => v == 1
  | 0x2401, 1 => between 0 2
  | 0x2401, 2 => v == 1 || v == 2 || v == 4
  | 0x2401, 5 => between 0 7
  | 0x2405, _ => fieldOf n 5 4 ≤ 8 && fieldOf n 0 5 ≤ 24
  | 0x2480, 3 => between 0 1
  | 0x2600, 1 => between 10 10000
  | 0x2680, 1 => between 0 7
  | 0x2805, 1 => between 100 1000000
  | 0x2A00, 2 => between 10 10000
  | 0x2C03, 1 => between 1 6
  | 0x2C03, 2 => between 16 768
  | 0x2C05, 4 => v == 0
  | 0x2E00, 1 => between 1 6
  | 0x2E00, 2 => between 1 16
  | 0x2E00, 3 => between 6 32
  | 0x2E00, 4 => between 0 6
  | 0x2E00, 5 => between 256 8192
  | 0x2E00, 6 => between 10 64
  | 0x2E03, 1 => v == 1
  | 0x3000, 7 => !(13 ≤ i - 0x3000 && n % 2 == 1)
  | 0x3010, 2 => between 0 3
  | 0x3010, 4 => v != 0
  | 0x3011, 1 => [0, 8, 16, 24].all (fun b => fieldOf n b 8 < 0x40 || fieldOf n b 8 == 0xFF)
  | 0x3011, 3 => between 1 256
  | 0x3011, 4 => between 1 2
  | 0x3100, 1 => between 0 15
  | 0x3100, 2 => between 1000 1000000
  | 0x3100, 8 => between (q16 50) (q16 2000)
  | 0x3100, 0xB => between (q16 500) (q16 10000)
  | 0x3200, 1 => between 2 127
  | 0x3200, 2 => between 10 255
  | 0x3200, 3 => fieldOf n 4 4 != 0 && fieldOf n 0 4 != 0
  | 0x3201, _ => fieldOf n 20 12 ≤ 2499 && fieldOf n 8 12 ≤ 2499 && fieldOf n 4 3 ≤ 6
      && fieldOf n 20 12 + 20 * fieldOf n 4 3 + 400 ≤ 2500
  | 0x3202, _ => [0, 3, 6, 9, 12, 15].all (fun b => fieldOf n b 3 ≤ 5)
  | 0x3401, 6 => between (q16 10000) (q16 100000)
  | 0x3401, 8 => between (q16 (-50000)) (q16 50000)
  | 0x3402, 2 => between 0 15
  | 0x3402, 3 => between 100 5000
  | 0x3402, 6 => between 1000 600000
  | 0x3402, 7 => between 200 30000
  | 0x3403, 2 => between 4 64
  | 0x3403, 5 => between 10 3600
  | 0x3404, 2 => between 24 8760
  | 0x3405, 1 => between 1 720
  | 0x3600, 1 => v != 0
  | 0x3600, 2 => between 400 1200
  | 0x3600, 3 => between (q16 100000) (q16 155000)
  | 0x3600, 4 => q16 100000 ≤ v
  | 0x3601, 5 => v == 1
  | 0x3801, _ => (fieldOf n 24 8 ≤ 0x5F || fieldOf n 24 8 == 0x7E || fieldOf n 24 8 == 0x7F) && fieldOf n 20 4 ≤ 9
  | 0x3806, _ => fieldOf n 29 3 != 5 && fieldOf n 29 3 != 6
  | 0x3A01, 3 => between 1 10
  | 0x4001, 2 => between 0 160
  | 0x4001, 5 => between 0 1024
  | 0x4001, 6 => n % 4 != 0
  | 0x4001, 7 => fieldOf n 16 2 != 3
  | 0x4003, 2 => between 0 16384
  | 0x4003, 6 => between 0 512
  | _, _ => true

/-- The lower end of a configured domain's resource range, judged at once while the domain is configured (R23, R539). -/
def domainRangeLow (i s : Nat) (v : Int) : Bool :=
  match canonIndex i, s with
  | 0x4001, 2 => 4 ≤ v
  | 0x4001, 3 => 64 ≤ v
  | 0x4001, 5 => 1 ≤ v
  | _, _ => true

namespace Obj
/-- DEVICE_TYPE (R66). -/
def deviceType : Nat := objKey 0x1000 0
/-- ERROR_REGISTER (R66). -/
def errorRegister : Nat := objKey 0x1001 0
/-- DEVICE_NAME (R66). -/
def deviceName : Nat := objKey 0x1008 0
/-- HARDWARE_VERSION (R66). -/
def hardwareVersion : Nat := objKey 0x1009 0
/-- SOFTWARE_VERSION (R66). -/
def softwareVersion : Nat := objKey 0x100A 0
/-- VENDOR_ID (R66). -/
def vendorId : Nat := objKey 0x1018 1
/-- PRODUCT_CODE (R66). -/
def productCode : Nat := objKey 0x1018 2
/-- REVISION_NUMBER (R66). -/
def revisionNumber : Nat := objKey 0x1018 3
/-- SERIAL_NUMBER (R66). -/
def serialNumber : Nat := objKey 0x1018 4
/-- SM_COMM_TYPE (R66). -/
def smCommType (n : Nat) : Nat := objKey 0x1C00 (1 + n)
/-- RXPDO_ASSIGN (R66). -/
def rxpdoAssign (n : Nat) : Nat := objKey 0x1C12 (1 + n)
/-- TXPDO_ASSIGN (R66). -/
def txpdoAssign (n : Nat) : Nat := objKey 0x1C13 (1 + n)
/-- SM_OUTPUT_PARAMETERS (R66). -/
def smOutputParameters : Nat := objKey 0x1C32 1
/-- SM_INPUT_PARAMETERS (R66). -/
def smInputParameters : Nat := objKey 0x1C33 1
/-- PART_CODE (R2). -/
def partCode : Nat := objKey 0x2000 1
/-- REVISION_CODE (R2). -/
def revisionCode : Nat := objKey 0x2000 2
/-- STRAPS (R504). -/
def straps : Nat := objKey 0x2000 3
/-- UNIQUE_ID_LOW (R424). -/
def uniqueIdLow : Nat := objKey 0x2000 4
/-- UNIQUE_ID_HIGH (R424). -/
def uniqueIdHigh : Nat := objKey 0x2000 6
/-- FUSE_OPTIONS (R424). -/
def fuseOptions : Nat := objKey 0x2000 8
/-- IMAGE_KEY_HASH (R424). -/
def imageKeyHash : Nat := objKey 0x2000 9
/-- FUSE_STATUS (R424). -/
def fuseStatus : Nat := objKey 0x2000 10
/-- LINK_CLOCK_MODE (R80). -/
def linkClockMode : Nat := objKey 0x2110 1
/-- SPREAD_DECLARED (R80). -/
def spreadDeclared : Nat := objKey 0x2110 2
/-- SUPPLY_STATUS (R421). -/
def supplyStatus : Nat := objKey 0x2120 1
/-- VCORE_MV (R421). -/
def vcoreMv : Nat := objKey 0x2120 2
/-- VMRAM_MV (R421). -/
def vmramMv : Nat := objKey 0x2120 3
/-- TJ_C (R512). -/
def tjC : Nat := objKey 0x2130 1
/-- TJ_MAX_C (R512). -/
def tjMaxC : Nat := objKey 0x2130 2
/-- THERMAL_TRIPS (R512). -/
def thermalTrips : Nat := objKey 0x2130 3
/-- POWER_STATE (R184). -/
def powerState : Nat := objKey 0x2140 1
/-- DEVICE_VOTE (R184). -/
def deviceVote : Nat := objKey 0x2140 2
/-- TIME_P0_MS (R441). -/
def timeP0Ms : Nat := objKey 0x2150 1
/-- TIME_P1_MS (R441). -/
def timeP1Ms : Nat := objKey 0x2150 3
/-- TIME_P2_MS (R441). -/
def timeP2Ms : Nat := objKey 0x2150 5
/-- LAST_SHELF_S (R441). -/
def lastShelfS : Nat := objKey 0x2150 7
/-- P2_ENTRIES (R441). -/
def p2Entries : Nat := objKey 0x2150 8
/-- TOTAL_ENERGY_UJ (R446). -/
def totalEnergyUj : Nat := objKey 0x2160 1
/-- CONVERTER_ENERGY_UJ (R446). -/
def converterEnergyUj : Nat := objKey 0x2160 3
/-- TRANSPORT_ENERGY_UJ (R446). -/
def transportEnergyUj : Nat := objKey 0x2160 5
/-- DEVICE_ENERGY_UJ (R446). -/
def deviceEnergyUj : Nat := objKey 0x2160 7
/-- COMMITTED_BYTES (R446). -/
def committedBytes : Nat := objKey 0x2160 9
/-- ENERGY_CLEAR (R446). -/
def energyClear : Nat := objKey 0x2160 11
/-- ECAT_STATE (R76). -/
def ecatState : Nat := objKey 0x2180 1
/-- ECAT_AL_STATUS_CODE (R76). -/
def ecatAlStatusCode : Nat := objKey 0x2180 2
/-- WRITE_PATHS (R76). -/
def writePaths : Nat := objKey 0x2180 3
/-- STARTUP_STATUS (R423). -/
def startupStatus : Nat := objKey 0x2200 1
/-- RESET_CAUSE (R423). -/
def resetCause : Nat := objKey 0x2200 2
/-- RESET_REQUEST (R423). -/
def resetRequest : Nat := objKey 0x2200 3
/-- ACTIVE_SLOT (R431). -/
def activeSlot : Nat := objKey 0x2201 1
/-- SLOT_A_STATUS (R431). -/
def slotAStatus : Nat := objKey 0x2201 2
/-- SLOT_B_STATUS (R431). -/
def slotBStatus : Nat := objKey 0x2201 3
/-- IMAGE_ACTIVATE (R431). -/
def imageActivate : Nat := objKey 0x2201 4
/-- LAST_REFUSAL (R431). -/
def lastRefusal : Nat := objKey 0x2201 5
/-- IMAGE_PUSH_OFFSET (R431). -/
def imagePushOffset : Nat := objKey 0x2202 1
/-- IMAGE_PUSH_DATA (R431). -/
def imagePushData : Nat := objKey 0x2202 2
/-- IMAGE_PUSH_COMMIT (R431). -/
def imagePushCommit : Nat := objKey 0x2202 3
/-- LANE_RATE (R101). -/
def laneRate (p : PortId) : Nat := objKey (p.index 0x2401) 1
/-- CONFIGURED_WIDTH (R101). -/
def configuredWidth (p : PortId) : Nat := objKey (p.index 0x2401) 2
/-- CURRENT_WIDTH (R101). -/
def currentWidth (p : PortId) : Nat := objKey (p.index 0x2401) 3
/-- LANE_MAP (R101). -/
def laneMap (p : PortId) : Nat := objKey (p.index 0x2401) 4
/-- EQ_TABLE (R101). -/
def eqTable (p : PortId) : Nat := objKey (p.index 0x2401) 5
/-- ACCEPT_TAP_REQUESTS (R101). -/
def acceptTapRequests (p : PortId) : Nat := objKey (p.index 0x2401) 6
/-- AUTO_ENABLE (R101). -/
def autoEnable (p : PortId) : Nat := objKey (p.index 0x2401) 7
/-- LANE_STATUS (R101). -/
def laneStatus (p : PortId) (n : Nat) : Nat := objKey (p.index 0x2402) (1 + n)
/-- LANE_TAPS (R101). -/
def laneTaps (p : PortId) (n : Nat) : Nat := objKey (p.index 0x2403) (1 + n)
/-- LANE_COUNTS (R101). -/
def laneCounts (p : PortId) (n : Nat) : Nat := objKey (p.index 0x2404) (1 + n)
/-- PARTNER_TAP_REQUEST (R101). -/
def partnerTapRequest (p : PortId) (n : Nat) : Nat := objKey (p.index 0x2405) (1 + n)
/-- FRAME_CRC_ERRORS (R127). -/
def frameCrcErrors (p : PortId) : Nat := objKey (p.index 0x2406) 1
/-- NAKS_SENT (R127). -/
def naksSent (p : PortId) : Nat := objKey (p.index 0x2406) 2
/-- REPLAYS (R127). -/
def linkReplays (p : PortId) : Nat := objKey (p.index 0x2406) 3
/-- STOMPED_FRAMES (R127). -/
def stompedFrames (p : PortId) : Nat := objKey (p.index 0x2406) 4
/-- PROTOCOL_ERRORS (R127). -/
def protocolErrors (p : PortId) : Nat := objKey (p.index 0x2406) 5
/-- UNROUTABLE_FRAMES (R127). -/
def unroutableFrames (p : PortId) : Nat := objKey (p.index 0x2406) 6
/-- RX_CREDIT_CMD (R127). -/
def rxCreditCmd (p : PortId) : Nat := objKey (p.index 0x2407) 1
/-- RX_CREDIT_ADMIN (R127). -/
def rxCreditAdmin (p : PortId) : Nat := objKey (p.index 0x2407) 2
/-- RX_CREDIT_DATA (R127). -/
def rxCreditData (p : PortId) : Nat := objKey (p.index 0x2407) 3
/-- RX_CREDIT_RESP (R127). -/
def rxCreditResp (p : PortId) : Nat := objKey (p.index 0x2407) 4
/-- NODE_ID (R127). -/
def nodeId : Nat := objKey 0x2480 1
/-- NODE_ID_VALID (R127). -/
def nodeIdValid : Nat := objKey 0x2480 2
/-- PORT_B_ROLE (R127). -/
def portBRole : Nat := objKey 0x2480 3
/-- RING_WAIT_LIMIT (R176). -/
def ringWaitLimit : Nat := objKey 0x2600 1
/-- ADMIN_DOMAIN (R28). -/
def adminDomain : Nat := objKey 0x2680 1
/-- CONFIGURED_MASK (R28). -/
def configuredMask : Nat := objKey 0x2680 2
/-- ONLINE_MASK (R28). -/
def onlineMask : Nat := objKey 0x2680 3
/-- GUARANTEE_SCALE (R28). -/
def guaranteeScale : Nat := objKey 0x2680 4
/-- BUDGET_DRAM (R28). -/
def budgetDram : Nat := objKey 0x2680 5
/-- BUDGET_TAPE (R28). -/
def budgetTape : Nat := objKey 0x2680 6
/-- BUDGET_LINK_A (R28). -/
def budgetLinkA : Nat := objKey 0x2680 7
/-- BUDGET_LINK_B (R28). -/
def budgetLinkB : Nat := objKey 0x2680 8
/-- LIMITING_BUDGET (R28). -/
def limitingBudget : Nat := objKey 0x2680 9
/-- DRAM_SIZE_MIB (R207). -/
def dramSizeMib : Nat := objKey 0x2800 1
/-- DRAM_RANKS (R207). -/
def dramRanks : Nat := objKey 0x2800 2
/-- DOMAIN_PAGE_POOL (R207). -/
def domainPagePool : Nat := objKey 0x2800 3
/-- COMMON_FREE_PAGES (R207). -/
def commonFreePages : Nat := objKey 0x2800 4
/-- RETIRED_PAGES (R207). -/
def retiredPages : Nat := objKey 0x2800 5
/-- REFRESH_DOUBLED (R207). -/
def refreshDoubled : Nat := objKey 0x2800 6
/-- ECC_CORRECTED (R207). -/
def eccCorrected : Nat := objKey 0x2801 1
/-- ECC_UNCORRECTABLE (R207). -/
def eccUncorrectable : Nat := objKey 0x2801 2
/-- ECC_LAST_LINE (R207). -/
def eccLastLine : Nat := objKey 0x2801 3
/-- COMMON_WAITERS (R207). -/
def commonWaiters : Nat := objKey 0x2802 1
/-- CEILING_WAITERS (R207). -/
def ceilingWaiters : Nat := objKey 0x2802 2
/-- RING_FREE_UNITS (R207). -/
def ringFreeUnits : Nat := objKey 0x2803 1
/-- RECORDS_FREE (R207). -/
def recordsFree : Nat := objKey 0x2803 2
/-- ARBITER_MAX_WAIT (R207). -/
def arbiterMaxWait (n : Nat) : Nat := objKey 0x2804 (1 + n)
/-- STARVATION_REPORT_US (R207). -/
def starvationReportUs : Nat := objKey 0x2805 1
/-- ARBITER_OWNER (R207). -/
def arbiterOwner : Nat := objKey 0x2805 2
/-- COMPRESSION_ENABLE (R227). -/
def compressionEnable : Nat := objKey 0x2A00 1
/-- BLOCK_GATHER_US (R227). -/
def blockGatherUs : Nat := objKey 0x2A00 2
/-- ENGINE_STATUS (R227). -/
def engineStatus : Nat := objKey 0x2A00 3
/-- BYTES_IN (R227). -/
def bytesIn : Nat := objKey 0x2A01 1
/-- BYTES_OUT (R227). -/
def bytesOut : Nat := objKey 0x2A01 3
/-- STORED_BLOCKS (R227). -/
def storedBlocks : Nat := objKey 0x2A01 5
/-- NOT_SMALLER_SECTORS (R227). -/
def notSmallerSectors : Nat := objKey 0x2A01 6
/-- COMPRESS_CHECK_FAILURES_0 (R227). -/
def compressCheckFailures0 : Nat := objKey 0x2A02 1
/-- COMPRESS_CHECK_FAILURES_1 (R227). -/
def compressCheckFailures1 : Nat := objKey 0x2A02 2
/-- DECOMPRESS_FAILURES (R227). -/
def decompressFailures : Nat := objKey 0x2A02 3
/-- LAST_FAILURE (R227). -/
def lastFailure : Nat := objKey 0x2A02 4
/-- AUTO_LOAD (R163). -/
def autoLoad : Nat := objKey 0x2C01 1
/-- LOAD_COUNT (R163). -/
def loadCount : Nat := objKey 0x2C01 2
/-- FORMAT_PROGRESS (R163). -/
def formatProgress : Nat := objKey 0x2C01 3
/-- FORMAT_GEN (R261). -/
def formatGen : Nat := objKey 0x2C02 1
/-- CARTRIDGE_ID_LOW (R261). -/
def cartridgeIdLow : Nat := objKey 0x2C02 2
/-- CARTRIDGE_ID_HIGH (R261). -/
def cartridgeIdHigh : Nat := objKey 0x2C02 4
/-- DATA_CUTS (R261). -/
def dataCuts : Nat := objKey 0x2C02 6
/-- SPARE_CUTS_LEFT (R261). -/
def spareCutsLeft : Nat := objKey 0x2C02 7
/-- NEXT_SERIAL (R261). -/
def nextSerial : Nat := objKey 0x2C02 8
/-- ABANDONED_CUTS (R261). -/
def abandonedCuts : Nat := objKey 0x2C02 9
/-- KILN_CUTS_FREE (R261). -/
def kilnCutsFree : Nat := objKey 0x2C02 10
/-- VERIFY_ITERATIONS (R277). -/
def verifyIterations : Nat := objKey 0x2C03 1
/-- VERIFY_BIT_LIMIT (R277). -/
def verifyBitLimit : Nat := objKey 0x2C03 2
/-- FRAME_SETS_WRITTEN (R277). -/
def frameSetsWritten : Nat := objKey 0x2C03 3
/-- FRAME_SETS_REWRITTEN (R277). -/
def frameSetsRewritten : Nat := objKey 0x2C03 5
/-- TRAILING_WINDOWS (R277). -/
def trailingWindows : Nat := objKey 0x2C03 6
/-- LAST_MISS_REASON (R277). -/
def lastMissReason : Nat := objKey 0x2C03 7
/-- CONSECUTIVE_ABANDONS (R277). -/
def consecutiveAbandons : Nat := objKey 0x2C03 8
/-- C1_FAILED_CODEWORDS (R277). -/
def c1FailedCodewords : Nat := objKey 0x2C04 1
/-- C2_CORRECTED_POSITIONS (R277). -/
def c2CorrectedPositions : Nat := objKey 0x2C04 2
/-- C2_FAILED_POSITIONS (R277). -/
def c2FailedPositions : Nat := objKey 0x2C04 3
/-- C3_CORRECTED_POSITIONS (R277). -/
def c3CorrectedPositions : Nat := objKey 0x2C04 4
/-- C3_FAILED_POSITIONS (R277). -/
def c3FailedPositions : Nat := objKey 0x2C04 5
/-- MAX_WRAP_EIGHTHS (R282). -/
def maxWrapEighths : Nat := objKey 0x2C05 1
/-- WORN_WRAPS (R282). -/
def wornWraps : Nat := objKey 0x2C05 2
/-- WRAP_REFUSALS (R282). -/
def wrapRefusals : Nat := objKey 0x2C05 3
/-- HEAD_LOADS (R282). -/
def headLoads : Nat := objKey 0x2C05 4
/-- READ_ITERATIONS (R307). -/
def readIterations : Nat := objKey 0x2E00 1
/-- LOCAL_ITERATIONS (R307). -/
def localIterations : Nat := objKey 0x2E00 2
/-- EXTENDED_ITERATIONS (R307). -/
def extendedIterations : Nat := objKey 0x2E00 3
/-- REREAD_LIMIT (R307). -/
def rereadLimit : Nat := objKey 0x2E00 4
/-- HOLDOVER_BITS (R307). -/
def holdoverBits : Nat := objKey 0x2E00 5
/-- WRITE_INHIBIT_LIMIT (R307). -/
def writeInhibitLimit : Nat := objKey 0x2E00 6
/-- CHANNEL_STATUS (R307). -/
def channelStatus : Nat := objKey 0x2E01 1
/-- HOLDOVERS (R307). -/
def holdovers : Nat := objKey 0x2E01 2
/-- HOLDOVER_OVERRUNS (R307). -/
def holdoverOverruns : Nat := objKey 0x2E01 3
/-- LADDER_ENTRIES (R307). -/
def ladderEntries : Nat := objKey 0x2E01 4
/-- LADDER_RECOVERED (R307). -/
def ladderRecovered : Nat := objKey 0x2E01 5
/-- LADDER_FAILED (R307). -/
def ladderFailed : Nat := objKey 0x2E01 6
/-- REALLOCATIONS_PENDING (R307). -/
def reallocationsPending : Nat := objKey 0x2E01 7
/-- WRITE_INHIBITS (R307). -/
def writeInhibits : Nat := objKey 0x2E01 8
/-- SERVO_STATUS (R307). -/
def servoStatus : Nat := objKey 0x2E02 1
/-- WRAP_CORRECTIONS (R307). -/
def wrapCorrections : Nat := objKey 0x2E02 2
/-- CALIBRATE (R307). -/
def calibrate : Nat := objKey 0x2E03 1
/-- ELEMENT_TRIM (R307). -/
def elementTrim (n : Nat) : Nat := objKey 0x2E10 (1 + n)
/-- ZONE (R307). -/
def zone (w z : Nat) : Nat := objKey (0x2E80 + w) (1 + z)
/-- KP (R327). -/
def slotKp (n : Nat) : Nat := objKey (0x3000 + n) 1
/-- KI (R327). -/
def slotKi (n : Nat) : Nat := objKey (0x3000 + n) 2
/-- KD (R327). -/
def slotKd (n : Nat) : Nat := objKey (0x3000 + n) 3
/-- KFF (R327). -/
def slotKff (n : Nat) : Nat := objKey (0x3000 + n) 4
/-- UMIN (R327). -/
def slotUmin (n : Nat) : Nat := objKey (0x3000 + n) 5
/-- UMAX (R327). -/
def slotUmax (n : Nat) : Nat := objKey (0x3000 + n) 6
/-- CONTROL (R327). -/
def slotControl (n : Nat) : Nat := objKey (0x3000 + n) 7
/-- STATUS (R327). -/
def slotStatus (n : Nat) : Nat := objKey (0x3000 + n) 8
/-- REFERENCE (R327). -/
def slotReference (n : Nat) : Nat := objKey (0x3000 + n) 9
/-- FEEDBACK (R327). -/
def slotFeedback (n : Nat) : Nat := objKey (0x3000 + n) 10
/-- OUTPUT (R327). -/
def slotOutput (n : Nat) : Nat := objKey (0x3000 + n) 11
/-- INTEGRATOR (R327). -/
def slotIntegrator (n : Nat) : Nat := objKey (0x3000 + n) 12
/-- INJECT_TARGET (R328). -/
def injectTarget : Nat := objKey 0x3010 1
/-- INJECT_WAVEFORM (R328). -/
def injectWaveform : Nat := objKey 0x3010 2
/-- INJECT_AMPLITUDE (R328). -/
def injectAmplitude : Nat := objKey 0x3010 3
/-- INJECT_PERIOD (R328). -/
def injectPeriod : Nat := objKey 0x3010 4
/-- CAPTURE_SOURCES (R328). -/
def captureSources : Nat := objKey 0x3011 1
/-- CAPTURE_CLOCK (R328). -/
def captureClock : Nat := objKey 0x3011 2
/-- CAPTURE_DECIMATION (R328). -/
def captureDecimation : Nat := objKey 0x3011 3
/-- CAPTURE_CONTROL (R328). -/
def captureControl : Nat := objKey 0x3011 4
/-- CAPTURE_STATUS (R328). -/
def captureStatus : Nat := objKey 0x3011 5
/-- CAPTURE_DATA (R328). -/
def captureData : Nat := objKey 0x3012 0
/-- FILTER_LENGTH (R340). -/
def filterLength : Nat := objKey 0x3100 1
/-- STANDSTILL_TIME_US (R340). -/
def standstillTimeUs : Nat := objKey 0x3100 2
/-- ENCODER_POLARITY (R340). -/
def encoderPolarity : Nat := objKey 0x3100 3
/-- SPEED_SOURCE (R340). -/
def speedSource : Nat := objKey 0x3100 4
/-- TAPE_SPEED (R340). -/
def tapeSpeed : Nat := objKey 0x3100 5
/-- TAPE_SPEED_ENCODER (R340). -/
def tapeSpeedEncoder : Nat := objKey 0x3100 6
/-- TAPE_SPEED_SERVO (R340). -/
def tapeSpeedServo : Nat := objKey 0x3100 7
/-- SPEED_CHECK_TOLERANCE (R340). -/
def speedCheckTolerance : Nat := objKey 0x3100 8
/-- SPEED_MISMATCHES (R340). -/
def speedMismatches : Nat := objKey 0x3100 9
/-- TORQUE_CONSTANT (R340). -/
def torqueConstant : Nat := objKey 0x3100 10
/-- TENSION_CHECK_TOLERANCE (R340). -/
def tensionCheckTolerance : Nat := objKey 0x3100 11
/-- TENSION_MISMATCHES (R340). -/
def tensionMismatches : Nat := objKey 0x3100 12
/-- COUNT (R340). -/
def encCount (n : Nat) : Nat := objKey (0x3101 + n) 1
/-- SPEED (R340). -/
def encSpeed (n : Nat) : Nat := objKey (0x3101 + n) 2
/-- ENCODER_STATUS (R340). -/
def encoderStatus (n : Nat) : Nat := objKey (0x3101 + n) 3
/-- ILLEGAL_TRANSITIONS (R340). -/
def encIllegalTransitions (n : Nat) : Nat := objKey (0x3101 + n) 4
/-- UNCERTAINTY (R340). -/
def encUncertainty (n : Nat) : Nat := objKey (0x3101 + n) 5
/-- RADIUS (R340). -/
def encRadius (n : Nat) : Nat := objKey (0x3101 + n) 6
/-- SURFACE_SPEED (R340). -/
def encSurfaceSpeed (n : Nat) : Nat := objKey (0x3101 + n) 7
/-- DEAD_TIME (R328). -/
def deadTime : Nat := objKey 0x3200 1
/-- MIN_PULSE (R328). -/
def minPulse : Nat := objKey 0x3200 2
/-- POLE_PAIRS (R328). -/
def polePairs : Nat := objKey 0x3200 3
/-- COMM_OFFSET_CART (R328). -/
def commOffsetCart : Nat := objKey 0x3200 4
/-- COMM_OFFSET_MACH (R328). -/
def commOffsetMach : Nat := objKey 0x3200 5
/-- MOTOR_POLARITY (R328). -/
def motorPolarity : Nat := objKey 0x3200 6
/-- OMITTED_PULSES (R328). -/
def omittedPulses : Nat := objKey 0x3200 7
/-- FULL_ON_PERIODS (R328). -/
def fullOnPeriods : Nat := objKey 0x3200 8
/-- ADC_SEQUENCE (R328). -/
def adcSequence (n : Nat) : Nat := objKey 0x3201 (1 + n)
/-- ADC_CHANNELS (R328). -/
def adcChannels (n : Nat) : Nat := objKey 0x3202 (1 + n)
/-- ADC_OVERRUNS (R328). -/
def adcOverruns (n : Nat) : Nat := objKey 0x3203 (1 + n)
/-- AIN_SCALE (R328). -/
def ainScale (n : Nat) : Nat := objKey 0x3204 (1 + n)
/-- AIN_SAMPLE (R328). -/
def ainSample (n : Nat) : Nat := objKey 0x3205 (1 + n)
/-- TENSION_SETPOINT (R328). -/
def tensionSetpoint : Nat := objKey 0x3401 1
/-- TENSION_MAX (R328). -/
def tensionMax : Nat := objKey 0x3401 2
/-- TENSION_FAULT_LOW (R328). -/
def tensionFaultLow : Nat := objKey 0x3401 3
/-- TENSION_FAULT_HIGH (R328). -/
def tensionFaultHigh : Nat := objKey 0x3401 4
/-- PARK_TENSION (R328). -/
def parkTension : Nat := objKey 0x3401 5
/-- RAMP_ACCEL (R328). -/
def rampAccel : Nat := objKey 0x3401 6
/-- EMERGENCY_DECEL (R328). -/
def emergencyDecel : Nat := objKey 0x3401 7
/-- TEST_SPEED (R328). -/
def testSpeed : Nat := objKey 0x3401 8
/-- TAPE_SPEED_REF (R328). -/
def tapeSpeedRef : Nat := objKey 0x3401 9
/-- TENSION (R328). -/
def tension : Nat := objKey 0x3401 10
/-- REGEN_FLOOR (R328). -/
def regenFloor : Nat := objKey 0x3401 11
/-- SPEED_EXCURSIONS (R328). -/
def speedExcursions : Nat := objKey 0x3401 12
/-- FAULT_CAUSE (R328). -/
def faultCause : Nat := objKey 0x3401 13
/-- SCHEDULER_STATUS (R363). -/
def schedulerStatus : Nat := objKey 0x3402 1
/-- MAX_SPEED_STEP (R363). -/
def maxSpeedStep : Nat := objKey 0x3402 2
/-- SPEED_EVAL_MS (R363). -/
def speedEvalMs : Nat := objKey 0x3402 3
/-- INFLOW_KBPS (R363). -/
def inflowKbps : Nat := objKey 0x3402 4
/-- BACKLOG_KB (R363). -/
def backlogKb : Nat := objKey 0x3402 5
/-- POOL_MAX_AGE_MS (R363). -/
def poolMaxAgeMs : Nat := objKey 0x3402 6
/-- READ_EXCURSION_MS (R363). -/
def readExcursionMs : Nat := objKey 0x3402 7
/-- BACKHITCHES (R363). -/
def backhitches : Nat := objKey 0x3402 8
/-- PADDED_CUTS (R363). -/
def paddedCuts : Nat := objKey 0x3402 9
/-- FREE_REUSE_UNITS (R363). -/
def freeReuseUnits : Nat := objKey 0x3403 1
/-- RECLAIM_THRESHOLD (R363). -/
def reclaimThreshold : Nat := objKey 0x3403 2
/-- DEAD_CUTS (R363). -/
def deadCuts : Nat := objKey 0x3403 3
/-- BEDROCK_STATUS (R363). -/
def bedrockStatus : Nat := objKey 0x3403 4
/-- BEDROCK_DELAY_S (R363). -/
def bedrockDelayS : Nat := objKey 0x3403 5
/-- INDEX_STATUS (R363). -/
def indexStatus : Nat := objKey 0x3403 6
/-- DAILIES_ENABLE (R363). -/
def dailiesEnable : Nat := objKey 0x3404 1
/-- DAILIES_INTERVAL_H (R363). -/
def dailiesIntervalH : Nat := objKey 0x3404 2
/-- DAILIES_PROGRESS (R363). -/
def dailiesProgress : Nat := objKey 0x3404 3
/-- KILN_CUT_AGE_H (R413). -/
def kilnCutAgeH : Nat := objKey 0x3405 1
/-- KILN_WAITING (R413). -/
def kilnWaiting : Nat := objKey 0x3405 2
/-- KILN_CUTS_WRITTEN (R413). -/
def kilnCutsWritten : Nat := objKey 0x3405 3
/-- BRIDGE_COLLISIONS (R413). -/
def bridgeCollisions : Nat := objKey 0x3405 4
/-- POWER_FAIL_SOURCE (R385). -/
def powerFailSource : Nat := objKey 0x3600 1
/-- VSENSE_THRESHOLD (R385). -/
def vsenseThreshold : Nat := objKey 0x3600 2
/-- VHOLD_TARGET (R385). -/
def vholdTarget : Nat := objKey 0x3600 3
/-- HOLDUP_MIN_START (R385). -/
def holdupMinStart : Nat := objKey 0x3600 4
/-- HOLDUP_STATUS (R385). -/
def holdupStatus : Nat := objKey 0x3600 5
/-- VHOLD (R385). -/
def vhold : Nat := objKey 0x3600 6
/-- POWER_FAILS (R385). -/
def powerFails : Nat := objKey 0x3601 1
/-- LAST_SEQUENCE_ENERGY_MJ (R385). -/
def lastSequenceEnergyMj : Nat := objKey 0x3601 2
/-- LAST_SEQUENCE_TIME_MS (R385). -/
def lastSequenceTimeMs : Nat := objKey 0x3601 3
/-- REPLAYS (R385). -/
def powerReplays : Nat := objKey 0x3601 4
/-- HOLDUP_CONTROL (R385). -/
def holdupControl : Nat := objKey 0x3601 5
/-- JOURNAL_STATUS (R385). -/
def journalStatus : Nat := objKey 0x3602 1
/-- PIN_LEVELS (R465). -/
def pinLevels : Nat := objKey 0x3800 1
/-- DEVICE_PIN_OUT (R465). -/
def devicePinOut : Nat := objKey 0x3800 3
/-- PIN_CONFIG (R465). -/
def pinConfig (p n : Nat) : Nat := objKey (0x3801 + p) (1 + n)
/-- EVENT_CONFIG (R465). -/
def eventConfig (n : Nat) : Nat := objKey 0x3806 (1 + n)
/-- EVENT_COUNTS (R465). -/
def eventCounts (n : Nat) : Nat := objKey 0x3807 (1 + n)
/-- PDO_OUTPUTS (R465). -/
def pdoOutputs : Nat := objKey 0x3808 1
/-- PDO_SAFE_OUTPUTS (R465). -/
def pdoSafeOutputs : Nat := objKey 0x3808 2
/-- PDO_INPUTS (R465). -/
def pdoInputs : Nat := objKey 0x3808 3
/-- EVENT_LEVELS (R465). -/
def eventLevels : Nat := objKey 0x3808 4
/-- FAULT_SUMMARY (R487). -/
def faultSummary : Nat := objKey 0x3A00 1
/-- EVENTS_RAISED (R487). -/
def eventsRaised : Nat := objKey 0x3A00 2
/-- EVENTS_DROPPED_A (R487). -/
def eventsDroppedA : Nat := objKey 0x3A00 3
/-- EVENTS_DROPPED_B (R487). -/
def eventsDroppedB : Nat := objKey 0x3A00 4
/-- EMERGENCIES_DROPPED (R487). -/
def emergenciesDropped : Nat := objKey 0x3A00 5
/-- RECOVERIES (R487). -/
def recoveries : Nat := objKey 0x3A01 1
/-- LAST_RECOVERY (R487). -/
def lastRecovery : Nat := objKey 0x3A01 2
/-- RECOVERY_LIMIT (R487). -/
def recoveryLimit : Nat := objKey 0x3A01 3
/-- MRAM_SPARE_LINES (R487). -/
def mramSpareLines : Nat := objKey 0x3A01 4
/-- CP_RESTARTS (R487). -/
def cpRestarts : Nat := objKey 0x3A01 5
/-- REFUSAL_DETAIL_FIELD (R59). -/
def refusalDetailField : Nat := objKey 0x3A10 1
/-- REFUSAL_DETAIL_LINK (R59). -/
def refusalDetailLink : Nat := objKey 0x3A10 3
/-- SLOT_COUNT (R27). -/
def slotCount (d : Dom) : Nat := objKey (0x4001 + 0x100 * d.val) 1
/-- RING_SHARE (R27). -/
def ringShare (d : Dom) : Nat := objKey (0x4001 + 0x100 * d.val) 2
/-- PAGE_FLOOR (R27). -/
def pageFloor (d : Dom) : Nat := objKey (0x4001 + 0x100 * d.val) 3
/-- PAGE_CEILING (R27). -/
def pageCeiling (d : Dom) : Nat := objKey (0x4001 + 0x100 * d.val) 4
/-- CUT_QUOTA (R27). -/
def cutQuota (d : Dom) : Nat := objKey (0x4001 + 0x100 * d.val) 5
/-- LINK_BINDING (R27). -/
def linkBinding (d : Dom) : Nat := objKey (0x4001 + 0x100 * d.val) 6
/-- POWER_POLICY (R27). -/
def powerPolicy (d : Dom) : Nat := objKey (0x4001 + 0x100 * d.val) 7
/-- WRITE_GUARANTEE (R27). -/
def writeGuarantee (d : Dom) : Nat := objKey (0x4002 + 0x100 * d.val) 1
/-- TAPE_READ_GUARANTEE (R27). -/
def tapeReadGuarantee (d : Dom) : Nat := objKey (0x4002 + 0x100 * d.val) 2
/-- BUFFER_READ_GUARANTEE (R27). -/
def bufferReadGuarantee (d : Dom) : Nat := objKey (0x4002 + 0x100 * d.val) 3
/-- EFFECTIVE_WRITE (R27). -/
def effectiveWrite (d : Dom) : Nat := objKey (0x4002 + 0x100 * d.val) 4
/-- EFFECTIVE_TAPE_READ (R27). -/
def effectiveTapeRead (d : Dom) : Nat := objKey (0x4002 + 0x100 * d.val) 5
/-- EFFECTIVE_BUFFER_READ (R27). -/
def effectiveBufferRead (d : Dom) : Nat := objKey (0x4002 + 0x100 * d.val) 6
/-- LOG_ENABLE (R27). -/
def logEnable (d : Dom) : Nat := objKey (0x4003 + 0x100 * d.val) 1
/-- VOLUME_SIZE_0 (R27). -/
def volumeSize0 (d : Dom) : Nat := objKey (0x4003 + 0x100 * d.val) 2
/-- VOLUME_SIZE_1 (R27). -/
def volumeSize1 (d : Dom) : Nat := objKey (0x4003 + 0x100 * d.val) 3
/-- VOLUME_SIZE_2 (R27). -/
def volumeSize2 (d : Dom) : Nat := objKey (0x4003 + 0x100 * d.val) 4
/-- VOLUME_SIZE_3 (R27). -/
def volumeSize3 (d : Dom) : Nat := objKey (0x4003 + 0x100 * d.val) 5
/-- FIRST_STAGE_SIZE (R27). -/
def firstStageSize (d : Dom) : Nat := objKey (0x4003 + 0x100 * d.val) 6
/-- CUTS_USED (R27). -/
def cutsUsed (d : Dom) : Nat := objKey (0x4004 + 0x100 * d.val) 1
/-- CUTS_PLEDGED (R27). -/
def cutsPledged (d : Dom) : Nat := objKey (0x4004 + 0x100 * d.val) 2
/-- PIN_MASK (R27). -/
def pinMask (d : Dom) : Nat := objKey (0x4004 + 0x100 * d.val) 3
/-- ENERGY_UJ (R27). -/
def energyUj (d : Dom) : Nat := objKey (0x4004 + 0x100 * d.val) 5
/-- QUEUE_STATUS (R176). -/
def queueStatus (d : Dom) : Nat := objKey (0x4005 + 0x100 * d.val) 1
/-- SLOT_REFUSALS (R176). -/
def slotRefusals (d : Dom) : Nat := objKey (0x4005 + 0x100 * d.val) 2
/-- RING_WAITS_EXPIRED (R176). -/
def ringWaitsExpired (d : Dom) : Nat := objKey (0x4005 + 0x100 * d.val) 3
/-- PAGES_HELD (R207). -/
def pagesHeld (d : Dom) : Nat := objKey (0x4006 + 0x100 * d.val) 1
/-- RING_LINES_USED (R207). -/
def ringLinesUsed (d : Dom) : Nat := objKey (0x4006 + 0x100 * d.val) 2
/-- RECORDS_USED (R207). -/
def recordsUsed (d : Dom) : Nat := objKey (0x4006 + 0x100 * d.val) 3
/-- PAGE_WAITS (R207). -/
def pageWaits (d : Dom) : Nat := objKey (0x4006 + 0x100 * d.val) 4
/-- PIN_OUT (R465). -/
def pinOut (d : Dom) : Nat := objKey (0x4007 + 0x100 * d.val) 1
/-- PIN_IN (R465). -/
def pinIn (d : Dom) : Nat := objKey (0x4007 + 0x100 * d.val) 3
/-- ROM_IDENT (R413). -/
def romIdent : Nat := objKey 0x6001 1
/-- ROM_CRC32 (R413). -/
def romCrc32 : Nat := objKey 0x6001 2
/-- PUBLIC_KEY (R413). -/
def publicKey : Nat := objKey 0x6002 1
/-- KEY_ID (R413). -/
def keyId : Nat := objKey 0x6002 2
/-- EVENT_COUNTER (R413). -/
def eventCounter : Nat := objKey 0x6003 1
/-- LAST_SEQ (R413). -/
def lastSeq : Nat := objKey 0x6003 2
/-- UNCONFIRMED (R413). -/
def unconfirmed : Nat := objKey 0x6003 4
/-- AUDIT_USED (R413). -/
def auditUsed : Nat := objKey 0x6003 5
/-- KILN_TIME (R413). -/
def kilnTime : Nat := objKey 0x6003 6
/-- KILN_STATUS (R413). -/
def kilnStatus : Nat := objKey 0x6003 8
/-- GAPS (R413). -/
def gaps : Nat := objKey 0x6003 9
/-- RXPDO_SOURCES (R413). -/
def rxpdoSources : Nat := objKey 0x6004 1
/-- AUTHORIZED_DOMAINS (R413). -/
def authorizedDomains : Nat := objKey 0x6004 2
/-- SELF_TEST_ALLOWED (R413). -/
def selfTestAllowed : Nat := objKey 0x6004 3
/-- SET_TIME (R413). -/
def setTime : Nat := objKey 0x6004 4
/-- AUDIT_LOG (R413). -/
def auditLog : Nat := objKey 0x6005 0
/-- KILN_INPUT (R413). -/
def kilnInput (n : Nat) : Nat := objKey 0x6010 (1 + n)
/-- SELF_TEST_STATUS (R504). -/
def selfTestStatus : Nat := objKey 0x7001 1
/-- STATE of a unit whose state objects stand at index `i` (R55). -/
def unitState (i : Nat) : Nat := objKey i 1
/-- GEN of a unit (R55). -/
def unitGen (i : Nat) : Nat := objKey i 2
/-- STATE_REQUEST of a unit (R55). -/
def unitRequest (i : Nat) : Nat := objKey i 3
/-- REQUEST_RESULT of a unit (R55). -/
def unitResult (i : Nat) : Nat := objKey i 4
end Obj

end Sys2Proof.Machine
end

