-- ==== Sys2Proof/Machine/Ops.lean ====
section
/-!
DEFINITION. The named operations over the state: the dictionary's values, counters, GEN, time, events and messages.
-/
namespace Sys2Proof.Machine

/-! ### The dictionary's values -/

/-- The value under key `k`, with the default where none is listed. -/
def dictGet : Dict → Nat → Nat → Nat
  | [], _, dflt => dflt
  | (k', v) :: rest, k, dflt => if k' = k then v else dictGet rest k dflt

/-- The list without key `k`. -/
def dictDrop : Dict → Nat → Dict
  | [], _ => []
  | (k', v) :: rest, k => if k' = k then dictDrop rest k else (k', v) :: dictDrop rest k

/-- The list with value `v` under key `k`, keys kept rising. -/
def dictInsert : Dict → Nat → Nat → Dict
  | [], k, v => [(k, v)]
  | (k', v') :: rest, k, v =>
    if k < k' then (k, v) :: (k', v') :: rest
    else if k = k' then (k, v) :: rest
    else (k', v') :: dictInsert rest k v

/-- Store a value, keeping the canonical form: a value equal to the default is not listed. -/
def dictPut (t : Dict) (k v dflt : Nat) : Dict :=
  if v = dflt then dictDrop t k else dictInsert t k v

/-- Keys rising from `lo` on, each with a value other than its default that fits the object's width. -/
def dictWfFrom : Nat → Dict → Bool
  | _, [] => true
  | lo, (k, v) :: rest => decide (lo ≤ k) && v != objDefault k && decide (v < 2 ^ objWidth k) && dictWfFrom (k + 1) rest

/-- The canonical form of the dictionary's values: keys strictly rising, no entry equal to its default, every value within
its object's width (R45). -/
def dictWf (t : Dict) : Bool := dictWfFrom 0 t

/-- The event log and the fault log hold at most 256 and 32 entries (R475), the emergency queue at most 8 (R70). -/
def EventState.wf (e : EventState) : Bool :=
  decide (e.log.length ≤ 256) && decide (e.faults.length ≤ 32) && decide (e.emergencies.length ≤ 8)

/-- The stored value of the object under a key. -/
def obj (s : State) (k : Nat) : Nat := dictGet s.dict k (objDefault k)

/-- Store a value in an object, cut to the object's width (R45). -/
def setObj (k v : Nat) (s : State) : State :=
  { s with dict := dictPut s.dict k (v % 2 ^ objWidth k) (objDefault k) }

/-- Store an integer in an object, in two's complement. -/
def setObjInt (k : Nat) (v : Int) (s : State) : State := setObj k (toBits (objWidth k) v) s

/-- The stored value of an object of `w` bits read as an integer. -/
def objInt (w : Nat) (s : State) (k : Nat) : Int := ofBits w (obj s k)

/-- The stored value of a BOOLEAN object. -/
def objBool (s : State) (k : Nat) : Bool := obj s k != 0

/-- Count `n` more in an object, which stays at its width's highest value once reached. -/
def bumpBy (k n : Nat) (s : State) : State :=
  setObj k (min (obj s k + n) (2 ^ objWidth k - 1)) s

/-- Count one more in a saturating counter. -/
def bump (k : Nat) (s : State) : State := bumpBy k 1 s

/-- Count one in the GEN of the unit whose state objects stand at an index, 0xFFFF followed by 0 (R31, R56). -/
def bumpGen (i : Nat) (s : State) : State := setObj (Obj.unitGen i) ((obj s (Obj.unitGen i) + 1) % 65536) s

/-- A quotient that the spec gives as a formula only: exact where it divides, else one of its two neighbours. -/
def openDiv (a b : Int) : Int := a / b + (if a % b ≠ 0 ∧ Config.roundsUp a b then 1 else 0)

/-! ### Parts of the state -/

/-- A port. -/
def portOf (s : State) (p : PortId) : Port := vget s.ports p.fin
/-- A port replaced. -/
def setPort (p : PortId) (x : Port) (s : State) : State := { s with ports := vset s.ports p.fin x }
/-- A port changed. -/
def modPort (p : PortId) (f : Port → Port) (s : State) : State := setPort p (f (portOf s p)) s
/-- A lane of a port. -/
def laneOf (s : State) (p : PortId) (l : Lane) : LaneRt := vget (portOf s p).lanes l
/-- A lane replaced. -/
def setLane (p : PortId) (l : Lane) (x : LaneRt) (s : State) : State :=
  modPort p (fun q => { q with lanes := vset q.lanes l x }) s
/-- A lane changed. -/
def modLane (p : PortId) (l : Lane) (f : LaneRt → LaneRt) (s : State) : State := setLane p l (f (laneOf s p l)) s
/-- Every lane of a port changed. -/
def modLanes (p : PortId) (f : Lane → LaneRt → LaneRt) (s : State) : State :=
  modPort p (fun q => { q with lanes := Vector.ofFn (fun l => f l (vget q.lanes l)) }) s
/-- A domain. -/
def domOf (s : State) (d : Dom) : DomainRt := vget s.doms d
/-- A domain replaced. -/
def setDom (d : Dom) (x : DomainRt) (s : State) : State := { s with doms := vset s.doms d x }
/-- A domain changed. -/
def modDom (d : Dom) (f : DomainRt → DomainRt) (s : State) : State := setDom d (f (domOf s d)) s
/-- The domains in order. -/
def allDoms : List Dom := [0, 1, 2, 3, 4, 5, 6, 7]
/-- The ports in order. -/
def allPorts : List PortId := [.a, .b]
/-- The lanes in order. -/
def allLanes : List Lane := [0, 1, 2, 3]

/-- The part is released: its functions run (R433). -/
def released (s : State) : Bool := s.boot.phase == .released

/-- What a step does while the part is released; before, it changes nothing (R75, R433, log entry 2). -/
def live (s t : State) : State := if released s then t else s

/-- A block is faulty: its watchdog has expired and its recovery is not over (R478, R479). -/
def blockBusy (s : State) (b : Nat) : Bool := s.recov.busy.any (fun x => x.1 == b)

/-- What a step of a block does: a block held in reset takes none (R479). -/
def working (b : Nat) (s t : State) : State := live s (if blockBusy s b then s else t)

/-- Draw a free value: one more in the model's own counter. -/
def draw (s : State) : State := { s with free := s.free + 1 }

/-- Microseconds since release; 0 before (R470). -/
def nowUs (s : State) : Nat := if released s then 25 * (s.periods - 1) + Config.subPeriodUs s.free % 25 else 0

/-- A domain is configured (R22). -/
def configured (s : State) (d : Dom) : Bool := (domOf s d).state != .unconfigured

/-- A port is bound to a domain (R27). -/
def bound (s : State) (d : Dom) (p : PortId) : Bool := bitOf (obj s (Obj.linkBinding d)) p.fin.val

/-- The administrative domain (R36). -/
def isAdmin (s : State) (d : Dom) : Bool := obj s Obj.adminDomain == d.val

/-- The index of a unit's state objects. -/
def portIndex (p : PortId) : Nat := p.index 0x2400
/-- The index of a domain's state objects (R27). -/
def domIndex (d : Dom) : Nat := 0x4000 + 0x100 * d.val

/-! ### Energy weights (R443) -/

/-- The energy account of a domain; the device's is account 8. -/
def account (d : Dom) : Fin 9 := ⟨d.val, by omega⟩

/-- Bytes an account moves in this tick count for its weight. -/
def addWeight (a : Fin 9) (n : Nat) (s : State) : State :=
  { s with energy := { s.energy with tick := vset s.energy.tick a (vget s.energy.tick a + n) } }

/-! ### Unit numbers of events (R70) -/

/-- Unit number of a port. -/
def unitPort (p : PortId) : Nat := 0x10 + p.fin.val
/-- Unit number of the cartridge. -/
def unitCartridge : Nat := 0x20
/-- Unit number of the transport. -/
def unitTransport : Nat := 0x21
/-- Unit number of Kiln. -/
def unitKiln : Nat := 0x30
/-- Unit number of the device. -/
def unitDevice : Nat := 0xF0

/-- Severity and emergency error code of an event (R476): 0 information, 1 warning, 2 fault. -/
def eventClass (code : Nat) : Nat × Nat :=
  match code with
  | 0x0103 => (1, 0xFF01) | 0x0104 => (1, 0xFF02) | 0x0106 => (1, 0xFF03)
  | 0x0202 => (1, 0x8101) | 0x0203 => (1, 0x8102) | 0x0204 => (1, 0x8103) | 0x0207 => (1, 0x8104)
  | 0x0208 => (1, 0x8105) | 0x0209 => (1, 0x8106) | 0x020A => (1, 0x8107) | 0x020B => (1, 0x8108)
  | 0x0301 => (2, 0x5010) | 0x0302 => (1, 0x5011) | 0x0303 => (1, 0x5012) | 0x0304 => (1, 0xFF10)
  | 0x0305 => (2, 0x5013) | 0x0306 => (1, 0x5014) | 0x0307 => (1, 0x6010)
  | 0x0401 => (1, 0x5020) | 0x0402 => (2, 0x5021)
  | 0x0502 => (1, 0xFF20) | 0x0503 => (1, 0xFF21) | 0x0504 => (1, 0xFF22) | 0x0506 => (2, 0x5030)
  | 0x0508 => (1, 0xFF24) | 0x0509 => (2, 0x5031) | 0x050A => (1, 0xFF25) | 0x050B => (1, 0xFF26)
  | 0x050C => (1, 0xFF27) | 0x050D => (1, 0xFF28) | 0x050E => (1, 0xFF29) | 0x050F => (1, 0xFF2A)
  | 0x0510 => (1, 0xFF2B)
  | 0x0602 => (1, 0xFF30) | 0x0603 => (1, 0xFF31) | 0x0604 => (1, 0xFF32) | 0x0605 => (1, 0xFF33)
  | 0x0607 => (2, 0x5040)
  | 0x0701 => (2, 0x5050) | 0x0702 => (2, 0x5051) | 0x0703 => (2, 0x5052) | 0x0704 => (2, 0x5053)
  | 0x0705 => (1, 0xFF40) | 0x0706 => (1, 0xFF41) | 0x0707 => (1, 0xFF42)
  | 0x0801 => (1, 0xFF48) | 0x0802 => (1, 0xFF49) | 0x0804 => (1, 0xFF4A)
  | 0x0901 => (1, 0x3201) | 0x0902 => (2, 0x3202) | 0x0905 => (1, 0xFF50)
  | 0x0A02 => (1, 0xFF60) | 0x0A03 => (1, 0xFF61) | 0x0A04 => (1, 0xFF62) | 0x0A05 => (2, 0x6020)
  | 0x0B01 => (1, 0x6030) | 0x0B02 => (1, 0xFF70) | 0x0B03 => (2, 0x6031) | 0x0B04 => (1, 0x6032)
  | _ => (0, 0)

/-! ### Unit states -/

/-- STATE code of a domain (R31). -/
def DomState.code : DomState → Nat
  | .unconfigured => 0 | .offline => 1 | .starting => 2 | .online => 3 | .draining => 4 | .resetting => 5

/-- STATE code of a port (R95). -/
def PortState.code : PortState → Nat
  | .disabled => 0 | .listen => 1 | .training => 2 | .up => 3 | .draining => 4 | .idle => 5 | .loopback => 6

/-- LANE_STATE code (R102). -/
def LaneState.code : LaneState → Nat
  | .off => 0 | .listen => 1 | .lock => 2 | .align => 3 | .equalize => 4 | .deskew => 5 | .active => 6
  | .standby => 7 | .retrainWait => 8 | .idle => 9 | .loopback => 0xA

/-- A port enters a state: the transition counts in GEN (R56). -/
def enterPort (p : PortId) (st : PortState) (s : State) : State :=
  s |> modPort p (fun q => { q with state := st }) |> bumpGen (portIndex p)

/-- A port is trained while its STATE is UP, DRAINING or IDLE (R42). -/
def portTrained (s : State) (p : PortId) : Bool :=
  match (portOf s p).state with
  | .up | .draining | .idle => true
  | _ => false

/-! ### Messages to the host -/

/-- The events waiting in a port's queue (R472). -/
def evtCount (ms : List TxMsg) : Nat :=
  (ms.filter (fun m => match m with | .evt _ _ => true | _ => false)).length

/-- Refusal completions waiting on a port (R167). -/
def refusalCount (ms : List TxMsg) : Nat :=
  (ms.filter (fun m => match m with | .cpl _ _ none _ => true | _ => false)).length

/-- A lane sends a clapper burst (R89, R94). -/
def LaneRt.burst (l : LaneRt) : LaneRt := { l with bursts := l.bursts + 1, txLine := clapperBurst }

/-- Leave IDLE: own clapper burst, lanes to LOCK, short training (R95, R99). -/
def idleExit (p : PortId) (s : State) : State :=
  if (portOf s p).state = .idle then
    s |> modLanes p (fun _ l => if l.state = .idle then { l.burst with state := .lock, retries := 0 } else l)
      |> modPort p (fun q => { q with fullTraining := false, idleWidth := q.curWidth, eotSent := false, eotSeen := false })
      |> enterPort p .training
  else s

/-- Put a message in a port's send queue; in IDLE it starts the idle exit (R99, R473). -/
def sendMsg (p : PortId) (m : TxMsg) (s : State) : State :=
  s |> modPort p (fun q => { q with txWait := q.txWait ++ [m] }) |> idleExit p

/-- EVENTS_DROPPED of a port (R487). -/
def eventsDropped : PortId → Nat
  | .a => Obj.eventsDroppedA
  | .b => Obj.eventsDroppedB

/-- Put EVENTS_LOST before the waiting events of a port that owes it and has room (R472). -/
def insertLost (dom : Dom) (lost now : Nat) : List TxMsg → List TxMsg
  | [] => [.evt dom ⟨0xFFFF, unitDevice, 0, lost, now⟩]
  | m :: ms => match m with
    | .evt d e => .evt dom ⟨0xFFFF, unitDevice, 0, lost, now⟩ :: .evt d e :: ms
    | m => m :: insertLost dom lost now ms

/-- The administrative domain's number as a domain. -/
def adminDom (s : State) : Dom := Fin.ofNat 8 (obj s Obj.adminDomain)

/-- The port pays the EVENTS_LOST it owes, once it has room and may send (R472, R473). -/
def payLost (p : PortId) (s : State) : State :=
  let q := portOf s p
  match q.state with
  | .disabled | .listen | .loopback => s
  | _ =>
    if q.evtLost = 0 ∨ 64 ≤ evtCount q.txWait then s
    else setPort p { q with txWait := insertLost (adminDom s) q.evtLost (nowUs s) q.txWait, evtLost := 0 } s

/-- An event that a port does not queue is counted, and its EVENTS_LOST owed (R472, R473). -/
def dropEvent (p : PortId) (s : State) : State :=
  s |> modPort p (fun q => { q with evtLost := min (q.evtLost + 1) 0xFFFF }) |> bump (eventsDropped p)

/-- An event enters a port's queue of 64, unless that is full (R472). -/
def queueEvent (dom : Dom) (e : EventRec) (p : PortId) (s : State) : State :=
  if 64 ≤ evtCount (portOf s p).txWait then dropEvent p s else s |> payLost p |> sendMsg p (.evt dom e)

/-- Offer an event to a port (R472, R473). -/
def offerEvent (dom : Dom) (e : EventRec) (p : PortId) (s : State) : State :=
  match (portOf s p).state with
  | .disabled | .listen | .loopback => dropEvent p s
  | .training | .up | .draining | .idle => queueEvent dom e p s

/-- The port serves a host: port A, and port B in HOST role (R124, R127). -/
def servesHost (s : State) (p : PortId) : Bool := p == .a || (portOf s p).hostRole

/-- The ports an event goes to: of those that serve a host, the ones bound to its domain, or all (R108, R127, R471). -/
def eventPorts (s : State) (unit : Nat) : List PortId :=
  allPorts.filter (fun p => servesHost s p && (8 ≤ unit || bound s (Fin.ofNat 8 unit) p))

/-- The domain an event message names (R471). -/
def eventDom (s : State) (unit : Nat) : Dom := if unit < 8 then Fin.ofNat 8 unit else adminDom s

/-! ### Fault summary and events -/

/-- STATE code of the cartridge (R162). -/
def CartState.code : CartState → Nat
  | .absent => 0 | .present => 1 | .threading => 2 | .searching => 3 | .ready => 4 | .draining => 5
  | .unloading => 6 | .formatting => 7 | .unformatted => 8 | .faulted => 9 | .mismatch => 0xA

/-- STATE code of the transport (R325). -/
def XportState.code : XportState → Nat
  | .off => 0 | .idle => 1 | .threading => 2 | .stopped => 3 | .moving => 4 | .parked => 5 | .braking => 6
  | .faulted => 7 | .test => 8 | .draining => 9

/-- STATE code of Kiln (R404). -/
def KilnState.code : KilnState → Nat
  | .unsealed => 0 | .sealed => 1 | .broken => 2

/-- KILN_EN was high at the start reference (R503). -/
def kilnEnabled (s : State) : Bool := bitOf s.boot.straps 15

/-- Kiln's STATE as the last STATE_REPORT gave it (R393). -/
def kilnSeen (s : State) : Nat := obj s (Obj.unitState 0x6000)

/-- Bits 8 to 15 of FAULT_SUMMARY: the frozen queues (R487). -/
def frozenBits (s : State) : Nat :=
  (allDoms.map (fun d => if (domOf s d).frozen then 2 ^ d.val else 0)).sum

/-- FAULT_SUMMARY (R487). -/
def faultSummary (s : State) : Nat :=
  2 ^ 31 * b2n (s.xport.state == .faulted) + 2 ^ 30 * b2n (s.cart.state == .faulted)
    + 2 ^ 29 * b2n (kilnSeen s == 2) + 2 ^ 28 * b2n (kilnEnabled s && !s.kiln.bridgeOk)
    + 2 ^ 27 * b2n s.power.faulted + 2 ^ 26 * b2n (released s && !s.power.ready)
    + 2 ^ 25 * b2n s.dram.failed + 2 ^ 24 * b2n (vget s.comp.out 0 || vget s.comp.out 1)
    + 2 ^ 23 * b2n (s.recov.busy != [] || s.recov.rebuilding) + 2 ^ 22 * b2n s.boot.imageFailed
    + 2 ^ 21 * b2n (obj s Obj.guaranteeScale < 1024) + 2 ^ 20 * b2n (objBool s Obj.refreshDoubled)
    + 2 ^ 8 * frozenBits s

/-- Some port bound to an ONLINE domain is not UP (R474). -/
def boundPortDown (s : State) : Bool :=
  allDoms.any (fun d => (domOf s d).state == .online
    && allPorts.any (fun p => bound s d p && (portOf s p).state != .up))

/-- ERROR_REGISTER (R474). -/
def errorRegister (s : State) : Nat :=
  let f := faultSummary s
  b2n (fieldOf f 22 10 != 0 || fieldOf f 8 8 != 0) + 4 * b2n (bitOf f 27 || bitOf f 26) + 8 * b2n (bitOf f 20)
    + 16 * b2n (boundPortDown s || s.ecat.errorFlag) + 32 * b2n (fieldOf f 8 8 != 0)
    + 128 * b2n (bitOf f 29 || bitOf f 28)

/-- Queue a CoE emergency, reporting drops first (R70, R474). -/
def queueEmergency (e : EventRec) (error : Nat) (s : State) : State :=
  match s.ecat.al with
  | .init | .boot => s
  | _ =>
    let q := s.ev.emergencies.drop (Config.mailboxFetched s.free)
    let drops := s.ev.emergencyDrops
    let q1 := if 0 < drops ∧ q.length < 8 then
        q ++ [⟨Config.dropReportError, errorRegister s, 0xFFFF, unitDevice, drops % 65536⟩] else q
    let d1 := if 0 < drops ∧ q.length < 8 then 0 else drops
    if q1.length < 8 then
      { s with ev := { s.ev with
          emergencies := q1 ++ [⟨error, errorRegister s, e.code, e.unit, e.detail % 65536⟩], emergencyDrops := d1 } }
    else
      bump Obj.emergenciesDropped { s with ev := { s.ev with emergencies := q1, emergencyDrops := d1 + 1 } }

/-- The event belongs to the fault history (R475). -/
def isFault (e : EventRec) : Bool := e.severity == 2 || e.code == 0x0B03 || e.code == 0x0B04

/-- Enter an event in page 0x80 and, where it belongs there, in page 0x82 (R475). -/
def enterPages (e : EventRec) (s : State) : State :=
  { s with ev := { s.ev with
      total := s.ev.total + 1
      log := (⟨s.ev.total + 1, e⟩ :: s.ev.log).take 256
      faultTotal := if isFault e then s.ev.faultTotal + 1 else s.ev.faultTotal
      faults := if isFault e then (⟨s.ev.faultTotal + 1, e⟩ :: s.ev.faults).take 32 else s.ev.faults } }

/-- Log an event: in its pages, and the fault history in the journal too (R475). -/
def logEvent (e : EventRec) (s : State) : State :=
  let s1 := enterPages e s
  { s1 with opLog := if isFault e then s1.opLog.event 0xB none (faultParams e) else s1.opLog }

/-- Log an event and count it (R475, R487). -/
def recordEvent (e : EventRec) (s : State) : State := s |> logEvent e |> bump Obj.eventsRaised

/-- From warning up, an event goes to the field network; the next one finds new free values (R474). -/
def settleEvent (e : EventRec) (s : State) : State :=
  draw (if e.severity = 0 then s else queueEmergency e (eventClass e.code).2 s)

/-- Log an event, count it, send it to its ports and, from warning up, to the field network (R471-R475). -/
def publish (e : EventRec) (s : State) : State :=
  let s1 := recordEvent e s
  settleEvent e ((eventPorts s1 e.unit).foldl (fun t p => offerEvent (eventDom s1 e.unit) e p t) s1)

/-- Raise an event; before release it is kept, with TIME 0, and posted at release (R470). -/
def postEvent (code unit detail : Nat) (s : State) : State :=
  let e : EventRec := ⟨code, unit, (eventClass code).1, detail, nowUs s⟩
  if released s then publish e s
  else { s with ev := { s.ev with early := s.ev.early ++ [e] } }

end Sys2Proof.Machine
end

