-- ==== Sys2Proof/Machine/Views.lean ====
section
/-!
DEFINITION. Computed views: what the objects show that follow the engines' state instead of a stored value (R57).
-/
namespace Sys2Proof.Machine

/-! ### Ring and quota accounts -/

/-- Opcodes (R133). -/
def opAppend : Nat := 0x01
def opReadLog : Nat := 0x02
def opWriteVol : Nat := 0x03
def opReadVol : Nat := 0x04
def opSync : Nat := 0x05
def opTrimLog : Nat := 0x06
def opIdentify : Nat := 0x08
def opGetLogPage : Nat := 0x09
def opSelfTest : Nat := 0x0A
def opResume : Nat := 0x0B
def opSetPower : Nat := 0x0C
def opAbort : Nat := 0x0D
def opMeterRecord : Nat := 0x0E
def opLoadUnload : Nat := 0x10

/-- Data bytes a write command carries (R136). -/
def writeLength (c : HostCmd) : Nat :=
  if c.opcode = opWriteVol then 4096 * c.body.count.toNat else c.body.count.toNat

/-- A command that commits to the ring: APPEND or WRITE_VOL. -/
def isRingWrite (op : Nat) : Bool := op == opAppend || op == opWriteVol

/-- A write command: one that carries DATA to the device (R136). -/
def isWriteCmd (op : Nat) : Bool := isRingWrite op || op == opMeterRecord

/-- Raw bytes of a take or of sectors, as the quota counts them (R25). -/
def rawBytes (isTake : Bool) (len : Nat) : Nat := if isTake then 32 + 16 * ceilDiv len 16 else len

/-- Raw bytes of an item (R25). -/
def Item.raw25 (i : Item) : Nat := rawBytes (i.kind == .take) i.bytes.length

/-- Ring lines data of a length takes (R169). -/
def linesOf (len : Nat) : Nat := ceilDiv len 64

/-- A slot's write has not ended: its content counts as untaped (R25). -/
def writePending (x : Slot) : Bool :=
  isRingWrite x.cmd.opcode && (x.phase == .ringWait || x.phase == .receiving || x.phase == .ready || x.phase == .ordering)

/-- The ring items of a domain. -/
def itemsOf (s : State) (d : Dom) : List RingItem := s.ring.items.filter (fun x => x.item.dom == d)

/-- Everything of a ring item is in verified cuts; it leaves the ring once every earlier item of its share has (R14, R196). -/
def RingItem.done (r : RingItem) : Bool := r.leftBytes == 0 && r.leftSectors == []

/-- Raw bytes of a ring item that are not yet in a verified cut: a take whole, of sectors those still left (R25). -/
def RingItem.left25 (r : RingItem) : Nat :=
  if r.item.kind = .take then (if r.done then 0 else r.item.raw25) else 4096 * r.leftSectors.length

/-- U: raw bytes of a domain's admitted content not yet in a verified cut (R25). -/
def untaped (s : State) (d : Dom) : Nat :=
  ((itemsOf s d).map RingItem.left25).sum
    + (((domOf s d).slots.filter writePending).map
        (fun x => rawBytes (x.cmd.opcode == opAppend) (writeLength x.cmd))).sum

/-- Raw bytes a cut holds, as the pledge reckons (R25). -/
def pledgeCut : Nat := 3440640

/-- CUTS_PLEDGED (R25). -/
def cutsPledged (s : State) (d : Dom) : Nat := ceilDiv (untaped s d) pledgeCut

/-- Ring lines a domain uses or has reserved (R169). -/
def linesUsed (s : State) (d : Dom) : Nat :=
  ((itemsOf s d).map (fun x => linesOf x.item.bytes.length)).sum
    + (((domOf s d).slots.filter (fun x => x.room && writePending x)).map (fun x => linesOf (writeLength x.cmd))).sum

/-- Records a domain uses or has reserved (R197). -/
def recordsUsed (s : State) (d : Dom) : Nat :=
  (itemsOf s d).length + ((domOf s d).slots.filter (fun x => x.room && writePending x)).length

/-- Lines of a domain's share: 256 KiB a unit, 64 bytes a line (R196). -/
def shareLines (s : State) (d : Dom) : Nat := obj s (Obj.ringShare d) * 4096

/-- Records a domain may hold (R197). -/
def shareRecords (s : State) (d : Dom) : Nat := 204 * obj s (Obj.ringShare d)

/-- Room for data of a length and one record (R169, R197). -/
def hasRoom (s : State) (d : Dom) (len : Nat) : Bool :=
  linesUsed s d + linesOf len ≤ shareLines s d && recordsUsed s d + 1 ≤ shareRecords s d

/-- Units no configured domain holds (R196). -/
def ringFreeUnits (s : State) : Nat := 160 - s.ring.units.length

/-- RECORDS_FREE: record capacity left across all shares; the whole capacity of 32,640 less the records held (R207). -/
def recordsFree (s : State) : Nat := 32640 - (allDoms.map (recordsUsed s)).sum

/-! ### Pages (R192) -/

/-- Pages that hold a domain's content: one for each log block of at most 64 KiB, one for what a log gathers, and one for each
volume group that waits for tape or is resident (R17, R209, R343). -/
def contentPages (s : State) (d : Dom) : Nat :=
  let mine := s.comp.blocks.filter (fun b => b.dom == d)
  let groups := (mine.filter (fun b => !b.isLog)).flatMap (fun b => b.block.pieces.map (fun p => (b.target, p.seq / 16)))
  (mine.filter (·.isLog)).length + (s.comp.gathers.filter (fun g => g.dom == d)).length
    + (groups ++ (domOf s d).resident.map (fun r => (r.volume, r.group))).eraseDups.length

/-- PAGES_HELD of a domain (R192, R207). -/
def pagesHeld (s : State) (d : Dom) : Nat := (domOf s d).pages + contentPages s d

/-- COMMON_FREE_PAGES (R192): the pages the dailies and the self-test hold come from the common pool (R194). -/
def commonFree (s : State) : Nat :=
  obj s Obj.domainPagePool
    - (((allDoms.filter (configured s)).map (fun d => max (pagesHeld s d) (obj s (Obj.pageFloor d)))).sum
        + s.dram.servicePages)

/-! ### Queue status and votes -/

/-- Commands held (R172). -/
def heldCount (s : State) (d : Dom) : Nat := ((domOf s d).slots.filter (·.held)).length

/-- Admitted commands not yet completed (R176). -/
def outstanding (s : State) (d : Dom) : Nat := ((domOf s d).slots.filter (fun x => x.phase != .done)).length

/-- Writes waiting for ring room (R176). -/
def ringWaiting (s : State) (d : Dom) : Nat := ((domOf s d).slots.filter (fun x => x.phase == .ringWait)).length

/-- DEEPEST_STATE of a domain (R29). -/
def deepest (s : State) (d : Dom) : Nat := fieldOf (obj s (Obj.powerPolicy d)) 16 2

/-- A domain's power vote; none where it does not vote (R182). -/
def vote (s : State) (d : Dom) : Option Nat :=
  match (domOf s d).state with
  | .unconfigured | .offline => none
  | .starting | .draining | .resetting => some 0
  | .online =>
    if (domOf s d).slots.any (fun x => !x.held && x.phase != .done) then some 0
    else if (domOf s d).idle then some (min (domOf s d).requestedVote (deepest s d)) else some 0

/-- QUEUE_STATUS (R176). -/
def queueStatus (s : State) (d : Dom) : Nat :=
  2 ^ 31 * b2n (domOf s d).frozen + 2 ^ 29 * (vote s d).getD 0
    + 2 ^ 27 * min (domOf s d).requestedVote (deepest s d)
    + 2 ^ 16 * outstanding s d + 2 ^ 8 * heldCount s d + ringWaiting s d

/-! ### Lanes (R102) -/

/-- LANE_STATUS_n (R102). -/
def laneStatusView (l : LaneRt) : Nat :=
  2 ^ 28 * l.state.code + 2 ^ 27 * b2n l.los + 2 ^ 26 * b2n l.lol + 2 ^ 25 * b2n l.rxInverted
    + 2 ^ 24 * b2n l.tapUnanswered + 2 ^ 18 * (l.slip % 64) + 2 ^ 11 * (l.skew % 128) + 2 ^ 8 * (min l.retries 3)

/-- LANE_TAPS_n (R102): no own cursor is applied before the first training. -/
def laneTapsView (l : LaneRt) : Nat :=
  2 ^ 28 * (l.partnerPre % 16) + 2 ^ 23 * (l.partnerPost % 32) + 2 ^ 19 * (l.txPre % 16) + 2 ^ 14 * (l.txPost % 32)
    + 2 ^ 7 * (if l.swing = 0 then 0 else (64 - l.txPre - l.txPost) % 128) + 2 ^ 3 * (l.rxBoost % 16)

/-- LANE_COUNTS_n (R102). -/
def laneCountsView (l : LaneRt) : Nat := 2 ^ 16 * min l.losEvents 0xFFFF + min l.lolEvents 0xFFFF

/-- CONFIGURED_MASK (R28). -/
def configuredMask (s : State) : Nat := (allDoms.map (fun d => if configured s d then 2 ^ d.val else 0)).sum

/-- ECAT_STATE (R76). -/
def ecatStateView (s : State) : Nat := s.ecat.al.code + 16 * b2n s.ecat.errorFlag

/-- SELF_TEST_STATUS (R181). -/
def selfTestView (s : State) : Nat :=
  match s.test.run with
  | none => 0
  | some r => 2 ^ 24 * r.code + 2 ^ 16 * r.step + 2 ^ 8 * r.progress + b2n r.suspended

/-- ARBITER_OWNER (R207). -/
def arbiterOwnerView (s : State) : Nat := 128 * b2n s.dram.parked + s.dram.owner

/-- The active slot: the one the valid activation record copy with the higher COUNTER names; slot A with neither
(R429, R431). -/
def activeSlot (s : State) : Fin 2 :=
  match vget s.boot.copies 0, vget s.boot.copies 1 with
  | some a, some b => if a.counter < b.counter then b.slot else a.slot
  | some a, none => a.slot
  | none, some b => b.slot
  | none, none => 0

/-- The slot that downloads are written into (R430). -/
def inactiveSlot (s : State) : Fin 2 := if activeSlot s = 0 then 1 else 0

/-- SLOT_n_STATUS; the slot a download holds is being written (R72, R431). -/
def norStatusView (s : State) (n : Fin 2) : Nat :=
  let x := vget s.boot.slots n
  if s.boot.download.isSome && n == inactiveSlot s then 2 ^ 24 * 3
  else 2 ^ 24 * x.status + 2 ^ 16 * x.reason + x.version % 65536

/-- Kiln's sealed procedure is open: the seal is open and Kiln not SEALED (R403). -/
def sealedProcedure (k : Kiln) : Bool := k.powered && k.sealOpen && k.state != .sealed

/-- The main side sees the procedure open: it hears Kiln (R393, R405). -/
def procedureOpen (s : State) : Bool := kilnEnabled s && s.kiln.bridgeOk && sealedProcedure s.kiln

/-- 0x6004:01-03 while the procedure is open: the staged value, where one is staged (R405). -/
def sealedView (s : State) (sub inForce : Nat) : Nat :=
  if procedureOpen s then
    (match sub with
      | 1 => s.kiln.staged.sources
      | 2 => s.kiln.staged.domains
      | _ => s.kiln.staged.selfTest).getD inForce
  else inForce

/-- STARTUP_STATUS (R423). -/
def startupStatusView (s : State) : Nat :=
  let conf := allDoms.filter (configured s)
  let phase : Nat := match s.boot.phase with
    | .released =>
      if conf.all (fun d => (domOf s d).state == .online) && conf != [] then 6
      else if conf.any (fun d => (domOf s d).state == .starting) then 5 else 4
    | .started => 3
    | .stuck => 1
    | _ => 0
  let src : Nat := match s.boot.image with
    | some (0, _) => 1
    | some (_, _) => 2
    | none => if fieldOf s.boot.straps 0 2 = 3 then 0 else 3
  2 ^ 28 * phase + 2 ^ 26 * src + 2 ^ 25 * b2n s.boot.imageFailed + s.boot.releaseUs % 2 ^ 25

/-- Target position of the head in 1/256 pitch from its band's zero (R295). -/
def servoTarget (s : State) : Int :=
  let v := s.xport.servo
  let lateral := ofBits 7 (obj s (Obj.zone (v.wrap % 96) (min 7 (v.lpos / 900000).toNat)) % 128)
  256 * ((v.wrap % 24 : Nat) : Int) + max (-96) (min (lateral + v.offset) 96)

/-- SERVO_STATUS (R307). -/
def servoStatusView (s : State) : Nat :=
  let v := s.xport.servo
  2 ^ 31 * b2n v.lowerValid + 2 ^ 30 * b2n v.upperValid + 2 ^ 29 * b2n v.inhibited + 2 ^ 21 * (v.wrap % 96)
    + toBits 16 (v.pos - servoTarget s)

/-- CHANNEL_STATUS (R307). -/
def channelStatusView (s : State) : Nat :=
  2 ^ 31 * b2n s.xport.servo.clockLocked + 2 ^ 30 * b2n s.xport.servo.holdover
    + (match s.cart.ladder with
      | some l => 2 ^ 29 + 2 ^ 27 * (l.step % 4) + (if l.step = 2 then 2 ^ 24 * (l.reread % 8) else 0)
      | none => 0)

/-- HOLDUP_STATUS (R385). -/
def holdupStatusView (s : State) : Nat :=
  2 ^ 15 * b2n s.power.ready + 2 ^ 14 * b2n (decide (0 < s.xport.charger)) + 2 ^ 13 * b2n s.power.faulted
    + 2 ^ 12 * b2n s.power.failing + 2 ^ 11 * b2n s.power.exhaustedLast + 2 ^ 9 * (s.power.source % 4)

/-- JOURNAL_STATUS (R385). -/
def journalStatusView (s : State) : Nat :=
  2 ^ 24 * (s.jour.openOps.length % 256) + 2 ^ 16 * s.jour.resuming
    + 2 ^ 15 * b2n (s.jour.ringClose.isSome && s.ring.items != [])

/-! ### Pins (R449-R465): pin `q` is pin q mod 8 of port q / 8 -/

/-- The write path is writing: a cut's frame sets on moving tape (R239, R317). -/
def writing (s : State) : Bool :=
  s.xport.state == .moving && s.sched.burst && s.cart.openCut.any (fun o => o.phase == .writing)

/-- PIN_CONFIG of a pin. -/
def pinCfg (s : State) (q : Nat) : Nat := obj s (Obj.pinConfig (q / 8) (q % 8))
/-- FUNCTION. -/
def pinFunction (s : State) (q : Nat) : Nat := fieldOf (pinCfg s q) 24 8
/-- OWNER: 0 device, d + 1 domain d, 9 Kiln. -/
def pinOwner (s : State) (q : Nat) : Nat := fieldOf (pinCfg s q) 20 4
/-- INVERT. -/
def pinInvert (s : State) (q : Nat) : Bool := bitOf (pinCfg s q) 13

/-- The pins of the crossbar. -/
def allPins : List Nat := List.range 40

/-- The level bit a pin's owner sets for it (R456); Kiln sets none. -/
def ownerBit (s : State) (owner q : Nat) : Bool :=
  if owner = 0 then bitOf (obj s Obj.devicePinOut) q
  else if owner ≤ 8 then bitOf (obj s (Obj.pinOut (Fin.ofNat 8 (owner - 1)))) q
  else false

/-- Signals the crossbar takes in (R449). -/
def isInputSignal (n : Nat) : Bool := n ≤ 3 || n == 6 || n == 7 || (0x38 ≤ n && n ≤ 0x3F)

/-- The level of an output signal (R449); pulses, indicators and the console are free values (log entry 9). -/
def signalLevel (s : State) (n : Nat) : Bool :=
  match n with
  | 0x0C | 0x0D => s.xport.bridge != .off
  | 0x0E => obj s Obj.powerState == 0x22
  | 0x0F => s.power.failing && !s.power.forReset
  | 0x10 => s.cart.state == .ready
  | 0x11 => s.xport.state == .moving || s.xport.state == .braking
  | 0x12 => s.xport.state == .faulted
  | 0x13 => (portOf s .a).state == .up
  | 0x14 => (portOf s .b).state == .up
  | 0x16 => s.xport.capture.state == .running
  | 0x28 => kilnSeen s == 1
  | 0x29 => kilnSeen s == 2
  | 0x2B => obj s Obj.powerState == 0
  | 0x2C => s.test.run.isSome
  | 0x2D => obj s Obj.guaranteeScale < 1024
  | 0x2E => writing s && !s.xport.servo.inhibited && !s.xport.offSpeed
  | 0x2F => s.power.ready
  | n =>
    if 0x18 ≤ n ∧ n ≤ 0x1F then (domOf s (Fin.ofNat 8 (n - 0x18))).state == .online
    else if 0x20 ≤ n ∧ n ≤ 0x27 then (domOf s (Fin.ofNat 8 (n - 0x20))).frozen
    else if 0x30 ≤ n ∧ n ≤ 0x37 then bitOf (obj s Obj.pdoOutputs) (n - 0x30)
    else if 0x40 ≤ n then false
    else Config.pinSignal n s.free

/-- A pin's driver is on (R453, R454, R463). -/
def pinDriven (s : State) (q : Nat) : Bool :=
  let f := pinFunction s q
  s.pins.applied && (if f = 0x7F then bitOf (pinCfg s q) 10 else f ≤ 0x5F && !isInputSignal f)

/-- Level at a pin, before INVERT (R454, R465): an open-drain pin that releases takes the outside level. -/
def pinLevel (s : State) (q : Nat) : Bool :=
  let outside := bitOf s.pins.external q
  if pinDriven s q then
    let f := pinFunction s q
    let l := (if f = 0x7F then ownerBit s (pinOwner s q) q else signalLevel s f) ^^ pinInvert s q
    if bitOf (pinCfg s q) 16 && l then outside else l
  else outside

/-- Level of a pin after INVERT. -/
def pinValue (s : State) (q : Nat) : Bool := pinLevel s q ^^ pinInvert s q

/-- One bit for each pin for which a test holds. -/
def pinBits (f : Nat → Bool) : Nat := (allPins.map (fun q => if f q then 2 ^ q else 0)).sum

/-- PIN_MASK: the pins a domain owns (R27). -/
def pinMaskView (s : State) (d : Dom) : Nat := pinBits (fun q => pinOwner s q == d.val + 1)

/-- PIN_IN (R456). -/
def pinInView (s : State) (d : Dom) : Nat := pinBits (fun q => pinOwner s q == d.val + 1 && pinValue s q)

/-- The pin that selects an input signal. -/
def inputPin (s : State) (n : Nat) : Option Nat := allPins.find? (fun q => pinFunction s q == n)

/-- PDO_INPUTS (R462). -/
def pdoInputsView (s : State) : Nat :=
  ((List.range 8).map (fun n => match inputPin s (0x38 + n) with
    | some q => if pinValue s q then 2 ^ n else 0
    | none => 0)).sum

/-- PORT of an event line; 7 is off (R465). -/
def linePort (s : State) (n : Nat) : Nat := fieldOf (obj s (Obj.eventConfig n)) 29 3

/-- EVENT_LEVELS (R458, R461). -/
def eventLevelsView (s : State) : Nat :=
  ((List.finRange 8).map (fun n => if linePort s n.val ≠ 7 ∧ (vget s.pins.lines n).accepted then 2 ^ n.val else 0)).sum

/-! ### The scheduler and the compression path (R227, R307, R363) -/

/-- ENGINE_STATUS (R227). -/
def engineStatusView (s : State) : Nat :=
  let busy (n : Fin 2) : Bool := s.comp.blocks.any (fun b => b.stage == .engine n)
  8 * b2n (busy 1) + 4 * b2n (busy 0) + 2 * b2n (vget s.comp.out 1) + b2n (vget s.comp.out 0)

/-- REALLOCATIONS_PENDING (R302). -/
def reallocView (s : State) : Nat := s.cart.reallocs.length + s.cart.reallocQueue.length

/-- CAP_STEP (R358). -/
def capStep (s : State) : Nat := min (obj s Obj.maxSpeedStep) s.sched.derate

/-- MODE of SCHEDULER_STATUS (R363). -/
def schedModeView (s : State) : Nat :=
  if s.xport.state = .parked then 5
  else if s.xport.servo.locate.isSome then 4
  else match s.sched.mode with
    | .idle => 0 | .streaming => 1 | .pooled => 2 | .excursion => 3

/-- WORK_CLASS of SCHEDULER_STATUS (R352, R363). -/
def workClassView (s : State) : Nat :=
  if s.cart.openCut.isSome then 1 else if s.cart.ladder.isSome then 2 else s.sched.workClass

/-- SCHEDULER_STATUS (R363). -/
def schedulerStatusView (s : State) : Nat :=
  2 ^ 28 * schedModeView s + 2 ^ 24 * (s.sched.step % 16) + 2 ^ 20 * (s.sched.target.getD 15 % 16)
    + 2 ^ 16 * (capStep s % 16) + 2 ^ 12 * workClassView s

/-- BEDROCK_STATUS (R363). -/
def bedrockStatusView (s : State) : Nat :=
  let bits (z : Zone) : Nat := 4 * b2n z.marked + 2 * b2n z.writing + b2n z.complete
  if s.cart.threaded then 16 * bits (vget s.cart.zones 1) + bits (vget s.cart.zones 0) else 0

/-- DAILIES_PROGRESS (R363). -/
def dailiesView (s : State) : Nat :=
  match s.sched.dailies with
  | some l => 100 * (s.sched.dailiesTotal - l.length) / max 1 s.sched.dailiesTotal
  | none => 0

/-- The image in force gives the object under a key a value (R48). -/
def imageGives (s : State) (k : Nat) : Bool :=
  s.boot.image.any (fun x => x.2.values.any (fun e => objKey e.1 e.2.1 == k))

/-- Energy in all accounts and the unassigned pool, in nJ (R445). -/
def totalEnergy (e : Energy) : Nat := e.accounts.toList.sum + e.pool

/-- The value an object shows: a computed view where one follows the engines' state, else the stored value (R57). -/
def viewObj (s : State) (i sub : Nat) : Nat :=
  let stored := obj s (objKey i sub)
  let dom : Dom := (indexDomain i).getD 0
  let port : PortId := if 0x2500 ≤ i ∧ i ≤ 0x25FF then .b else .a
  let lane : Lane := Fin.ofNat 4 (sub - 1)
  match canonIndex i, sub with
  | 0x1001, 0 => errorRegister s
  | 0x2000, 3 => s.boot.straps
  | 0x2140, 1 => stored
  | 0x2150, 1 => vget s.energy.times 0 % 2 ^ 64
  | 0x2150, 3 => vget s.energy.times 1 % 2 ^ 64
  | 0x2150, 5 => vget s.energy.times 2 % 2 ^ 64
  | 0x2160, 1 => totalEnergy s.energy / 1000 % 2 ^ 64
  | 0x2160, 3 => s.energy.converter / 1000 % 2 ^ 64
  | 0x2160, 5 => toBits 64 (openDiv s.energy.transport 1000)
  | 0x2160, 7 => vget s.energy.accounts 8 / 1000 % 2 ^ 64
  | 0x2160, 9 => s.energy.committed % 2 ^ 64
  | 0x2180, 1 => ecatStateView s
  | 0x2200, 1 => startupStatusView s
  | 0x2201, 1 => (activeSlot s).val
  | 0x2201, 2 => norStatusView s 0
  | 0x2201, 3 => norStatusView s 1
  | 0x2400, 1 => (portOf s port).state.code
  | 0x2401, 3 => if (portOf s port).state = .up then (portOf s port).curWidth else 0
  | 0x2401, 4 => if (portOf s port).state = .up then (portOf s port).laneMap else 0
  | 0x2402, _ => if sub = 0 then stored else laneStatusView (laneOf s port lane)
  | 0x2403, _ => if sub = 0 then stored else laneTapsView (laneOf s port lane)
  | 0x2404, _ => if sub = 0 then stored else laneCountsView (laneOf s port lane)
  | 0x2680, 2 => configuredMask s
  | 0x2800, 4 => commonFree s
  | 0x2802, 1 => s.dram.commonWait.length
  | 0x2802, 2 => s.dram.ceilingWait.length
  | 0x2803, 1 => ringFreeUnits s
  | 0x2803, 2 => recordsFree s
  | 0x2805, 2 => arbiterOwnerView s
  | 0x2A00, 3 => engineStatusView s
  | 0x2C00, 1 => s.cart.state.code
  | 0x2E01, 1 => channelStatusView s
  | 0x2E01, 7 => reallocView s
  | 0x2E02, 1 => servoStatusView s
  | 0x3400, 1 => s.xport.state.code
  | 0x3402, 1 => schedulerStatusView s
  | 0x3403, 4 => bedrockStatusView s
  | 0x3403, 6 => if s.cart.threaded then s.cart.index.status else 0
  | 0x3404, 3 => dailiesView s
  | 0x3405, 2 => s.kiln.copies.length
  | 0x3600, 5 => holdupStatusView s
  | 0x3602, 1 => journalStatusView s
  | 0x3800, 1 => pinBits (pinLevel s)
  | 0x3808, 3 => pdoInputsView s
  | 0x3808, 4 => eventLevelsView s
  | 0x3A00, 1 => faultSummary s
  | 0x4000, 1 => (domOf s dom).state.code
  | 0x4004, 2 => cutsPledged s dom
  | 0x4004, 3 => pinMaskView s dom
  | 0x4004, 5 => vget s.energy.accounts (account dom) / 1000 % 2 ^ 64
  | 0x4005, 1 => queueStatus s dom
  | 0x4006, 1 => pagesHeld s dom
  | 0x4006, 2 => linesUsed s dom
  | 0x4006, 3 => recordsUsed s dom
  | 0x4007, 3 => pinInView s dom
  | 0x6004, 1 => sealedView s 1 stored
  | 0x6004, 2 => sealedView s 2 stored
  | 0x6004, 3 => sealedView s 3 stored
  | 0x7001, 1 => selfTestView s
  | _, _ => stored

end Sys2Proof.Machine
end

