-- ==== Sys2Proof/Machine/Credits.lean ====
section
/-!
DEFINITION. The receive buffer of a port and the credits it gives (R113-R119).
-/
namespace Sys2Proof.Machine

/-- Receive capacities (R115, R127): RESP only for upstream transit on port B in DOWNSTREAM role. -/
def capacity (s : State) (p : PortId) : Credits :=
  { cmd := obj s (Obj.rxCreditCmd p), admin := obj s (Obj.rxCreditAdmin p), data := obj s (Obj.rxCreditData p)
    resp := if p = .b ∧ !(portOf s p).hostRole then obj s (Obj.rxCreditResp p) else 0 }

/-- The limit that the capacity allows; it never moves back (R114, R115). -/
def raised (limit consumed held cap : Nat) : Nat :=
  let next := (consumed + (cap - held)) % 65536
  if (next + 65536 - limit) % 65536 < 32768 then next else limit

/-- CMD, ADMIN and DATA limits stand still from power-fail detection on (R118). -/
def creditsFrozen (s : State) : Bool := s.power.failing

/-- Raise the limits of a port as its buffer allows: all but RESP stand still after power-fail detection (R118), and
CMD and DATA while the port drains (R119). -/
def raiseLimits (p : PortId) (s : State) : State :=
  let q := portOf s p
  let c := capacity s p
  let drain : Bool := q.state == .draining
  let frozen := creditsFrozen s
  let lim : Credits :=
    { cmd := if frozen || drain then q.rxLimit.cmd else raised q.rxLimit.cmd q.rxConsumed.cmd q.rxHeld.cmd c.cmd
      admin := if frozen then q.rxLimit.admin else raised q.rxLimit.admin q.rxConsumed.admin q.rxHeld.admin c.admin
      data := if frozen || drain then q.rxLimit.data else raised q.rxLimit.data q.rxConsumed.data q.rxHeld.data c.data
      resp := raised q.rxLimit.resp q.rxConsumed.resp q.rxHeld.resp c.resp }
  setPort p { q with rxLimit := lim, creditDue := q.creditDue || lim != q.rxLimit } s

/-- Units of one class. -/
def Credits.of (c : Credits) : CreditClass → Nat
  | .cmd => c.cmd | .admin => c.admin | .data => c.data | .resp => c.resp

/-- Credits with one class changed. -/
def Credits.upd (c : Credits) (k : CreditClass) (v : Nat) : Credits :=
  match k with
  | .cmd => { c with cmd := v } | .admin => { c with admin := v }
  | .data => { c with data := v } | .resp => { c with resp := v }

/-- A message has left the receive buffer: its units return and the limits rise (R115). -/
def returnUnits (p : PortId) (k : CreditClass) (n : Nat) (s : State) : State :=
  s |> modPort p (fun q => { q with rxHeld := q.rxHeld.upd k (q.rxHeld.of k - n) }) |> raiseLimits p

/-- Give back the units of an administrative message, from the class it was held in (R113, R115). -/
def returnAdmin (p : PortId) (n : Nat) (s : State) : State :=
  if n ≤ (portOf s p).rxHeld.admin then returnUnits p .admin n s else returnUnits p .cmd n s

/-- The port receives messages: it is UP or DRAINING (R95). -/
def portReceives (s : State) (p : PortId) : Bool :=
  match (portOf s p).state with
  | .up | .draining => true
  | _ => false

end Sys2Proof.Machine
end

