-- ==== Sys2Proof/Machine/LinkBytes.lean ====
section
/-!
DEFINITION. Link frames and messages as bytes: the common header and every message's fields, a frame's header, stream,
padding and CRC, its spread over lanes, and what a received frame is judged to be (R103-R108, R112).
-/
namespace Sys2Proof.Machine

/-! ### Messages (R107, R108) -/

/-- Zero bytes up to a multiple of 16 (R108). -/
def padTo16 (bytes : List Byte) : List Byte := bytes ++ List.replicate ((16 - bytes.length % 16) % 16) 0

/-- The common header (R107). -/
def messageHead (type units : Nat) (d : Dom) : List Byte := [BitVec.ofNat 8 type, BitVec.ofNat 8 units, BitVec.ofNat 8 d.val, 0]

/-- Bytes of a message as received: it is passed on as it came (R124). -/
def RxMsg.encode (m : RxMsg) : List Byte := [m.type, m.units, m.res2 ++ m.dom, m.res3] ++ m.rest

/-- DATA units of a message that carries `n` bytes (R108, R113). -/
def dataUnits (n : Nat) : Nat := 1 + ceilDiv n 16

/-- Class and units of a message to be sent (R107, R108, R113). -/
def txUnits : TxMsg → CreditClass × Nat
  | .cpl _ _ _ _ => (.resp, 2)
  | .data _ _ _ bytes _ => (.data, dataUnits bytes.length)
  | .regd _ _ _ _ _ => (.resp, 1)
  | .mgmt _ _ _ _ _ _ _ _ _ bytes => (.resp, 1 + ceilDiv (16 + bytes.length) 16)
  | .evt _ _ => (.resp, 2)
  | .relay _ _ _ paid m => (paid, m.units.toNat)

/-- Bytes of a message (R107). -/
def txBytes (m : TxMsg) : Nat := 16 * (txUnits m).2

/-- The bytes of a message (R6, R63, R107, R108, R139, R470). -/
def TxMsg.encode (m : TxMsg) : List Byte :=
  let units := (txUnits m).2
  match m with
  | .cpl d tag _ c =>
    messageHead 0x02 units d ++ leBytes 12 tag ++
      leBytes 16 (completionBits (BitVec.ofNat 8 c.opcode) (BitVec.ofNat 8 c.status) (BitVec.ofNat 8 c.flags)
        (BitVec.ofNat 8 c.detail) (BitVec.ofNat 32 c.count) (BitVec.ofNat 64 c.value)).toNat
  | .data d tag offset bytes last =>
    messageHead 0x03 units d ++ leBytes 2 tag ++ leBytes 2 bytes.length ++ leBytes 4 offset ++ leBytes 4 (b2n last) ++ padTo16 bytes
  | .regd d addr reqId status value =>
    messageHead 0x06 units d ++ leBytes 4 addr ++ leBytes 1 reqId ++ leBytes 3 status ++ leBytes 4 value
  | .mgmt d opcode status index sub tid segment total abort bytes =>
    messageHead 0x07 units d ++ leBytes 12 (16 + bytes.length) ++
      padTo16 (leBytes 1 opcode ++ leBytes 1 status ++ leBytes 2 index ++ leBytes 1 sub ++ leBytes 1 tid ++ leBytes 2 segment
        ++ leBytes 4 total ++ leBytes 4 abort ++ bytes)
  | .evt d e =>
    messageHead 0x08 units d ++ leBytes 12 0 ++
      leBytes 16 (eventBits (BitVec.ofNat 16 e.code) (BitVec.ofNat 8 e.unit) (BitVec.ofNat 8 e.severity)
        (BitVec.ofNat 32 e.detail) (BitVec.ofNat 64 e.time)).toNat
  | .relay _ _ _ _ m => RxMsg.encode m

/-- The bytes of a CREDIT, an ACK and a NAK (R108). -/
def creditBytes (c : Credits) : List Byte :=
  messageHead 0x09 1 0 ++ leBytes 2 c.cmd ++ leBytes 2 c.admin ++ leBytes 2 c.data ++ leBytes 2 c.resp ++ leBytes 4 0
/-- The bytes of an ACK (R108). -/
def ackBytes (seq : Nat) : List Byte := messageHead 0x0A 1 0 ++ leBytes 12 (seq % 65536)
/-- The bytes of a NAK (R108). -/
def nakBytes (seq reason : Nat) : List Byte := messageHead 0x0B 1 0 ++ leBytes 2 (seq % 65536) ++ leBytes 10 reason

/-- The uncredited messages of a frame (R106, R108). -/
def uncreditedBytes (ack : Option Nat) (nak : Option (Nat × Nat)) (credit : Option Credits) : List Byte :=
  (match ack with | some a => ackBytes a | none => []) ++ (match nak with | some n => nakBytes n.1 n.2 | none => []) ++
    (match credit with | some c => creditBytes c | none => [])

/-- Cut a message stream into messages by their UNITS; a message whose UNITS is zero ends the stream (R107, R109). -/
def cutStream : Nat → List Byte → List RxMsg
  | 0, _ => []
  | n + 1, bytes => match bytes with
    | t :: u :: d :: r :: rest =>
      let k := 16 * u.toNat - 4
      { type := t, units := u, dom := d.extractLsb' 0 3, res2 := d.extractLsb' 3 5, res3 := r, rest := rest.take k } ::
        (if u = 0 then [] else cutStream n (rest.drop k))
    | _ => []

/-- The type fields and body of a message to the device, and of the uncredited messages (R63, R108). -/
inductive RxBody where
  | cmd (tag : BitVec 7) (opcode : Byte) (body : CmdBody)
  | data (tag : BitVec 7) (offset : Word) (bytes : List Byte) (last : Bool)
  | regr (addr : Word) (reqId : Byte)
  | regw (addr : Word) (reqId : Byte) (value : Word)
  | mgmt (opcode : Byte) (m : MgmtReq) (bytes : List Byte)
  | credit (cmd admin data resp : Half)
  | ack (seq : Half)
  | nak (seq : Half) (reason : Byte)
deriving DecidableEq, Repr

/-- Little-endian field of a message: `n` bytes from byte `i` of the message (R6, R108). -/
def RxMsg.field (m : RxMsg) (i n : Nat) : Nat := ofLeBytes ((m.rest.drop (i - 4)).take n)

/-- A MGMT request body's fields (R63). -/
def mgmtFields (m : RxMsg) : MgmtReq :=
  let f := RxMsg.field m 17 1
  { complete := bitOf f 0, last := bitOf f 1, res1 := BitVec.ofNat 6 (f / 4), index := BitVec.ofNat 16 (RxMsg.field m 18 2)
    sub := BitVec.ofNat 8 (RxMsg.field m 20 1), transferId := BitVec.ofNat 8 (RxMsg.field m 21 1), segment := BitVec.ofNat 16 (RxMsg.field m 22 2)
    total := BitVec.ofNat 32 (RxMsg.field m 24 4), res12 := BitVec.ofNat 32 (RxMsg.field m 28 4) }

/-- A received message's fields; none for a type that does not reach a device (R108). Reserved bits are ignored (R8). -/
def RxMsg.body (m : RxMsg) : Option RxBody :=
  let tag : BitVec 7 := BitVec.ofNat 7 (RxMsg.field m 4 1)
  match m.type.toNat with
  | 0x01 => let c := CmdBody.decode (BitVec.ofNat 512 (RxMsg.field m 16 64)); some (.cmd tag c.1 c.2)
  | 0x03 => some (.data tag (BitVec.ofNat 32 (RxMsg.field m 8 4)) ((m.rest.drop 12).take (RxMsg.field m 6 2)) (bitOf (RxMsg.field m 12 1) 0))
  | 0x05 => some (.regr (BitVec.ofNat 32 (RxMsg.field m 4 4)) (BitVec.ofNat 8 (RxMsg.field m 8 1)))
  | 0x04 => some (.regw (BitVec.ofNat 32 (RxMsg.field m 4 4)) (BitVec.ofNat 8 (RxMsg.field m 8 1)) (BitVec.ofNat 32 (RxMsg.field m 12 4)))
  | 0x07 => some (.mgmt (BitVec.ofNat 8 (RxMsg.field m 16 1)) (mgmtFields m) ((m.rest.drop 28).take (RxMsg.field m 4 2 - 16)))
  | 0x09 => some (.credit (BitVec.ofNat 16 (RxMsg.field m 4 2)) (BitVec.ofNat 16 (RxMsg.field m 6 2)) (BitVec.ofNat 16 (RxMsg.field m 8 2))
      (BitVec.ofNat 16 (RxMsg.field m 10 2)))
  | 0x0A => some (.ack (BitVec.ofNat 16 (RxMsg.field m 4 2)))
  | 0x0B => some (.nak (BitVec.ofNat 16 (RxMsg.field m 4 2)) (BitVec.ofNat 8 (RxMsg.field m 6 1)))
  | _ => none

/-! ### Frames (R103-R106, R112) -/

/-- A frame header (R104): node fields that the direction reserves are zero. -/
def headerFor (kind fseq : Nat) (r : FrameRoute) (length : Nat) (u : Credits) : FrameHeader :=
  { kind := BitVec.ofNat 4 kind, version := 1, upstream := r.upstream, enum := r.enum, res1 := 0
    fseq := BitVec.ofNat 16 (if kind = 1 then fseq else 0), dest := if r.upstream then 0 else BitVec.ofNat 8 r.dest
    src := if r.upstream then BitVec.ofNat 8 r.src else 0, streamLength := BitVec.ofNat 16 length
    cmdUnits := BitVec.ofNat 8 u.cmd, adminUnits := BitVec.ofNat 8 u.admin, dataUnits := BitVec.ofNat 8 u.data
    respUnits := BitVec.ofNat 8 u.resp, res12 := 0 }

/-- The content of a link frame at a width: header, stream, zero padding and CRC, whose complement stomps it
(R103, R105, R112). -/
def frameContent (w : Nat) (h : FrameHeader) (stream : List Byte) (stomp : Bool) : List Byte :=
  let used := leBytes 16 (FrameHeader.encode h).toNat ++ stream
  let body := used ++ List.replicate (frameBytes w - 4 - used.length) 0
  let crc := crc32c body
  body ++ leBytes 4 (if stomp then ~~~crc else crc).toNat

/-- The content of the frame a port sends: what it sends on its own account travels by route `r` (R106). -/
def SentFrame.content (w : Nat) (r : FrameRoute) : SentFrame → List Byte
  | .nothing => []
  | .fill => frameContent w (headerFor 2 0 r 0 .zero) [] false
  | .control ack nak credit =>
    let stream := uncreditedBytes ack nak credit
    frameContent w (headerFor 2 0 r stream.length .zero) stream false
  | .sequenced fseq route msgs units ack nak credit =>
    let stream := uncreditedBytes ack nak credit ++ msgs.flatMap TxMsg.encode
    frameContent w (headerFor 1 fseq route stream.length units) stream false
  | .stomped fseq route msgs =>
    let stream := msgs.flatMap TxMsg.encode
    frameContent w (headerFor 1 fseq route stream.length .zero) stream true

/-- The share of logical lane `i` in a frame's content (R103). -/
def laneShare (w i : Nat) (content : List Byte) : List Byte :=
  (List.range 1008).map (fun j => content.getD (4 * w * (j / 4) + 4 * i + j % 4) 0)

/-- A frame's content out of its lanes' shares, logical lane 0 first (R103). -/
def joinShares (shares : List (List Byte)) : List Byte :=
  (List.range (frameBytes shares.length)).map (fun k =>
    let place := contentPlace shares.length k
    (shares.getD place.1 []).getD place.2 0)

/-- A received frame: what it is judged to be by its CRC and its lanes, its header, and its messages (R104, R105, R107). -/
def readFrame (content : List Byte) (laneBad : Bool) : FrameQuality × FrameHeader × List RxMsg :=
  let body := content.take (content.length - 4)
  let stored := ofLeBytes (content.drop (content.length - 4))
  let crc := crc32c body
  let h := FrameHeader.decode (BitVec.ofNat 128 (ofLeBytes (body.take 16)))
  (if stored = (~~~crc).toNat then .stomped else if stored = crc.toNat ∧ !laneBad then .good else .bad, h,
   cutStream (h.streamLength.toNat / 16) ((body.drop 16).take h.streamLength.toNat))

end Sys2Proof.Machine
end

