-- ==== Sys2Proof/Machine/Access.lean ====
section
/-!
DEFINITION. Access to the dictionary (R51-R62, R540): who may write, the order in which an access is refused, the codes
a refusal carries on each path, and the answers.
-/
namespace Sys2Proof.Machine

/-- Why an access is refused (R58). -/
inductive Reason where
  | indexAbsent | subAbsent | writeRo | readWo | notOwner | length | range | limit | invalidField | state | stale
  | locked | kilnRange | notMappable | badOpcode | noComplete
deriving DecidableEq, Repr

/-- Link status of a refusal (R58). -/
def Reason.link : Reason → Nat
  | .indexAbsent | .subAbsent | .length | .range | .limit | .notMappable => 0x12
  | .writeRo | .readWo | .notOwner | .kilnRange => 0x1A
  | .invalidField | .noComplete => 0x10
  | .state | .locked => 0x18
  | .stale => 0x19
  | .badOpcode => 0x11

/-- SDO abort code of a refusal (R58). -/
def Reason.abort : Reason → Nat
  | .indexAbsent => 0x06020000
  | .subAbsent => 0x06090011
  | .writeRo => 0x06010002
  | .readWo => 0x06010001
  | .notOwner => 0x06010000
  | .length => 0x06070010
  | .range => 0x06090030
  | .limit => 0x06090031
  | .invalidField => 0x06090030
  | .state => 0x08000022
  | .stale => 0x08000022
  | .locked => 0x08000021
  | .kilnRange => 0x08000020
  | .notMappable => 0x06040041
  | .badOpcode => 0x05040001
  | .noComplete => 0x06010000

/-- The first reason whose test holds: the order of R540. -/
def firstReason : List (Bool × Reason) → Option Reason
  | [] => none
  | (b, r) :: rest => if b then some r else firstReason rest

/-! ### Who may write -/

/-- The path is enabled in WRITE_PATHS (R52). -/
def pathEnabled (s : State) : Writer → Bool
  | .sdo | .rxpdo => bitOf (obj s Obj.writePaths) 0
  | .regw _ _ _ | .mgmt _ _ _ => bitOf (obj s Obj.writePaths) 1

/-- The writer has integrator rank: the EtherCAT master, or the administrative domain on a bound port (R51). -/
def integratorRank (s : State) : Writer → Bool
  | .sdo | .rxpdo => true
  | .regw p d _ | .mgmt p d _ => isAdmin s d && bound s d p

/-- The writer owns the object (R51): by its Owner and, for a domain, by its own block. -/
def ownerAllows (s : State) (w : Writer) (i : Nat) (o : Owner) : Bool :=
  match o with
  | .nobody | .cp => false
  | .integrator | .kiln => integratorRank s w
  | .domain => integratorRank s w ||
    (match w with
     | .regw p d _ => indexDomain i == some d && bound s d p
     | _ => false)

/-! ### Process data -/

/-- Object and bit length a mapping entry names (R67): index, subindex. -/
def mappingTarget (v : Nat) : Nat × Nat := (v / 0x10000 % 0x10000, v / 0x100 % 0x100)

/-- The RxPDO numbers assigned to SM2 (R66, R67). -/
def assignedRx (s : State) : List Nat :=
  ((List.range (obj s (objKey 0x1C12 0))).map (fun j => obj s (objKey 0x1C12 (j + 1)))).filterMap
    (fun v => if 0x1600 ≤ v ∧ v ≤ 0x1607 then some (v - 0x1600) else none)

/-- The objects RxPDO `n` maps, in order; an entry of value 0 names none. -/
def rxEntries (s : State) (n : Nat) : List (Nat × Nat) :=
  (((List.range (obj s (objKey (0x1600 + n) 0))).map (fun j => obj s (objKey (0x1600 + n) (j + 1)))).filter (· != 0)).map
    mappingTarget

/-- The object is mapped into an assigned RxPDO. -/
def mappedRx (s : State) (i sub : Nat) : Bool := (assignedRx s).any (fun n => (rxEntries s n).any (fun e => e == (i, sub)))

/-- The object is mapped into an assigned RxPDO while the slave is in SAFEOP or OP (R68). -/
def pdoLocked (s : State) (i sub : Nat) : Bool := (s.ecat.al == .safeop || s.ecat.al == .op) && mappedRx s i sub

/-- RXPDO_SOURCES designates RxPDO `n` while Kiln is SEALED, so its mapping and its 0x1C12 entries are locked (R68). -/
def kilnPdoLocked (s : State) (i sub : Nat) : Bool :=
  kilnSeen s == 1 &&
    ((0x1600 ≤ i && i ≤ 0x1607 && bitOf (obj s Obj.rxpdoSources) (i - 0x1600))
      || (i == 0x1C12 && (if sub = 0 then obj s Obj.rxpdoSources != 0 else
          (let v := obj s (objKey 0x1C12 sub)
           0x1600 ≤ v && v ≤ 0x1607 && bitOf (obj s Obj.rxpdoSources) (v - 0x1600)))))

/-! ### The order of R540 -/

/-- Steps 2 to 5 of R540 for a write: presence, Kiln's range, access right, owner and path. -/
def accessChecks (s : State) (w : Writer) (i sub : Nat) : List (Bool × Reason) :=
  let row := findObj i sub
  [ (!indexPresent i, .indexAbsent),
    (row.isNone, .subAbsent),
    (0x6000 ≤ i && i ≤ 0x60FF && !(procedureOpen s && i == 0x6004 && 1 ≤ sub), .kilnRange),
    ((row.map (·.access)).getD .ro == .ro, .writeRo),
    (!(pathEnabled s w && ownerAllows s w i ((row.map (·.owner)).getD .nobody)), .notOwner) ]

/-- The value as the object's type reads it. -/
def typedValue (i sub v : Nat) : Int :=
  match findObj i sub with
  | some r => if r.type.signed then ofBits r.type.width v else (v : Int)
  | none => v

/-- The width of an object's type. -/
def typeWidth (i sub : Nat) : Nat := ((findObj i sub).map (fun r => r.type.width)).getD 0

/-- A mapping entry names an object its direction may not map, or one that is absent (R67, R394, R537). An entry of value 0
names none and is accepted: the model's choice (DESIGN CHOICE, log entry 142). -/
def unmappable (i sub v : Nat) : Bool :=
  let t := mappingTarget v
  v != 0 && 1 ≤ sub &&
    ((0x1600 ≤ i && i ≤ 0x1607 && !rxMappable (i - 0x1600) t.1 t.2)
      || (0x1A00 ≤ i && i ≤ 0x1A07 && !txMappable t.1 t.2))

/-- The mapping and assignment objects, written only in PREOP (R47). -/
def isPdoSetup (i : Nat) : Bool :=
  (0x1600 ≤ i && i ≤ 0x1607) || (0x1A00 ≤ i && i ≤ 0x1A07) || i == 0x1C12 || i == 0x1C13

/-! ### Answers and refusals -/

/-- The detail object of a writer's path (R59). -/
def detailKey : Writer → Nat
  | .sdo | .rxpdo => Obj.refusalDetailField
  | .regw _ _ _ | .mgmt _ _ _ => Obj.refusalDetailLink

/-- STATE and GEN of the unit, where the object is a state object (R59). -/
def unitAt (s : State) (i sub : Nat) : Option (Nat × Nat) :=
  if (canonIndex i = 0x2400 ∨ i = 0x2C00 ∨ i = 0x3400 ∨ canonIndex i = 0x4000 ∨ i = 0x6000) ∧ 1 ≤ sub ∧ sub ≤ 4 then
    some (viewObj s i 1, obj s (Obj.unitGen i))
  else none

/-- Write the detail word of a refusal (R59). -/
def refusalDetail (key i sub status : Nat) (s : State) : State :=
  let unit := if status = 0x18 ∨ status = 0x19 then unitAt s i sub else none
  let st := (unit.map (·.1)).getD 0
  let gen := (unit.map (·.2)).getD 0
  let count := min (obj s key % 256 + 1) 0xFF
  setObj key (2 ^ 48 * (i % 65536) + 2 ^ 40 * (sub % 256) + 2 ^ 32 * status + 2 ^ 16 * gen + 2 ^ 8 * st + count) s

/-- The object is a 64-bit one: it takes two window words (R45, R61). -/
def isWide (i sub : Nat) : Bool := typeWidth i sub == 64

/-- The word a REGR of a window address returns: the object's value, sign-extended; `upper` selects bits 63:32 of a 64-bit
object (R60-R62). A WO object has none. -/
def windowWord (s : State) (i sub : Nat) (upper : Bool) : Nat :=
  match findObj i sub with
  | some r =>
    if r.access = .wo then 0
    else if upper then viewObj s i sub / 2 ^ 32
    else if r.type.signed && r.type.width < 32 then toBits 32 (ofBits r.type.width (viewObj s i sub))
    else viewObj s i sub % 2 ^ 32
  | none => 0

/-- Answer a write: the REGD, the MGMT response or the SDO reply; a 64-bit object's REGW ends with its upper word
(R58, R61-R63). -/
def answer (w : Writer) (i sub : Nat) (r : Option Reason) (s : State) : State :=
  let status := (r.map Reason.link).getD 0
  let abort := (r.map Reason.abort).getD 0
  match w with
  | .sdo => { s with ecat := { s.ecat with reply := if r = none then .sdoDone [] else .sdoAbort abort } }
  | .rxpdo => s
  | .regw p d reqId =>
    let addr := windowAddr i (if isWide i sub then sub + 1 else sub)
    sendMsg p (.regd d addr reqId.toNat status (windowWord s i sub (isWide i sub))) s
  | .mgmt p d tid =>
    let t := (portOf s p).transfer
    sendMsg p (.mgmt d 0x82 status i sub tid.toNat ((t.map (·.next)).getD 0) ((t.map (·.total)).getD (typeWidth i sub / 8))
      abort []) s

/-- Refuse an access: detail word and answer, nothing else (R58, R59). -/
def refuse (w : Writer) (i sub : Nat) (r : Reason) (s : State) : State :=
  s |> refusalDetail (detailKey w) i sub r.link |> answer w i sub (some r)

/-! ### Arrival of a request -/

/-- Administrative units of a MGMT message with `n` data bytes (R107, R108). -/
def mgmtUnits (n : Nat) : Nat := 1 + ceilDiv (16 + n) 16

/-- Any other REGR or REGW of a port discards its capture and its held word (R61). -/
def dropPair (p : PortId) (s : State) : State := modPort p (fun q => { q with capture := none, held := none }) s

/-- The mailbox serves CoE: from PREOP on, outside BOOT (R65, R75). -/
def coeServed (s : State) : Bool :=
  match s.ecat.al with
  | .preop | .safeop | .op => true
  | _ => false

/-- What a MGMT request for another transfer than the open one is refused with, after the checks of its access (R64). -/
def transferClash (q : Port) (tid : Byte) : List (Bool × Reason) :=
  [(q.transfer.any (fun t => t.transferId != tid.toNat), .state), (q.transfer.isSome, .invalidField)]

/-- A write request of `n` data bytes arrives whole: its message leaves the receive buffer of a port that receives (R95,
R115), an SDO is served by the mailbox; it meets an open MGMT transfer as R64 says, else `f` runs. Process data reaches
mapped objects in OP (R68, R75). -/
def arrive (w : Writer) (i sub n : Nat) (f : State → State) (s : State) : State :=
  match w with
  | .sdo => if coeServed s then f s else s
  | .rxpdo => if s.ecat.al == .op && mappedRx s i sub then f s else s
  | .regw p _ _ => if portReceives s p then s |> dropPair p |> returnAdmin p 1 |> f else s
  | .mgmt p _ tid =>
    if portReceives s p then
      let s1 := returnAdmin p (mgmtUnits n) s
      if (portOf s1 p).transfer.isSome then
        match firstReason (accessChecks s1 w i sub ++ transferClash (portOf s1 p) tid) with
        | some r => refuse w i sub r s1
        | none => s1
      else
        s1 |> modPort p (fun q => { q with transfer := some ⟨true, tid.toNat, i, sub, false, n, 0, []⟩ }) |> f
          |> modPort p (fun q => { q with transfer := none })
    else s

/-- A write of a whole object's value arrives. -/
def arriveValue (w : Writer) (i sub : Nat) (f : State → State) (s : State) : State :=
  arrive w i sub (typeWidth i sub / 8) f s

/-- A word written to a STATE_REQUEST (R29). -/
def requestWord (action gen : Nat) : Nat := 0x10000 * action + gen

/-- A state request of a unit: the access checks, then R33's checks in order; the result object and the answer
(R33, R56). `legal` says whether the unit has a transition for the action, `within` whether the limits hold. -/
def stateRequest (w : Writer) (i action gen maxAction : Nat) (legal within : Bool) (f : State → State) (s : State) :
    State :=
  match firstReason (accessChecks s w i 3) with
  | some r => refuse w i 3 r s
  | none =>
    match firstReason [
      ((requestWord action gen) &&& 0xFF000000 != 0 || action == 0 || maxAction < action, .invalidField),
      (gen != obj s (Obj.unitGen i), .stale),
      (!legal, .state),
      (!within, .limit)] with
    | some r => s |> setObj (Obj.unitResult i) r.link |> refuse w i 3 r
    | none => answer w i 3 none (f (setObj (Obj.unitResult i) 0 s))

end Sys2Proof.Machine
end

