-- ==== Sys2Proof/Machine/PortOps.lean ====
section
/-!
DEFINITION. Operations on link ports and lanes that several commands share (R77-R100, R113-R119).
-/
namespace Sys2Proof.Machine

/-- A row of the equalisation table: swing in mVppd, pre-cursor, post-cursor and CTLE boost (R87). -/
structure EqRow where
  swing : Nat
  pre : Nat
  post : Nat
  boost : Nat
deriving DecidableEq, Repr

/-- The equalisation table (R87). -/
def eqRow (n : Nat) : EqRow :=
  match n with
  | 0 => ⟨600, 0, 0, 0⟩ | 1 => ⟨700, 0, 4, 3⟩ | 2 => ⟨800, 2, 8, 5⟩ | 3 => ⟨900, 3, 12, 7⟩ | 4 => ⟨1000, 4, 16, 9⟩
  | 5 => ⟨1000, 5, 20, 11⟩ | 6 => ⟨1000, 6, 24, 13⟩ | _ => ⟨1000, 8, 24, 15⟩

/-- A lane with the taps of its port's table row (R87). -/
def LaneRt.withTable (row : EqRow) (l : LaneRt) : LaneRt :=
  { l with swing := row.swing, txPre := row.pre, txPost := row.post, rxBoost := row.boost }

/-- KIND of the last valid lane word, 0 before the first (R85). -/
def LaneRt.wordKind (l : LaneRt) : Nat := (l.word.map (·.kind.toNat)).getD 0
/-- RX_LOCKED of the last valid lane word. -/
def LaneRt.wordLocked (l : LaneRt) : Nat := (l.word.map (·.rxLocked.toNat)).getD 0
/-- Lanes of its TX_WIDTH, 0 before the first. -/
def LaneRt.wordWidth (l : LaneRt) : Nat := (l.word.map (fun w => widthOfCode w.txWidth)).getD 0

/-- The receiver of a lane is aligned and free of LOS and LOL: its RX_LOCKED bit (R85). -/
def LaneRt.locked (l : LaneRt) : Bool :=
  !l.los && !l.lol && (match l.state with
    | .deskew | .active | .standby => true
    | _ => false)

/-- RX_LOCKED mask of a port (R85). -/
def lockMask (q : Port) : Nat := (allLanes.map (fun l => if (vget q.lanes l).locked then 2 ^ l.val else 0)).sum

/-- The partner's mask: RX_LOCKED of the last valid lane word on the lowest locked lane (R85, R92). -/
def partnerMask (q : Port) : Nat :=
  match allLanes.find? (fun l => (vget q.lanes l).locked) with
  | some l => (vget q.lanes l).wordLocked
  | none => 0

/-- Both ends lock the lane, within the configured width (R92). -/
def common (q : Port) (l : Lane) : Bool := l.val < q.width && bitOf (lockMask q &&& partnerMask q) l.val

/-- The lanes of M in order (R92). -/
def commonLanes (q : Port) : List Lane := allLanes.filter (common q)

/-- The largest power of two of 1, 2 and 4 that is at most a count, 0 for none (R92). -/
def widthFor (n : Nat) : Nat := if 4 ≤ n then 4 else if 2 ≤ n then 2 else if 1 ≤ n then 1 else 0

/-- LANE_MAP of the first lanes of a list (R92, R101). -/
def mapOf : Nat → List Lane → Nat
  | _, [] => 0
  | i, l :: ls => 4 ^ i * l.val + mapOf (i + 1) ls

/-- Carry the port on the first `w` common lanes; the other locked ones stand by (R92, R94). -/
def assignLanes (w : Nat) (q : Port) : Port :=
  let used := (commonLanes q).take w
  { q with
    laneMap := mapOf 0 used
    lanes := Vector.ofFn (fun l =>
      let x := vget q.lanes l
      if used.contains l then { x with state := .active, alone := false }
      else if x.locked then { x with state := .standby, alone := false } else x) }

/-- Take LANE_RATE, CONFIGURED_WIDTH, EQ_TABLE and ACCEPT_TAP_REQUESTS into force (R101). -/
def takeLaneConfig (p : PortId) (s : State) : State :=
  modPort p (fun q => { q with
    rate := obj s (Obj.laneRate p), width := obj s (Obj.configuredWidth p), eqTable := obj s (Obj.eqTable p)
    acceptTaps := objBool s (Obj.acceptTapRequests p) }) s

/-- Take the lane settings and PORT_B_ROLE into force (R101, R128). -/
def takeLinkConfig (p : PortId) (s : State) : State :=
  s |> takeLaneConfig p |> modPort p (fun q => { q with hostRole := p == .b && obj s Obj.portBRole == 1 })

/-- A lane starts a full training in LOCK with its own clapper burst; taps from the table unless kept (R87, R94). -/
def trainLane (s : State) (p : PortId) (keep : Bool) (x : LaneRt) : LaneRt :=
  let y := { x.burst with state := .lock, retries := 0, alone := false, tapUnanswered := false, skew := 0, advertised := 0
                          lockLeft := 0, missed := 0 }
  if keep then y else LaneRt.withTable (eqRow (portOf s p).eqTable) y

/-- Start a full training of a port: every lane of the configured width in LOCK, or, unless a request forces it there, a
lane with LOS in LISTEN; the other lanes are OFF (R78, R93, R95). -/
def fullTraining (p : PortId) (keep force : Bool) (s : State) : State :=
  let s1 := takeLinkConfig p s
  s1 |> modLanes p (fun l x =>
        if l.val < (portOf s1 p).width then
          if x.los && !force then { x with state := .listen, alone := false } else trainLane s1 p keep x
        else { x with state := .off, alone := false })
     |> modPort p (fun q => { q with fullTraining := true, keepTaps := keep, narrowing := false, eotSent := false, eotSeen := false,
                                     goal := .none, curWidth := 0 })
     |> enterPort p .training

/-- A transmitter that loses its lanes sends the frame it has begun stomped: the frame leaves the retry buffer, its messages
go first again, and its FSEQ is used again (R112). -/
def stompBegun (q : Port) : Port :=
  match q.sent with
  | .sequenced fseq route msgs _ _ _ _ =>
    if q.retry.getLast?.map (·.fseq) = some fseq then
      { q with retry := q.retry.dropLast, replaying := msgs ++ q.replaying, txNext := fseq, sent := .stomped fseq route msgs }
    else q
  | _ => q

/-- The port loses its link: LINK_DOWN, the retry buffer kept, and a training that follows (R95, R112). -/
def linkDown (p : PortId) (keep : Bool) (s : State) : State :=
  s |> modPort p stompBegun |> fullTraining p keep false |> postEvent 0x0202 (unitPort p) 0

/-- LINK_NARROWED or LINK_WIDENED with width and map, and CURRENT_WIDTH (R97, R476). -/
def reportWidth (p : PortId) (code w : Nat) (s : State) : State :=
  s |> modPort p (fun q => { q with curWidth := w, narrowing := false })
    |> (fun t => postEvent code (unitPort p) (w + 0x100 * (portOf t p).laneMap) t)

/-- A lane was lost while others stay: transmit at the width of the new M (R96); the report follows when the partner's
frames come at that width, or at once where they already do. -/
def narrow (p : PortId) (s : State) : State :=
  let q := portOf s p
  let w := widthFor (commonLanes q).length
  if w = 0 then linkDown p true s
  else
    let s1 := setPort p { assignLanes w q with narrowing := w != q.curWidth } s
    if w = q.curWidth then s1
    else if (commonLanes q).all (fun l => (vget q.lanes l).wordWidth ≤ w) then reportWidth p 0x0204 w s1
    else s1

/-- No lane of a port in UP is left aligned: to LISTEN with LOS on every lane, else to TRAINING (R95). -/
def portLost (p : PortId) (s : State) : State :=
  let q := portOf s p
  if allLanes.all (fun k => k.val ≥ q.width || (vget q.lanes k).los) then
    s |> modPort p stompBegun
      |> modLanes p (fun k x => if k.val < q.width then { x with state := .listen, alone := false } else x)
      |> modPort p (fun q => { q with curWidth := 0, narrowing := false, keepTaps := true })
      |> enterPort p .listen |> postEvent 0x0202 (unitPort p) 0
  else linkDown p true s

/-- After a lane of a running port was lost (R95, R96). -/
def laneLost (p : PortId) (l : Lane) (s : State) : State :=
  let q := portOf s p
  let others := allLanes.any (fun k => k != l && (vget q.lanes k).locked)
  let wait : State := modLane p l (fun x => { x with state := .retrainWait, alone := false }) s
  match q.state with
  | .up => if others then narrow p wait else portLost p s
  | _ => wait

/-- The lanes that carry the port (R94). -/
def activeLanes (q : Port) : List Lane := allLanes.filter (fun l => (vget q.lanes l).state == .active)

/-- A port back in UP answers what its lanes lost while it drained: no lane left, or fewer than before (R95, R96). -/
def settleUp (p : PortId) (s : State) : State :=
  let q := portOf s p
  if allLanes.all (fun k => !(vget q.lanes k).locked) then portLost p s
  else if (activeLanes q).length ≠ q.curWidth then narrow p s else s

/-- Every lane back in LISTEN during training: the port is in LISTEN and reports the phase (R93, R95). -/
def trainFailed (p : PortId) (phase : LaneState) (s : State) : State :=
  let q := portOf s p
  if q.state = .training ∧ allLanes.all (fun l => l.val ≥ q.width || (vget q.lanes l).state == .listen) then
    s |> modPort p (fun q => { q with keepTaps := false }) |> enterPort p .listen |> postEvent 0x0203 (unitPort p) phase.code
  else s

/-- A training lane falls back: to RETRAIN_WAIT in a lone retrain, else to LISTEN (R93, R94). -/
def laneFallback (p : PortId) (l : Lane) (s : State) : State :=
  let x := laneOf s p l
  if x.alone then modLane p l (fun x => { x with state := .retrainWait, alone := false }) s
  else s |> modLane p l (fun x => { x with state := .listen }) |> trainFailed p x.state

/-- `need` units may be sent: (LIMIT - CONSUMED) mod 65,536 suffices and is below 32,768 (R114). -/
def creditAllows (limit used need : Nat) : Bool :=
  let avail := (limit + 65536 - used % 65536) % 65536
  need ≤ avail && avail < 32768

/-- Port counts start afresh when the port leaves DISABLED (R114). -/
def freshCounts (q : Port) : Port :=
  { q with rxExpected := 0, nakSent := false, nakAge := 0, nakDue := none, unacked := 0, ackDue := false, txNext := 0, retry := []
           replaying := [], replays := 0, replayOf := 0, rxConsumed := .zero, rxHeld := .zero, rxLimit := .zero, creditDue := false
           txLimit := .zero, txUsed := .zero }

/-- DISABLED to LISTEN: the lanes of the configured width enter LISTEN (R94, R95). The rate, the table and the role stay as they
are in force until the full training that follows (R101, R128). DEDUCED: LOS reads 1 on every lane from here until a signal is
detected, without counting in LOS_EVENTS; the spec does not say what LOS reads on a lane just enabled (log entry 130). -/
def enablePort (p : PortId) (s : State) : State :=
  let s1 := modPort p (fun q => { freshCounts q with width := obj s (Obj.configuredWidth p) }) s
  s1 |> modLanes p (fun l x => { x with
            state := if l.val < (portOf s1 p).width then .listen else .off
            los := true, lol := false, rxInverted := false, tapUnanswered := false, skew := 0, retries := 0, alone := false
            requesting := false, tapStatus := 0, word := none, advertised := 0, missed := 0, lockLeft := 0, loop := .none
            txLine := [], rxContent := [], rxBad := false })
     |> enterPort p .listen

/-- To DISABLED: transmitters in electrical idle (R94, R95). -/
def disablePort (p : PortId) (s : State) : State :=
  s |> modLanes p (fun _ x => { x with state := .off, alone := false, loop := .none, lockLeft := 0, txLine := [] })
    |> modPort p (fun q => { q with goal := .none, eotSent := false, eotSeen := false, curWidth := 0 })
    |> enterPort p .disabled

/-- To LOOPBACK: the lanes of the configured width loop, and start their training in LOCK (R94, R100). -/
def enterLoopback (p : PortId) (m : LoopMode) (s : State) : State :=
  let s1 := takeLaneConfig p s
  s1 |> modLanes p (fun l x =>
          if l.val < (portOf s1 p).width then
            { x with state := .loopback, alone := false, loop := .lock, lockLeft := 0, missed := 0, txLine := [] }
          else { x with state := .off, alone := false, loop := .none, lockLeft := 0, txLine := [] })
     |> modPort p (fun q => { q with goal := .loopback m, curWidth := 0 })
     |> enterPort p .loopback

/-- To IDLE: LINK_IDLE, raised while the port still drains so that it does not itself end the idle, and transmitters in
electrical idle (R94, R95, R98, R473). -/
def enterIdle (p : PortId) (s : State) : State :=
  s |> postEvent 0x0206 (unitPort p) 0
    |> modLanes p (fun _ x => match x.state with
        | .active | .standby => { x with state := .idle, txLine := [] }
        | _ => x)
    |> modPort p (fun q => { q with goal := .none, idleWidth := q.curWidth })
    |> enterPort p .idle

/-- Ask a port in UP for idle: it drains and sends its markers at its quiescent point (R95, R98). -/
def startIdle (p : PortId) (s : State) : State :=
  s |> modPort p (fun q => { q with goal := .idle, eotSent := false, eotSeen := false }) |> enterPort p .draining

/-- An idle entry is cancelled: back to UP (R95, R98). -/
def cancelIdle (p : PortId) (s : State) : State :=
  s |> modPort p (fun q => { q with goal := .none, eotSent := false, eotSeen := false }) |> enterPort p .up
    |> raiseLimits p |> settleUp p

/-- The exit from P2 starts: POWER_STATE reads 0x2 below and 0x0 above (R184, R185). -/
def leaveP2 (s : State) : State :=
  if obj s Obj.powerState % 16 = 2 then setObj Obj.powerState 0x02 s else s

end Sys2Proof.Machine
end

