-- ==== Sys2Proof/Machine/LaneLine.lean ====
section
/-!
DEFINITION. The lanes of a port on the line: the lane words a port sends, the line bits of a lane frame period, and what a
receiver takes from a line (R81-R86, R90, R92, R94, R96, R100, R103).
-/
namespace Sys2Proof.Machine

/-! ### Sending -/

/-- KIND a lane sends (R85, R89, R92, R100). -/
def laneKind (x : LaneRt) : Nat :=
  match x.state with
  | .listen | .lock => 1
  | .align => 2
  | .equalize => 3
  | .deskew => 4
  | .loopback => (match x.loop with | .lock => 1 | .align => 2 | .deskew => 4 | .none | .run => 6)
  | .off | .active | .standby | .retrainWait | .idle => 5

/-- The lane sends lane frames of its own: in training, running or standing by, after a burst in LISTEN, and in a near-end
loopback; in far-end loopback it sends what it receives (R92, R94, R100). -/
def transmits (goal : PortGoal) (x : LaneRt) : Bool :=
  match x.state with
  | .lock | .align | .equalize | .deskew | .active | .standby => true
  | .listen => x.lockLeft != 0
  | .loopback => goal != .loopback .fe
  | .off | .retrainWait | .idle => false

/-- The lanes of a near-end loopback that carry its fill frames (R100). -/
def loopLanes (q : Port) : List Lane :=
  let r := allLanes.filter (fun l => (vget q.lanes l).state == .loopback && (vget q.lanes l).loop == .run)
  r.take (widthFor r.length)

/-- The lanes that carry the link frame a port sends, logical lane 0 first (R92, R96). -/
def carriers (q : Port) : List Lane := if q.state = .loopback then loopLanes q else activeLanes q

/-- The code of a width in a lane word (R85); a port without a width yet sends code 0 (log entry 131). -/
def codeOfWidth (w : Nat) : BitVec 2 := if w = 4 then 2 else if w = 2 then 1 else 0

/-- The lane word a port sends on a lane (R85, R88, R96). -/
def ownWord (s : State) (p : PortId) (l : Lane) : LaneWord :=
  let q := portOf s p
  let x := vget q.lanes l
  let req := obj s (Obj.partnerTapRequest p l.val)
  { kind := BitVec.ofNat 4 (laneKind x), lane := BitVec.ofNat 2 l.val, rate := BitVec.ofNat 2 q.rate
    rxLocked := BitVec.ofNat 4 (lockMask q), txWidth := codeOfWidth (carriers q).length
    rxWidth := codeOfWidth (widthFor (commonLanes q).length)
    reqPre := BitVec.ofNat 4 (if x.requesting then fieldOf req 5 4 else 0)
    reqPost := BitVec.ofNat 5 (if x.requesting then fieldOf req 0 5 else 0), reqValid := x.requesting
    curPre := BitVec.ofNat 4 x.txPre, curPost := BitVec.ofNat 5 x.txPost, tapStatus := BitVec.ofNat 2 x.tapStatus
    frameSeq := BitVec.ofNat 8 q.frameSeq }

/-- What a lane carries of a link frame: its share, or empty content, zeros, where it carries none (R92, R103, log
entry 131). -/
def laneContent (q : Port) (content : List Byte) (l : Lane) : List Byte :=
  let cs := carriers q
  if cs.contains l && content != [] then laneShare cs.length (cs.idxOf l) content else List.replicate 1008 0

/-- The lane frame of a lane before filler (R81-R85). -/
def ownFrame (s : State) (p : PortId) (content : List Byte) (l : Lane) : BitVec 58 × List Bool × Nat :=
  laneFrame (laneOf s p l).scrambler (ownWord s p l).encode (laneContent (portOf s p) content l)

/-- Put one lane frame on every transmitting lane, with filler up to the most stuffed bits of any; a LOCK frame of a burst in
LISTEN counts down (R84, R94). In far-end loopback a lane keeps what it passes on (R100). -/
def putLaneFrames (p : PortId) (content : List Byte) (s : State) : State :=
  let q := portOf s p
  let on : List Lane := allLanes.filter (fun l => transmits q.goal (vget q.lanes l))
  let most := ((on.map (fun l => (ownFrame s p content l).2.2)).max?).getD 0
  modLanes p (fun l x =>
    if on.contains l then
      let f := ownFrame s p content l
      { x with scrambler := f.1, txLine := f.2.1 ++ filler (most - f.2.2), lockLeft := x.lockLeft - 1 }
    else if x.state = .loopback then x else { x with txLine := [] }) s

/-- Every transmitter of a port in electrical idle (R366). -/
def silence (p : PortId) (s : State) : State := modLanes p (fun _ x => { x with txLine := [] }) s

/-- The end-of-transmission markers on all active lanes (R83, R98). -/
def putEotMarkers (p : PortId) (s : State) : State :=
  modLanes p (fun _ x => if x.state = .active then { x with txLine := bitsMsb eotMarker } else x) s

/-- LOCK frames in the 4 ms after a burst in LISTEN, at 8,192 UI each (R84, R94). -/
def lockFrames (rate : Nat) : Nat := (openDiv (38400000 / 2 ^ rate : Nat) 8192).toNat

/-! ### Receiving -/

/-- A lane's received line, its inversion undone (R90). -/
def uninverted (x : LaneRt) (line : List Bool) : List Bool := if x.rxInverted then line.map not else line

/-- The values of a valid lane word are kept (R85, R102). -/
def takeLaneWord (w : LaneWord) (x : LaneRt) : LaneRt :=
  { x with word := some w, partnerPre := w.curPre.toNat, partnerPost := w.curPost.toNat }

/-- The line after the marker of the next lane frame, which is looked for within 288 line bits (R84). -/
def afterMarker (x : LaneRt) (line : List Bool) : Option (List Bool) := findMarker 289 (uninverted x line)

/-- A lane that found its marker takes the lane frame: descrambler, content and badness, and the lane word where its CRC passes,
with that word (R81, R82, R84, R85). -/
def takeLaneFrame (x : LaneRt) (rest : List Bool) : LaneRt × Option LaneWord :=
  let r := readLaneFrame x.descrambler rest
  let y := { x with missed := 0, descrambler := r.1, rxContent := r.2.2.1, rxBad := !r.2.2.2 }
  match LaneWord.decode r.2.1 with
  | some w => (takeLaneWord w y, some w)
  | none => (y, none)

/-- Width of received frames: the TX_WIDTH last seen (R96), else the port's. -/
def rxWidth (q : Port) : Nat :=
  if q.state = .loopback then (loopLanes q).length else
  match allLanes.find? (fun l => (vget q.lanes l).locked) with
  | some l => if (vget q.lanes l).wordWidth = 0 then q.curWidth else (vget q.lanes l).wordWidth
  | none => q.curWidth

/-- The lanes a received frame came on: the first of M, as many as its TX_WIDTH names; none where that takes in a lane that is
lost (R92, R96). -/
def rxLanes (q : Port) : Option (List Lane) :=
  let ls := if q.state = .loopback then loopLanes q else (commonLanes q).take (rxWidth q)
  if ls.length = rxWidth q ∧ ls ≠ [] then some ls else none

/-- The received link frame, judged by its CRC and its lanes: none where a lane it came on is lost (R82, R96, R103, R105).
DEDUCED: log entry 190. -/
def receivedFrame (q : Port) : Option (FrameQuality × FrameHeader × List RxMsg) :=
  (rxLanes q).map (fun ls =>
    readFrame (joinShares (ls.map (fun l => (vget q.lanes l).rxContent))) (ls.any (fun l => (vget q.lanes l).rxBad)))

end Sys2Proof.Machine
end

