-- ==== Sys2Proof/Machine/Frames.lean ====
section
/-!
DEFINITION. Received link frames, acknowledgement, replay and routing (R103-R128).
-/
namespace Sys2Proof.Machine

/-! ### Messages of a received frame -/

/-- Legal UNITS of a message type in a direction: its class and the shortest and longest length (R108). -/
def rxShape (upstream : Bool) (t : Nat) : Option (Option CreditClass × Nat × Nat) :=
  match t with
  | 0x01 => if upstream then none else some (some .cmd, 5, 5)
  | 0x02 | 0x08 => if upstream then some (some .resp, 2, 2) else none
  | 0x03 => some (some .data, 2, 61)
  | 0x04 | 0x05 => if upstream then none else some (some .admin, 1, 1)
  | 0x06 => if upstream then some (some .resp, 1, 1) else none
  | 0x07 => some (some (if upstream then .resp else .admin), 2, 17)
  | 0x09 | 0x0A | 0x0B => some (none, 1, 1)
  | _ => none

/-- TAG of a CMD or DATA message: byte 4, bits 6:0 (R108). -/
def rxTag (m : RxMsg) : Nat := ((m.rest.head?).getD 0#8).toNat % 128

/-- Credit class a message draws on: TAG 127 makes a CMD administrative; an ADMIN message draws on CMD credits where the
frame declares no ADMIN units for it (R108, R113). -/
def drawnClass (c : CreditClass) (m : RxMsg) (adminLeft : Nat) : CreditClass :=
  let admin : Bool := c == .admin || (c == .cmd && rxTag m == 127)
  if admin then (if m.units.toNat ≤ adminLeft then .admin else .cmd) else c

/-- What checking a frame's messages found. -/
structure StreamCheck where
  /-- Units of accepted messages, by class. -/
  held : Credits
  /-- The accepted messages, each with the class it draws on. -/
  kept : List (CreditClass × RxMsg)
  /-- TYPE and cause of each discarded message. -/
  errors : List (Nat × Nat)
deriving DecidableEq, Repr

/-- Nothing checked yet. -/
def StreamCheck.init : StreamCheck := ⟨.zero, [], []⟩

/-- A message is discarded (R109, R117). -/
def StreamCheck.discard (r : StreamCheck) (m : RxMsg) (cause : Nat) : StreamCheck :=
  { r with errors := r.errors ++ [(m.type.toNat, cause)] }

/-- A message is accepted with the class it draws on. -/
def StreamCheck.accept (r : StreamCheck) (k : CreditClass) (m : RxMsg) : StreamCheck :=
  { r with held := r.held.upd k (r.held.of k + m.units.toNat), kept := r.kept ++ [(k, m)] }

/-- Check the messages of a consumed frame in order: type, length, TAG-127 class and credit (R109, R117). `left` is what
remains of STREAM_LENGTH, `avail` the credits the sender held, `adminLeft` the ADMIN units declared. -/
def checkStream (upstream : Bool) : List RxMsg → Nat → Credits → Nat → StreamCheck → StreamCheck
  | [], _, _, _, r => r
  | m :: ms, left, avail, adminLeft, r =>
    let u := m.units.toNat
    match rxShape upstream m.type.toNat with
    | none => r.discard m 1
    | some (cls, lo, hi) =>
      if u < lo ∨ hi < u ∨ left < 16 * u then r.discard m 4
      else
        match cls with
        | none => checkStream upstream ms (left - 16 * u) avail adminLeft r
        | some c =>
          let k := drawnClass c m adminLeft
          let adminLeft' := if k = .admin then adminLeft - u else adminLeft
          if c == .cmd && rxTag m == 127 && k == .cmd then
            checkStream upstream ms (left - 16 * u) avail adminLeft' (r.discard m 3)
          else if avail.of k < u then checkStream upstream ms (left - 16 * u) avail adminLeft' (r.discard m 2)
          else checkStream upstream ms (left - 16 * u) (avail.upd k (avail.of k - u)) adminLeft' (r.accept k m)

/-- Units a sender may still send within a limit; none where (LIMIT - CONSUMED) mod 65,536 is 32,768 or more (R114). -/
def unitsLeft (limit used : Nat) : Nat :=
  let avail := (limit + 65536 - used % 65536) % 65536
  if avail < 32768 then avail else 0

/-- Credits a sender holds: what the advertised limits leave (R114). -/
def senderCredits (q : Port) : Credits :=
  ⟨unitsLeft q.rxLimit.cmd q.rxConsumed.cmd, unitsLeft q.rxLimit.admin q.rxConsumed.admin,
   unitsLeft q.rxLimit.data q.rxConsumed.data, unitsLeft q.rxLimit.resp q.rxConsumed.resp⟩

/-- Units a header declares (R104). -/
def declared (h : FrameHeader) : Credits :=
  ⟨h.cmdUnits.toNat, h.adminUnits.toNat, h.dataUnits.toNat, h.respUnits.toNat⟩

/-- Credits added class by class, modulo 65,536. -/
def Credits.add (a b : Credits) : Credits :=
  ⟨(a.cmd + b.cmd) % 65536, (a.admin + b.admin) % 65536, (a.data + b.data) % 65536, (a.resp + b.resp) % 65536⟩

/-- A discarded message: counted and reported (R109, R117). -/
def protocolError (p : PortId) (type cause : Nat) (s : State) : State :=
  s |> bump (Obj.protocolErrors p) |> postEvent 0x0209 (unitPort p) (type + 0x100 * cause)

/-! ### Routing (R122, R124, R125) -/

/-- The device has a node ID (R121). -/
def numbered (s : State) : Bool := objBool s Obj.nodeIdValid

/-- Port B forwards towards further devices and is UP (R122, R124). -/
def downstreamUp (s : State) : Bool := !(portOf s .b).hostRole && (portOf s .b).state == .up

/-- Where a received frame goes (R124). -/
inductive Route where
  | consume | forward | drop
deriving DecidableEq, Repr

/-- Routing of a frame; an upstream frame on port A has no route (R124), and an enumeration frame none on port B (R122). -/
def route (s : State) (p : PortId) (h : FrameHeader) : Route :=
  let own : Bool := numbered s && h.dest.toNat == obj s Obj.nodeId
  match p with
  | .a =>
    if h.upstream then .drop
    else if h.enum then .consume
    else if own then .consume
    else if downstreamUp s then .forward else .drop
  | .b =>
    if (portOf s .b).hostRole then (if !h.upstream && !h.enum && own then .consume else .drop)
    else if h.upstream then .forward else .drop

/-- How a received frame travels on (R104, R124). -/
def FrameHeader.route (h : FrameHeader) : FrameRoute := ⟨h.upstream, h.enum, h.dest.toNat, h.src.toNat⟩

/-- Both ports run at one width and rate in common-reference mode: a frame is forwarded while it comes in (R125). -/
def cutsThrough (s : State) : Bool :=
  let a := portOf s .a
  let b := portOf s .b
  a.state == .up && b.state == .up && (carriers a).length == (carriers b).length && a.rate == b.rate
    && obj s Obj.linkClockMode == 1

/-- The credits received allow what a frame header declares (R114, R125). -/
def allowsFrame (q : Port) (u : Credits) : Bool :=
  (u.cmd == 0 || creditAllows q.txLimit.cmd q.txUsed.cmd u.cmd) && (u.admin == 0 || creditAllows q.txLimit.admin q.txUsed.admin u.admin)
    && (u.data == 0 || creditAllows q.txLimit.data q.txUsed.data u.data)
    && (u.resp == 0 || creditAllows q.txLimit.resp q.txUsed.resp u.resp)

/-- A frame that failed its CRC had already started to leave on the other port: that copy goes out stomped (R112, R125). -/
def stompCopy (p : PortId) (h : FrameHeader) (msgs : List RxMsg) (s : State) : State :=
  if cutsThrough s ∧ h.kind = 1 ∧ h.fseq.toNat = (portOf s p).rxExpected ∧ route s p h = .forward
      ∧ allowsFrame (portOf s p.other) (declared h) then
    modPort p.other (fun q => { q with stomp := some (FrameHeader.route h, msgs) }) s
  else s

/-! ### Accepting a frame -/

/-- A frame that is bad whatever its sequence number (R104, R105). -/
def badFrame (q : Port) (quality : FrameQuality) (h : FrameHeader) : Bool :=
  quality == .bad || !(h.kind == 1 || h.kind == 2) || streamLimit (rxWidth q) < h.streamLength.toNat

/-- Send one NAK for the expected FSEQ (R110). -/
def nakOnce (p : PortId) (reason : Nat) (s : State) : State :=
  if (portOf s p).nakSent then s
  else s |> modPort p (fun q => { q with nakSent := true, nakAge := 0, nakDue := some reason }) |> bump (Obj.naksSent p)

/-- Take a frame into the receive buffer: its messages are checked, and the discarded ones reported (R109, R115, R117). -/
def bufferFrame (p : PortId) (h : FrameHeader) (msgs : List RxMsg) (s : State) : StreamCheck × State :=
  let q := portOf s p
  let c := checkStream h.upstream msgs h.streamLength.toNat (senderCredits q) h.adminUnits.toNat .init
  let s1 := setPort p { q with rxConsumed := q.rxConsumed.add (declared h), rxHeld := q.rxHeld.add c.held } s
  (c, c.errors.foldl (fun t e => protocolError p e.1 e.2 t) s1)

/-- Consume a frame: each of its messages is a command of its own (R109, R115, R117). -/
def consumeFrame (p : PortId) (h : FrameHeader) (msgs : List RxMsg) (s : State) : State :=
  raiseLimits p (bufferFrame p h msgs s).2

/-- Forward a frame: its messages stay in the receive buffer until they leave on the other port (R115, R124, R125); an
upstream frame with the own ID is a conflict (R123). -/
def forwardFrame (p : PortId) (h : FrameHeader) (msgs : List RxMsg) (s : State) : State :=
  let own : Bool := p == .b && h.upstream && numbered s && h.src.toNat == obj s Obj.nodeId
  let r := bufferFrame p h msgs s
  let s1 := if own then postEvent 0x020B (unitPort p) h.src.toNat r.2 else r.2
  raiseLimits p (r.1.kept.foldl (fun t m => sendMsg p.other (.relay (FrameHeader.route h) p m.1 m.1 m.2) t) s1)

/-- Drop a frame that has no route (R124). -/
def dropFrame (p : PortId) (h : FrameHeader) (s : State) : State :=
  s |> modPort p (fun q => { q with rxConsumed := q.rxConsumed.add (declared h) }) |> bump (Obj.unroutableFrames p)
    |> raiseLimits p

/-- Accept a sequenced frame with the expected FSEQ, then consume, forward or drop it (R110, R124); content after the
partner's end-of-transmission marker cancels an idle entry (R98). -/
def acceptFrame (p : PortId) (h : FrameHeader) (msgs : List RxMsg) (s : State) : State :=
  let q := portOf s p
  let s1 := setPort p { q with rxExpected := (q.rxExpected + 1) % 65536, nakSent := false, nakDue := none
                               unacked := q.unacked + 1
                               ackDue := q.ackDue || 16 ≤ (q.unacked + 1) * rxWidth q } s
  let s2 := if q.state = .draining ∧ q.goal = .idle ∧ q.eotSeen ∧ msgs ≠ [] then cancelIdle p s1 else s1
  match route s2 p h with
  | .consume => consumeFrame p h msgs s2
  | .forward => forwardFrame p h msgs s2
  | .drop => dropFrame p h s2

/-- What makes a control frame's messages wrong: a credited or unknown type, or a length that its type or STREAM_LENGTH does
not allow; the rest of the frame is discarded with it (R106, R109). -/
def checkControl : List RxMsg → Nat → Option (Nat × Nat)
  | [], _ => none
  | m :: ms, left =>
    if !(m.type == 0x09 || m.type == 0x0A || m.type == 0x0B) then some (m.type.toNat, 1)
    else if m.units ≠ 1 ∨ left < 16 then some (m.type.toNat, 4)
    else checkControl ms (left - 16)

/-- A control frame: its ACK, NAK and CREDIT messages are commands of their own (R106, R109). -/
def controlFrame (p : PortId) (h : FrameHeader) (msgs : List RxMsg) (s : State) : State :=
  match checkControl msgs h.streamLength.toNat with
  | some e => protocolError p e.1 e.2 s
  | none => s

/-- An FSEQ already accepted is one up to 32,768 behind the expected one. DEDUCED: the spec splits the numbers into the expected
one, those already accepted and any other, and does not say how far back the accepted ones reach; half the number space counts
as accepted, also where the port has accepted nothing yet (log entry 135). -/
def fseqBehind (expected fseq : Nat) : Bool := (expected + 65536 - fseq) % 65536 ≤ 32768

/-- A frame of a port in UP or DRAINING (R105, R109, R110, R112). -/
def frameArrives (p : PortId) (quality : FrameQuality) (h : FrameHeader) (msgs : List RxMsg) (s : State) : State :=
  let q := portOf s p
  if quality = .stomped then s |> bump (Obj.stompedFrames p) |> stompCopy p h msgs
  else if badFrame q quality h then s |> bump (Obj.frameCrcErrors p) |> stompCopy p h msgs |> nakOnce p 1
  else if h.kind = 2 then controlFrame p h msgs s
  else if h.fseq.toNat = q.rxExpected then acceptFrame p h msgs s
  else if fseqBehind q.rxExpected h.fseq.toNat then setPort p { q with ackDue := true } s
  else nakOnce p 2 s

/-- A frame of a port in a near-end loopback is only judged (R100). -/
def loopFrame (p : PortId) (quality : FrameQuality) (h : FrameHeader) (s : State) : State :=
  if quality = .stomped then bump (Obj.stompedFrames p) s
  else if badFrame (portOf s p) quality h then bump (Obj.frameCrcErrors p) s else s

/-- LINK_FRAME_RECEIVED (R82, R96, R100, R103, R105, R109, R110, R112, R117, R124): the frame is what the lanes it came on
received in this lane frame period; with one of them lost it is dropped. -/
def execLinkFrameReceived (p : PortId) (s : State) : Host.Outcome State Fault Refusal :=
  .next (live s (
    match receivedFrame (portOf s p), (portOf s p).state with
    | some (quality, h, msgs), .up | some (quality, h, msgs), .draining => frameArrives p quality h msgs s
    | some (quality, h, _), .loopback => if (portOf s p).goal = .loopback .fe then s else loopFrame p quality h s
    | _, _ => s))

/-! ### Enumeration (R121, R122) -/

/-- ENUMERATION_FRAME: received on port A, which alone accepts one. -/
def execEnumerationFrame (d : Dom) (dest : Byte) (addr value : Word) (reqId : Byte) (s : State) :
    Host.Outcome State Fault Refusal :=
  .next (live s (
    let a := windowAddr 0x2480 1
    match (portOf s .a).state with
    | .up | .draining =>
      if addr.toNat ≠ a ∨ value.toNat ≠ dest.toNat then returnAdmin .a 1 s
      else if !numbered s then
        s |> setObj Obj.nodeId value.toNat |> setObj Obj.nodeIdValid 1
          |> sendMsg .a (.regd d a reqId.toNat 0 value.toNat) |> returnAdmin .a 1
      else if downstreamUp s then
        let held : CreditClass := if 1 ≤ (portOf s .a).rxHeld.admin then .admin else .cmd
        let m : RxMsg := { type := 4, units := 1, dom := BitVec.ofNat 3 d.val, res2 := 0, res3 := 0
                           rest := leBytes 4 addr.toNat ++ [reqId, 0, 0, 0] ++ leBytes 4 value.toNat }
        sendMsg .b (.relay ⟨false, true, dest.toNat, 0⟩ .a held .admin m) s
      else
        s |> sendMsg .a (.regd d a reqId.toNat 0x12 (obj s Obj.nodeId)) |> returnAdmin .a 1
    | _ => s))

/-! ### Acknowledgement and replay (R110, R111) -/

/-- ACK: frames up to ACKED_SEQ leave the retry buffer. -/
def execAck (p : PortId) (seq : Half) (s : State) : Host.Outcome State Fault Refusal :=
  .next (live s (modPort p (fun q =>
    let kept := q.retry.filter (fun f => 32768 ≤ (seq.toNat + 65536 - f.fseq) % 65536)
    { q with retry := kept, replays := if kept.length < q.retry.length then 0 else q.replays }) s))

/-- Replay from an FSEQ: the stored messages from there on are sent again, in frames numbered from it; the eighth replay
of one oldest frame in a row is reported (R111). -/
def replayFrom (p : PortId) (seq : Nat) (s : State) : State :=
  let q := portOf s p
  let before := q.retry.takeWhile (fun f => f.fseq != seq)
  let again := q.retry.dropWhile (fun f => f.fseq != seq)
  match again with
  | [] => s
  | f :: fs =>
    let oldest := (q.retry.head?.map (·.fseq)).getD f.fseq
    let n := if q.replayOf = oldest then q.replays + 1 else 1
    let s1 := s |> setPort p { q with retry := before, txNext := seq, replays := n, replayOf := oldest
                                      replaying := (f :: fs).flatMap (·.msgs) ++ q.replaying }
      |> bump (Obj.linkReplays p)
    if n = 8 then postEvent 0x020A (unitPort p) oldest s1 else s1

/-- NAK: replay from EXPECTED_SEQ. -/
def execNak (p : PortId) (seq : Half) (_reason : Byte) (s : State) : Host.Outcome State Fault Refusal :=
  .next (live s (replayFrom p seq.toNat s))

/-- REPLAY_TIMEOUT: replay from the oldest stored frame. -/
def execReplayTimeout (p : PortId) (s : State) : Host.Outcome State Fault Refusal :=
  .next (live s (match (portOf s p).retry with
    | [] => s
    | f :: _ => replayFrom p f.fseq s))

/-- CREDIT_REFRESH: a CREDIT with the current limits is due (R114). -/
def execCreditRefresh (p : PortId) (s : State) : Host.Outcome State Fault Refusal :=
  .next (live s (s |> raiseLimits p |> modPort p (fun q => { q with creditDue := true })))

end Sys2Proof.Machine
end

