-- ==== Sys2Proof/Machine/Tape.lean ====
section
/-!
DEFINITION. The tape: geometry, cuts, the map's view of them, and where content is found (R228-R259, R343-R349).
-/
namespace Sys2Proof.Machine

/-! ### Geometry, in channel bits: 1,400 to an LPOS unit of 0.1 mm (R228) -/

/-- Channel bits of a frame set along the tape (R232). -/
def frameSetBits : Nat := 76032
/-- Channel bits of the splice gap, 0.5 m (R250). -/
def gapBits : Nat := 7000000
/-- Frame-set lengths a splice gap is charged (R248). -/
def gapCharge : Nat := 93
/-- Payload bytes of a full cut (R238). -/
def cutPayload : Nat := 3440640
/-- Channel bits of one metre. -/
def metreBits : Nat := 14000000

/-- Data-area LPOS range of a wrap (R245). -/
def dataRange (w : Nat) : Nat × Nat :=
  if w ≤ 1 then (1800000, 7200000) else if w = 2 then (480000, 7200000) else if w = 3 then (0, 6720000)
  else (0, 7200000)

/-- LPOS range of an area (R245). -/
def areaRange (c : Chain) (w : Nat) : Nat × Nat :=
  match c with
  | .data => dataRange w
  | .kiln => (0, 1800000)
  | .zone z => if z = 0 then (0, 480000) else (6720000, 7200000)

/-- Channel bits of an area. -/
def areaBits (c : Chain) (w : Nat) : Nat := ((areaRange c w).2 - (areaRange c w).1) * 1400

/-- LPOS of a point of an area: forward on even wraps, reverse on odd (R228, R245). -/
def lposAt (c : Chain) (w bits : Nat) : Nat :=
  if w % 2 = 0 then (areaRange c w).1 + bits / 1400 else (areaRange c w).2 - bits / 1400

/-- The next area in write order; none past the last (R245, R246). -/
def nextWrap (c : Chain) (w : Nat) : Option Nat :=
  match c with
  | .data => if w < 95 then some (w + 1) else none
  | .kiln => if w = 0 then some 1 else none
  | .zone _ => none

/-- First wrap of a chain. -/
def firstWrap (c : Chain) : Nat :=
  match c with
  | .data | .kiln => 0
  | .zone z => 2 + z.val

/-- Place of a chain in vectors, and OPEN_CUT_CHAIN (R379). -/
def chainNo : Chain → Fin 4
  | .data => 0
  | .kiln => 1
  | .zone z => if z = 0 then 2 else 3

/-- User rate of a speed step in kB/s: 19,798 for each 1 m/s (R260, R355). -/
def stepRate (n : Nat) : Nat := 19798 * (5 + n) / 4
/-- Budget rate of a speed step in kB/s (R260). -/
def stepBudget (n : Nat) : Nat := 25000 + 5000 * n
/-- Tape speed of a step in mm/s (R260). -/
def stepSpeed (n : Nat) : Nat := 1250 + 250 * n

/-! ### The threaded cartridge -/

/-- The threaded cartridge. -/
def tape (s : State) : Option Cartridge := if s.cart.threaded then s.cart.medium else none

/-- Its cuts. -/
def tapeCuts (s : State) : List Cut := ((tape s).map (·.cuts)).getD []

/-- Its identity. -/
def tapeId (s : State) : Option Nat := (tape s).map (·.id)

/-- The valid state block with the higher UPDATE_COUNT (R256). -/
def stateBlockOf (c : Cartridge) : Option StateBlock :=
  match c.stateA, c.stateB with
  | some a, some b => if b.updateCount ≤ a.updateCount then some a else some b
  | some a, none => some a
  | none, b => b

/-- A state block before any write. -/
def blankStateBlock : StateBlock := ⟨0, 0, 0, 0, 1, 0, 0, 0, 0, 0, 0, 0, 0⟩

/-- Update the state block: written over the block with the lower UPDATE_COUNT, or the invalid one (R256). -/
def putStateBlock (f : StateBlock → StateBlock) (c : Cartridge) : Cartridge :=
  let old := (stateBlockOf c).getD blankStateBlock
  let new := { f old with updateCount := old.updateCount + 1 }
  match c.stateA, c.stateB with
  | none, _ => { c with stateA := some new }
  | some _, none => { c with stateB := some new }
  | some a, some b => if a.updateCount ≤ b.updateCount then { c with stateA := some new }
    else { c with stateB := some new }

/-- Change the threaded cartridge. -/
def modTape (f : Cartridge → Cartridge) (s : State) : State :=
  { s with cart := { s.cart with medium := s.cart.medium.map f } }

/-- UNIQUE_ID bits 63:0, written as WRITER_ID (R243, R255). -/
def writerId (s : State) : Nat := s.boot.fuses.uniqueId.toNat % 2 ^ 64

/-- Write a state block of the threaded cartridge (R256). -/
def writeStateBlock (f : StateBlock → StateBlock) (s : State) : State :=
  modTape (putStateBlock (fun b => { f b with writerId := writerId s })) s

/-- The valid state block of the threaded cartridge. -/
def cartState (s : State) : StateBlock := (((tape s).map (fun c => (stateBlockOf c).getD blankStateBlock))).getD blankStateBlock

/-- A cut by serial. -/
def findCut (s : State) (serial : Nat) : Option Cut := (tapeCuts s).find? (fun c => c.serial == serial)

/-- PAYLOAD_BYTES of a cut (R243). -/
def payloadBytes (c : Cut) : Nat := (c.blocks.map (·.length)).sum

/-- The account a cut's payload weighs in: the domain's for its data and Bedrock cuts, else the device's (R443). -/
def cutAccount (c : Cut) : Fin 9 :=
  match c.kind, c.dom with
  | .data, some d | .bedrock, some d => account d
  | _, _ => 8

/-- Change one cut of the tape. -/
def modCut (serial : Nat) (f : Cut → Cut) (s : State) : State :=
  modTape (fun c => { c with cuts := c.cuts.map (fun x => if x.serial = serial then f x else x) }) s

/-! ### The volume index (R344) -/

/-- The index is valid for the threaded cartridge. -/
def indexValid (s : State) : Bool :=
  s.cart.index.status == 0x80 && s.cart.index.cartridge == tapeId s && s.cart.threaded

/-- The entry of a group. -/
def indexOf (s : State) (d : Dom) (v g : Nat) : Option IndexEntry :=
  s.cart.index.entries.find? (fun e => e.dom == d && e.volume == v && e.group == g)

/-- Set the newest copy of a group; the older one stays only where the cut it names still serves (R344, R345). -/
def putIndex (d : Dom) (v g newest older : Nat) (s : State) : State :=
  let rest := s.cart.index.entries.filter (fun e => !(e.dom == d && e.volume == v && e.group == g))
  { s with cart := { s.cart with index := { s.cart.index with entries := rest ++ [⟨d, v, g, newest, older⟩] } } }

/-! ### Content on tape -/

/-- A sector block of a cut for one sector. -/
def sectorIn (c : Cut) (v n : Nat) : Option (List Byte) :=
  (c.blocks.find? (fun b => (b.kind == .sector || b.kind == .rawSector) && b.target == v
    && b.pieces.any (fun p => p.seq == n))).bind (fun b => (b.pieces.find? (fun p => p.seq == n)).map (·.bytes))

/-- The place in a cut of the block that holds a sector. -/
def sectorBlock (c : Cut) (v n : Nat) : Option Nat :=
  c.blocks.findIdx? (fun b => (b.kind == .sector || b.kind == .rawSector) && b.target == v && b.pieces.any (fun p => p.seq == n))

/-- A complete, unmarked zone whose generation serves a group of volume 0 (R348). -/
def zoneCurrent (s : State) (z : Fin 2) (newest : Nat) : Bool :=
  let x := vget s.cart.zones z
  x.complete && !x.marked && !x.writing && newest < x.first

/-- Cuts of a zone's latest generation that hold sectors of a domain. -/
def zoneCuts (s : State) (z : Fin 2) (d : Dom) : List Cut :=
  (tapeCuts s).filter (fun c => c.chain == .zone z && c.generation == (vget s.cart.zones z).first && c.dom == some d
    && !c.retired)

/-- Groups with sectors in a cut: volume and group. -/
def groupsOf (c : Cut) : List (Nat × Nat) :=
  ((c.blocks.filter (fun b => b.kind == .sector || b.kind == .rawSector)).flatMap (fun b =>
    b.pieces.map (fun p => (b.target, p.seq / 16)))).eraseDups

/-- Sectors of a group in a cut. -/
def sectorsIn (c : Cut) (v g : Nat) : List Nat :=
  (c.blocks.filter (fun b => (b.kind == .sector || b.kind == .rawSector) && b.target == v)).flatMap (fun b =>
    (b.pieces.map (·.seq)).filter (fun n => n / 16 == g))

/-- Add a cut to index entries: it is the newest copy of its groups, and the former one is kept where it holds more (R345,
R346). -/
def indexAdd (cuts : List Cut) (c : Cut) (es : List IndexEntry) : List IndexEntry :=
  match c.dom with
  | none => es
  | some d => (groupsOf c).foldl (fun es g =>
      let mine : IndexEntry → Bool := fun e => e.dom == d && e.volume == g.1 && e.group == g.2
      let old := (es.find? mine).bind (fun e => cuts.find? (fun x => x.serial == e.newest))
      let new := sectorsIn c g.1 g.2
      let older := match old with
        | some o => if (sectorsIn o g.1 g.2).all (fun n => new.contains n) then 0 else o.serial
        | none => 0
      es.filter (fun e => !mine e) ++ [⟨d, g.1, g.2, c.serial, older⟩]) es

/-- Cuts whose map entry has a VOLUME_MASK bit set, in ORDER_SERIAL order (R346). -/
def volumeCuts (s : State) : List Cut :=
  sortBy (·.order) ((tapeCuts s).filter (fun c => c.kind == .data && c.complete && !c.retired && groupsOf c != []))

/-- The entry a read of a group goes by: the index, or, while volume 0 waits for its rebuild, what the cuts say. -/
def entryFor (s : State) (d : Dom) (v g : Nat) : Option IndexEntry :=
  if indexValid s then indexOf s d v g
  else if v = 0 then
    ((volumeCuts s).foldl (fun es c => indexAdd (tapeCuts s) c es) []).find? (fun e => e.dom == d && e.volume == v && e.group == g)
  else none

/-- Distance along the tape to a cut's start, in LPOS units. -/
def distanceTo (s : State) (c : Cut) : Nat := ((lposAt c.chain c.wrap c.start : Int) - s.xport.servo.lpos).natAbs

/-- Place of a cut along the tape. -/
def placeOf (c : Cut) : Nat := c.wrap * 10000000 + (if c.wrap % 2 = 0 then lposAt c.chain c.wrap c.start
  else 7200000 - lposAt c.chain c.wrap c.start)

/-- A sector in one cut, with the cut's serial. -/
def copyIn (s : State) (v n serial : Nat) : List (Nat × List Byte) :=
  match (findCut s serial).bind (fun c => sectorIn c v n) with
  | some b => [(serial, b)]
  | none => []

/-- The data-area copy of a sector: of its group's newest cut, or, where that cut lacks it, of the older one (R345). -/
def areaCopies (s : State) (v n : Nat) (e : IndexEntry) : List (Nat × List Byte) :=
  match copyIn s v n e.newest with
  | [] => if e.older = 0 then [] else copyIn s v n e.older
  | l => l

/-- The copies of a sector in the zones where its group is current (R348). -/
def zoneCopies (s : State) (d : Dom) (v n : Nat) (e : IndexEntry) : List (Nat × List Byte) :=
  if v = 0 then ([0, 1] : List (Fin 2)).flatMap (fun z =>
    if zoneCurrent s z e.newest then
      (zoneCuts s z d).filterMap (fun c => (sectorIn c 0 n).map (fun b => (c.serial, b)))
    else [])
  else []

/-- Copies by the distance of their cuts from the present position, the nearest first (R20, R348). -/
def nearestFirst (s : State) (l : List (Nat × List Byte)) : List (Nat × List Byte) :=
  sortBy (fun c => ((findCut s c.1).map (distanceTo s)).getD 0) l

/-- Every copy of a sector that R348 names: serial and bytes, the one reached first in front. -/
def tapeCopies (s : State) (d : Dom) (v n : Nat) : List (Nat × List Byte) :=
  match entryFor s d v (n / 16) with
  | none => []
  | some e => nearestFirst s (areaCopies s v n e ++ zoneCopies s d v n e)

/-- The copies that a host's read may take, the one reached first in front; until the index is rebuilt volume 0 has its current
zones alone (R20, R346, R348). -/
def tapeCandidates (s : State) (d : Dom) (v n : Nat) : List (Nat × List Byte) :=
  if indexValid s then tapeCopies s d v n
  else
    match entryFor s d v (n / 16) with
    | none => []
    | some e => nearestFirst s (zoneCopies s d v n e)

/-- A ring item belongs to the threaded cartridge, or to none (R162). DEDUCED: log entry 183. -/
def itemHere (s : State) (r : RingItem) : Bool := r.cartridge.isNone || (tapeId s).isNone || r.cartridge == tapeId s

/-- The items of a domain's share that the threaded cartridge's logs and volumes hold. -/
def itemsHere (s : State) (d : Dom) : List Item := ((itemsOf s d).filter (itemHere s)).map (·.item)

/-- The newest ring item that holds a sector (R18). -/
def ringSectorItem (s : State) (d : Dom) (v n : Nat) : Option Item :=
  ((itemsHere s d).filter (fun i => i.kind == .sectors && i.target == v && i.seq ≤ n
    && n < i.seq + i.bytes.length / 4096)).getLast?

/-- One sector of an item. -/
def Item.sector (i : Item) (n : Nat) : List Byte := (i.bytes.drop (4096 * (n - i.seq))).take 4096

/-- A resident group of the threaded cartridge (R343). -/
def residentGroup (s : State) (d : Dom) (v g : Nat) : Option Resident :=
  (domOf s d).resident.find? (fun r => r.volume == v && r.group == g && r.cartridge.isSome && r.cartridge == tapeId s)

/-- A sector in a page (R18). -/
def residentSector (s : State) (d : Dom) (v n : Nat) : Option (List Byte) :=
  (residentGroup s d v (n / 16)).bind (fun r => (r.sectors.find? (fun e => e.1 == n)).map (·.2))

/-- The boot cache's content of a sector where its slot belongs to the threaded cartridge and the sector's CRC holds (R199). -/
def cachedSector (s : State) (d : Dom) (v n : Nat) : Option (List Byte) :=
  let b := vget s.ring.boot d
  if v == 0 && n < obj s (Obj.firstStageSize d) && n < b.size && b.cartridge.isSome && b.cartridge == tapeId s
      && !b.failed.contains n then
    match b.sectors.find? (fun e => e.1 == n) with
    | some (_, bytes, crc) => if (crc32c bytes).toNat = crc then some bytes else none
    | none => some (List.replicate 4096 0)
  else none

/-- A sector never written: no copy of it anywhere, which only a valid index tells of volumes 1 to 3 (R149). -/
def unwritten (s : State) (d : Dom) (v n : Nat) : Bool :=
  s.cart.threaded && (indexValid s || v == 0) && (ringSectorItem s d v n).isNone && tapeCopies s d v n == []

/-- A sector's newest content where no tape is needed: ring, resident group, boot cache, or never written (R18, R19, R149). -/
def bufferedSector (s : State) (d : Dom) (v n : Nat) : Option (List Byte) :=
  match ringSectorItem s d v n with
  | some i => some (i.sector n)
  | none =>
    match residentSector s d v n with
    | some b => some b
    | none =>
      match cachedSector s d v n with
      | some b => some b
      | none => if unwritten s d v n then some (List.replicate 4096 0) else none

/-- A sector is served without tape. -/
def sectorBuffered (s : State) (d : Dom) (v n : Nat) : Bool := (bufferedSector s d v n).isSome

/-- The newest content of a sector and the commit it came from, 0 where that is on tape (R18). -/
def sectorNow (s : State) (d : Dom) (v n : Nat) : Nat × List Byte :=
  match ringSectorItem s d v n with
  | some i => (i.idx, i.sector n)
  | none => (0, (bufferedSector s d v n).getD (((tapeCopies s d v n).head?.map (·.2)).getD (List.replicate 4096 0)))

/-- A take's header and data, zero-padded to 16: its take entry (R146, R208). -/
def takeEntry (seq stamp crc : Nat) (bytes : List Byte) : List Byte :=
  leBytes 8 seq ++ leBytes 8 stamp ++ leBytes 4 bytes.length ++ leBytes 4 crc ++ List.replicate 8 0
    ++ bytes ++ List.replicate (16 * ceilDiv bytes.length 16 - bytes.length) 0

/-- An item's take entry. -/
def Item.entry (i : Item) : List Byte := takeEntry i.seq i.stamp i.crc i.bytes

/-- A take in the ring. -/
def ringTake (s : State) (d : Dom) (log seq : Nat) : Option Item :=
  (itemsHere s d).find? (fun i => i.kind == .take && i.target == log && i.seq == seq)

/-- Cuts that may serve a domain's takes, in ORDER_SERIAL order (R249, R252). -/
def liveDataCuts (s : State) (d : Dom) : List Cut :=
  sortBy (·.order) ((tapeCuts s).filter (fun c => c.kind == .data && c.dom == some d && !c.retired && c.complete))

/-- Pieces of a take on tape, with the cut and the place of the block each lies in. -/
def takePieces (s : State) (d : Dom) (log seq : Nat) : List ((Nat × Nat) × Piece) :=
  (liveDataCuts s d).flatMap (fun c => ((List.range c.blocks.length).zip c.blocks).flatMap (fun b =>
    if b.2.kind == .log && b.2.target == log then
      (b.2.pieces.filter (fun p => p.seq == seq)).map (fun p => ((c.serial, b.1), p))
    else []))

/-- Put pieces in order of their offset, dropping repeats. -/
def joinPieces (ps : List Piece) : List Byte :=
  ((sortBy (·.off) ps).foldl (fun (acc : List Byte) p =>
    if p.off ≤ acc.length then acc ++ p.bytes.drop (acc.length - p.off) else acc) [])

/-- A take entry as tape holds it, the cuts it lies in, and its blocks in them. -/
def tapeTake (s : State) (d : Dom) (log seq : Nat) : Option (List Byte × List Nat × List (Nat × Nat)) :=
  match takePieces s d log seq with
  | [] => none
  | ps => some (joinPieces (ps.map (·.2)), (ps.map (·.1.1)).eraseDups, ps.map (·.1))

/-! ### Dead cuts and units (R349, R350) -/

/-- A block of a cut still holds live content: a take its log retains, or a sector of a group's newest or older copy; until
the index is rebuilt every sector counts (R346, R349). -/
def blockLive (s : State) (d : Dom) (serial : Nat) (b : Block) : Bool :=
  match b.kind with
  | .log => b.pieces.any (fun p => (domOf s d).logs.toList[b.target]?.any (fun l => l.firstRetained ≤ p.seq))
  | .sector | .rawSector => !indexValid s || b.pieces.any (fun p =>
      (indexOf s d b.target (p.seq / 16)).any (fun e => e.newest == serial || e.older == serial))
  | _ => false

/-- The cut is not dead: it is not retired and some block of it is live; a map checkpoint lives until a newer one is
complete (R349). -/
def cutLive (s : State) (c : Cut) : Bool :=
  match c.dom with
  | none => c.kind == .calibration || (c.kind == .map && !c.retired && decide ((cartState s).mapSerial ≤ c.serial))
  | some d => !c.retired && c.blocks.any (blockLive s d c.serial)

/-- Dead data-area cuts (R349). -/
def deadCuts (s : State) : List Cut :=
  (tapeCuts s).filter (fun c => c.chain == .data && c.kind != .calibration && !cutLive s c)

/-- Cuts a domain holds on tape (R25, R349). -/
def domainCuts (s : State) (d : Dom) : Nat :=
  ((tapeCuts s).filter (fun c => c.chain == .data && c.kind == .data && c.dom == some d && cutLive s c)).length

/-- A wrap is worn (R279). -/
def wrapWorn (s : State) (w : Nat) : Bool := s.cart.worn.contains w

/-- A reuse unit is free: every cut in it dead, its calibration cuts apart, and none being written there (R350). -/
def unitFree (s : State) (w : Nat) : Bool :=
  !((tapeCuts s).any (fun c => c.chain == .data && c.wrap == w && c.kind != .calibration && cutLive s c))
    && !(s.cart.openCut.any (fun o => o.cut.chain == .data && o.cut.wrap == w))
    && (vget s.cart.chains 0).wrap != w

/-- Free reuse units (R350). -/
def freeUnits (s : State) : List Nat := (List.range 96).filter (unitFree s)

/-- Recompute CUTS_USED of every domain, DEAD_CUTS and FREE_REUSE_UNITS, while a cartridge is threaded (R349, R350). -/
def refreshCuts (s : State) : State :=
  if !s.cart.threaded then s else
  allDoms.foldl (fun t d => setObj (Obj.cutsUsed d) (domainCuts s d) t)
    (s |> setObj Obj.deadCuts (deadCuts s).length |> setObj Obj.freeReuseUnits (freeUnits s).length)

/-- A domain's quota in cuts (R259). -/
def quotaCuts (s : State) (d : Dom) : Nat :=
  obj s (Obj.cutQuota d) * (if s.cart.threaded then obj s Obj.dataCuts else 393986) / 1024

end Sys2Proof.Machine
end

