-- ==== Sys2Proof/Machine/CartOps.lean ====
section
/-!
DEFINITION. The cartridge state machine's requests (R162) and what other units ask of the cartridge and the transport.
-/
namespace Sys2Proof.Machine

/-- The transport is able to move: IDLE, STOPPED, MOVING or PARKED, or OFF during a power-state exit (R145, R162, R169,
R325). -/
def canMove (s : State) : Bool :=
  match s.xport.state with
  | .idle | .stopped | .moving | .parked => true
  | .off => decide (obj s Obj.powerState / 16 < obj s Obj.powerState % 16)
  | _ => false

/-- The cartridge enters a state (R56). -/
def enterCart (st : CartState) (s : State) : State :=
  { s with cart := { s.cart with state := st } } |> bumpGen 0x2C00

/-- The transport enters a state; with TEST an injection ends (R56, R323). -/
def enterXport (st : XportState) (s : State) : State :=
  let s1 := if s.xport.state = .test then setObj Obj.injectWaveform 0 s else s
  { s1 with xport := { s1.xport with state := st } } |> bumpGen 0x3400

/-- The transport follows a cartridge that threads or unthreads: from IDLE, STOPPED or PARKED it enters THREADING, the head
unloaded first (R325); it waits for the holdup bank (R372). -/
def followCart (s : State) : State :=
  let may : Bool := match s.xport.state with
    | .idle | .stopped | .parked => true
    | _ => false
  if (s.cart.state == .threading || s.cart.state == .unloading) && may && s.power.ready
      && !s.power.failing then
    enterXport .threading { s with xport := { s.xport with headLoaded := false, atRest := false } }
  else s

/-- Cartridge actions of a STATE_REQUEST (R162). -/
inductive CartAction where
  | load | unload | eject | format | formatForce | discardRing
deriving DecidableEq, Repr

/-- ACTION code (R162). -/
def cartActionCode : CartAction → Nat
  | .load => 1 | .unload => 2 | .eject => 3 | .format => 4 | .formatForce => 5 | .discardRing => 6

/-- The state machine has a transition for the action (R162); a cartridge at 20,500 loads is not loaded (R280). -/
def cartLegal (s : State) (a : CartAction) : Bool :=
  let worn : Bool := (s.cart.medium.map (fun c => ((stateBlockOf c).getD blankStateBlock).loadCount)).getD 0 ≥ 20500
  match a, s.cart.state with
  | .load, .present => !worn
  | .load, .faulted => canMove s && !worn
  | .unload, .ready | .eject, .ready | .formatForce, .ready => true
  | .unload, .unformatted | .eject, .unformatted | .unload, .mismatch | .eject, .mismatch => true
  | .unload, .faulted | .eject, .faulted => canMove s
  | .format, .unformatted | .formatForce, .unformatted => true
  | .discardRing, .mismatch => true
  | _, _ => false

/-- The cartridge starts to thread (R162, R280). -/
def startThreading (explicit : Bool) (s : State) : State :=
  let n := (s.cart.medium.map (fun c => ((stateBlockOf c).getD blankStateBlock).loadCount)).getD 0
  s |> (fun t => if explicit && decide (20000 ≤ n) then postEvent 0x0510 unitCartridge n t else t)
    |> enterCart .threading |> followCart

/-- Unthreading starts (R162). -/
def startUnloading (push : Bool) (s : State) : State :=
  { s with cart := { s.cart with goal := .none, pushOut := push } } |> enterCart .unloading |> followCart

/-- Drain for a goal (R162). -/
def startDraining (g : DrainGoal) (s : State) : State :=
  { s with cart := { s.cart with goal := g, mapDue := s.cart.mapDue || g != .format } } |> enterCart .draining

/-- Takes that a discard of items gives up in a log (R143). -/
def lostTakes (items : List Item) (d : Dom) (log : Nat) : List Nat :=
  (items.filter (fun i => i.dom == d && i.kind == .take && i.target == log)).map (·.seq)

/-- Untaped content of another cartridge is given up (R143, R162): the numbers stay used and are kept as discarded, each log's
LAST_TAPED follows, and the event names how many takes and sectors went. What of the other cartridge is on tape and verified
leaves the ring with it. -/
def discardRing (s : State) : State :=
  let foreign := s.ring.items.filter (fun r => !itemHere s r)
  let items := (foreign.filter (fun r => !r.done)).map (·.item)
  let n := (items.map (fun i => if i.kind = .take then 1 else i.bytes.length / 4096)).sum
  let s1 := allDoms.foldl (fun t d => modDom d (fun x => { x with
      resident := []
      logs := Vector.ofFn (fun l =>
        let y := vget x.logs l
        let lost := lostTakes items d l.val
        if lost = [] then y else { y with lastTaped := y.lastCommitted, discarded := y.discarded ++ lost }) }) t) s
  { s1 with ring := { s1.ring with items := s1.ring.items.filter (itemHere s) }
            comp := { s1.comp with gathers := [], blocks := [] } }
    |> postEvent 0x0504 unitCartridge n

/-- The format operation is journalled and FORMAT_GEN rises (R258, R376, R378): step 1. -/
def openFormat (s : State) : State :=
  let id := (s.cart.medium.map (·.id))
  let o : OpRecord := ⟨1, 1, s.opLog.nextOp, id, 0⟩
  { s with jour := s.jour.openNew o, opLog := s.opLog.openNew o s.jour.openOps
           cart := { s.cart with threaded := true } }
    |> writeStateBlock (fun b => { b with formatState := 1, wrapsFormatted := 0, formatGen := b.formatGen + 1 })
    |> (fun t => setObj Obj.formatGen (cartState t).formatGen t)

/-- Enter FORMATTING (R162, R258): a new format opens its operation; the index and the cuts it overwrites go. -/
def startFormat (resume : Bool) (s : State) : State :=
  let s1 := if resume then s else openFormat s
  { s1 with cart := { s1.cart with goal := .none, index := ⟨tapeId s1, 0, [], [], 0⟩ } }
    |> enterCart .formatting |> setObj Obj.formatProgress 0

/-- What a legal cartridge action does (R162). -/
def cartAction (a : CartAction) (s : State) : State :=
  match a, s.cart.state with
  | .load, _ => startThreading true s
  | .unload, .ready => startDraining .unload s
  | .eject, .ready => startDraining .eject s
  | .formatForce, .ready => startDraining .format s
  | .unload, _ => startUnloading false s
  | .eject, _ => startUnloading true s
  | .format, _ | .formatForce, _ => startFormat false s
  | .discardRing, _ => s |> discardRing |> enterCart .searching

end Sys2Proof.Machine
end

