-- ==== Sys2Proof/Machine/Pager.lean ====
section
/-!
DEFINITION. The pager: ring content on its way to LPDDR4X pages and to blocks, volume groups with their merge, eviction and
fetch, and the boot cache at a commit (R17, R148, R192-R199, R208-R212, R343-R346).
-/
namespace Sys2Proof.Machine

/-! ### Pieces and blocks (R208-R210) -/

/-- Bytes in pieces. -/
def piecesLen (ps : List Piece) : Nat := (ps.map (fun p => p.bytes.length)).sum

/-- A log block to be started (R208, R209). -/
def logBlock (d : Dom) (log : Nat) (raw : Bool) (ps : List Piece) : CompBlock :=
  { dom := d, isLog := true, target := log, raw := raw, store := false
    oldest := (ps.head?.map (·.commit)).getD 0, stage := .waiting, block := ⟨.log, log, 0, ps, []⟩ }

/-- A log's waiting content. -/
def gatherOf (s : State) (d : Dom) (log : Nat) : List Piece :=
  ((s.comp.gathers.find? (fun g => g.dom == d && g.log == log)).map (·.pieces)).getD []

/-- Set a log's waiting content. -/
def setGather (d : Dom) (log : Nat) (ps : List Piece) (s : State) : State :=
  let rest := s.comp.gathers.filter (fun g => !(g.dom == d && g.log == log))
  { s with comp := { s.comp with gathers := if ps = [] then rest else rest ++ [⟨d, log, ps⟩] } }

/-- Blocks join the path in order. -/
def addBlocks (bs : List CompBlock) (s : State) : State :=
  { s with comp := { s.comp with blocks := s.comp.blocks ++ bs } }

/-- Close a log's waiting content into a block of its own (R209). -/
def closeGather (d : Dom) (log : Nat) (s : State) : State :=
  match gatherOf s d log with
  | [] => s
  | ps => s |> setGather d log [] |> addBlocks [logBlock d log false ps]

/-! ### Pages for ring content (R17, R192, R193, R345) -/

/-- The allocator would grant a domain one page now: below its floor, or below its ceiling with a common page free (R192). -/
def domainMayTake (s : State) (d : Dom) : Bool :=
  pagesHeld s d < obj s (Obj.pageFloor d) || (pagesHeld s d < obj s (Obj.pageCeiling d) && 0 < commonFree s)

/-- A block of a group of a volume. -/
def inGroup (d : Dom) (v g : Nat) (b : CompBlock) : Bool :=
  !b.isLog && b.dom == d && b.target == v && b.block.pieces.any (fun p => p.seq / 16 == g)

/-- Groups an item touches. -/
def Item.groups (i : Item) : List Nat :=
  if i.kind = .sectors ∧ i.bytes ≠ [] then
    (List.range ((i.seq + i.bytes.length / 4096 - 1) / 16 - i.seq / 16 + 1)).map (· + i.seq / 16)
  else []

/-- A resident group is on tape and verified: nothing of it is in the ring or in the path (R345). -/
def evictable (s : State) (d : Dom) (r : Resident) : Bool :=
  (itemsOf s d).all (fun i => !(i.item.target == r.volume && i.item.groups.contains r.group))
    && !s.comp.blocks.any (inGroup d r.volume r.group)

/-- Let the resident group go that was used longest ago of those on tape (R345). -/
def evictOne (d : Dom) (s : State) : Option State :=
  ((domOf s d).resident.filter (evictable s d)).getLast?.map (fun r =>
    modDom d (fun x => { x with resident := x.resident.filter (· != r) }) s)

/-- A page for a domain's content: granted, or that of an evicted group; none where the request has to wait (R192, R345). -/
def pageFor (d : Dom) (s : State) : Option State := if domainMayTake s d then some s else evictOne d s

/-- Count a domain's request that joined a wait list (R207). -/
def countWaitOf (d : Dom) (s : State) : State := bump (Obj.pageWaits d) s

/-- The pager waits for a page of a domain: one request, at the domain's ceiling or in the common list (R192, R193). -/
def pagerWaits (d : Dom) (s : State) : State :=
  let w : PageWait := ⟨.domain d, 3, true⟩
  if s.dram.commonWait.contains w || s.dram.ceilingWait.contains w then s
  else if obj s (Obj.pageCeiling d) ≤ pagesHeld s d then
    countWaitOf d { s with dram := { s.dram with ceilingWait := s.dram.ceilingWait ++ [w] } }
  else countWaitOf d { s with dram := { s.dram with commonWait := s.dram.commonWait ++ [w] } }

/-- Change a ring item. -/
def modItem (idx : Nat) (f : RingItem → RingItem) (s : State) : State :=
  { s with ring := { s.ring with items := s.ring.items.map (fun r => if r.item.idx = idx then f r else r) } }

/-! ### Takes (R208, R209) -/

/-- Bytes of a take entry that the pager copies next: a RAW take fills pages of its own, another first what its log's page has
left (R209). -/
def nextChunk (s : State) (r : RingItem) : Nat :=
  let held := if r.item.raw then 0 else piecesLen (gatherOf s r.item.dom r.item.target)
  min (r.item.entry.length - r.paged) (65536 - held)

/-- The next chunk needs a page of its own. -/
def chunkNeedsPage (s : State) (r : RingItem) : Bool := r.item.raw || gatherOf s r.item.dom r.item.target == []

/-- Copy the next chunk of a take's entry to its page: a RAW take closes what its log gathers and makes blocks of its own;
another joins the log's content, of which every full 65,536 bytes make a block (R208, R209). -/
def copyChunk (r : RingItem) (s : State) : State :=
  let i := r.item
  let n := nextChunk s r
  let p : Piece := ⟨i.seq, i.idx, r.paged, (i.entry.drop r.paged).take n⟩
  let s1 := modItem i.idx (fun x => { x with paged := r.paged + n }) s
  if i.raw then
    s1 |> (fun t => if r.paged = 0 then closeGather i.dom i.target t else t) |> addBlocks [logBlock i.dom i.target true [p]]
  else
    let all := gatherOf s i.dom i.target ++ [p]
    if piecesLen all = 65536 then s1 |> setGather i.dom i.target [] |> addBlocks [logBlock i.dom i.target false all]
    else setGather i.dom i.target all s1

/-! ### Volume groups (R343-R346) -/

/-- Sectors of a volume. -/
def volumeSize (s : State) (d : Dom) (v : Nat) : Nat :=
  match v with
  | 0 => obj s (Obj.volumeSize0 d)
  | 1 => obj s (Obj.volumeSize1 d)
  | 2 => obj s (Obj.volumeSize2 d)
  | 3 => obj s (Obj.volumeSize3 d)
  | _ => 0

/-- Sectors of a group; the last group of a volume may be shorter (R343). -/
def groupSectors (s : State) (d : Dom) (v g : Nat) : List Nat :=
  ((List.range 16).map (· + 16 * g)).filter (fun n => n < volumeSize s d v)

/-- A copy of a sector on tape that no ladder has failed on (R303, R345). -/
def fetchCopy (s : State) (d : Dom) (v n : Nat) : Option Nat :=
  ((tapeCopies s d v n).find? (fun c => !(findCut s c.1).any (·.bad))).map (·.1)

/-- The cut the pager fetches before it merges a group: one that holds a sector which neither ring nor page holds (R345). -/
def fetchFor (s : State) (d : Dom) (v g : Nat) : Option Nat :=
  ((groupSectors s d v g).filter (fun n => (bufferedSector s d v n).isNone)).findSome? (fetchCopy s d v)

/-- The sector blocks of a group, merged from its newest contents; a sector that only an unrecovered cut holds stays out
(R343, R345). -/
def groupBlocks (s : State) (d : Dom) (v g : Nat) : List CompBlock :=
  let sectors := (groupSectors s d v g).filter (fun n => (bufferedSector s d v n).isSome)
  let oldest := sectors.foldl (fun acc n => let c := (sectorNow s d v n).1; if c = 0 then acc else
      if acc = 0 then c else min acc c) 0
  sectors.map (fun n =>
    let c := sectorNow s d v n
    { dom := d, isLog := false, target := v, raw := false, store := false, oldest := oldest, stage := .waiting
      block := ⟨.sector, v, 0, [⟨n, c.1, 0, c.2⟩], []⟩ })

/-- A group stands in a page, its sectors as given, as the one used last. -/
def keepGroup (d : Dom) (v g : Nat) (sectors : List (Nat × List Byte)) (s : State) : State :=
  modDom d (fun x => { x with
    resident := ⟨v, g, tapeId s, sectors⟩ :: x.resident.filter (fun r => !(r.volume == v && r.group == g)) }) s

/-- Put a group with newly committed sectors on its way to tape, in place of an older version still waiting, and keep it in its
page (R209, R345). -/
def pageGroup (d : Dom) (v g : Nat) (s : State) : State :=
  let s1 := { s with comp := { s.comp with blocks := s.comp.blocks.filter (fun b => !inGroup d v g b) } }
  let bs := groupBlocks s1 d v g
  s1 |> addBlocks bs |> keepGroup d v g (bs.flatMap (fun b => b.block.pieces.map (fun p => (p.seq, p.bytes))))

/-- A group has a page already: resident, or on its way to tape. -/
def groupHeld (s : State) (d : Dom) (v g : Nat) : Bool :=
  (domOf s d).resident.any (fun r => r.volume == v && r.group == g) || s.comp.blocks.any (inGroup d v g)

/-- A group waits: the groups of volumes 1-3 for the index, and any for the fetch of what it merges with (R345, R346). -/
def groupWaits (s : State) (d : Dom) (v g : Nat) : Bool := (v != 0 && !indexValid s) || (fetchFor s d v g).isSome

/-! ### The pager's order (R196) -/

/-- What one ring item lets the pager do. -/
inductive PagerStep where
  /-- Copied whole, or what is left of it waits for the index or a fetch: the pager goes to the next item. -/
  | pass
  /-- A page is lacking. -/
  | lacks
  | go (s : State)

/-- The next piece of a ring item. -/
def pagerStep (r : RingItem) (s : State) : PagerStep :=
  let d := r.item.dom
  match r.item.kind with
  | .take =>
    if r.item.entry.length ≤ r.paged then .pass
    else if chunkNeedsPage s r then
      match pageFor d s with
      | some t => .go (copyChunk r t)
      | none => .lacks
    else .go (copyChunk r s)
  | .sectors =>
    match r.item.groups[r.paged]? with
    | none => .pass
    | some g =>
      let v := r.item.target
      if groupWaits s d v g then .pass
      else
        let done (t : State) : State := modItem r.item.idx (fun x => { x with paged := r.paged + 1 }) (pageGroup d v g t)
        if groupHeld s d v g then .go (done s)
        else
          match pageFor d s with
          | some t => .go (done t)
          | none => .lacks

/-- Copy an item piece by piece; whether a page was lacking. -/
def pageItem : Nat → Nat → State → State × Bool
  | 0, _, s => (s, false)
  | fuel + 1, idx, s =>
    match s.ring.items.find? (fun r => r.item.idx == idx) with
    | none => (s, false)
    | some r =>
      match pagerStep r s with
      | .pass => (s, false)
      | .lacks => (s, true)
      | .go t => pageItem fuel idx t

/-- Pieces an item has at most. -/
def RingItem.pieces (r : RingItem) : Nat := r.item.bytes.length / 4096 + 8

/-- Copy items in line order until a page is lacking, for which the pager then waits. -/
def pageItems (d : Dom) : List RingItem → State → State
  | [], s => s
  | r :: rs, s =>
    let x := pageItem r.pieces r.item.idx s
    if x.2 then pagerWaits d x.1 else pageItems d rs x.1

/-- The pager goes on with a domain's share, in line order (R196). -/
def runPager (d : Dom) (s : State) : State := pageItems d ((itemsOf s d).filter (itemHere s)) s

/-- The pager goes on with every share. -/
def runPagers (s : State) : State := allDoms.foldl (fun t d => runPager d t) s

/-! ### Groups in pages (R343, R345) -/

/-- A group that a read served moves to the front of its domain's resident groups. -/
def touchGroup (d : Dom) (v g : Nat) (s : State) : State :=
  modDom d (fun x => { x with resident := x.resident.filter (fun r => r.volume == v && r.group == g)
                                ++ x.resident.filter (fun r => !(r.volume == v && r.group == g)) }) s

/-- A sector of a cut as it was read: `wrong` are bytes that C1 to C3 left wrong, by cut, sector and place (R262). -/
def asRead (wrong : List (Nat × Nat × Nat × Byte)) (serial n : Nat) (bytes : List Byte) : List Byte :=
  match wrong.filter (fun e => e.1 == serial && e.2.1 == n) with
  | [] => bytes
  | l => ((List.range bytes.length).zip bytes).map (fun e =>
      l.foldl (fun b m => if m.2.2.1 = e.1 then b ^^^ m.2.2.2 else b) e.2)

/-- Sectors of a group as cuts that were read hold them, where no newer copy stands in the ring or in its page. -/
def readSectorsOf (s : State) (d : Dom) (v g : Nat) (cuts : List Nat) (wrong : List (Nat × Nat × Nat × Byte)) : List (Nat × List Byte) :=
  (groupSectors s d v g).filterMap (fun n =>
    match (ringSectorItem s d v n), residentSector s d v n with
    | some _, _ => none
    | none, some b => some (n, b)
    | none, none => ((tapeCopies s d v n).find? (fun c => cuts.contains c.1)).map (fun c => (n, asRead wrong c.1 n c.2)))

/-- A group read from cuts stays in a page, where there is one for it; sectors that the ring holds newer are left out (R343). -/
def captureGroup (d : Dom) (v g : Nat) (cuts : List Nat) (wrong : List (Nat × Nat × Nat × Byte)) (s : State) : State :=
  let sectors := readSectorsOf s d v g cuts wrong
  if sectors = [] then s
  else if groupHeld s d v g then keepGroup d v g sectors s
  else ((pageFor d s).map (keepGroup d v g sectors)).getD s

/-- The groups whose merge waits for a fetch: domain, volume, group and the cut (R345). -/
def fetchList (s : State) : List (Dom × Nat × Nat × Nat) :=
  (s.ring.items.filter (fun r => itemHere s r && r.item.kind == .sectors)).flatMap (fun r =>
    let d := r.item.dom
    let v := r.item.target
    if (v != 0 && !indexValid s) || (pageFor d s).isNone then []
    else (r.item.groups.drop r.paged).filterMap (fun g => (fetchFor s d v g).map (fun n => (d, v, g, n))))

/-- A cut that was read brings the groups that waited for it into their pages, and the pager goes on (R345). -/
def fetched (serial : Nat) (wrong : List (Nat × Nat × Nat × Byte)) (s : State) : State :=
  let mine := (fetchList s).filter (fun f => f.2.2.2 == serial)
  if mine = [] then s
  else runPagers (mine.foldl (fun t f => captureGroup f.1 f.2.1 f.2.2.1 [serial] wrong t) s)

/-! ### The boot cache at a commit (R148, R199) -/

/-- A sector as the boot cache keeps it: with its CRC, and nothing for a sector of zeros. -/
def cacheEntry (n : Nat) (bytes : List Byte) : List (Nat × List Byte × Nat) :=
  if bytes.any (· != 0) then [(n, bytes, (crc32c bytes).toNat)] else []

/-- Update the boot cache at a commit; the delay before a Bedrock generation begins again (R148, R199, R347). -/
def cacheSectors (i : Item) (s : State) : State :=
  if i.kind = .sectors ∧ i.target = 0 then
    let b := vget s.ring.boot i.dom
    let ns := ((List.range (i.bytes.length / 4096)).map (· + i.seq)).filter (fun n => n < obj s (Obj.firstStageSize i.dom))
    let kept := b.sectors.filter (fun e => !ns.contains e.1)
    { s with ring := { s.ring with boot := vset s.ring.boot i.dom { b with
        sectors := kept ++ ns.flatMap (fun n => cacheEntry n (i.sector n)), failed := b.failed.filter (fun n => !ns.contains n) } }
             sched := { s.sched with bedrockDue := false } }
  else s

/-- Bytes of the boot cache have gone bad: their sectors no longer match the directory's CRC (R199). -/
def rotCache (rot : List CacheRot) (s : State) : State :=
  rot.foldl (fun t r =>
    let b := vget t.ring.boot r.dom
    let n := r.sector.toNat
    let zeros : List Byte := List.replicate 4096 0
    let old := ((b.sectors.find? (fun e => e.1 == n)).map (·.2)).getD (zeros, (crc32c zeros).toNat)
    let bytes := old.1.set r.off.toNat (old.1.getD r.off.toNat 0 ^^^ r.bits)
    { t with ring := { t.ring with boot := vset t.ring.boot r.dom { b with
        sectors := b.sectors.filter (fun e => e.1 != n) ++ [(n, bytes, old.2)] } } }) s

/-! ### The record area and the unit table (R195-R197) -/

/-- The regions of the MRAM die: first address and size (R195). -/
inductive MramRegion where
  | ringData | bootCache | directory | records | journal
deriving DecidableEq, Repr

/-- Start and size of a region in bytes (R195). -/
def MramRegion.range : MramRegion → Nat × Nat
  | .ringData => (0x00000000, 160 * 262144)
  | .bootCache => (0x02800000, 8 * 2097152)
  | .directory => (0x03800000, 4194304)
  | .records => (0x03C00000, 32768 * 32)
  | .journal => (0x03D00000, 3145728)

/-- The region of an MRAM address (R195). -/
def mramRegionOf (a : Nat) : Option MramRegion :=
  ([.ringData, .bootCache, .directory, .records, .journal] : List MramRegion).find? (fun r =>
    r.range.1 ≤ a && decide (a < r.range.1 + r.range.2))

/-- Units of a domain in table order (R196). -/
def shareUnits (s : State) (d : Dom) : List (Fin 160) := (s.ring.units.filter (fun u => u.2 == d)).map (·.1)

/-- MRAM address of a line of a domain's share: the lines run over its units in table order (R195, R196). -/
def lineAddress (s : State) (d : Dom) (line : Nat) : Option Nat :=
  (shareUnits s d)[line / 4096]?.map (fun u => 262144 * u.val + 64 * (line % 4096))

/-- MRAM address of a sector of a domain's boot cache slot (R199). -/
def cacheAddress (d : Dom) (n : Nat) : Nat := 0x02800000 + d.val * 0x00200000 + 4096 * n

/-- MRAM address of a record position (R195, R197). -/
def recordAddress (pos : Nat) : Nat := 0x03C00000 + 32 * pos

/-- The 32 bytes of a ring record (R197). -/
def RingItem.record (r : RingItem) : List Byte :=
  leBytes 8 r.item.seq ++ leBytes 8 r.item.stamp ++ leBytes 4 r.item.bytes.length ++ leBytes 4 r.item.crc ++ leBytes 4 r.line
    ++ leBytes 1 (16 * (if r.item.kind = .take then 1 else 2) + r.item.target % 16) ++ leBytes 1 r.item.dom.val
    ++ leBytes 1 (b2n r.item.raw) ++ leBytes 1 0

/-- The record area: address and bytes of every unreleased record (R195, R197). -/
def recordArea (s : State) : List (Nat × List Byte) := s.ring.items.map (fun r => (recordAddress r.pos, r.record))

/-- The next record position: round-robin over the whole area, past positions whose record is not released (R197). -/
def freeRecord (items : List RingItem) : Nat → Nat → Nat
  | 0, p => p
  | fuel + 1, p => if items.any (fun r => r.pos == p) then freeRecord items fuel ((p + 1) % 32768) else p

/-- The lowest free units, as many as asked for. -/
def freeUnitsOf (s : State) (n : Nat) : List (Fin 160) :=
  ((List.finRange 160).filter (fun u => !s.ring.units.any (fun x => x.1 == u))).take n

/-- A domain's share of the unit table follows its state and its RING_SHARE: a configured domain holds as many units, an
UNCONFIGURED one none; a smaller share begins at its first line again (R196). DESIGN CHOICE: log entry 184. -/
def fitUnits (d : Dom) (s : State) : State :=
  let want := if configured s d then obj s (Obj.ringShare d) else 0
  let mine := shareUnits s d
  let others := s.ring.units.filter (fun u => u.2 != d)
  if want = mine.length then s
  else if mine.length < want then
    { s with ring := { s.ring with units := s.ring.units ++ (freeUnitsOf s (want - mine.length)).map (fun u => (u, d)) } }
  else
    { s with ring := { s.ring with units := others ++ (mine.take want).map (fun u => (u, d)) } }
      |> modDom d (fun x => { x with nextLine := 0 })

/-- The unit table follows every domain (R196). -/
def fitAllUnits (s : State) : State := allDoms.foldl (fun t d => fitUnits d t) s

end Sys2Proof.Machine
end

