-- ==== Sys2Proof/Machine/Queue.lean ====
section
/-!
DEFINITION. The queue engine: slots, completions, freezes, the commit point, reads and their turns, and what a verified cut
releases (R12-R21, R137-R150, R164-R175, R196, R197).
-/
namespace Sys2Proof.Machine

/-! ### Slots -/

/-- Administrative opcodes: IDENTIFY, GET_LOG_PAGE, RESUME and ABORT (R134). -/
def isAdminOp (op : Nat) : Bool := op == opIdentify || op == opGetLogPage || op == opResume || op == opAbort

/-- A slot by number. -/
def slotOf (s : State) (d : Dom) (no : Nat) : Option Slot := (domOf s d).slots.find? (fun x => x.no == no)

/-- Change a slot. -/
def modSlot (d : Dom) (no : Nat) (f : Slot → Slot) (s : State) : State :=
  modDom d (fun x => { x with slots := x.slots.map (fun y => if y.no = no then f y else y) }) s

/-- The slot of an outstanding TAG of a port. -/
def slotOfTag (s : State) (d : Dom) (p : PortId) (tag : Nat) : Option Slot :=
  (domOf s d).slots.find? (fun x => x.cmd.head.port == p && x.cmd.head.tag.toNat == tag)

/-- Bits 7:0 of a field that holds an argument. -/
def arg8 (v : DWord) : Nat := v.toNat % 256

/-- A freezing status (R172). -/
def freezes (status : Nat) : Bool := status == 0x30 || status == 0x31 || status == 0x38

/-- Log a completion in page 0x01 (R177). -/
def logError (x : Slot) (status detail value : Nat) (froze : Bool) (s : State) : State :=
  if status = 0x30 ∨ status = 0x31 ∨ status = 0x32 ∨ status = 0x38 then
    let d := x.cmd.head.dom
    modDom d (fun y => { y with
      errorTotal := y.errorTotal + 1
      errors := ({ index := y.errorTotal + 1, opcode := x.cmd.opcode, status := status, detail := detail
                   port := x.cmd.head.port, tag := x.cmd.head.tag.toNat, value := value
                   gen := obj s (Obj.unitGen (domIndex d)), target := x.cmd.body.target.toNat, froze := froze
                   time := nowUs s } :: y.errors).take 64 }) s
  else s

/-- The commands a freeze holds: not administrative, not started, not complete (R172). -/
def heldByFreeze (x : Slot) : Bool := !isAdminOp x.cmd.opcode && !x.started && x.phase != .done

/-- Freeze a queue (R172). -/
def freezeQueue (d : Dom) (status opcode : Nat) (s : State) : State :=
  s |> modDom d (fun x => { x with frozen := true
                                   slots := x.slots.map (fun y => if heldByFreeze y then { y with held := true } else y) })
    |> postEvent 0x0104 d.val (status + 256 * opcode)

/-- Completion flags that follow the device: DEGRADED (R139). -/
def degradedFlag (s : State) : Nat := if obj s Obj.guaranteeScale < 1024 then 8 else 0

/-- Complete the command in a slot: the completion waits to leave, keeping the slot; a freezing status freezes the queue;
the TAG of a write whose last DATA has not arrived stays open (R17, R136, R139, R172, R182). After the take cut-off of a
power failure no command completes (R367). COMMITTED_BYTES counts a write that ends with SUCCESS (R446). -/
def completeSlot (d : Dom) (no status detail count value flags : Nat) (s : State) : State :=
  match slotOf s d no with
  | none => s
  | some x =>
    if x.phase = .done ∨ (s.power.failing ∧ s.ring.closed) then s else
    let froze : Bool := freezes status && !(domOf s d).frozen
    let op := x.cmd.opcode
    let h := x.cmd.head
    let open_ : Bool := isWriteCmd op && !x.lastSeen && !(status == 0x12 && detail == 6)
    let c : Completion := ⟨op, status, flags + degradedFlag s + (if froze then 4 else 0), detail, count, value⟩
    let paid := if status = 0 ∧ isRingWrite op then writeLength x.cmd else 0
    let s0 := { s with sched := { s.sched with urgent := s.sched.urgent.filter (· != (d, no)) }
                       energy := { s.energy with committed := s.energy.committed + paid } }
    let s1 := s0 |> modSlot d no (fun y => { y with phase := .done, held := false, data := [], units := 0 })
      |> modDom d (fun y => { y with
          openTags := if open_ then y.openTags ++ [(h.port, h.tag.toNat)] else y.openTags
          idle := y.idle && op == opSetPower })
      |> logError x status detail value froze
      |> returnUnits h.port .data x.units
      |> sendMsg h.port (.cpl d h.tag.toNat (some no) c)
    if froze then freezeQueue d status op s1 else s1

/-- Draw tokens for bytes in turns of 64 KiB: a turn that starts above zero draws all its bytes (R168). Levels count in
fortieths of a byte. -/
def drawTokens : Nat → Int → Nat → Int
  | 0, level, _ => level
  | fuel + 1, level, n =>
    if n = 0 then level
    else
      let turn := min n 65536
      drawTokens fuel (if 0 < level then level - 40 * (turn : Nat) else level) (n - turn)

/-- Draw write tokens (R168). -/
def drawWrite (d : Dom) (n : Nat) (s : State) : State :=
  modDom d (fun x => { x with tokens := { x.tokens with write := drawTokens (n / 65536 + 1) x.tokens.write n } }) s

/-- A read's bucket: tape read, or buffer read (R168). -/
def readLevel (tape : Bool) (t : Tokens) : Int := if tape then t.tapeRead else t.bufRead

/-- A turn of a read draws its bytes from its bucket where it starts above zero (R168). -/
def drawRead (d : Dom) (tape : Bool) (n : Nat) (s : State) : State :=
  modDom d (fun x =>
    let level := drawTokens 1 (readLevel tape x.tokens) n
    { x with tokens := if tape then { x.tokens with tapeRead := level } else { x.tokens with bufRead := level } }) s

/-! ### The commit point (R12, R16, R141, R142, R148, R197) -/

/-- Put a record and its data in the ring (R196, R197). -/
def ringPut (i : Item) (s : State) : State :=
  let x := domOf s i.dom
  let pos := freeRecord s.ring.items (s.ring.items.length + 1) s.ring.nextRecord
  let r : RingItem := { item := i, cartridge := tapeId s, line := x.nextLine, pos := pos, paged := 0
                        leftBytes := if i.kind = .take then i.entry.length else 0
                        leftSectors := if i.kind = .take then [] else (List.range (i.bytes.length / 4096)).map (· + i.seq)
                        corrupt := false }
  { s with ring := { s.ring with items := s.ring.items ++ [r], nextIdx := s.ring.nextIdx + 1
                                 nextRecord := (pos + 1) % 32768 } }
    |> modDom i.dom (fun y => { y with nextLine := (y.nextLine + linesOf i.bytes.length) % max 1 (shareLines s i.dom) })

/-- A command's data in offset order. -/
def slotBytes (x : Slot) : List Byte :=
  ((sortBy (·.1) x.data).map (·.2)).flatten

/-- The item a write command commits. -/
def itemOf (s : State) (x : Slot) : Item :=
  let d := x.cmd.head.dom
  let log : LogNo := Fin.ofNat 16 x.cmd.body.target.toNat
  let bytes := slotBytes x
  if x.cmd.opcode = opAppend then
    { idx := s.ring.nextIdx, dom := d, kind := .take, target := log.val, seq := (vget (domOf s d).logs log).lastCommitted + 1
      stamp := x.cmd.body.stamp.toNat, raw := x.cmd.body.flags.getLsbD 0, bytes := bytes, crc := (crc32c bytes).toNat }
  else
    { idx := s.ring.nextIdx, dom := d, kind := .sectors, target := x.cmd.body.target.toNat, seq := x.cmd.body.argA.toNat
      stamp := 0, raw := false, bytes := bytes, crc := (crc32c bytes).toNat }

/-- A write reaches its commit point: record and data in MRAM, the take numbered, its content on its way, SUCCESS (R12,
R16, R141, R144, R148). -/
def commitSlot (d : Dom) (no : Nat) (s : State) : State :=
  match slotOf s d no with
  | none => s
  | some x =>
    let i := itemOf s x
    let s1 := s |> ringPut i |> addWeight (account d) i.bytes.length
    let s2 := if i.kind = .take then
        modDom d (fun y => { y with logs := Vector.ofFn (fun l =>
          if l.val = i.target then { vget y.logs l with lastCommitted := i.seq } else vget y.logs l) }) s1
      else cacheSectors i s1
    s2 |> runPager d
      |> completeSlot d no 0 0 x.cmd.body.count.toNat (if i.kind = .take then i.seq else 0) 0

/-! ### DATA to the host (R138) -/

/-- DATA messages of at most 960 bytes from an OFFSET on; LAST on the final one where these are the last bytes. -/
def dataMsgs (final : Bool) : Nat → Dom → Nat → Nat → List Byte → List TxMsg
  | 0, _, _, _, _ => []
  | fuel + 1, d, tag, off, bytes =>
    if bytes = [] then []
    else .data d tag off (bytes.take 960) (final && decide (bytes.length ≤ 960))
      :: dataMsgs final fuel d tag (off + 960) (bytes.drop 960)

/-- Send bytes of a command's data; they weigh in the domain's energy account (R443). -/
def sendBytes (h : CmdHead) (off : Nat) (final : Bool) (bytes : List Byte) (s : State) : State :=
  addWeight (account h.dom) bytes.length <|
    (dataMsgs final (bytes.length / 960 + 1) h.dom h.tag.toNat off bytes).foldl (fun t m => sendMsg h.port m t) s

/-- Send all of an administrative command's data. -/
def sendData (h : CmdHead) (bytes : List Byte) (s : State) : State := sendBytes h 0 true bytes s

/-! ### Reads (R18-R20, R146, R149) -/

/-- A sector as a command may read it, with the cut it comes from: buffered, or a tape copy its ladder has not failed on: one
that it has read, else the one reached first (R18, R20). -/
def readSector (s : State) (x : Slot) (n : Nat) : Option (Option Nat × List Byte) :=
  let d := x.cmd.head.dom
  let v := x.cmd.body.target.toNat
  match bufferedSector s d v n with
  | some b => some (none, b)
  | none =>
    let copies := (tapeCandidates s d v n).filter (fun c => !x.failedCuts.contains c.1)
    match copies.find? (fun c => x.readCuts.contains c.1) with
    | some c => some (some c.1, asRead x.misread c.1 n c.2)
    | none => copies.head?.map (fun c => (some c.1, c.2))

/-- Sectors a READ_VOL names. -/
def readSectors (c : HostCmd) : List Nat := (List.range c.body.count.toNat).map (· + c.body.argA.toNat)

/-- A take as a command may read it: its entry, the cuts it needs, and its blocks in them; a discarded one is nowhere (R143). -/
def readTake (s : State) (x : Slot) (seq : Nat) : Option (List Byte × List Nat × List (Nat × Nat)) :=
  let d := x.cmd.head.dom
  let log := x.cmd.body.target.toNat
  if (vget (domOf s d).logs (Fin.ofNat 16 log)).discarded.contains seq then none
  else
    match ringTake s d log seq with
    | some i => some (i.entry, [], [])
    | none => tapeTake s d log seq

/-- What a READ_LOG returns: entries in order until the limit, the range's end or a take that is nowhere. -/
structure LogRead where
  /-- Entries, in runs that are served from tape or not, and their bytes in all. -/
  runs : List (Bool × List Byte)
  size : Nat
  cuts : List Nat
  last : Nat
  /-- Stopped at the byte limit. -/
  more : Bool
  /-- A discarded take was reached (R143). -/
  missing : Option Nat
  /-- A take whose TAKE_CRC differs from its data (R146), or whose cut was not recovered. -/
  badCrc : Option Nat
  failed : Option Nat
  /-- A take whose captured pages hold an uncorrectable line (R188). -/
  badLine : Option Nat
  /-- A take whose block failed decompression twice (R224). -/
  badBlock : Option Nat
deriving DecidableEq, Repr

/-- TAKE_CRC of an entry does not match its data (R146). -/
def entryCrcBad (e : List Byte) : Bool :=
  (crc32c ((e.drop 32).take (ofLeBytes ((e.drop 16).take 4)))).toNat != ofLeBytes ((e.drop 20).take 4)

/-- Collect takes `seq` onward (R146); `first` says none has been taken yet. -/
def collectTakes (s : State) (x : Slot) (limit : Nat) : Nat → Nat → LogRead → LogRead
  | 0, _, r => r
  | n + 1, seq, r =>
    match readTake s x seq with
    | none => { r with missing := some seq }
    | some (e, cuts, blocks) =>
      if limit < r.size + e.length then { r with more := true }
      else if x.cmd.badLine && cuts != [] then { r with badLine := some seq }
      else if blocks.any (fun b => x.badBlocks.contains b) then { r with badBlock := some seq }
      else if cuts.any (fun c => x.failedCuts.contains c) then { r with failed := some seq }
      else if entryCrcBad e then { r with badCrc := some seq, cuts := r.cuts ++ cuts }
      else
        collectTakes s x limit n (seq + 1)
          { r with runs := r.runs ++ [(cuts != [], e)], size := r.size + e.length, cuts := r.cuts ++ cuts, last := seq }

/-- A READ_LOG's byte limit (R133). -/
def byteLimit (c : HostCmd) : Nat := if c.body.count.toNat = 0 then 16777216 else c.body.count.toNat

/-- What a READ_LOG finds now. -/
def logRead (s : State) (x : Slot) : LogRead :=
  let a := x.cmd.body.argA.toNat
  collectTakes s x (byteLimit x.cmd) (x.cmd.body.argB.toNat + 1 - a) a ⟨[], 0, [], 0, false, none, none, none, none, none⟩

/-- Completion flags of a read: BUF where every byte was buffered and no tape was moved for it, RECOVERED where a ladder was
climbed (R19, R139). -/
def readFlags (x : Slot) (buf : Bool) : Nat :=
  (if buf && !x.moved && x.readCuts == [] then 1 else 0) + (if x.recovered then 16 else 0)

/-- A read has found its bytes: they wait for their turns, or, where there are none, it completes (R120, R168). -/
def serveRead (d : Dom) (no : Nat) (runs : List (Bool × List Byte)) (r : ReadReply) (s : State) : State :=
  match runs.filter (fun x => x.2 != []) with
  | [] => completeSlot d no r.status r.detail r.count r.value r.flags s
  | rs => modSlot d no (fun y => { y with phase := .sending [] rs 0 r }) s

/-- The completion of a READ_LOG that found `r` (R143, R146, R188, R224). -/
def logReply (r : LogRead) (flags : Nat) : ReadReply :=
  match r.failed, r.badCrc, r.badLine, r.badBlock, r.missing with
  | some q, _, _, _, _ => ⟨0x30, 1, r.size, q, flags⟩
  | _, some q, _, _, _ => ⟨0x31, 3, r.size, q, flags⟩
  | _, _, some q, _, _ => ⟨0x31, 2, r.size, q, flags⟩
  | _, _, _, some q, _ => ⟨0x31, 1, r.size, q, flags⟩
  | _, _, _, _, some q => ⟨0x12, 3, r.size, q, flags⟩
  | _, _, _, _, _ =>
    if r.size = 0 then ⟨0x12, 2, 0, 0, flags⟩ else ⟨0, 0, r.size, r.last, flags + (if r.more then 2 else 0)⟩

/-- End a READ_LOG whose cuts have all been read (R143, R146). -/
def finishReadLog (d : Dom) (no : Nat) (x : Slot) (s : State) : State :=
  let r := logRead s x
  serveRead d no r.runs (logReply r (readFlags x (r.cuts == []))) s

/-- A sector is served from LPDDR4X, with no copy in MRAM: from a resident group or from a captured cut (R18, R188). -/
def fromPages (s : State) (x : Slot) (n : Nat) : Bool :=
  let d := x.cmd.head.dom
  let v := x.cmd.body.target.toNat
  (ringSectorItem s d v n).isNone && ((residentSector s d v n).isSome
    || ((cachedSector s d v n).isNone && tapeCandidates s d v n != []))

/-- The block a sector would be read from failed decompression twice (R224). -/
def badBlockAt (s : State) (x : Slot) (n : Nat) : Bool :=
  ((readSector s x n).bind (·.1)).any (fun c => x.badBlocks.any (fun b => b.1 == c
    && (findCut s c).any (fun cut => sectorBlock cut x.cmd.body.target.toNat n == some b.2)))

/-- Leading sectors a READ_VOL can return, and the first it cannot (R149). -/
def volRead (s : State) (x : Slot) : List (Bool × List Byte) × Option Nat :=
  let ns := readSectors x.cmd
  let good := ns.takeWhile (fun n => (readSector s x n).isSome && !(x.cmd.badLine && fromPages s x n)
    && !badBlockAt s x n)
  (good.filterMap (fun n => (readSector s x n).map (fun r => (r.1.isSome, r.2))), (ns.drop good.length).head?)

/-- Both Bedrock zone copies of a failing sector were tried (R303). -/
def bothZonesFailed (s : State) (x : Slot) (n : Nat) : Bool :=
  x.cmd.body.target.toNat == 0 && ([0, 1] : List (Fin 2)).all (fun z =>
    (zoneCuts s z x.cmd.head.dom).any (fun c => (sectorIn c 0 n).isSome && x.failedCuts.contains c.serial))

/-- A page whose line lost a group's data is read no more (R188). -/
def dropGroup (d : Dom) (v g : Nat) (s : State) : State :=
  modDom d (fun y => { y with resident := y.resident.filter (fun r => !(r.volume == v && r.group == g)) }) s

/-- Groups that a READ_VOL reads. -/
def readGroups (x : Slot) : List Nat := ((readSectors x.cmd).map (· / 16)).eraseDups

/-- What a READ_VOL read from tape stays in pages, its groups the last used (R343, R345). -/
def keepRead (d : Dom) (x : Slot) (s : State) : State :=
  let v := x.cmd.body.target.toNat
  (readGroups x).foldl (fun t g =>
    touchGroup d v g (if x.readCuts = [] then t else captureGroup d v g x.readCuts x.misread t)) s

/-- End a READ_VOL whose cuts have all been read or failed (R149, R188, R303). -/
def finishReadVol (d : Dom) (no : Nat) (x : Slot) (s : State) : State :=
  let r := volRead s x
  let v := x.cmd.body.target.toNat
  let flags := readFlags x ((readSectors x.cmd).all (sectorBuffered s d v))
  let n := r.1.length
  match r.2 with
  | none => s |> keepRead d x |> serveRead d no r.1 ⟨0, 0, x.cmd.body.count.toNat, 0, flags⟩
  | some k =>
    if badBlockAt s x k then s |> keepRead d x |> serveRead d no r.1 ⟨0x31, 1, n, k, flags⟩
    else if (readSector s x k).isSome then s |> dropGroup d v (k / 16) |> serveRead d no r.1 ⟨0x31, 2, n, k, flags⟩
    else s |> keepRead d x |> serveRead d no r.1 ⟨0x30, if bothZonesFailed s x k then 2 else 1, n, k, flags⟩

/-- Cuts a read still needs from tape. -/
def cutsNeeded (s : State) (x : Slot) : List Nat :=
  let all := if x.cmd.opcode = opReadLog then (logRead s x).cuts
    else (readSectors x.cmd).filterMap (fun n => (readSector s x n).bind (·.1))
  all.eraseDups.filter (fun c => !x.readCuts.contains c)

/-- Some sector of a READ_VOL waits for the index rebuild: of volumes 1-3, or of volume 0 with no current zone (R346). -/
def waitsForIndex (s : State) (x : Slot) : Bool :=
  let d := x.cmd.head.dom
  let v := x.cmd.body.target.toNat
  x.cmd.opcode == opReadVol && !indexValid s
    && (readSectors x.cmd).any (fun n => !sectorBuffered s d v n && tapeCandidates s d v n == [])

/-! ### Turns of 64 KiB (R120, R168) -/

/-- Bytes of a read that are still to send; none of any other command. -/
def runsOf (x : Slot) : Option (List (Bool × List Byte) × Nat × ReadReply) :=
  match x.phase with
  | .sending _ runs off r => some (runs, off, r)
  | _ => none

/-- Bytes of a read that have left. -/
def sentRuns (x : Slot) : List (Bool × List Byte) :=
  match x.phase with
  | .sending sent _ _ _ => sent
  | _ => []

/-- A read that is being sent starts again at OFFSET 0 (R480). -/
def restartSending (x : Slot) : Slot :=
  match x.phase with
  | .sending sent runs _ r => { x with phase := .sending [] (sent ++ runs) 0 r }
  | _ => x

/-- The read of a domain on a port whose turn comes next: the one admitted first. -/
def turnSlot (s : State) (p : PortId) (d : Dom) : Option Slot :=
  ((sortBy (·.order) ((domOf s d).slots.filter (fun x => x.cmd.head.port == p && (runsOf x).isSome)))).head?

/-- Leading bytes of runs that one turn takes: at most 64 KiB, all from tape or none; and what is left. -/
def turnBytes : Nat → Bool → List (Bool × List Byte) → List Byte × List (Bool × List Byte)
  | _, _, [] => ([], [])
  | room, tape, (t, b) :: rest =>
    if t != tape || room == 0 then ([], (t, b) :: rest)
    else if b.length ≤ room then
      let r := turnBytes (room - b.length) tape rest
      (b ++ r.1, r.2)
    else (b.take room, (t, b.drop room) :: rest)

/-- The next turn of a domain on a port would be served in the guaranteed class: its bucket stands above zero (R168). -/
def guaranteedTurn (s : State) (p : PortId) (d : Dom) : Bool :=
  match (turnSlot s p d).bind runsOf with
  | some ((tape, _) :: _, _, _) => decide (0 < readLevel tape (domOf s d).tokens)
  | _ => false

/-- Domains in turn, beginning behind the one served last. -/
def inTurn (last : Nat) : List Dom := (List.range 8).map (fun k => Fin.ofNat 8 (last + 1 + k))

/-- The class of the next turn on a port and its domain: the guaranteed class first, the domains of a class in turn (R168). -/
def nextTurn (s : State) (p : PortId) : Option (Fin 2 × Dom) :=
  let q := portOf s p
  match (inTurn (vget q.lastTurn 0)).find? (guaranteedTurn s p) with
  | some d => some (0, d)
  | none => ((inTurn (vget q.lastTurn 1)).find? (fun d => (turnSlot s p d).isSome)).map (fun d => (1, d))

/-- Serve one turn: it draws its bytes from its bucket, its DATA go to the port, and behind the last of them the completion
(R120, R138, R168). -/
def serveTurn (cls : Fin 2) (d : Dom) (x : Slot) (s : State) : State :=
  match runsOf x with
  | some ((tape, b) :: rest, off, r) =>
    let t := turnBytes 65536 tape ((tape, b) :: rest)
    let s1 := s |> modPort x.cmd.head.port (fun q => { q with lastTurn := vset q.lastTurn cls d.val })
      |> drawRead d tape t.1.length |> sendBytes x.cmd.head off (t.2 == []) t.1
    if t.2 = [] then completeSlot d x.no r.status r.detail r.count r.value r.flags s1
    else modSlot d x.no (fun y => { y with phase := .sending (sentRuns x ++ [(tape, t.1)]) t.2 (off + t.1.length) r }) s1
  | some ([], _, r) => completeSlot d x.no r.status r.detail r.count r.value r.flags s
  | none => s

/-- DATA of a read still stands in a port's transmit queue. -/
def dataWaits (q : Port) : Bool := q.txWait.any (fun m => match m with
  | .data _ _ _ _ _ => true
  | _ => false)

/-- A port without DATA to send takes the next turn (R168). DEDUCED: log entry 181. -/
def servePort (p : PortId) (s : State) : State :=
  if dataWaits (portOf s p) then s
  else
    match nextTurn s p with
    | none => s
    | some (cls, d) =>
      match turnSlot s p d with
      | none => s
      | some x => serveTurn cls d x s

/-- Start or go on with a read: where nothing more is needed from tape its bytes are captured and wait for their turns, else it
waits for its cuts (R18, R19). -/
def runRead (d : Dom) (no : Nat) (s : State) : State :=
  match slotOf s d no with
  | none => s
  | some x =>
    if waitsForIndex s x then modSlot d no (fun y => { y with phase := .ordering }) s
    else
      match cutsNeeded s x with
      | [] => servePort x.cmd.head.port ((if x.cmd.opcode = opReadLog then finishReadLog d no x else finishReadVol d no x)
          (modSlot d no (fun y => { y with started := true }) s))
      | cs => s |> modSlot d no (fun y => { y with phase := .tape cs })

/-! ### Ordering (R171) -/

/-- Sector ranges of two volume commands overlap. -/
def overlaps (a b : HostCmd) : Bool :=
  a.body.target == b.body.target && a.body.argA.toNat < b.body.argA.toNat + b.body.count.toNat
    && b.body.argA.toNat < a.body.argA.toNat + a.body.count.toNat

/-- An earlier command of the domain makes this one wait (R171). -/
def waitsFor (x e : Slot) : Bool :=
  let live : Bool := e.phase != .done
  if x.cmd.opcode = opReadVol then live && e.cmd.opcode == opWriteVol && overlaps x.cmd e.cmd
  else if x.cmd.opcode = opWriteVol then
    live && (e.cmd.opcode == opWriteVol || e.cmd.opcode == opReadVol) && overlaps x.cmd e.cmd
  else if x.cmd.opcode = opTrimLog then
    live && e.cmd.opcode == opReadLog && e.cmd.body.target == x.cmd.body.target
      && decide (e.cmd.body.argA.toNat ≤ x.cmd.body.argA.toNat)
  else false

/-- A take whose last DATA arrived before this one's goes first into its log (R142); commands that RETRY runs again have the
order of R173 among themselves, and a held one does not commit. -/
def arrivedBefore (x e : Slot) : Bool :=
  x.cmd.opcode == opAppend && e.cmd.opcode == opAppend && e.cmd.body.target == x.cmd.body.target && !e.held
    && e.phase != .done && !(x.retried && e.retried) && e.arrived != 0 && decide (e.arrived < x.arrived)

/-- Writes that a freeze held reach their commit points in admission order once RETRY runs them again (R173). -/
def retriedBefore (x e : Slot) : Bool :=
  isRingWrite x.cmd.opcode && isRingWrite e.cmd.opcode && x.retried && e.retried && e.phase != .done && decide (e.order < x.order)

/-- A command must wait for another one of its domain (R142, R171, R173). -/
def blocked (s : State) (d : Dom) (x : Slot) : Bool :=
  (domOf s d).slots.any (fun e => e.no != x.no &&
    ((decide (e.order < x.order) && waitsFor x e) || arrivedBefore x e || retriedBefore x e))

/-- TRIM_LOG takes effect (R151). -/
def runTrim (d : Dom) (no : Nat) (s : State) : State :=
  match slotOf s d no with
  | none => s
  | some x =>
    let log : LogNo := Fin.ofNat 16 x.cmd.body.target.toNat
    let cur := (vget (domOf s d).logs log).firstRetained
    let new := max cur (x.cmd.body.argA.toNat + 1)
    s |> modDom d (fun y => { y with logs := vset y.logs log { vget y.logs log with firstRetained := new } })
      |> refreshCuts |> completeSlot d no 0 0 0 new 0

/-- The domain's commits before a mark are all on tape and verified (R150). -/
def taped (s : State) (d : Dom) (mark : Nat) : Bool :=
  ((itemsOf s d).filter (itemHere s)).all (fun x => decide (mark ≤ x.item.idx) || x.done)

/-- A METER_RECORD's 64 bytes go to Kiln, or, while the bridge is down, it is refused (R21, R158, R393). -/
def submitMeter (d : Dom) (no : Nat) (s : State) : State :=
  match slotOf s d no with
  | none => s
  | some x =>
    if !s.kiln.bridgeOk then completeSlot d no 0x60 5 0 0 0 s
    else
      s |> modSlot d no (fun y => { y with phase := .kiln, started := true })
        |> (fun t => { t with kiln := { t.kiln with
              toKiln := t.kiln.toKiln ++ [.submit 2 d.val 0 false x.order (slotBytes x)] } })

/-- The METER_RECORD of a domain that a bridge message carries or answers, by its tag. -/
def meterTag (d : Dom) : BridgeMsg → Option Nat
  | .submit 2 id _ _ tag _ => if id = d.val then some tag else none
  | .result 2 id tag _ _ => if id = d.val then some tag else none
  | _ => none

/-- A METER_RECORD's record has not reached Kiln: its SUBMIT waits on the bridge (R157). -/
def submitWaits (s : State) (d : Dom) (x : Slot) : Bool := s.kiln.toKiln.any (fun m => meterTag d m == some x.order)

/-- The SUBMITs of METER_RECORDs that end before Kiln has them do not go out. -/
def dropSubmits (d : Dom) (gone : Nat → Bool) (s : State) : State :=
  { s with kiln := { s.kiln with toKiln := s.kiln.toKiln.filter (fun m => !(meterTag d m).any gone) } }

/-- Let one command go on as far as it can. -/
def advance (d : Dom) (no : Nat) (s : State) : State :=
  match slotOf s d no with
  | none => s
  | some x =>
    if x.held then s else
    match x.phase with
    | .ordering =>
      if blocked s d x then s
      else if x.cmd.opcode = opTrimLog then runTrim d no s
      else if x.cmd.opcode = opReadLog ∨ x.cmd.opcode = opReadVol then runRead d no s
      else s
    | .ready =>
      if x.cmd.opcode = opMeterRecord then submitMeter d no s
      else if blocked s d x || s.ring.closed then s else commitSlot d no s
    | .tape cs => if cs.all (fun c => x.readCuts.contains c || x.failedCuts.contains c) || cutsNeeded s x == [] then runRead d no s else s
    | .sync mark => if taped s d mark then completeSlot d no 0 0 0 0 0 s else s
    | _ => s

/-- Slots of complete writes in the order their last DATA arrived (R142). -/
def arrivalOrder (s : State) (d : Dom) : List Nat :=
  (sortBy (·.arrived) ((domOf s d).slots.filter (fun x => x.arrived != 0))).map (·.no)

/-- Let every command of a domain go on: complete writes in the order of their arrival, then all in admission order, and the
writes once more. -/
def progress (d : Dom) (s : State) : State :=
  let writes := arrivalOrder s d
  (writes ++ (domOf s d).slots.map (·.no) ++ writes).foldl (fun t no => advance d no t) s

/-- Let every domain's commands go on. -/
def progressAll (s : State) : State := allDoms.foldl (fun t d => progress d t) s

/-! ### The loss of the cartridge (R31, R161) -/

/-- A domain enters a state (R31). -/
def enterDom (d : Dom) (st : DomState) (s : State) : State :=
  s |> modDom d (fun x => { x with state := st }) |> bumpGen (domIndex d)

/-- ONLINE_MASK bit of a domain (R28). -/
def setOnline (d : Dom) (b : Bool) (s : State) : State :=
  let m := obj s Obj.onlineMask
  setObj Obj.onlineMask (if bitOf m d.val = b then m else if b then m + 2 ^ d.val else m - 2 ^ d.val) s

/-- A command that needs tape motion: a read with any byte not buffered, SYNC, and the extended self-test (R161). -/
def needsTape (s : State) (x : Slot) : Bool :=
  match x.phase with
  | .sync _ => true
  | .selfTest => x.cmd.body.argA.toNat % 256 == 2
  | .ordering | .tape _ =>
    (x.cmd.opcode == opReadLog || x.cmd.opcode == opReadVol) && (cutsNeeded s x != [] || waitsForIndex s x)
  | _ => false

/-- The commands of a domain that need tape complete as it loses the cartridge, with the cause's status; held ones stay (R161,
R174). -/
def failTapeWork (d : Dom) (status detail : Nat) (s : State) : State :=
  ((domOf s d).slots.filter (fun x => !x.held && x.phase != .done && needsTape s x)).foldl (fun t x =>
    completeSlot d x.no status detail 0 0 0 t) s

/-- While the cartridge is not READY or the transport cannot move, no write waits for ring room but a held one: each completes
with NO_SPACE_PENDING (R145, R169, R174). -/
def failRingWaits (s : State) : State :=
  if s.cart.state == .ready && canMove s then s
  else
    allDoms.foldl (fun t d => ((domOf t d).slots.filter (fun x => !x.held && x.phase == .ringWait)).foldl (fun u x =>
      completeSlot d x.no 0x21 u.cart.state.code 0 0 0 u) t) s

/-- A running extended self-test ends with the command that held it. -/
def endSelfTestOf (s : State) : State :=
  match s.test.run with
  | some r => if (slotOf s r.dom r.slot).any (fun x => x.phase == .selfTest) then s
    else { s with test := { s.test with run := none } }
  | none => s

/-- Every ONLINE domain goes to STARTING as the cartridge leaves READY, and writes that lack ring room complete (R31, R145,
R161). -/
def loseCartridge (status : Nat) (s : State) : State :=
  let detail := if status = 0x38 then s.xport.state.code else s.cart.state.code
  failRingWaits <| endSelfTestOf ((allDoms.filter (fun d => (domOf s d).state == .online)).foldl (fun t d =>
    t |> setOnline d false |> enterDom d .starting |> modDom d (fun x => { x with bootChecked := false })
      |> failTapeWork d status detail) s)

/-- LOAD_UNLOAD commands complete as the cartridge reaches their end (R159). -/
def loadUnloadDone (st : CartState) (action : Nat) : Bool :=
  match action with
  | 1 => st == .ready || st == .unformatted || st == .mismatch || st == .faulted
  | 2 | 3 => st == .present
  | _ => st == .formatting

/-- Complete the LOAD_UNLOAD commands whose end has come, and the writes that may no longer wait for ring room (R159, R169). -/
def wakeCartridge (s : State) : State :=
  failRingWaits (allDoms.foldl (fun t d => ((domOf t d).slots).foldl (fun u x =>
    match x.phase with
    | .cartridge a => if loadUnloadDone u.cart.state a then completeSlot d x.no 0 0 0 0 0 u else u
    | _ => u) t) s)

/-- A transport fault of the cartridge (R162): FAULTED, and the domains lose it. -/
def faultCartridge (s : State) : State :=
  match s.cart.state with
  | .threading | .searching | .ready | .draining | .formatting =>
    s |> enterCart .faulted |> (fun t => { t with cart := { t.cart with goal := .none } }) |> loseCartridge 0x38
      |> wakeCartridge
  | _ => s

/-! ### Untaped content, flushes and releases (R14, R342, R377) -/

/-- Waiting content of a domain in bytes (R341): blocks of the path and what its logs gather. -/
def waitingBytes (s : State) (d : Dom) : Nat :=
  ((s.comp.blocks.filter (fun b => b.dom == d)).map
      (fun b => if b.stage = .ready then b.block.length else piecesLen b.block.pieces)).sum
    + ((s.comp.gathers.filter (fun g => g.dom == d)).map (fun g => piecesLen g.pieces)).sum

/-- A condition of a flush other than the entry to P1 holds (R342). -/
def flushCause (s : State) (d : Dom) : Bool :=
  (domOf s d).slots.any (fun x => match x.phase with | .sync _ => true | _ => false)
    || s.sched.aged.contains d || decide (3 * shareLines s d ≤ 4 * linesUsed s d)
    || 0 < ringWaiting s d || s.cart.state == .draining

/-- A flush is due for a domain (R342). -/
def flushDue (s : State) (d : Dom) : Bool := waitingBytes s d != 0 && (flushCause s d || s.sched.enteringP1)

/-- A ring item after a verified block: the bytes and sectors it carried are on tape (R14). -/
def itemTaped (d : Dom) (b : Block) (r : RingItem) : RingItem :=
  if r.item.dom ≠ d ∨ r.item.target ≠ b.target then r
  else
    match r.item.kind, b.kind with
    | .take, .log =>
      { r with leftBytes := r.leftBytes - ((b.pieces.filter (fun p => p.commit == r.item.idx)).map (fun p => p.bytes.length)).sum }
    | .sectors, .sector | .sectors, .rawSector =>
      { r with leftSectors := r.leftSectors.filter (fun n => !b.pieces.any (fun p => p.seq == n && r.item.idx ≤ p.commit)) }
    | _, _ => r

/-- The items that stay in the ring: each domain's share is released from its tail in ring order, so an item stays behind an
earlier one of its share that is not taped; one of another cartridge holds up no other (R14, R196). -/
def stayingItems (here : RingItem → Bool) (held : List Dom) : List RingItem → List RingItem
  | [] => []
  | r :: rs =>
    if r.done && !held.contains r.item.dom then stayingItems here held rs
    else r :: stayingItems here (if here r then r.item.dom :: held else held) rs

/-- What is wholly on tape leaves the ring in its order; LAST_TAPED follows (R14, R143, R377). -/
def releaseItems (s : State) : State :=
  let kept := stayingItems (itemHere s) [] s.ring.items
  let gone := (s.ring.items.filter (fun r => !kept.contains r)).map (·.item)
  let newest : Dom → Nat → Nat → Nat := fun d l m =>
    (gone.filter (fun i => i.dom == d && i.kind == .take && i.target == l)).foldl (fun m i => max m i.seq) m
  allDoms.foldl (fun t d => modDom d (fun x => { x with logs := Vector.ofFn (fun l =>
    let y := vget x.logs l
    { y with lastTaped := newest d l.val y.lastTaped }) }) t) { s with ring := { s.ring with items := kept } }

/-- The takes and sectors of a verified cut are on tape (R14, R377). -/
def releaseCut (d : Dom) (blocks : List Block) (s : State) : State :=
  releaseItems { s with ring := { s.ring with items := s.ring.items.map (fun r =>
    if itemHere s r then blocks.foldl (fun r b => itemTaped d b r) r else r) } }

end Sys2Proof.Machine
end

