-- ==== Sys2Proof/Machine/Pages.lean ====
section
/-!
DEFINITION. What IDENTIFY and GET_LOG_PAGE return (R152, R153, R177, R276, R308, R399, R414, R475).
-/
namespace Sys2Proof.Machine

/-- Zero bytes. -/
def zeros (n : Nat) : List Byte := List.replicate n 0

/-- Bytes cut or zero-padded to a length. -/
def padTo (n : Nat) (b : List Byte) : List Byte := (b ++ zeros (n - b.length)).take n

/-- Log flags byte of a port and TAG: bit 7 PORT, bits 6:0 TAG (R177). -/
def portTag (p : PortId) (tag : Nat) : Nat := 128 * p.fin.val + tag

/-! ### IDENTIFY (R152) -/

/-- CNS 0x00: the device. -/
def identifyDevice (s : State) : List Byte :=
  leBytes 2 (obj s Obj.partCode) ++ leBytes 1 (obj s Obj.revisionCode) ++ zeros 1
    ++ leBytes 8 (obj s Obj.uniqueIdLow) ++ leBytes 8 (obj s Obj.uniqueIdHigh)
    ++ leBytes 1 (obj s Obj.nodeId) ++ leBytes 1 (obj s Obj.nodeIdValid) ++ leBytes 1 (obj s Obj.adminDomain)
    ++ leBytes 1 (configuredMask s) ++ leBytes 4 1200000 ++ leBytes 4 1206000 ++ leBytes 4 262144 ++ leBytes 4 256
    ++ leBytes 4 16777216 ++ leBytes 2 128 ++ leBytes 1 s.cart.state.code

/-- CNS 0x01: the domain. -/
def identifyDomain (s : State) (d : Dom) : List Byte :=
  leBytes 1 (domOf s d).state.code ++ leBytes 1 (b2n (domOf s d).frozen) ++ leBytes 2 (obj s (Obj.unitGen (domIndex d)))
    ++ leBytes 2 (obj s (Obj.ringShare d)) ++ leBytes 2 (obj s (Obj.logEnable d))
    ++ leBytes 4 (obj s (Obj.effectiveWrite d)) ++ leBytes 4 (obj s (Obj.effectiveTapeRead d))
    ++ leBytes 4 (obj s (Obj.effectiveBufferRead d))
    ++ leBytes 4 (obj s (Obj.cutsUsed d)) ++ leBytes 4 (cutsPledged s d) ++ leBytes 2 (obj s (Obj.cutQuota d))
    ++ leBytes 1 (b2n (bitOf (obj s Obj.authorizedDomains) d.val))

/-- CNS 0x02: the logs. -/
def identifyLogs (s : State) (d : Dom) : List Byte :=
  (List.finRange 16).flatMap (fun l =>
    let x := vget (domOf s d).logs l
    leBytes 8 x.firstRetained ++ leBytes 8 x.lastCommitted ++ leBytes 8 x.lastTaped
      ++ leBytes 1 (b2n (bitOf (obj s (Obj.logEnable d)) l.val)) ++ zeros 7)

/-- CNS 0x03: the volumes. -/
def identifyVolumes (s : State) (d : Dom) : List Byte :=
  (List.range 4).flatMap (fun v =>
    leBytes 8 (volumeSize s d v) ++ leBytes 4 (if v = 0 then obj s (Obj.firstStageSize d) else 0) ++ zeros 4)

/-- The 4,096 bytes of IDENTIFY. -/
def identify (s : State) (d : Dom) (cns : Nat) : List Byte :=
  padTo 4096 (match cns with
    | 0 => identifyDevice s
    | 1 => identifyDomain s d
    | 2 => identifyLogs s d
    | _ => identifyVolumes s d)

/-! ### Log pages -/

/-- Page 0x01 DOMAIN_ERROR_LOG (R177). -/
def pageErrors (s : State) (d : Dom) : List Byte :=
  let x := domOf s d
  leBytes 8 x.errorTotal ++ leBytes 2 x.errors.length ++ leBytes 1 (b2n x.frozen) ++ zeros 5
    ++ x.errors.flatMap (fun e =>
      leBytes 8 e.index ++ leBytes 1 e.opcode ++ leBytes 1 e.status ++ leBytes 1 e.detail ++ leBytes 1 (portTag e.port e.tag)
        ++ leBytes 8 e.value ++ leBytes 2 e.gen ++ leBytes 1 e.target ++ leBytes 1 (b2n e.froze) ++ leBytes 8 e.time)

/-- Page 0x02 HELD_COMMANDS, in admission order (R177). -/
def pageHeld (s : State) (d : Dom) : List Byte :=
  let held := sortBy (·.order) ((domOf s d).slots.filter (·.held))
  leBytes 2 held.length ++ zeros 14
    ++ held.flatMap (fun x =>
      leBytes 1 x.cmd.opcode ++ leBytes 1 (portTag x.cmd.head.port x.cmd.head.tag.toNat)
        ++ leBytes 1 x.cmd.body.target.toNat ++ zeros 1 ++ leBytes 4 x.cmd.body.count.toNat ++ leBytes 8 x.cmd.body.argA.toNat)

/-- An event record's bytes (R470). -/
def EventRec.bytes (e : EventRec) : List Byte :=
  leBytes 2 e.code ++ leBytes 1 e.unit ++ leBytes 1 e.severity ++ leBytes 4 e.detail ++ leBytes 8 e.time

/-- Pages 0x80 and 0x82 (R475). -/
def pageEvents (total : Nat) (es : List LogEntry) : List Byte :=
  leBytes 8 total ++ leBytes 2 es.length ++ zeros 6 ++ es.flatMap (fun e => leBytes 8 e.index ++ e.event.bytes)

/-- Page 0x81 SELF_TEST_LOG (R177). -/
def pageSelfTest (s : State) : List Byte :=
  (match s.test.run with
    | some r => leBytes 1 r.code ++ leBytes 1 r.step ++ leBytes 1 r.progress
    | none => zeros 3) ++ zeros 13
    ++ s.test.log.flatMap (fun e => leBytes 1 e.code ++ leBytes 1 e.result ++ leBytes 1 e.step ++ zeros 1
        ++ leBytes 4 e.seconds ++ leBytes 8 e.time)

/-- Page 0x84 REWRITE_MAP (R276). -/
def pageRewrite (s : State) : List Byte :=
  leBytes 8 s.cart.rewriteTotal ++ leBytes 2 s.cart.rewriteMap.length ++ zeros 6
    ++ s.cart.rewriteMap.flatMap (fun e =>
      leBytes 4 e.serial ++ leBytes 1 e.wrap ++ leBytes 1 e.dom ++ leBytes 1 e.outcome ++ leBytes 1 e.positions.length
        ++ leBytes 4 e.lpos ++ (e.positions.map (fun p => BitVec.ofNat 8 p.1) ++ List.replicate 4 0xFF#8).take 4
        ++ padTo 4 (e.positions.map (fun p => BitVec.ofNat 8 p.2)) ++ leBytes 1 e.forced ++ zeros 3 ++ leBytes 8 e.time)

/-- Page 0x85 READ_RECOVERY_LOG (R308). -/
def pageRecovery (s : State) : List Byte :=
  leBytes 8 s.cart.recoveryTotal ++ leBytes 2 s.cart.recoveryLog.length ++ zeros 6
    ++ s.cart.recoveryLog.flatMap (fun e =>
      leBytes 4 e.serial ++ leBytes 1 e.wrap ++ leBytes 1 e.dom ++ leBytes 1 e.outcome ++ leBytes 1 e.rereads
        ++ leBytes 4 e.failedCodewords ++ leBytes 4 e.c3Failed ++ leBytes 4 e.newSerial ++ leBytes 1 e.source ++ zeros 3
        ++ leBytes 8 e.time)

/-- Bytes 0-95 of a Kiln record (R399). -/
def KilnRecord.signed (r : KilnRecord) : List Byte :=
  [1#8] ++ leBytes 1 r.source ++ leBytes 1 r.sourceId ++ leBytes 1 r.flags ++ leBytes 4 r.eventCounter ++ leBytes 8 r.seq
    ++ leBytes 8 r.time ++ leBytes 8 r.prevTag ++ padTo 64 r.data

/-- The big-endian bytes of a number. -/
def beBytes (n v : Nat) : List Byte := (leBytes n v).reverse

/-- A Kiln record's 160 bytes, its signature among them (R399). -/
def KilnRecord.bytes (r : KilnRecord) : List Byte :=
  r.signed ++ beBytes 64 (Config.kilnSign (Config.sha256 r.signed)).toNat

/-- Bytes 0-7 of SHA-256 over bytes, as an integer (R399). -/
def hashTag (b : List Byte) : Nat := ofLeBytes ((beBytes 32 (Config.sha256 b).toNat).take 8)

/-- Page 0x86 KILN_RECORDS (R414): FIRST_HELD is the number after the last record where none is held. -/
def pageKiln (s : State) : List Byte :=
  leBytes 8 (s.kiln.lastSeq + 1 - s.kiln.records.length) ++ leBytes 8 s.kiln.lastSeq
    ++ s.kiln.records.flatMap KilnRecord.bytes

/-- The bytes of a defined page. -/
def logPage (s : State) (d : Dom) (page : Nat) : Option (List Byte) :=
  match page with
  | 0x01 => some (pageErrors s d)
  | 0x02 => some (pageHeld s d)
  | 0x80 => some (pageEvents s.ev.total s.ev.log)
  | 0x81 => some (pageSelfTest s)
  | 0x82 => some (pageEvents s.ev.faultTotal s.ev.faults)
  | 0x84 => some (pageRewrite s)
  | 0x85 => some (pageRecovery s)
  | 0x86 => some (pageKiln s)
  | _ => none

/-- The page is defined. -/
def pageDefined (page : Nat) : Bool := ([0x01, 0x02, 0x80, 0x81, 0x82, 0x84, 0x85, 0x86] : List Nat).contains page

end Sys2Proof.Machine
end

