-- ==== Sys2Proof/Machine/PowerOps.lean ====
section
/-!
DEFINITION. The device power state: what P0, P1 and P2 are claimed by, and how an entry or exit starts (R182-R185,
R437-R439).
-/
namespace Sys2Proof.Machine

/-- Present power state (R184). -/
def powerNow (s : State) : Nat := obj s Obj.powerState % 16

/-- The state entered or left towards (R184). -/
def powerToward (s : State) : Nat := obj s Obj.powerState / 16

/-- Set both nibbles of POWER_STATE (R184). -/
def setPowerState (now toward : Nat) (s : State) : State := setObj Obj.powerState (now + 16 * toward) s

/-- Work for the tape that the cartridge can take now: flushes, device cuts and a dailies pass (R183, R342, R352, R354). -/
def workDue (s : State) : Bool :=
  (s.cart.state == .ready || s.cart.state == .draining) &&
    (allDoms.any (fun d => waitingBytes s d != 0 && flushCause s d) || (s.kiln.cutDue && s.kiln.copies != [])
      || s.cart.index.todo != [] || fetchList s != [] || s.cart.mapDue || s.cart.reallocs != [] || s.sched.bedrockDue || s.sched.bedrock.isSome || s.sched.reclaim.isSome
      || (s.sched.dailies.isSome && objBool s Obj.dailiesEnable))

/-- The motion scheduler has tape work (R183, R360): its own claim, a burst not of the entry to P1, work that is due, or a
command that waits for tape. -/
def tapeWork (s : State) : Bool :=
  s.sched.claim || (s.sched.burst && !s.sched.enteringP1) || workDue s || s.cart.ladder.isSome || s.sched.mode == .excursion
    || (s.cart.calibration && s.cart.threaded)
    || allDoms.any (fun d => (domOf s d).slots.any (fun x => !x.held && (match x.phase with
        | .tape _ | .sync _ => true
        | _ => false)))

/-- Cartridge states that claim P0 (R183). -/
def cartClaims (c : CartState) : Bool :=
  match c with
  | .threading | .searching | .draining | .unloading | .formatting => true
  | _ => false

/-- The device power state every claim together allows (R183). -/
def targetPower (s : State) : Nat :=
  if s.test.run.isSome || cartClaims s.cart.state || tapeWork s then 0
  else (allDoms.filterMap (vote s)).foldl min (obj s Obj.deviceVote)

/-- Ports in UP are asked to enter idle on the way to P2 (R437). -/
def askIdle (s : State) : State :=
  allPorts.foldl (fun t p => if (portOf t p).state = .up then startIdle p t else t) s

/-- An exit or an aborted entry brings the ports back: an idle entry under way is cancelled, an idle port leaves IDLE
(R184, R185, R439). -/
def wakePorts (s : State) : State :=
  allPorts.foldl (fun t p =>
    let q := portOf t p
    if q.state = .draining ∧ q.goal = .idle ∧ !q.eotSent then cancelIdle p t else idleExit p t) s

/-- Compare the power state with its target: start the next deeper entry, abort one, or start an exit; an exit
that has started runs to its end (R184, R185, R437). -/
def pollPower (s : State) : State :=
  let t := targetPower s
  let now := powerNow s
  let toward := if t < now then t else if now < t then now + 1 else now
  if toward = powerToward s ∨ powerToward s < now then s
  else
    let s1 := s |> setPowerState now toward
      |> (fun u => { u with sched := { u.sched with enteringP1 := now == 0 && toward == 1 } })
    if toward = 2 ∧ now = 1 then askIdle s1
    else if powerToward s = 2 then wakePorts s1
    else s1

end Sys2Proof.Machine
end

