-- ==== Sys2Proof/Machine/Commands.lean ====
section
/-!
DEFINITION. Host commands: the checks of R135 in order, admission, and what each opcode does (R132-R175).
-/
namespace Sys2Proof.Machine

/-! ### Check 4: reserved and encoded fields (R133, R134, R140) -/

/-- Offsets of the bytes of a reserved field that are not zero. -/
def nonzeroBytes (base n v : Nat) : List Nat :=
  (List.range n).filterMap (fun i => if v / 256 ^ i % 256 = 0 then none else some (base + i))

/-- CMD_FLAGS bits an opcode names. -/
def flagMask (op : Nat) : Nat :=
  if op = opAppend ∨ op = opSetPower ∨ op = opAbort ∨ op = opLoadUnload then 1 else 0

/-- Opcodes that use TARGET. -/
def usesTarget (op : Nat) : Bool :=
  op == opAppend || op == opReadLog || op == opWriteVol || op == opReadVol || op == opTrimLog

/-- Opcodes that use COUNT. -/
def usesCount (op : Nat) : Bool :=
  op == opAppend || op == opReadLog || op == opWriteVol || op == opReadVol || op == opGetLogPage || op == opMeterRecord

/-- Opcodes that use all of ARG_A. -/
def usesArgA (op : Nat) : Bool := op == opReadLog || op == opWriteVol || op == opReadVol || op == opTrimLog

/-- Opcodes that use bits 7:0 of ARG_A. -/
def usesArg8 (op : Nat) : Bool :=
  op == opIdentify || op == opGetLogPage || op == opSelfTest || op == opResume || op == opSetPower || op == opAbort
    || op == opLoadUnload

/-- Opcodes that use ARG_B. -/
def usesArgB (op : Nat) : Bool := op == opReadLog || op == opGetLogPage

/-- Offsets of values an opcode does not allow in its own fields (R144, R146, R152-R159). -/
def badValues (c : HostCmd) : List Nat :=
  let b := c.body
  let op := c.opcode
  let a := arg8 b.argA
  let cnt := b.count.toNat
  (if op = opAppend ∧ cnt = 0 then [4] else [])
    ++ (if op = opMeterRecord ∧ cnt ≠ 64 then [4] else [])
    ++ (if op = opReadLog ∧ b.argB.toNat < b.argA.toNat then [16] else [])
    ++ (if op = opIdentify ∧ 3 < a then [8] else [])
    ++ (if op = opGetLogPage ∧ cnt % 16 ≠ 0 then [4] else [])
    ++ (if op = opGetLogPage ∧ !pageDefined a then [8] else [])
    ++ (if op = opGetLogPage ∧ b.argB.toNat % 16 ≠ 0 then [16] else [])
    ++ (if op = opSelfTest ∧ a ≠ 1 ∧ a ≠ 2 ∧ a ≠ 0x0F then [8] else [])
    ++ (if op = opResume ∧ 1 < a then [8] else [])
    ++ (if op = opSetPower ∧ 2 < a then [8] else [])
    ++ (if op = opAbort ∧ (128 ≤ a ∨ (b.flags.getLsbD 0 ∧ a ≠ 0) ∨ (!b.flags.getLsbD 0 ∧ a = c.head.tag.toNat)) then [8]
        else [])
    ++ (if op = opLoadUnload ∧ (a = 0 ∨ 4 < a) then [8] else [])

/-- Offsets of every field that fails check 4; the TAG 127 rule counts at 0. -/
def fieldFaults (c : HostCmd) : List Nat :=
  let b := c.body
  let op := c.opcode
  (if c.head.tag = 127#7 ∧ !isAdminOp op then [0] else [])
    ++ (if b.flags.toNat / (flagMask op + 1) ≠ 0 then [1] else [])
    ++ (if b.res2 ≠ 0 ∨ (!usesTarget op ∧ b.target ≠ 0) then [2] else [])
    ++ (if b.res3 ≠ 0 then [3] else [])
    ++ (if usesCount op then [] else nonzeroBytes 4 4 b.count.toNat)
    ++ (if usesArgA op then [] else if usesArg8 op then nonzeroBytes 9 7 (b.argA.toNat / 256)
        else nonzeroBytes 8 8 b.argA.toNat)
    ++ (if usesArgB op then [] else nonzeroBytes 16 8 b.argB.toNat)
    ++ nonzeroBytes 24 8 b.res24.toNat
    ++ (if op = opAppend then [] else nonzeroBytes 32 8 b.stamp.toNat)
    ++ nonzeroBytes 40 24 b.res40.toNat
    ++ badValues c

/-! ### Checks 5 to 7 -/

/-- The first failed check: its status and detail. -/
def firstFail : List (Bool × Nat × Nat) → Option (Nat × Nat)
  | [] => none
  | (b, r) :: rest => if b then some r else firstFail rest

/-- The opcode is defined (R133). -/
def opcodeDefined (op : Nat) : Bool := 1 ≤ op && op ≤ 0x10 && op != 7 && op != 0x0F

/-- Check 5: the opcode is allowed to the domain (R36, R153, R154, R398). -/
def authFaults (s : State) (c : HostCmd) : List (Bool × Nat × Nat) :=
  let op := c.opcode
  let admin := isAdmin s c.head.dom
  [ (!admin && (op == opLoadUnload || op == opSelfTest || (op == opSetPower && c.body.flags.getLsbD 0)
      || (op == opGetLogPage && decide (128 ≤ arg8 c.body.argA))), 0x1A, 2),
    (op == opSelfTest && kilnSeen s == 1 && obj s Obj.selfTestAllowed == 0, 0x1A, 3) ]

/-- The cartridge action a LOAD_UNLOAD names (R159). -/
def loadAction (c : HostCmd) : CartAction :=
  match arg8 c.body.argA with
  | 1 => .load
  | 2 => .unload
  | 3 => .eject
  | _ => if c.body.flags.getLsbD 0 then .formatForce else .format

/-- R160: the opcode is allowed by the domain's state and the cartridge. -/
def allowedIn (s : State) (d : Dom) (op : Nat) : Bool :=
  match (domOf s d).state with
  | .starting | .offline => op == opIdentify || op == opGetLogPage || op == opLoadUnload
  | .online => s.cart.state == .ready || !(op == opAppend || op == opWriteVol || op == opTrimLog)
  | .draining => isAdminOp op
  | .resetting | .unconfigured => false

/-- DETAIL of a STATE refusal by the cartridge (R140). -/
def cartDetail (s : State) : Nat := 128 + s.cart.state.code

/-- Check 6: the present state (R154, R155, R159, R160). -/
def stateFaults (s : State) (c : HostCmd) : List (Bool × Nat × Nat) :=
  let d := c.head.dom
  let op := c.opcode
  let ds := (domOf s d).state.code
  let a := arg8 c.body.argA
  [ (!allowedIn s d op, 0x18, if (domOf s d).state = .online then cartDetail s else ds),
    (op == opResume && !(domOf s d).frozen, 0x18, ds),
    (op == opSelfTest && (if a = 0x0F then s.test.run == none else s.test.run != none), 0x18, ds),
    (op == opSelfTest && a == 2 && s.cart.state != .ready, 0x18, cartDetail s),
    (op == opLoadUnload && !cartLegal s (loadAction c), 0x18, cartDetail s) ]

/-- FIRST_RETAINED as the waiting TRIM_LOGs of the log admitted before `order` will leave it (R171). -/
def retainedSoon (s : State) (d : Dom) (log : LogNo) (order : Nat) : Nat :=
  ((domOf s d).slots.filter (fun x => x.cmd.opcode == opTrimLog && x.phase != .done
      && x.cmd.body.target.toNat == log.val && decide (x.order < order))).foldl (fun m x => max m (x.cmd.body.argA.toNat + 1))
    (vget (domOf s d).logs log).firstRetained

/-- U with a command's own raw bytes fits the quota; `own` says that they are not in U yet (R25). -/
def quotaFits (s : State) (c : HostCmd) (own : Bool) : Bool :=
  let d := c.head.dom
  let more := if own then rawBytes (c.opcode == opAppend) (writeLength c) else 0
  obj s (Obj.cutsUsed d) + ceilDiv (untaped s d + more) pledgeCut ≤ quotaCuts s d

/-- Check 7 of a command with the admission number `order`: target, numbers and quota; `own` says whether the command's
bytes are not yet in U. -/
def rangeFaults (s : State) (c : HostCmd) (order : Nat) (own : Bool) : List (Bool × Nat × Nat) :=
  let d := c.head.dom
  let op := c.opcode
  let b := c.body
  let t := b.target.toNat
  let log : LogNo := Fin.ofNat 16 t
  let cnt := b.count.toNat
  let logOp : Bool := op == opAppend || op == opReadLog || op == opTrimLog
  let volOp : Bool := op == opWriteVol || op == opReadVol
  let page := arg8 b.argA
  [ (logOp && !bitOf (obj s (Obj.logEnable d)) t, 0x12, 1),
    (volOp && (decide (4 ≤ t) || volumeSize s d t == 0), 0x12, 1),
    (op == opAppend && decide (262144 < cnt), 0x12, 2),
    (op == opReadLog && decide (16777216 < cnt), 0x12, 2),
    (volOp && (cnt == 0 || decide (256 < cnt)), 0x12, 2),
    (op == opGetLogPage && (decide (cnt < 16) || decide (65536 < cnt)), 0x12, 2),
    (volOp && decide (volumeSize s d t < b.argA.toNat + cnt), 0x12, 3),
    (op == opReadLog && (decide (b.argA.toNat < retainedSoon s d log order)
      || decide ((vget (domOf s d).logs log).lastCommitted < b.argB.toNat)), 0x12, 3),
    (op == opTrimLog && decide ((vget (domOf s d).logs log).lastCommitted < b.argA.toNat), 0x12, 3),
    (op == opGetLogPage && decide (((logPage s d page).getD []).length ≤ b.argB.toNat), 0x12, 3),
    (isRingWrite op && !quotaFits s c own, 0x12, 4),
    (op == opSetPower && !b.flags.getLsbD 0 && decide (deepest s d < page), 0x12, 7) ]

/-- The next admission number of a domain; no message on the bridge carries it as its tag. -/
def nextOrder (s : State) (d : Dom) : Nat :=
  ((domOf s d).slots.map (·.order) ++ (s.kiln.toKiln ++ s.kiln.toMain).filterMap (meterTag d)).foldl max 0 + 1

/-- Checks 1 to 7 of R135: status and detail of the first that fails. -/
def judge (s : State) (c : HostCmd) : Option (Nat × Nat) :=
  let d := c.head.dom
  firstFail ([
    (!opcodeDefined c.opcode, 0x11, 0),
    (!configured s d, 0x18, (domOf s d).state.code),
    (!bound s d c.head.port, 0x1A, 1),
    (fieldFaults c != [], 0x10, (fieldFaults c).foldl min 64)]
    ++ authFaults s c ++ stateFaults s c ++ rangeFaults s c (nextOrder s d) true)

/-! ### Slots (R164, R165) -/

/-- The slot a command takes. -/
def slotFor (s : State) (c : HostCmd) : Option Nat :=
  let used := (domOf s c.head.dom).slots.map (·.no)
  if c.head.tag = 127#7 ∧ !used.contains 127 then some 127
  else (List.range 127).find? (fun n => !used.contains n)

/-! ### Self-test (R154, R178-R180) -/

/-- End the running self-test with a RESULT in page 0x81. -/
def stopTest (result step : Nat) (s : State) : State :=
  match s.test.run with
  | none => s
  | some r =>
    let us := r.ranUs + (if r.suspended then 0 else nowUs s - r.since)
    { s with test := { run := none, log := (⟨r.code, result, step, us / 1000000, nowUs s⟩ :: s.test.log).take 16 } }

/-- Resources of R179 a step uses: 0 pages, 1 compressor engines and decompressor, 2 read channel, 3 tape motion. -/
def stepUses (step : Nat) : List Nat :=
  match step with
  | 2 => [0] | 3 => [1] | 4 => [2] | 5 => [2] | 6 => [3] | 7 => [3] | 8 => [2, 3] | 9 => [0, 2, 3] | _ => []

/-- Resources of R179 a host command needs. -/
def commandNeeds (s : State) (x : Slot) : List Nat :=
  let op := x.cmd.opcode
  if isRingWrite op then [0, 1]
  else if op = opSync ∨ op = opLoadUnload then [3]
  else if op = opReadLog ∨ op = opReadVol then (if cutsNeeded s x = [] then [0] else [0, 1, 2, 3])
  else []

/-- A step of the self-test waits for free LPDDR4X pages, which counts as suspended (R179). -/
def testWaitsForPages (s : State) : Bool := s.dram.commonWait.any (fun w => w.holder == .service)

/-- A running self-test suspends for a command that needs what it uses (R179). -/
def yieldTest (needs : List Nat) (s : State) : State :=
  match s.test.run with
  | some r =>
    if !r.suspended && (stepUses r.step).any (fun u => needs.contains u) then
      { s with test := { s.test with run := some { r with suspended := true, ranUs := r.ranUs + (nowUs s - r.since) } } }
    else s
  | none => s

/-! ### Running a command -/

/-- A message of a command's answer: its DATA, or its completion. -/
def answers (x : Slot) (m : TxMsg) : Bool :=
  match m with
  | .data d tag _ _ _ => d == x.cmd.head.dom && tag == x.cmd.head.tag.toNat
  | .cpl d tag (some no) _ => d == x.cmd.head.dom && tag == x.cmd.head.tag.toNat && no == x.no
  | _ => false

/-- A read whose DATA has not all been sent, behind which a completion waits that froze nothing (R157). -/
def dataUnsent (s : State) (x : Slot) : Bool :=
  let ms := (portOf s x.cmd.head.port).txWait.filter (answers x)
  (x.cmd.opcode == opReadLog || x.cmd.opcode == opReadVol) && x.phase == .done
    && ms.any (fun m => match m with
      | .data _ _ _ _ _ => true
      | _ => false)
    && ms.any (fun m => match m with
      | .cpl _ _ _ c => !freezes c.status
      | _ => false)

/-- ABORT may end this command: a LOAD_UNLOAD only where a freeze holds it back, a read until its DATA has all been sent, a
METER_RECORD until Kiln has it (R157, R174). -/
def abortable (s : State) (d : Dom) (x : Slot) : Bool :=
  dataUnsent s x || (x.phase != .done && (x.cmd.opcode != opLoadUnload || x.held) && (x.phase != .kiln || submitWaits s d x))

/-- What a read has given its port to send goes no further. -/
def dropAnswer (x : Slot) (s : State) : State :=
  modPort x.cmd.head.port (fun q => { q with txWait := q.txWait.filter (fun m => !answers x m) }) s

/-- End one command for an ABORT: of a read that is already built the completion is another. -/
def abortSlot (d : Dom) (x : Slot) (s : State) : State :=
  let s1 := if x.phase = .selfTest then stopTest 2 0 s else if x.phase = .kiln then dropSubmits d (· == x.order) s
    else dropAnswer x s
  if x.phase = .done then
    sendMsg x.cmd.head.port (.cpl d x.cmd.head.tag.toNat (some x.no) ⟨x.cmd.opcode, 0x40, degradedFlag s1, 0, 0, 0⟩) s1
  else completeSlot d x.no 0x40 0 0 0 0 s1

/-- ABORT; commands that waited for an ended one go on before it completes (R157, R171). DEDUCED: log entry 182. -/
def runAbort (d : Dom) (x : Slot) (s : State) : State :=
  let h := x.cmd.head
  let all := x.cmd.body.flags.getLsbD 0
  let ended := (domOf s d).slots.filter (fun y => y.no != x.no && y.cmd.head.port == h.port && abortable s d y
      && (all || y.cmd.head.tag.toNat == arg8 x.cmd.body.argA))
  completeSlot d x.no 0 0 0 ended.length 0 (progress d (ended.foldl (fun t y => abortSlot d y t) s))

/-- SELF_TEST (R154). -/
def runSelfTest (d : Dom) (x : Slot) (s : State) : State :=
  match arg8 x.cmd.body.argA with
  | 0x0F =>
    match s.test.run with
    | some r => s |> stopTest 2 0 |> completeSlot r.dom r.slot 0x40 0 0 0 0 |> completeSlot d x.no 0 0 0 0 0
    | none => completeSlot d x.no 0 0 0 0 0 s
  | code =>
    let run : SelfTestRun :=
      ⟨code, 1, 0, false, 0, nowUs s, d, x.no, []⟩
    modSlot d x.no (fun y => { y with phase := .selfTest, started := true }) { s with test := { s.test with run := some run } }

/-- GET_LOG_PAGE (R153). -/
def runPage (d : Dom) (x : Slot) (s : State) : State :=
  let page := (logPage s d (arg8 x.cmd.body.argA)).getD []
  let bytes := (page.drop x.cmd.body.argB.toNat).take x.cmd.body.count.toNat
  s |> sendData x.cmd.head bytes |> completeSlot d x.no 0 0 bytes.length page.length 0

/-- SET_POWER (R156, R182). -/
def runSetPower (d : Dom) (x : Slot) (s : State) : State :=
  let ps := arg8 x.cmd.body.argA
  (if x.cmd.body.flags.getLsbD 0 then setObj Obj.deviceVote ps s
   else modDom d (fun y => { y with requestedVote := ps }) s)
    |> completeSlot d x.no 0 0 0 0 0

/-- LOAD_UNLOAD (R159). -/
def runLoad (d : Dom) (x : Slot) (s : State) : State :=
  s |> modSlot d x.no (fun y => { y with phase := .cartridge (arg8 x.cmd.body.argA), started := true })
    |> cartAction (loadAction x.cmd) |> wakeCartridge

/-- A command that is not held goes on from admission; RESUME is apart. -/
def startSlot (d : Dom) (no : Nat) (s : State) : State :=
  match slotOf s d no with
  | none => s
  | some x =>
    let op := x.cmd.opcode
    if op = opIdentify then
      s |> sendData x.cmd.head (identify s d (arg8 x.cmd.body.argA)) |> completeSlot d no 0 0 4096 0 0
    else if op = opGetLogPage then runPage d x s
    else if op = opAbort then runAbort d x s
    else if op = opSelfTest then runSelfTest d x s
    else if op = opSetPower then runSetPower d x s
    else if op = opLoadUnload then runLoad d x s
    else if op = opSync then
      s |> modSlot d no (fun y => { y with phase := .sync s.ring.nextIdx }) |> progress d
    else if isRingWrite op then
      s |> modSlot d no (fun y => { y with started := y.room }) |> progress d
    else progress d s

/-- Reserve ring room for the head of a domain's FIFO, as long as there is room (R169); its DATA leaves the receive
buffer (R170). -/
def grantRoom : Nat → Dom → State → State
  | 0, _, s => s
  | fuel + 1, d, s =>
    match sortBy (·.order) ((domOf s d).slots.filter (fun x => x.phase == .ringWait)) with
    | [] => s
    | x :: _ =>
      if hasRoom s d (writeLength x.cmd) then
        let got := (x.data.map (fun e => e.2.length)).sum
        grantRoom fuel d (s |> returnUnits x.cmd.head.port .data x.units
          |> modSlot d x.no (fun y => { y with room := true, units := 0, started := !y.held
                                               phase := if got = writeLength x.cmd then .ready else .receiving }))
      else s

/-- Recheck a held command for RESUME RETRY: checks 6 to 8 (R145, R173). -/
def recheck (s : State) (x : Slot) : Option (Nat × Nat) :=
  firstFail (stateFaults s x.cmd ++ rangeFaults s x.cmd x.order false
    ++ [(isRingWrite x.cmd.opcode && !x.room && (s.cart.state != .ready || !canMove s), 0x21, s.cart.state.code)])

/-- A held command as RETRY runs it again: what an earlier attempt met is behind it (R173). -/
def Slot.again (y : Slot) : Slot :=
  { y with held := false, retried := true, readCuts := [], failedCuts := [], badBlocks := [], misread := []
           cmd := { y.cmd with badLine := false } }

/-- Run the held commands again in admission order, until a new freeze (R173). -/
def retryHeld (d : Dom) : List Nat → State → State
  | [], s => s
  | no :: rest, s =>
    if (domOf s d).frozen then s
    else
      retryHeld d rest (match slotOf s d no with
        | none => s
        | some x =>
          match recheck s x with
          | some r => completeSlot d no r.1 r.2 0 0 0 s
          | none => s |> modSlot d no Slot.again |> startSlot d no)

/-- RESUME (R155, R173). -/
def runResume (d : Dom) (x : Slot) (s : State) : State :=
  let held := (sortBy (·.order) ((domOf s d).slots.filter (·.held))).map (·.no)
  let action := arg8 x.cmd.body.argA
  let s1 := s |> modDom d (fun y => { y with frozen := false }) |> postEvent 0x0105 d.val (action + 256 * held.length)
  let s2 := if action = 0 then retryHeld d held s1
    else held.foldl (fun t no => completeSlot d no 0x41 0 0 0 0 t) s1
  s2 |> completeSlot d x.no 0 0 held.length 0 0 |> progress d

/-! ### DATA on its way to its command (R109, R115, R136, R137, R170) -/

/-- Close a TAG (R136). -/
def closeTag (d : Dom) (p : PortId) (tag : Nat) (s : State) : State :=
  modDom d (fun x => { x with openTags := x.openTags.filter (fun t => t != (p, tag)) }) s

/-- A DATA beyond the command's data or over bytes received before (R137). -/
def dataBreaks (x : Slot) (off len : Nat) : Bool :=
  decide (writeLength x.cmd < off + len)
    || x.data.any (fun e => decide (off < e.1 + e.2.length) && decide (e.1 < off + len))

/-- Bytes of a command's data received. -/
def receivedBytes (x : Slot) : Nat := (x.data.map (fun e => e.2.length)).sum

/-- DATA for an admitted write whose bytes are not complete. -/
def takeData (x : Slot) (off : Nat) (bytes : List Byte) (last : Bool) (s : State) : State :=
  let h := x.cmd.head
  let d := h.dom
  let u := dataUnits bytes.length
  let s1 := modSlot d x.no (fun y => { y with lastSeen := last }) s
  if dataBreaks x off bytes.length then
    s1 |> completeSlot d x.no 0x12 5 0 0 0 |> returnUnits h.port .data u |> progress d
  else
    let whole : Bool := receivedBytes x + bytes.length == writeLength x.cmd
    let waits : Bool := x.phase == .ringWait
    let stays : Bool := waits || x.cmd.opcode == opMeterRecord
    let place := ((domOf s d).slots.map (·.arrived)).foldl max 0 + 1
    let s2 := modSlot d x.no (fun y => { y with
        data := y.data ++ [(off, bytes)], units := if stays then y.units + u else y.units
        arrived := if whole then place else 0
        phase := if whole && !waits then .ready else y.phase }) s1
    let s3 := if stays then s2 else returnUnits h.port .data u s2
    if last && !whole then s3 |> completeSlot d x.no 0x12 5 0 0 0 |> progress d
    else if whole then progress d s3 else s3

/-- DATA: for an admitted write, for an open TAG, or an orphan. -/
def receiveData (h : CmdHead) (off : Nat) (bytes : List Byte) (last : Bool) (s : State) : State :=
  let u := dataUnits bytes.length
  let back : State → State := returnUnits h.port .data u
  if bytes = [] ∨ 960 < bytes.length then s |> back |> protocolError h.port 3 4
  else
    let orphan : State → State := fun t => t |> back |> protocolError h.port 3 3
    match slotOfTag s h.dom h.port h.tag.toNat with
    | some x =>
      if !isWriteCmd x.cmd.opcode || x.lastSeen then orphan s
      else if x.phase = .done then
        if (domOf s h.dom).openTags.contains (h.port, h.tag.toNat) then
          s |> back |> (fun t => if last then closeTag h.dom h.port h.tag.toNat t else t)
        else orphan s
      else if receivedBytes x = writeLength x.cmd then
        s |> back |> modSlot h.dom x.no (fun y => { y with lastSeen := last })
      else takeData x off bytes last s
    | none =>
      if (domOf s h.dom).openTags.contains (h.port, h.tag.toNat) then
        s |> back |> (fun t => if last then closeTag h.dom h.port h.tag.toNat t else t)
      else orphan s

/-- MRAM lines that fail verification are replaced from the spares; the event that none is left comes once (R486). -/
def useSpares (n : Nat) (s : State) : State :=
  let left := obj s Obj.mramSpareLines - n
  let s1 := if n = 0 then s else setObj Obj.mramSpareLines left s
  if n ≠ 0 ∧ left = 0 ∧ !s.recov.sparesPosted then
    { s1 with recov := { s1.recov with sparesPosted := true } } |> postEvent 0x0306 unitDevice 0
  else s1

/-- The take cut-off, 45 µs after detection: nothing more enters the ring (R366-R368). -/
def closeAtCutOff (s : State) : State :=
  if s.power.failing ∧ s.power.detectedAt + 45 < nowUs s then { s with ring := { s.ring with closed := true } } else s

/-- UNTAPED_RECORDS of the sequence's RING_CLOSE record, as at the cut-off (R379). -/
def noteUntaped (s : State) : State :=
  if s.power.failing then
    { s with jour := { s.jour with ringClose := s.jour.ringClose.map (fun r => { r with untaped := s.ring.items.length }) } }
  else s

/-- A DATA message reaches its command, unless the take cut-off has passed; `spares` MRAM lines fail verification while it is
written (R137, R366-R368, R486). -/
def dataArrives (h : CmdHead) (off : Nat) (bytes : List Byte) (last : Bool) (spares : Nat) (s : State) : State :=
  let s1 := s |> useSpares spares |> closeAtCutOff
  if s1.power.failing ∧ s1.ring.closed then s1 else noteUntaped (receiveData h off bytes last s1)

/-! ### Admission and refusal (R17, R164-R169) -/

/-- Units of a CMD return once it is admitted or refused (R115). -/
def returnCmd (h : CmdHead) (s : State) : State :=
  if h.tag = 127#7 then returnAdmin h.port 5 s else returnUnits h.port .cmd 5 s

/-- A refusal completion joins the port's refusal queue; the TAG of a write stays open for its DATA (R136, R137, R167). -/
def refuseCmd (c : HostCmd) (status detail : Nat) (s : State) : State :=
  let h := c.head
  s |> (fun t => if isWriteCmd c.opcode then
          modDom h.dom (fun x => { x with openTags := x.openTags ++ [(h.port, h.tag.toNat)] }) t else t)
    |> sendMsg h.port (.cpl h.dom h.tag.toNat none ⟨c.opcode, status, degradedFlag s, detail, 0, 0⟩)

/-- Ring room is short for a write (R169). -/
def lacksRoom (s : State) (c : HostCmd) : Bool :=
  isRingWrite c.opcode && !hasRoom s c.head.dom (writeLength c)

/-- The phase a command is admitted in. -/
def firstPhase (s : State) (c : HostCmd) : SlotPhase :=
  if isRingWrite c.opcode then
    (if lacksRoom s c || 0 < ringWaiting s c.head.dom then .ringWait else .receiving)
  else if c.opcode = opMeterRecord then .receiving else .ordering

/-- Admit a command into a slot: a write draws its tokens, the idle time starts afresh, a self-test yields, a frozen queue holds
it (R17, R164, R168, R172, R179, R182). -/
def takeIn (c : HostCmd) (no : Nat) (s : State) : State :=
  let d := c.head.dom
  let ph := firstPhase s c
  let held : Bool := (domOf s d).frozen && !isAdminOp c.opcode
  let x : Slot := { no := no, cmd := c, phase := ph, held := held, started := false, order := nextOrder s d
                    room := ph == .receiving && isRingWrite c.opcode, data := [], units := 0, lastSeen := false
                    recovered := false, readCuts := [], failedCuts := [], badBlocks := [], moved := false, arrived := 0
                    retried := false, misread := [] }
  let s0 := if isRingWrite c.opcode then drawWrite d (writeLength c) s else s
  let s1 := modDom d (fun y => { y with slots := y.slots ++ [x], idle := y.idle && c.opcode == opSetPower }) s0
  let s2 := yieldTest (commandNeeds s1 x) s1
  if held then s2
  else if c.opcode = opResume then runResume d x s2
  else startSlot d no s2

/-- Judge a CMD: refuse it or take it in (R135, R145, R165). -/
def judgeCmd (c : HostCmd) (s : State) : State :=
  match judge s c with
  | some r => refuseCmd c r.1 r.2 s
  | none =>
    match slotFor s c with
    | none => s |> bump (Obj.slotRefusals c.head.dom) |> refuseCmd c 0x18 0x40
    | some no =>
      if lacksRoom s c && (s.cart.state != .ready || !canMove s) then refuseCmd c 0x21 s.cart.state.code s
      else takeIn c no s

/-- A CMD waits in the port's receive buffer (R167, R184). -/
def waitsInBacklog (q : Port) (h : CmdHead) : Bool :=
  q.backlog.any (fun w => match w with
    | .cmd c => c.head == h
    | .data _ _ _ _ _ => false)

/-- The TAG of a CMD is outstanding, open for DATA, or carried by a refusal or a CMD that still waits (R109, R136). -/
def tagInUse (s : State) (h : CmdHead) : Bool :=
  let q := portOf s h.port
  (slotOfTag s h.dom h.port h.tag.toNat).isSome || (domOf s h.dom).openTags.contains (h.port, h.tag.toNat)
    || q.txWait.any (fun m => match m with
        | .cpl d t none _ => d == h.dom && t == h.tag.toNat
        | _ => false)
    || waitsInBacklog q h

/-- The port takes CMDs out of its receive buffer: its refusal queue has room and the part is not in P2 (R167, R184). -/
def takesCmds (s : State) (p : PortId) : Bool := refusalCount (portOf s p).txWait < 32 && powerNow s != 2

/-- The power-fail sequence turns a CMD away: only an APPEND or WRITE_VOL can still commit before the cut-off (R367). -/
def shutOut (s : State) (c : HostCmd) : Bool := s.power.failing && !(isRingWrite c.opcode && !s.ring.closed)

/-- A CMD reaches the queue engine (R109, R135, R167, R184). -/
def receiveCmd (c : HostCmd) (s : State) : State :=
  let p := c.head.port
  if !portReceives s p || shutOut s c then s
  else if tagInUse s c.head then s |> returnCmd c.head |> protocolError p 1 3
  else if (portOf s p).backlog = [] ∧ takesCmds s p then s |> returnCmd c.head |> judgeCmd c |> pollPower
  else s |> modPort p (fun q => { q with backlog := q.backlog ++ [.cmd c] }) |> leaveP2

/-- Take the messages left in a port's receive buffer in their order, as long as it takes CMDs (R120, R167, R184). -/
def drainBacklog (p : PortId) : List Waiting → State → State
  | [], s => modPort p (fun q => { q with backlog := [] }) s
  | .cmd c :: rest, s =>
    if takesCmds s p then drainBacklog p rest (s |> returnCmd c.head |> judgeCmd c)
    else modPort p (fun q => { q with backlog := .cmd c :: rest }) s
  | .data h off bytes last spares :: rest, s => drainBacklog p rest (dataArrives h off bytes last spares s)

/-- Drain both ports' backlogs. -/
def drainBacklogs (s : State) : State :=
  pollPower (allPorts.foldl (fun t p => drainBacklog p (portOf t p).backlog t) s)

/-! ### The commands -/

/-- APPEND (R144). -/
def execAppend (h : CmdHead) (b : CmdBody) (s : State) : Host.Outcome State Fault Refusal :=
  .next (live s (receiveCmd ⟨opAppend, h, b, false⟩ s))
/-- WRITE_VOL (R147, R148). -/
def execWriteVol (h : CmdHead) (b : CmdBody) (s : State) : Host.Outcome State Fault Refusal :=
  .next (live s (receiveCmd ⟨opWriteVol, h, b, false⟩ s))
/-- SYNC (R150). -/
def execSync (h : CmdHead) (b : CmdBody) (s : State) : Host.Outcome State Fault Refusal :=
  .next (live s (receiveCmd ⟨opSync, h, b, false⟩ s))
/-- TRIM_LOG (R151). -/
def execTrimLog (h : CmdHead) (b : CmdBody) (s : State) : Host.Outcome State Fault Refusal :=
  .next (live s (receiveCmd ⟨opTrimLog, h, b, false⟩ s))
/-- IDENTIFY (R152). -/
def execIdentify (h : CmdHead) (b : CmdBody) (s : State) : Host.Outcome State Fault Refusal :=
  .next (live s (receiveCmd ⟨opIdentify, h, b, false⟩ s))
/-- GET_LOG_PAGE (R153). -/
def execGetLogPage (h : CmdHead) (b : CmdBody) (s : State) : Host.Outcome State Fault Refusal :=
  .next (live s (receiveCmd ⟨opGetLogPage, h, b, false⟩ s))
/-- SELF_TEST (R154). -/
def execSelfTest (h : CmdHead) (b : CmdBody) (s : State) : Host.Outcome State Fault Refusal :=
  .next (live s (receiveCmd ⟨opSelfTest, h, b, false⟩ s))
/-- RESUME (R155). -/
def execResume (h : CmdHead) (b : CmdBody) (s : State) : Host.Outcome State Fault Refusal :=
  .next (live s (receiveCmd ⟨opResume, h, b, false⟩ s))
/-- SET_POWER (R156). -/
def execSetPower (h : CmdHead) (b : CmdBody) (s : State) : Host.Outcome State Fault Refusal :=
  .next (live s (receiveCmd ⟨opSetPower, h, b, false⟩ s))
/-- ABORT (R157). -/
def execAbort (h : CmdHead) (b : CmdBody) (s : State) : Host.Outcome State Fault Refusal :=
  .next (live s (receiveCmd ⟨opAbort, h, b, false⟩ s))
/-- METER_RECORD (R158). -/
def execMeterRecord (h : CmdHead) (b : CmdBody) (s : State) : Host.Outcome State Fault Refusal :=
  .next (live s (receiveCmd ⟨opMeterRecord, h, b, false⟩ s))
/-- LOAD_UNLOAD (R159). -/
def execLoadUnload (h : CmdHead) (b : CmdBody) (s : State) : Host.Outcome State Fault Refusal :=
  .next (live s (receiveCmd ⟨opLoadUnload, h, b, false⟩ s))

/-- UNDEFINED_OPCODE: a CMD whose opcode R133 does not define; one that it does define is that command's own row. -/
def execUndefinedOpcode (opcode : Byte) (h : CmdHead) (b : CmdBody) (s : State) : Host.Outcome State Fault Refusal :=
  .next (live s (if opcodeDefined opcode.toNat then s else receiveCmd ⟨opcode.toNat, h, b, false⟩ s))

/-! ### DATA and its timeouts (R109, R120, R136, R137, R169, R182) -/

/-- DATA; `spares` MRAM lines fail verification while it is written. DATA whose CMD still waits in the receive buffer waits
behind it (R120, R136). -/
def execData (h : CmdHead) (offset : Word) (bytes : List Byte) (last : Bool) (spares : Byte) (s : State) :
    Host.Outcome State Fault Refusal :=
  .next (live s (
    if !portReceives s h.port then s
    else if waitsInBacklog (portOf s h.port) h then
      modPort h.port (fun q => { q with backlog := q.backlog ++ [.data h offset.toNat bytes last spares.toNat] }) s
    else dataArrives h offset.toNat bytes last spares.toNat s))

/-- DATA_STALL_TIMEOUT: 250 ms without a DATA while bytes are missing; the TAG closes (R137). -/
def execDataStallTimeout (h : CmdHead) (s : State) : Host.Outcome State Fault Refusal :=
  .next (live s (match slotOfTag s h.dom h.port h.tag.toNat with
    | some x =>
      if isWriteCmd x.cmd.opcode && x.phase != .done && receivedBytes x != writeLength x.cmd then
        s |> modSlot h.dom x.no (fun y => { y with lastSeen := true }) |> completeSlot h.dom x.no 0x12 6 0 0 0
          |> progress h.dom
      else s
    | none => s))

/-- The TAG of a write whose bytes are all there closes although none of its DATA had LAST set (R137). -/
def closeCovered (h : CmdHead) (s : State) : State :=
  match slotOfTag s h.dom h.port h.tag.toNat with
  | some x =>
    if isWriteCmd x.cmd.opcode && x.phase != .done && receivedBytes x == writeLength x.cmd then
      modSlot h.dom x.no (fun y => { y with lastSeen := true }) s
    else s
  | none => s

/-- TAG_CLOSE_TIMEOUT: 250 ms after the completion or the last DATA an open TAG closes, also of a write that still waits with
all its bytes there (R136, R137). -/
def execTagCloseTimeout (h : CmdHead) (s : State) : Host.Outcome State Fault Refusal :=
  .next (live s (closeCovered h (closeTag h.dom h.port h.tag.toNat s)))

/-- RING_ROOM_GRANTED: the ring has released room; the FIFO's head takes it (R169). -/
def execRingRoomGranted (d : Dom) (s : State) : Host.Outcome State Fault Refusal :=
  .next (live s (s |> grantRoom 128 d |> progress d))

/-- RING_WAIT_LIMIT_EXPIRY: a write has waited RING_WAIT_LIMIT (R169, R176). -/
def execRingWaitLimitExpiry (h : CmdHead) (s : State) : Host.Outcome State Fault Refusal :=
  .next (live s (match slotOfTag s h.dom h.port h.tag.toNat with
    | some x =>
      if x.phase = .ringWait then
        s |> bump (Obj.ringWaitsExpired h.dom) |> completeSlot h.dom x.no 0x21 4 0 0 0 |> progress h.dom
      else s
    | none => s))

/-- IDLE_TIMEOUT: IDLE_MS has passed since the domain's last admission or completion (R182). -/
def execIdleTimeout (d : Dom) (s : State) : Host.Outcome State Fault Refusal :=
  .next (live s (pollPower (modDom d (fun x => { x with
    idle := !(x.slots.any (fun y => !y.held && y.phase != .done)) }) s)))

/-! ### Self-test events (R178, R179) -/

/-- SELF_TEST_RESUME: a suspended test goes on (R179). -/
def execSelfTestResume (s : State) : Host.Outcome State Fault Refusal :=
  .next (live s (match s.test.run with
    | some r =>
      if r.suspended then { s with test := { s.test with run := some { r with suspended := false, since := nowUs s } } } else s
    | none => s))

/-- The test passes its last step (R178). -/
def passTest (r : SelfTestRun) (s : State) : State := s |> stopTest 0 0 |> completeSlot r.dom r.slot 0 0 0 0 0

/-- Cuts step 9 reads: every written cut of the data area, of both Bedrock zones and of the Kiln band, along the tape (R178). -/
def testCuts (s : State) : List Nat := ((sortBy placeOf ((tapeCuts s).filter (fun c => !c.retired))).map (·.serial))

/-- The test goes to a step (R178). -/
def enterStep (r : SelfTestRun) (progress : Nat) (s : State) : State :=
  let step := r.step + 1
  { s with test := { s.test with run := some { r with
      step := step, progress := min progress 100, cuts := if step = 9 then testCuts s else [] } } }

/-- SELF_TEST_STEP_COMPLETE: a step passes or fails; `progress` is what the part shows of it. Step 9 passes when every cut has
been read (R178). -/
def execSelfTestStepComplete (pass : Bool) (progress : Byte) (s : State) : Host.Outcome State Fault Refusal :=
  .next (live s (match s.test.run with
    | none => s
    | some r =>
      if r.suspended || testWaitsForPages s then s
      else if !pass then s |> stopTest 1 r.step |> completeSlot r.dom r.slot 0x70 r.step 0 0 0
      else if r.step = 9 ∧ r.cuts ≠ [] then s
      else if r.step = (if r.code = 2 then 9 else 8) then passTest r s
      else enterStep r progress.toNat s))

end Sys2Proof.Machine
end

