-- ==== Sys2Proof/Machine/LinkSend.lean ====
section
/-!
DEFINITION. What a port sends: credits received, and one lane frame period's frame on its lanes (R81-R85, R96, R104-R120, R125).
-/
namespace Sys2Proof.Machine

/-! ### Filling a frame -/

/-- How the frame of a message travels: the port's own messages by its own route, a transit message as it came (R104, R124). -/
def routeOf (own : FrameRoute) : TxMsg → FrameRoute
  | .relay r _ _ _ _ => r
  | _ => own

/-- A transit message (R115). -/
def isRelay : TxMsg → Bool
  | .relay _ _ _ _ _ => true
  | _ => false

/-- An administrative transit message other than a CMD may be paid from CMD credits (R109, R113). -/
def mayPayCmd : TxMsg → Bool
  | .relay _ _ _ _ m => m.type.toNat == 4 || m.type.toNat == 5 || m.type.toNat == 7
  | _ => false

/-- A message with the class that pays for it on this hop. -/
def paidBy (k : CreditClass) : TxMsg → TxMsg
  | .relay r p held _ m => .relay r p held k m
  | m => m

/-- The message as the credits received allow it, none where they do not (R113, R114). -/
def payable (limit used : Credits) (m : TxMsg) : Option TxMsg :=
  let u := txUnits m
  if creditAllows (limit.of u.1) (used.of u.1) u.2 then some m
  else if u.1 = .admin ∧ mayPayCmd m ∧ creditAllows limit.cmd used.cmd u.2 then some (paidBy .cmd m) else none

/-- Credit counts with a message's units added (R114). -/
def Credits.charge (c : Credits) (m : TxMsg) : Credits :=
  let u := txUnits m
  c.upd u.1 ((c.of u.1 + u.2) % 65536)

/-- What goes into the next frame. -/
structure Pack where
  /-- Bytes of stream left. -/
  left : Nat
  /-- Credits used up to here (R114). -/
  used : Credits
  /-- The frame's route: that of its first message (R106). -/
  route : Option FrameRoute
  out : List TxMsg
  kept : List TxMsg
  /-- A message that carries data waits: later data and responses wait behind it, so that DATA precedes its CPL (R120). -/
  dataHeld : Bool
  /-- A response waits: later responses wait behind it. -/
  respHeld : Bool
  /-- Routes of transit messages that wait: the later ones of the same route wait behind them (R120). -/
  relayHeld : List FrameRoute
deriving DecidableEq, Repr

/-- An empty frame. -/
def Pack.start (room : Nat) (used : Credits) : Pack := ⟨room, used, none, [], [], false, false, []⟩

/-- The message must wait behind one that waits (R120). Relayed messages of different routes may pass one another (DEDUCED, log
entry 136). -/
def mustWait (own : FrameRoute) (r : Pack) (m : TxMsg) : Bool :=
  if isRelay m then r.relayHeld.contains (routeOf own m) else r.dataHeld || (r.respHeld && (txUnits m).1 == .resp)

/-- The message fits this frame and travels with it (R104, R106). -/
def fitsFrame (own : FrameRoute) (r : Pack) (m : TxMsg) : Bool :=
  txBytes m ≤ r.left && (r.route == none || r.route == some (routeOf own m))

/-- A message goes into the frame. -/
def Pack.take (own : FrameRoute) (r : Pack) (m : TxMsg) : Pack :=
  { r with left := r.left - txBytes m, route := some (routeOf own m), out := r.out ++ [m] }

/-- A message waits, and what must stay behind it with it (R120). -/
def Pack.hold (own : FrameRoute) (r : Pack) (m : TxMsg) : Pack :=
  if isRelay m then { r with kept := r.kept ++ [m], relayHeld := routeOf own m :: r.relayHeld }
  else { r with kept := r.kept ++ [m], dataHeld := r.dataHeld || (txUnits m).1 == .data, respHeld := true }

/-- Offer a message to the frame, against the credits received (R114). -/
def packOne (own : FrameRoute) (limit : Credits) (r : Pack) (m : TxMsg) : Pack :=
  match payable limit r.used m with
  | some m' =>
    if !mustWait own r m && fitsFrame own r m then { r.take own m' with used := r.used.charge m' } else r.hold own m
  | none => r.hold own m

/-- Offer a stored message to a rebuilt frame: it is paid for already, and order is kept throughout (R111, R114). -/
def packAgain (own : FrameRoute) (r : Pack) (m : TxMsg) : Pack :=
  if r.kept = [] && fitsFrame own r m then r.take own m else { r with kept := r.kept ++ [m] }

/-- Credit units of a frame's messages, as its header declares them (R104). -/
def unitsOf (msgs : List TxMsg) : Credits := msgs.foldl Credits.charge .zero

/-- Bytes of messages in the retry buffer (R111). -/
def retryBytes (q : Port) : Nat := (q.retry.map (fun f => (f.msgs.map txBytes).sum)).sum

/-- Effects of a message that leaves for the first time: a completion frees its slot (R17, R164), a transit message its place
in the receive buffer (R115). -/
def messageLeft (m : TxMsg) (s : State) : State :=
  match m with
  | .cpl d _ (some no) _ => modDom d (fun x => { x with slots := x.slots.filter (fun y => y.no != no) }) s
  | .relay _ p held _ m => returnUnits p held m.units.toNat s
  | _ => s

/-- Uncredited messages of the next frame: ACK, NAK and CREDIT (R106, R110, R114); a rebuilt frame carries the current ACK and
CREDIT always (R111). -/
def ctlOf (q : Port) : Option Nat × Option (Nat × Nat) × Option Credits :=
  let again : Bool := q.replaying != []
  (if again ∨ 0 < q.unacked ∨ q.ackDue then some ((q.rxExpected + 65535) % 65536) else none,
   q.nakDue.map (fun r => (q.rxExpected, r)),
   if again ∨ q.creditDue then some q.rxLimit else none)

/-- The own route of a port: upstream from the own node (R104). -/
def ownRoute (s : State) : FrameRoute := ⟨true, false, 0, obj s Obj.nodeId⟩

/-- Send the stomped copy of a frame that failed while it was passed on: it enters no retry buffer and uses no FSEQ (R112). -/
def sendStomped (p : PortId) (r : FrameRoute) (msgs : List RxMsg) (s : State) : State :=
  modPort p (fun q => { q with stomp := none
                               sent := .stomped q.txNext r (msgs.map (fun m => .relay r p.other .data .data m)) }) s

/-- Send one frame of a port in UP or DRAINING at the width of the lanes that carry it (R96, R104, R106, R110, R111, R120). -/
def sendFrame (p : PortId) (s : State) : State :=
  let q := portOf s p
  let own := ownRoute s
  let c := ctlOf q
  let ctl := b2n c.1.isSome + b2n c.2.1.isSome + b2n c.2.2.isSome
  let room := min (streamLimit (carriers q).length - 16 * ctl) (32768 - retryBytes q)
  let again : Bool := q.replaying != []
  let r := if again then q.replaying.foldl (packAgain own) (.start room q.txUsed)
    else q.txWait.foldl (packOne own q.txLimit) (.start room q.txUsed)
  let sent : SentFrame :=
    if r.out ≠ [] then .sequenced q.txNext (r.route.getD own) r.out (unitsOf r.out) c.1 c.2.1 c.2.2
    else if ctl ≠ 0 then .control c.1 c.2.1 c.2.2 else .fill
  let q1 := { q with
    unacked := 0, ackDue := false, nakDue := none, creditDue := false, txUsed := r.used, sent := sent
    retry := if r.out ≠ [] then q.retry ++ [⟨q.txNext, r.out⟩] else q.retry
    txNext := if r.out ≠ [] then (q.txNext + 1) % 65536 else q.txNext
    replaying := if again then r.kept else []
    txWait := if again then q.txWait else r.kept }
  let s1 := setPort p q1 s
  if again then s1
  else
    let s2 := payLost p (r.out.foldl (fun t m => messageLeft m t) s1)
    drainBacklog p (portOf s2 p).backlog s2

/-- CREDIT: each limit moves forward only (R114). -/
def execCredit (p : PortId) (cmd admin data resp : Half) (s : State) : Host.Outcome State Fault Refusal :=
  .next (live s (
    let fwd : Nat → Nat → Nat := fun old new => if (new + 65536 - old) % 65536 < 32768 then new else old
    modPort p (fun q => { q with txLimit :=
      ⟨fwd q.txLimit.cmd cmd.toNat, fwd q.txLimit.admin admin.toNat, fwd q.txLimit.data data.toNat,
        fwd q.txLimit.resp resp.toNat⟩ }) s))

/-! ### The lane frame period -/

/-- The NAK of a port may be sent again once the partner's replay timeout has passed (R110). -/
def nakTick (q : Port) : Port :=
  if q.nakSent then
    (if 31 ≤ q.nakAge then { q with nakSent := false, nakAge := 0 } else { q with nakAge := q.nakAge + 1 })
  else q

/-- A transmitting port counts its lane frames (R85). -/
def frameTick (q : Port) : Port := nakTick { q with frameSeq := (q.frameSeq + 1) % 256 }

/-- Choose the link frame of this period (R98, R100, R106, R112): none before UP, fill frames in a near-end loopback and after
the end-of-transmission markers. -/
def chooseFrame (p : PortId) (s : State) : State :=
  let q := portOf s p
  let idle : SentFrame → State := fun f => setPort p { q with sent := f } s
  match q.state with
  | .up | .draining =>
    if q.eotSent then idle .fill
    else match q.stomp with
      | some (r, msgs) => sendStomped p r msgs s
      | none => if carriers q = [] then idle .nothing else sendFrame p s
  | .loopback => if q.goal = .loopback .fe ∨ carriers q = [] then idle .nothing else idle .fill
  | .training | .listen | .disabled | .idle => idle .nothing

/-- Put the chosen frame on the lanes that carry it, and a lane frame on every transmitting lane (R81-R85, R103). -/
def putFrame (p : PortId) (s : State) : State :=
  let w := (carriers (portOf s p)).length
  putLaneFrames p (if w = 0 then [] else (portOf s p).sent.content w (ownRoute s)) s

/-- LANE_FRAME_PERIOD: a port sends one lane frame on each transmitting lane (R84, R94, R104), an empty one after its
end-of-transmission markers (R98); from 1 ms after the detection of a power failure the transmitters are in electrical idle
(R366). A port with no DATA left to send then takes the next turn of its reads (R168). -/
def execLaneFramePeriod (p : PortId) (s : State) : Host.Outcome State Fault Refusal :=
  .next (live s (
    match (portOf s p).state with
    | .disabled | .idle => s |> modPort p (fun q => { q with sent := .nothing }) |> silence p
    | .up | .draining | .listen | .training | .loopback =>
      if s.power.failing ∧ s.power.detectedAt + 1000 < nowUs s then
        s |> modPort p (fun q => { frameTick q with sent := .nothing }) |> silence p
      else s |> modPort p frameTick |> chooseFrame p |> putFrame p |> servePort p))

end Sys2Proof.Machine
end

