-- ==== Sys2Proof/Machine/Loops.lean ====
section
/-!
DEFINITION. The loop engine's arithmetic: the fixed-point law, the reference generator, min-select, modulation, PWM,
ADC sequences, injection and capture, and the encoders' speeds (R309-R324, R329-R339).
-/
namespace Sys2Proof.Machine

/-! ### Quotients whose rounding the spec leaves open (log entry 7) -/


/-- The nearest integer to a quotient with positive divisor; a tie goes to either neighbour. -/
def openRound (a b : Int) : Int :=
  if 2 * (a % b) = b then openDiv a b else (2 * a + b) / (2 * b)

/-- Saturate to 32 bits (R310). -/
def sat32 (x : Int) : Int := max (-2147483648) (min x 2147483647)

/-- clamp of R310. -/
def clampI (x a b : Int) : Int := if x < a then a else if b < x then b else x

/-- π times 10^18. -/
def piE18 : Int := 3141592653589793238

/-- An INTEGER32 object. -/
def objQ16 (s : State) (k : Nat) : Int := objInt 32 s k

/-! ### The sine table (R315) -/

/-- Terms of the sine series in units of 2^-60: `t` is the present term, `n` its number. -/
def sineSeries : Nat → Int → Int → Int → Int
  | 0, _, _, acc => acc
  | fuel + 1, x2, t, acc =>
    let n : Int := 10 - fuel
    let t' := -(t * x2 / 2 ^ 60) / ((2 * n) * (2 * n + 1))
    sineSeries fuel x2 t' (acc + t')

/-- sin(2π k / 8,192) in units of 2^-60 for k from 0 to 2,048. -/
def sineQuarter (k : Nat) : Int :=
  let x : Int := k * piE18 * 2 ^ 48 / 10 ^ 18
  sineSeries 10 (x * x / 2 ^ 60) x x

/-- Entry k of the sine table in Q16.16. -/
def sineTable (k : Nat) : Int :=
  let j := k % 8192
  let quarter : Nat → Int := fun m => if m = 0 then 0 else if m = 2048 then 65536 else openDiv (sineQuarter m) (2 ^ 44)
  if j ≤ 2048 then quarter j else if j ≤ 4096 then quarter (4096 - j)
  else if j ≤ 6144 then -quarter (j - 4096) else -quarter (8192 - j)

/-- Entry k of the cosine table. -/
def cosineTable (k : Nat) : Int := sineTable (k + 2048)

/-! ### Slots (R309-R311) -/

/-- The rate of a slot in periods; 0 for slots 13-15 (R309). -/
def slotRate (n : Nat) : Nat :=
  match n with
  | 0 | 1 | 2 | 3 | 9 | 10 => 1
  | 8 => 2
  | 4 | 5 | 7 | 12 => 4
  | 6 | 11 => 16
  | _ => 0

/-- A loop slot's state. -/
def loopOf (s : State) (n : SlotNo) : LoopRt := vget s.xport.loops n

/-- Change the transport. -/
def modXport (f : Xport → Xport) (s : State) : State := { s with xport := f s.xport }

/-- Change a loop slot. -/
def modLoop (n : SlotNo) (f : LoopRt → LoopRt) (s : State) : State :=
  modXport (fun x => { x with loops := vset x.loops n (f (vget x.loops n)) }) s

/-- The slots in order. -/
def allSlots : List SlotNo := List.finRange 16

/-- The shadows of a slot (R311). -/
def shadows (s : State) (n : SlotNo) : Coeffs :=
  ⟨objQ16 s (Obj.slotKp n), objQ16 s (Obj.slotKi n), objQ16 s (Obj.slotKd n), objQ16 s (Obj.slotKff n), objQ16 s (Obj.slotUmin n),
   objQ16 s (Obj.slotUmax n)⟩

/-- ENABLE and TRACK of a slot (R327). -/
def slotEnabled (s : State) (n : SlotNo) : Bool := bitOf (obj s (Obj.slotControl n)) 0
/-- TRACK. -/
def slotTrack (s : State) (n : SlotNo) : Bool := bitOf (obj s (Obj.slotControl n)) 1

/-- Slots that run in the power state (R436). -/
def poweredSlot (s : State) (n : Nat) : Bool :=
  match obj s Obj.powerState % 16 with
  | 0 => true
  | 1 => n != 8 && n != 9
  | _ => n == 10 || n == 11

/-- A slot executes in the present period (R309); a loop engine held in reset executes none (R478). -/
def slotDue (s : State) (n : SlotNo) : Bool :=
  slotRate n != 0 && s.periods % slotRate n == 0 && slotEnabled s n && poweredSlot s n && !blockBusy s 0x0E

/-- What the law of R310 gives. -/
structure LawOut where
  u : Int
  integ : Int
  ePrev : Int
  held : Bool
  high : Bool
  low : Bool
deriving DecidableEq, Repr

/-- The fixed-point law of R310. -/
def law (c : Coeffs) (track lost : Bool) (integ ePrev r0 y sel lo hi injRef injOut : Int) : LawOut :=
  let r := r0 + injRef
  let e := sat32 (r - y)
  let p := sat32 (c.kp * e / 65536)
  let d := sat32 (c.kd * (e - ePrev) / 65536)
  let ff := sat32 (c.kff * r / 65536)
  let di := sat32 (c.ki * e / 65536)
  let tryI := clampI (integ + di) lo hi
  let uTry := p + tryI + d + ff
  let hold : Bool := (decide (hi < uTry) && decide (0 < di)) || (decide (uTry < lo) && decide (di < 0))
  let i := if track && lost then clampI (sel - p - d - ff) lo hi else if hold then integ else tryI
  let raw := p + i + d + ff + injOut
  { u := clampI raw lo hi, integ := i, ePrev := e, held := !(track && lost) && hold
    high := decide (hi < raw), low := decide (raw < lo) }

/-! ### ADC sequences (R313, R321, R322) -/

/-- TRIG_A, TRIG_B, TRIG_B_ENABLE and LENGTH of an ADC. -/
structure AdcSetup where
  trigA : Nat
  trigB : Nat
  enableB : Bool
  length : Nat
deriving DecidableEq, Repr

/-- Fields of ADC_SEQUENCE (R328). -/
def adcFields (v : Nat) : AdcSetup := ⟨fieldOf v 20 12, fieldOf v 8 12, bitOf v 7, fieldOf v 4 3⟩

/-- The setup of an ADC. -/
def adcSetup (s : State) (a : Nat) : AdcSetup := adcFields (obj s (Obj.adcSequence a))

/-- Trigger B falls into the sequence of trigger A and is ignored (R322). -/
def missedB (x : AdcSetup) : Bool :=
  x.enableB && x.length != 0 && decide (x.trigA ≤ x.trigB) && decide (x.trigB < x.trigA + 20 * x.length)

/-- Trigger A falls into the sequence that trigger B of the period before started, and is ignored (R322). -/
def missedA (x : AdcSetup) : Bool :=
  x.enableB && x.length != 0 && !missedB x && decide (2500 + x.trigA < x.trigB + 20 * x.length)

/-- Input k of an ADC is converted in its sequence. -/
def converts (s : State) (a k : Nat) : Bool :=
  (List.range (adcSetup s a).length).any (fun j => fieldOf (obj s (Obj.adcChannels a)) (3 * j) 3 == k)

/-- Inputs that are signed: the phase currents, the voice-coil current and the tension arm (R321). -/
def signedInput (n : Nat) : Bool := n ≤ 2 || (6 ≤ n && n ≤ 8) || n == 12 || n == 13

/-- A sample in Q16.16 (R321). -/
def sample (s : State) (n : Fin 24) : Int :=
  let raw : Int := ((vget s.xport.raw n).toNat : Int)
  (if signedInput n then raw - vget s.xport.zero n else raw) * objQ16 s (Obj.ainScale n)

/-- Take the trigger-A sets of a period: overruns, samples and the zeros being measured (R321, R322). -/
def takeSamples (x : PeriodInputs) (s : State) : State :=
  let s1 := ([0, 1, 2, 3] : List Nat).foldl (fun t a =>
    bumpBy (Obj.adcOverruns a) (b2n (missedA (adcSetup t a)) + b2n (missedB (adcSetup t a))) t) s
  let fresh : Fin 24 → Bool := fun n => !missedA (adcSetup s (n / 6)) && converts s (n / 6) (n % 6)
  let s2 := modXport (fun y => { y with
    raw := Vector.ofFn (fun n => if fresh n then vget x.ain n else vget y.raw n) }) s1
  let s3 := if s2.xport.zeroLeft = 0 then s2 else modXport (fun y =>
    let sums := Vector.ofFn (fun n => vget y.zeroSum n + (vget y.raw n).toNat)
    { y with
      zeroSum := sums, zeroLeft := y.zeroLeft - 1
      zero := if y.zeroLeft = 1 then Vector.ofFn (fun n =>
        if signedInput n && n.val != 13 then openDiv (vget sums n : Nat) 64 else vget y.zero n) else y.zero }) s2
  (List.finRange 24).foldl (fun t (n : Fin 24) => setObjInt (Obj.ainSample n.val) (sample t n) t) s3

/-! ### Encoders: speed (R332-R336, R339) -/

/-- An encoder. -/
def encOf (s : State) (r : Reel) : EncoderRt := vget s.xport.enc r
/-- Change an encoder. -/
def modEnc (r : Reel) (f : EncoderRt → EncoderRt) (s : State) : State :=
  modXport (fun x => { x with enc := vset x.enc r (f (vget x.enc r)) }) s

/-- Ticks of 10 ns since release at the present valley. -/
def nowTicks (s : State) : Nat := 2500 * s.periods

/-- SPEED in rad/s, Q16.16, as latched at a valley (R333). -/
def encoderSpeed (s : State) (r : Reel) : Int :=
  let e := encOf s r
  match e.edges with
  | t :: rest =>
    match rest.getLast? with
    | none => 0
    | some t0 =>
      let k : Nat := rest.length
      let since := nowTicks s - t
      let pair : Nat × Nat := if k * since ≤ t - t0 then (k, t - t0) else (1, since)
      let v := openDiv (pair.1 * 10 ^ 8 * 2 * piE18 * 65536) ((max pair.2 1 : Nat) * 8192 * 10 ^ 18)
      if e.down then -v else v
  | [] => 0

/-- +1 where the reel winds in with a rising count, −1 with a falling one (R335). -/
def windSign (s : State) (r : Reel) : Int := if bitOf (obj s Obj.encoderPolarity) r.val then -1 else 1

/-- Surface speed, positive when the reel winds in (R335). -/
def surfaceSpeed (s : State) (r : Reel) : Int :=
  windSign s r * openDiv (objQ16 s (Obj.encSpeed r) * objQ16 s (Obj.encRadius r)) 65536

/-- The encoder tape speed, signed by the direction of motion (R335). -/
def encoderTapeSpeed (s : State) : Int :=
  openDiv (objQ16 s (Obj.encSurfaceSpeed 1) - objQ16 s (Obj.encSurfaceSpeed 0)) 2

/-- 20 µm cycles of the last 200 µs. -/
def toneCycles (s : State) : Nat := s.xport.servo.cycles.sum

/-- A servo reader is valid. -/
def readerValid (s : State) : Bool := s.xport.servo.lowerValid || s.xport.servo.upperValid

/-- The servo tape speed is valid: a valid reader and at least 0.5 m/s (R335). -/
def servoSpeedValid (s : State) : Bool := readerValid s && 5 ≤ toneCycles s

/-- The servo tape speed, signed by the direction of motion: 0.1 m/s a cycle (R335). -/
def servoTapeSpeed (s : State) : Int :=
  let v := openDiv (toneCycles s * 65536 : Nat) 10
  if s.xport.forward then v else -v

/-- Both encoders healthy. -/
def encodersHealthy (s : State) : Bool := !(encOf s 0).fault && !(encOf s 1).fault

/-- No speed source is left (R338). -/
def noSpeedSource (s : State) : Bool := (encOf s 0).fault && (encOf s 1).fault && !servoSpeedValid s

/-- TAPE_SPEED (R336, R338). -/
def tapeSpeedNow (s : State) : Int :=
  if encodersHealthy s then (if s.xport.useServo then servoTapeSpeed s else encoderTapeSpeed s)
  else if servoSpeedValid s then servoTapeSpeed s
  else if !(encOf s 1).fault then objQ16 s (Obj.encSurfaceSpeed 1)
  else if !(encOf s 0).fault then -objQ16 s (Obj.encSurfaceSpeed 0)
  else 0

/-- ENCODER_STATUS (R340). -/
def encoderStatusOf (s : State) (r : Reel) : Nat :=
  let e := encOf s r
  2 ^ 8 * b2n s.xport.servo.fromEncoders + 2 ^ 7 * b2n e.fault + 2 ^ 6 * b2n (obj s (Obj.encUncertainty r) != 0)
    + 2 ^ 5 * b2n e.standstill + 2 ^ 4 * b2n e.down + 2 ^ 3 * b2n e.speedValid + 4 * b2n e.radiusMeasured
    + 2 * b2n e.a + b2n e.b

/-- Advance LPOS by the tone cycles of a period, or by the healthy encoders (R296, R339). -/
def advanceLpos (cycles : Nat) (s : State) : State :=
  let v := s.xport.servo
  let healthy := ([0, 1] : List Reel).filter (fun r => !(encOf s r).fault)
  let turn : Reel → Int := fun r =>
    (if r = 1 then 1 else -1) * windSign s r * ((encOf s r).count - (encOf s r).latched) * objQ16 s (Obj.encRadius r)
  let by_ : Int :=
    if v.fromEncoders then
      (if healthy = [] then 0 else
        openDiv ((healthy.map turn).sum * 2 * piE18 * 50000) (8192 * 10 ^ 18 * (healthy.length : Nat)))
    else if readerValid s then (if s.xport.forward then 1 else -1) * (cycles * 65536 : Nat) else 0
  let sub := v.lposSub + by_
  modXport (fun x => { x with servo := { x.servo with
    lpos := x.servo.lpos + sub / 327680, lposSub := sub % 327680
    cycles := (cycles :: x.servo.cycles).take 8 } }) s

/-- Latch the encoders and the speeds at a valley (R332, R335, R336). -/
def latchEncoders (s : State) : State :=
  let one : Reel → State → State := fun r t =>
    t |> setObjInt (Obj.encCount r) (encOf t r).count
      |> (fun u => setObjInt (Obj.encSpeed r) (if (encOf u r).fault then 0 else encoderSpeed u r) u)
      |> (fun u => setObjInt (Obj.encSurfaceSpeed r) (surfaceSpeed u r) u)
      |> (fun u => setObj (Obj.encoderStatus r) (encoderStatusOf u r) u)
      |> modEnc r (fun e => { e with latched := e.count })
  let s1 := s |> one 0 |> one 1
  let s2 := s1 |> setObjInt Obj.tapeSpeedEncoder (encoderTapeSpeed s1)
    |> setObjInt Obj.tapeSpeedServo (if servoSpeedValid s1 then servoTapeSpeed s1 else 0)
  s2 |> setObjInt Obj.tapeSpeed (tapeSpeedNow s2)
    |> setObj Obj.speedSource (b2n (if encodersHealthy s2 then s2.xport.useServo else servoSpeedValid s2))
    |> (fun t => if noSpeedSource t then modXport (fun x => { x with forceShort := true }) t else t)

/-! ### References and feedbacks (R309, R315, R316) -/

/-- VHOLD, the bus voltage. -/
def vbus (s : State) : Int := sample s 3
/-- The tension-arm sample. -/
def tensionSample (s : State) : Int := sample s 13
/-- The trailing reel. -/
def trailing (s : State) : Reel := if s.xport.forward then 0 else 1
/-- The leading reel. -/
def leading (s : State) : Reel := if s.xport.forward then 1 else 0

/-- COMM_OFFSET is being measured, once the zeros are (R315, R321). -/
def aligning (s : State) : Bool := s.xport.commLeft != 0 && s.xport.zeroLeft == 0

/-- Electrical angle index of a reel (R315); 0 while COMM_OFFSET is measured. -/
def angleIndex (s : State) (r : Reel) : Nat :=
  if aligning s then 0 else
  let off := if r = 0 then obj s Obj.commOffsetCart else obj s Obj.commOffsetMach
  let pp := if r = 0 then fieldOf (obj s Obj.polePairs) 4 4 else fieldOf (obj s Obj.polePairs) 0 4
  ((((encOf s r).latched - (off : Int)) * (pp : Int)) % 8192).toNat

/-- d and q values of three phase values of a reel (R315). -/
def toDq (s : State) (r : Reel) (xa xb xc : Int) : Int × Int :=
  let al := openDiv (2 * xa - xb - xc) 3
  let be := (xb - xc) * 37837 / 65536
  let a := angleIndex s r
  (openDiv (al * cosineTable a + be * sineTable a) 65536, openDiv (be * cosineTable a - al * sineTable a) 65536)

/-- d and q currents of a reel (R315). -/
def dqCurrents (s : State) (r : Reel) : Int × Int :=
  let b : Nat := 6 * r.val
  toDq s r (sample s (Fin.ofNat 24 b)) (sample s (Fin.ofNat 24 (b + 1))) (sample s (Fin.ofNat 24 (b + 2)))

/-- d and q voltages of a reel that its legs apply in the present period (R315, R442). -/
def dqVoltages (s : State) (r : Reel) : Int × Int :=
  let v (k : Nat) : Int := openDiv ((vget s.xport.legs (Fin.ofNat 6 (3 * r.val + k))).window * vbus s) 2500
  toDq s r (v 0) (v 1) (v 2)

/-- Energy that the bridges deliver in the present period, in 2^-33 nJ: 1.5 (vd id + vq iq) 25 µs a reel, and v i 25 µs of the voice
coil (R442). -/
def periodEnergy (s : State) : Int :=
  let reel (r : Reel) : Int :=
    let v := dqVoltages s r
    let i := dqCurrents s r
    75000 * (v.1 * i.1 + v.2 * i.2)
  reel 0 + reel 1 + 50000 * (s.xport.coil * sample s 12)

/-- The transport energy of a PWM period is metered (R442). -/
def meterPeriod (s : State) : State := { s with energy := { s.energy with motor := s.energy.motor + periodEnergy s } }

/-- The track target of slot 8 in pitch, Q16.16 (R295, R309). -/
def trackTarget (s : State) : Int := 256 * servoTarget s

/-- Reference and feedback of a slot. DEDUCED: log entry 180. -/
def slotInputs (s : State) (n : SlotNo) : Int × Int :=
  let x := s.xport
  match n.val with
  | 0 => (vget x.iqRef 0, (dqCurrents s 0).2)
  | 1 => (if aligning s then 65536 else 0, (dqCurrents s 0).1)
  | 2 => (vget x.iqRef 1, (dqCurrents s 1).2)
  | 3 => (if aligning s then 65536 else 0, (dqCurrents s 1).1)
  | 4 => (x.speedRamp, objQ16 s Obj.tapeSpeed)
  | 5 => (objQ16 s Obj.tensionMax, tensionSample s)
  | 6 => (x.tensionRamp, tensionSample s)
  | 7 => (openDiv (103 * (x.speedRamp.natAbs : Int) + 5 * 65536) 100,
          if (encOf s (trailing s)).fault then -objQ16 s Obj.tapeSpeed * (if x.forward then 1 else -1)
          else objQ16 s (Obj.encSurfaceSpeed (trailing s)))
  | 8 => (trackTarget s, 256 * x.servo.pos)
  | 9 => ((loopOf s 8).out, sample s 12)
  | 10 => ((loopOf s 11).out, sample s 18)
  | 11 => (objQ16 s Obj.vholdTarget, vbus s)
  | 12 => (1015808, vbus s)
  | _ => (0, 0)

/-- Output limits of a slot (R310, R315). -/
def slotLimits (s : State) (n : SlotNo) : Int × Int :=
  let c := (loopOf s n).active
  let v := if n.val ≤ 3 then some (vbus s * 37837 / 65536) else if n.val = 9 then some (vbus s) else none
  match v with
  | some l => (max c.umin (-l), min c.umax l)
  | none => (c.umin, c.umax)

/-- ADCs whose trigger-A sets feed a slot: its current or sensor and, for slots 0-3 and 9, VHOLD (R321, R322). -/
def slotAdcs (n : Nat) : List Nat :=
  match n with
  | 0 | 1 | 11 | 12 => [0]
  | 2 | 3 => [1, 0]
  | 5 | 6 => [2]
  | 9 => [2, 0]
  | 10 => [3]
  | _ => []

/-- Slots that hold the output 0 while the charger or the regenerative floor is forced off (R366, R374). -/
def forcedOff (s : State) (n : Nat) : Bool :=
  (n == 10 && (s.power.failing || s.power.faulted)) || (n == 12 && s.power.slotFaults.contains 12)

/-! ### Injection (R323) -/

/-- The generator x^11 + x^9 + 1 moves by one bit. -/
def prbsNext (p : BitVec 11) : BitVec 11 := (p <<< 1) ||| (oneBit (p.getLsbD 10 ^^ p.getLsbD 8)).setWidth 11

/-- The value injected at an execution of the target slot. -/
def injectValue (s : State) : Int :=
  let a := objQ16 s Obj.injectAmplitude
  let per := max 1 (obj s Obj.injectPeriod)
  match obj s Obj.injectWaveform with
  | 1 => a
  | 2 => if s.xport.inject.execs / per % 2 = 0 then a else -a
  | 3 => if s.xport.inject.prbs.getLsbD 10 then a else -a
  | _ => 0

/-- Injection acts on the slot, at its reference or its output. -/
def injects (s : State) (n : SlotNo) (atOutput : Bool) : Bool :=
  obj s Obj.injectWaveform != 0 && fieldOf (obj s Obj.injectTarget) 0 4 == n.val
    && bitOf (obj s Obj.injectTarget) 4 == atOutput

/-- After an execution that carried injection. -/
def injectTick (n : SlotNo) (s : State) : State :=
  if injects s n false || injects s n true then
    let per := max 1 (obj s Obj.injectPeriod)
    modXport (fun x => { x with inject :=
      { execs := x.inject.execs + 1
        prbs := if (x.inject.execs + 1) % per = 0 then prbsNext x.inject.prbs else x.inject.prbs } }) s
  else s

/-! ### Execution of a slot (R310, R322) -/

/-- STATUS of a slot (R327). -/
def loopStatus (l : LoopRt) : Nat :=
  2 ^ 7 * b2n l.fault + 2 ^ 5 * min l.staleCount 3 + 2 ^ 4 * b2n l.stale + 8 * b2n l.lost + 4 * b2n l.held
    + 2 * b2n l.satLow + b2n l.satHigh

/-- Show a slot's state in its objects. -/
def showLoop (n : SlotNo) (s : State) : State :=
  let l := loopOf s n
  s |> setObj (Obj.slotStatus n) (loopStatus l) |> setObjInt (Obj.slotReference n) l.ref
    |> setObjInt (Obj.slotFeedback n) l.fb |> setObjInt (Obj.slotOutput n) l.next
    |> setObjInt (Obj.slotIntegrator n) l.integ

/-- The value the min-select of the slot's reel chose at the latest latch (R310, R314). -/
def selFor (s : State) (n : SlotNo) : Int :=
  match n.val with
  | 4 | 5 => vget s.xport.selected 0
  | 6 | 7 => vget s.xport.selected 1
  | _ => 0

/-- Run a slot in the present period. -/
def runSlot (n : SlotNo) (s : State) : State :=
  if !slotDue s n then
    (if slotEnabled s n then s
     else s |> modLoop n (fun l => { l with integ := 0, ePrev := 0, lost := false, next := 0 }) |> showLoop n)
  else
    let l := loopOf s n
    let io := slotInputs s n
    let lim := slotLimits s n
    let stale := (slotAdcs n).any (fun a => missedA (adcSetup s a))
    let o := law l.active (slotTrack s n) l.lost l.integ l.ePrev io.1 io.2 (selFor s n) lim.1 lim.2
      (if injects s n false then injectValue s else 0) (if injects s n true then injectValue s else 0)
    let count := if stale then min (l.staleCount + 1) 3 else 0
    s |> modLoop n (fun l => { l with
            integ := o.integ, ePrev := o.ePrev, held := o.held, satHigh := o.high, satLow := o.low
            stale := stale, staleCount := count, ref := io.1, fb := io.2
            next := if forcedOff s n then 0 else o.u })
      |> injectTick n |> showLoop n

/-! ### The reference generator (R316) -/

/-- Move towards a target by at most a step. -/
def rampTo (x target step : Int) : Int :=
  if x < target then min target (x + step) else max target (x - step)

/-- Target of the speed ramp. -/
def speedTarget (s : State) : Int :=
  match s.xport.state with
  | .moving => s.xport.target
  | .test => objQ16 s Obj.testSpeed
  | _ => 0

/-- Acceleration of the speed ramp: EMERGENCY_DECEL in BRAKING and in an emergency stop. -/
def rampAccelNow (s : State) : Int :=
  if s.xport.state = .braking ∨ s.xport.state = .faulted then objQ16 s Obj.emergencyDecel else objQ16 s Obj.rampAccel

/-- Target of the tension ramp; the present value where R316 names none. -/
def tensionTarget (s : State) : Int :=
  match s.xport.state with
  | .stopped | .moving | .test => objQ16 s Obj.tensionSetpoint
  | .parked => if powerToward s = 0 then objQ16 s Obj.tensionSetpoint else objQ16 s Obj.parkTension
  | _ => s.xport.tensionRamp

/-- The ramps at the executions of slots 4 and 6. -/
def runRamps (s : State) : State :=
  let s1 := if slotDue s 4 then
      modXport (fun x => { x with speedRamp := rampTo x.speedRamp (speedTarget s) (openDiv (rampAccelNow s) 10000) }) s
    else s
  let s2 := if slotDue s 6 then
      modXport (fun x => { x with tensionRamp := rampTo x.tensionRamp (tensionTarget s1) (openDiv 65536 1000) }) s1
    else s1
  setObjInt Obj.tapeSpeedRef s2.xport.speedRamp s2

/-! ### Min-select (R314) -/

/-- pol of a reel. -/
def motorPol (s : State) (r : Reel) : Int := if bitOf (obj s Obj.motorPolarity) r.val then -1 else 1

/-- The lower of two contenders; between equal ones the first. -/
def pickMin (a b : Int) : Int := if b < a then b else a

/-- Direction, min-select and the q current references, on the outputs that the next valley latches. -/
def minSelect (s : State) : State :=
  let ran := ([4, 5, 6, 7] : List SlotNo).any (slotDue s)
  if !ran then s else
  let fwd := if 0 < s.xport.speedRamp then true else if s.xport.speedRamp < 0 then false else s.xport.forward
  let s1 := if fwd = s.xport.forward then s else
    ([4, 5, 6, 7] : List SlotNo).foldl (fun t n => modLoop n (fun l => { l with integ := 0 }) t)
      (modXport (fun x => { x with forward := fwd }) s)
  let u : SlotNo → Int := fun n => (loopOf s1 n).next
  let floor := if s1.power.slotFaults.contains 12 then 0 else (loopOf s1 12).next
  let lead := clampI (pickMin (u 4) (u 5)) floor 393216
  let trail := clampI (pickMin (u 6) (u 7)) floor 393216
  let lr := leading s1
  let tr := trailing s1
  let s2 := modXport (fun x => { x with
    selected := Vector.ofFn (fun i => if i = (0 : Fin 2) then pickMin (u 4) (u 5) else pickMin (u 6) (u 7))
    regenFloor := floor
    iqRef := Vector.ofFn (fun r => if r = lr then motorPol s1 lr * lead else -(motorPol s1 tr) * trail) }) s1
  let lose : SlotNo → Bool → State → State := fun n b t =>
    t |> modLoop n (fun l => { l with lost := b && slotEnabled s n }) |> showLoop n
  s2 |> lose 4 (decide (u 5 < u 4)) |> lose 5 (decide (u 4 ≤ u 5)) |> lose 6 (decide (u 7 < u 6))
    |> lose 7 (decide (u 6 ≤ u 7)) |> setObjInt Obj.regenFloor floor

/-! ### Modulation and PWM (R315, R319) -/

/-- The windows requested for the three legs of a reel. -/
def requestWindows (s : State) (r : Reel) : List Int :=
  let vb := vbus s
  if vb < 262144 then [1250, 1250, 1250] else
  let a := angleIndex s r
  let vq := (loopOf s (Fin.ofNat 16 (2 * r.val))).next
  let vd := (loopOf s (Fin.ofNat 16 (2 * r.val + 1))).next
  let va := openDiv (vd * cosineTable a - vq * sineTable a) 65536
  let ve := openDiv (vd * sineTable a + vq * cosineTable a) 65536
  let half := openDiv va 2
  let x := ve * 56756 / 65536
  let vs := [va, -half + x, -half - x]
  let v0 := -(openDiv (vs.foldl max va + vs.foldl min va) 2)
  vs.map (fun v => clampI (openRound (1250 * vb + 2500 * (v + v0)) vb) 0 2500)

/-- Ticks that the high side conducts in a period with an applied window: none, the whole period but for a dead time at the
valley, or the window but for its dead time (R318, R319). -/
def highTicks (d w : Int) (gap : Bool) : Int :=
  if w = 0 then 0 else if w = 2500 then (if gap then 2500 - d else 2500) else w - d

/-- Apply a requested window to a leg (R318, R319). -/
def applyWindow (d m t0 : Int) (l : Leg) : Leg :=
  let t := t0 + l.carry
  let w := if t < m then 0 else if 2500 - d - m < t then 2500 else t
  { l with window := w, carry := clampI (t - w) (-m) m, high := highTicks d w l.gap, gap := w != 2500 }

/-- The bridges' state of a transport state (R320). -/
def bridgeFor (s : State) : Bridge :=
  let x := s.xport
  if x.forceShort then (if x.state = .faulted ∧ x.atRest then .off else .short)
  else match x.state with
    | .off => if s.cart.threaded then .short else .off
    | .idle => if aligning s then .run else .off
    | .faulted => if x.atRest then .off else .run
    | _ => .run

/-- The valley: outputs, windows and the bridges' state take effect (R312, R319, R320). -/
def valley (s : State) : State :=
  let b := bridgeFor s
  let d : Int := (obj s Obj.deadTime : Nat)
  let m : Int := (obj s Obj.minPulse : Nat)
  let legs := Vector.ofFn (fun i : Fin 6 =>
    let l := vget s.xport.legs i
    if b = .run then applyWindow d m l.next l else { l with carry := 0, window := 0, high := 0, gap := true })
  let runs : Bool := b == .run
  let omitted := (legs.toList.filter (fun l => runs && l.window == 0)).length
  let full := (legs.toList.filter (fun l => runs && l.window == 2500)).length
  s |> modXport (fun x => { x with
        bridge := b, legs := legs, coil := (vget x.loops 9).next, charger := (vget x.loops 10).next
        loops := Vector.ofFn (fun n =>
          let l := vget x.loops n
          { l with out := l.next
                   active := if l.apply then shadows s n else l.active
                   apply := false }) })
    |> bumpBy Obj.omittedPulses omitted |> bumpBy Obj.fullOnPeriods full

/-- Windows of both reels for the next valley. -/
def modulate (s : State) : State :=
  let ws := requestWindows s 0 ++ requestWindows s 1
  modXport (fun x => { x with legs := Vector.ofFn (fun i =>
    { vget x.legs i with next := (ws[i.val]?).getD 1250 }) }) s

/-! ### Capture (R324) -/

/-- The signal a source byte selects. -/
def captureSignal (s : State) (b : Nat) : Int :=
  if 0x40 ≤ b then 0 else
  let l := loopOf s (Fin.ofNat 16 (b / 4))
  match b % 4 with
  | 0 => l.ref
  | 1 => l.fb
  | 2 => l.next
  | _ => l.integ

/-- Sources in order. -/
def captureSources (s : State) : List Nat := (List.range 4).map (fun i => fieldOf (obj s Obj.captureSources) (8 * i) 8)

/-- CAPTURE_STATUS (R328). -/
def captureStatusOf (c : Capture) : Nat :=
  2 ^ 14 * (match c.state with
    | .idle => 0 | .armed => 1 | .running => 2 | .full => 3) + c.samples.length

/-- Record at an execution of the clock slot; CAPTURE_FULL is an event of its own. -/
def runCapture (s : State) : State :=
  let c := s.xport.capture
  let clock : SlotNo := Fin.ofNat 16 (fieldOf (obj s Obj.captureClock) 0 4)
  let withInj := bitOf (obj s Obj.captureClock) 7
  let carried := obj s Obj.injectWaveform != 0 && slotDue s (Fin.ofNat 16 (fieldOf (obj s Obj.injectTarget) 0 4))
  let st := if c.state = .armed ∧ (if withInj then carried else slotDue s clock) then .running else c.state
  if st ≠ .running ∨ !slotDue s clock ∨ 4096 ≤ c.samples.length then
    modXport (fun x => { x with capture := { c with state := st } }) s
  else
    let dec := max 1 (obj s Obj.captureDecimation)
    let take : Bool := c.count % dec == 0
    modXport (fun x => { x with capture :=
      { state := st, count := c.count + 1
        samples := if take then (captureSources s).map (captureSignal s) :: c.samples else c.samples } }) s

/-- Show capture in its object. -/
def showCapture (s : State) : State := setObj Obj.captureStatus (captureStatusOf s.xport.capture) s

end Sys2Proof.Machine
end

