-- ==== Sys2Proof/Machine/Sharing.lean ====
section
/-!
DEFINITION. Sharing the tape: which reads wait, in which class and order, locates, and how an excursion starts and ends
(R352-R354, R361).
-/
namespace Sys2Proof.Machine

/-- A cut that a host read waits for: class, 0 where it has waited 5 s else 1, distance from the present position, and
serial (R352). -/
structure ReadWork where
  cls : Nat
  late : Nat
  dist : Nat
  serial : Nat
deriving DecidableEq, Repr

/-- A slot waits for tape reads. -/
def readsTape (x : Slot) : Bool :=
  !x.held && (match x.phase with
    | .tape _ => true
    | _ => false)

/-- Blocks of a cut that was read wait for the decompressor. -/
def inDecompressor (s : State) (serial : Nat) : Bool := s.comp.captured.any (fun c => c.serial == serial)

/-- The cuts host reads wait for, but those whose blocks are in the decompressor: class 3 while the domain has tape-read tokens, else class 6 (R168, R352). -/
def hostReads (s : State) : List ReadWork :=
  allDoms.flatMap (fun d => ((domOf s d).slots.filter readsTape).flatMap (fun x =>
    ((cutsNeeded s x).filter (fun n => !inDecompressor s n)).map (fun n =>
      { cls := if 0 < (domOf s d).tokens.tapeRead then 3 else 6
        late := if s.sched.urgent.contains (d, x.no) then 0 else 1
        dist := ((findCut s n).map (distanceTo s)).getD 0
        serial := n })))

/-- One read goes before another: class, then the 5 s rule, then the least locate time, then the lower serial. -/
def ReadWork.before (a b : ReadWork) : Bool :=
  decide (a.cls < b.cls) || (a.cls == b.cls && (decide (a.late < b.late) || (a.late == b.late &&
    (decide (a.dist < b.dist) || (a.dist == b.dist && decide (a.serial < b.serial))))))

/-- The read to serve next. -/
def nextRead (s : State) : Option ReadWork :=
  (hostReads s).foldl (fun best r =>
    match best with
    | none => some r
    | some b => if r.before b then some r else some b) none

/-- A Kiln cut is due (R409). -/
def kilnCutDue (s : State) : Bool := s.kiln.cutDue && s.kiln.copies != []

/-- Some domain has a flush due. -/
def anyFlush (s : State) : Bool := allDoms.any (flushDue s)

/-- A Bedrock generation is due, or one is under way (R347). -/
def bedrockWaits (s : State) : Bool :=
  s.sched.bedrockDue || s.sched.bedrock.isSome || ([0, 1] : List (Fin 2)).any (fun z => (vget s.cart.zones z).marked)

/-- Work of class 5 or 7 waits (R353). DEDUCED: log entry 171. -/
def writesWait (s : State) : Bool :=
  anyFlush s || allDoms.any (fun d => decide (cutPayload ≤ waitingBytes s d)) || s.cart.mapDue
    || s.cart.reallocs.any (fun r => r.replacement.isNone) || bedrockWaits s

/-- After an excursion that its limit ended, 4 cuts go before the next one (R353). -/
def readsMay (s : State) : Bool := s.sched.owed == 0 || !writesWait s

/-- The scheduler may start tape work: P0's transport with the holdup bank ready, a cartridge that serves, and no ladder,
rebuild, calibration or power failure in the way. -/
def tapeFree (s : State) : Bool :=
  s.power.ready && !s.power.failing && s.cart.threaded && s.cart.openCut.isNone && s.cart.ladder.isNone
    && !s.recov.rebuilding && !s.cart.calibration
    && (match s.cart.state with
      | .ready | .draining => true
      | _ => false)

/-- A locate to a place of the tape: 10 m/s towards it on servo LPOS (R297, R361). -/
def startLocate (lpos wrap : Nat) (s : State) : State :=
  let fwd : Bool := decide (s.xport.servo.lpos ≤ lpos)
  modXport (fun x => { x with
    forward := fwd, target := if fwd then 655360 else -655360, atRest := false
    servo := { x.servo with locate := some (lpos, wrap) } }) s

/-- A locate to a cut. -/
def seekCut (c : Cut) (s : State) : State := startLocate (lposAt c.chain c.wrap c.start) c.wrap s

/-- Stop the tape: the speed ramp goes to 0 (R316). -/
def stopTape (s : State) : State :=
  modXport (fun x => { x with target := 0, servo := { x.servo with locate := none } }) s

/-- The nearer of some cuts on tape. -/
def nearest (s : State) (cuts : List Cut) : Option Cut :=
  cuts.foldl (fun best c =>
    match best with
    | none => some c
    | some b => if distanceTo s c < distanceTo s b then some c else some b) none

/-- The calibration cuts of a band. -/
def bandCalibration (s : State) (band : Nat) : List Cut :=
  (tapeCuts s).filter (fun c => c.kind == .calibration && c.wrap / 24 == band)

/-- A band whose wrap records were all reset is seeded from its nearer calibration cut first (R306). -/
def seedCut (s : State) (wrap : Nat) : Option Cut :=
  if s.cart.bandsReset.contains (wrap / 24) then nearest s (bandCalibration s (wrap / 24)) else none

/-- A command waits for a cut. -/
def needsCut (serial : Nat) (x : Slot) : Bool :=
  !x.held && (match x.phase with
    | .tape cs => cs.contains serial && !x.readCuts.contains serial && !x.failedCuts.contains serial
    | _ => false)

/-- Change the commands of a domain. -/
def modSlots (f : Slot → Slot) (s : State) : State :=
  allDoms.foldl (fun t d => modDom d (fun y => { y with slots := y.slots.map f }) t) s

/-- Change every command that waits for a cut that the tape serves. -/
def modReaders (serial : Nat) (f : Slot → Slot) (s : State) : State := modSlots (fun x => if needsCut serial x then f x else x) s

/-- The tape moves for a cut: the commands that would take a copy from it, as the present position has it, wait for it now and
have started (R19, R20, R172). -/
def moveFor (serial : Nat) (s : State) : State :=
  modReaders serial (fun x => { x with started := true, moved := true })
    (modSlots (fun x => if readsTape x && (cutsNeeded s x).contains serial then { x with phase := .tape (cutsNeeded s x) } else x) s)

/-- A read excursion begins or goes on: a burst is over, and the tape goes to the cut (R306, R353). -/
def startExcursion (cls serial : Nat) (s : State) : State :=
  match findCut s serial with
  | none => s
  | some c0 =>
    let c := (seedCut s c0.wrap).getD c0
    { s with sched := { s.sched with
        burst := false, mode := .excursion, workClass := cls, reading := some c.serial
        owed := if writesWait s then s.sched.owed else 0 } }
      |> moveFor serial |> seekCut c |> (fun t => if t.xport.state = .stopped then enterXport .moving t else t)

/-- The scheduler has nothing under way. -/
def endExcursion (s : State) : State :=
  stopTape { s with sched := { s.sched with mode := .idle, workClass := 0, reading := none } }

/-! ### Which read is next (R352-R354) -/

/-- A held cut that waits to be rewritten, in the Kiln band or in the data area (R301). -/
def nextRealloc (s : State) (kiln : Bool) : Option Realloc :=
  s.cart.reallocs.find? (fun r => r.replacement.isNone && ((findCut s r.serial).any (fun c => c.kind == .kiln)) == kiln)

/-- The cut an index rebuild reads next (R346). -/
def indexNext (s : State) : Option Nat := if indexValid s then none else s.cart.index.todo.head?

/-- Work of class 4 or 5 waits. -/
def pressingWrites (s : State) : Bool := kilnCutDue s || (nextRealloc s true).isSome || anyFlush s

/-- The cut that the nearest merge fetch reads (R345, R352). -/
def fetchNext (s : State) : Option Nat :=
  (nearest s ((fetchList s).filterMap (fun f => findCut s f.2.2.2))).map (·.serial)

/-- Some class before the dailies has work. -/
def otherWork (s : State) : Bool :=
  (nextRead s).isSome || pressingWrites s || writesWait s || (indexNext s).isSome || (fetchNext s).isSome
    || s.sched.reclaim.isSome

/-- The cut that step 9 of the self-test reads next, once no class of tape work waits (R178; DESIGN CHOICE, log entry 151). -/
def selfTestNext (s : State) : Option Nat :=
  if otherWork s || testWaitsForPages s then none
  else s.test.run.bind (fun r => if r.step == 9 && !r.suspended then r.cuts.head? else none)

/-- The cut a dailies pass reads next: it runs while no other class has work (R354). -/
def dailiesNext (s : State) : Option Nat :=
  if s.sched.dailiesStopped || otherWork s || !objBool s Obj.dailiesEnable then none else s.sched.dailies.bind (·.head?)

/-- The read an excursion goes to: its class and cut. -/
def readChoice (s : State) : Option (Nat × Nat) :=
  let late : Option (Nat × Nat) :=
    if pressingWrites s || !readsMay s then none
    else match indexNext s with
      | some n => some (7, n)
      | none =>
        match fetchNext s with
        | some n => some (7, n)
        | none => ((selfTestNext s).orElse (fun _ => dailiesNext s)).map (fun n => (9, n))
  match nextRead s with
  | some r => if readsMay s && (r.cls == 3 || !pressingWrites s) then some (r.cls, r.serial) else late
  | none => late

/-- With the tape stopped, a read that may go first starts an excursion (R352). -/
def goReading (s : State) : State :=
  match readChoice s with
  | some (cls, n) => startExcursion cls n s
  | none => s

/-- A head calibration that is due goes to the nearest calibration cut and holds the tape (R305). -/
def startCalibration (s : State) : State :=
  match nearest s ((tapeCuts s).filter (fun c => c.kind == .calibration)) with
  | none => s
  | some c =>
    { s with sched := { s.sched with mode := .excursion, workClass := 0, reading := none } } |> seekCut c |> enterXport .moving

/-- The dailies stop when another class has work, and step 9 of the self-test with them (R179, R354). -/
def stopDailies (s : State) : State :=
  if s.sched.mode = .excursion ∧ s.sched.workClass = 9 ∧ s.cart.ladder.isNone ∧ otherWork s then
    endExcursion { s with sched := { s.sched with dailiesStopped := true } }
  else s

/-- An excursion whose tape was stopped on its way is over. -/
def leaveExcursion (s : State) : State :=
  if s.xport.state = .stopped ∧ s.sched.mode = .excursion ∧ s.cart.ladder.isNone then
    { s with sched := { s.sched with mode := .idle, workClass := 0, reading := none } }
  else s

/-- In P0 with the tape stopped: a calibration that is due, else the next read (R305, R352-R354). -/
def startReads (s : State) : State :=
  let s1 := leaveExcursion (stopDailies s)
  if s1.xport.state ≠ .stopped ∨ powerNow s1 ≠ 0 ∨ !s1.power.ready ∨ s1.power.failing ∨ s1.cart.ladder.isSome then s1
  else if s1.cart.calibration && s1.cart.threaded && s1.cart.openCut.isNone then startCalibration s1
  else if tapeFree s1 then goReading s1
  else s1

end Sys2Proof.Machine
end

