-- ==== Sys2Proof/Machine/Transport.lean ====
section
/-!
DEFINITION. The reel transport: its states and faults, the PWM period, test mode, capture, the encoders and the servo
(R295-R298, R309-R340, R372-R374).
-/
namespace Sys2Proof.Machine

/-! ### Stops and faults (R325, R326, R372, R374) -/

/-- The length of what an open cut has on tape so far. -/
def writtenLength (o : OpenCut) : Nat :=
  (o.passed.length + (o.rewrites.filter (fun r => r.1 != 0xFE)).length) * frameSetBits + o.cut.length

/-- The cut being written stays incomplete on tape; its content goes back to the path, and what a device cut was for is
due again: a map checkpoint, a held reallocation, a Bedrock generation from its zone's start (R368, R378, R380). -/
def dropOpenCut (s : State) : State :=
  match s.cart.openCut with
  | none => { s with sched := { s.sched with burst := false } }
  | some o =>
    let bedrock : Bool := o.cut.kind == .bedrock
    { s with cart := { s.cart with
               openCut := none
               mapDue := s.cart.mapDue || o.cut.kind == .map
               reallocs := s.cart.reallocs.map (fun r => if r.serial = o.cut.retires then { r with replacement := none } else r)
               zones := Vector.ofFn (fun z => { vget s.cart.zones z with writing := (vget s.cart.zones z).writing && !bedrock }) }
             comp := { s.comp with blocks := o.source ++ s.comp.blocks }
             sched := { s.sched with burst := false, bedrock := if bedrock then none else s.sched.bedrock
                                     bedrockDue := s.sched.bedrockDue || bedrock } }
      |> modTape (fun c => if o.phase = .gap then c else
          { c with cuts := c.cuts ++ [{ o.cut with complete := false, length := writtenLength o }] })

/-- A transport fault: FAULTED from any state but OFF and BRAKING, with its cause, and the cartridge FAULTED; a further
cause changes nothing (R162, R325, R326). -/
def transportFault (cause : Nat) (s : State) : State :=
  match s.xport.state with
  | .off | .braking | .faulted => s
  | _ =>
    s |> dropOpenCut |> enterXport .faulted |> setObj Obj.faultCause cause
      |> modXport (fun x => { x with servo := { x.servo with locate := none, offset := 0 } })
      |> (fun t => { t with cart := { t.cart with ladder := none }
                            sched := { t.sched with mode := .idle, workClass := 0, reading := none } })
      |> postEvent 0x0701 unitTransport cause |> faultCartridge |> progressAll |> pollPower

/-- Both bridges go to SHORT at the next valley (R326, R338, R369). -/
def shortBridges (s : State) : State := modXport (fun x => { x with forceShort := true }) s

/-- READY clears: moving tape that writes nothing stops, and the event is posted while the tape moves (R372). -/
def clearReady (s : State) : State :=
  let moving : Bool := s.power.ready && s.xport.state == .moving
  let s1 := { s with power := { s.power with ready := false } }
  if moving then
    s1 |> modXport (fun x => if s.cart.openCut.isSome then x else { x with target := 0 }) |> postEvent 0x0901 unitDevice 0
  else s1

/-- A loop fault of slot 10, 11 or 12: holdup control acts, not the transport (R374). -/
def holdupFault (n : Nat) (s : State) : State :=
  { s with power := { s.power with slotFaults := s.power.slotFaults ++ [n], faulted := true } }
    |> postEvent 0x0902 unitDevice n |> clearReady

/-- A loop fault (R322, R326, R374). -/
def loopFault (n : SlotNo) (s : State) : State :=
  let s1 := s |> modLoop n (fun l => { l with fault := true }) |> showLoop n |> postEvent 0x0702 unitTransport n.val
  if n.val ≤ 3 then transportFault (0x10 + n.val) (if s.xport.state = .off then s1 else shortBridges s1)
  else if n.val ≤ 9 then transportFault (0x10 + n.val) s1
  else holdupFault n.val s1

/-- Slots that now meet their third consecutive stale set (R322). -/
def raiseLoopFaults (s : State) : State :=
  allSlots.foldl (fun t n =>
    let l := loopOf t n
    if l.stale && decide (3 ≤ l.staleCount) && !l.fault then loopFault n t else t) s

/-- The reels stand and the head is off: BRAKING ends in OFF, as does FAULTED while the power-fail sequence runs
(R325, R366). -/
def finishStop (s : State) : State :=
  if s.xport.atRest && !s.xport.headLoaded
      && (s.xport.state == .braking || (s.xport.state == .faulted && s.power.failing)) then
    enterXport .off (modXport (fun x => { x with forceShort := false }) s)
  else s

/-! ### Speed excursions and the cap (R317, R358) -/

/-- Change the scheduler or the dictionary and report a change of CAP_STEP (R358). -/
def withCap (f : State → State) (s : State) : State :=
  let t := f s
  if capStep t = capStep s then t else postEvent 0x0801 unitDevice (capStep t) t

/-- A speed lies within ±0.5 % of a step (R317). -/
def inSpeedBand (v : Int) (step : Nat) : Bool :=
  let w : Int := (stepSpeed step * 65536 / 1000 : Nat)
  200 * ((v.natAbs : Int) - w).natAbs ≤ w.natAbs

/-- A speed excursion: the counter, and the fourth at one step within 60 s lowers the derate (R317, R358). -/
def speedExcursion (s : State) : State :=
  let now := s.periods
  let kept := (s.sched.excursions.filter (fun e => e.1 == s.sched.step && now - e.2 ≤ 2400000)) ++ [(s.sched.step, now)]
  let s1 := s |> bump Obj.speedExcursions |> modXport (fun x => { x with offSpeed := true, inBand := 0 })
  withCap (fun t => { t with sched := { t.sched with
      excursions := if 4 ≤ kept.length then [] else kept
      derate := if 4 ≤ kept.length then t.sched.step - 1 else t.sched.derate } }) s1

/-- Judge the speed sample of a period (R317). -/
def judgeSpeed (s : State) : State :=
  let ok := inSpeedBand (objQ16 s Obj.tapeSpeed) s.sched.step
  if s.xport.offSpeed then
    let n := if ok then s.xport.inBand + 1 else 0
    modXport (fun x => { x with inBand := min n 2, offSpeed := decide (n < 2) }) s
  else if writing s && !ok then speedExcursion s
  else s

/-! ### The servo sample (R295, R298) -/

/-- A position sample lies within WRITE_INHIBIT_LIMIT of its target (R298). -/
def onTrack (s : State) (pos : Int) : Bool := (pos - servoTarget s).natAbs ≤ obj s Obj.writeInhibitLimit

/-- Sample of a servo reader in 1/256 pitch: `half` is 768 for the upper reader, whose stripe boundaries stand 3 pitches beyond the
lower one's; the boundary nearest to the last position counts, and how far that stands from it (R295).
DESIGN CHOICE: log entry 167. -/
def readerSample (half : Int) (t : ServoTones) (last : Int) : Int × Nat :=
  let m := (last - half + 768) / 1536
  let edge := 1536 * m + half
  let a20 : Int := t.a20.toNat
  let a30 : Int := t.a30.toNat
  let pes := if a20 + a30 = 0 then 0 else openDiv (768 * (a20 - a30)) (a20 + a30)
  ((if (m % 2 == 0) == Config.servoSign then edge + pes else edge - pes), (last - edge).natAbs)

/-- The position sample: of the valid reader whose nearest boundary is closer, the lower one where both are as close (R295, R298). -/
def demodulate (x : PeriodInputs) (lo up : Bool) (last : Int) : Int :=
  let a := readerSample 0 (vget x.tones 0) last
  let b := readerSample 768 (vget x.tones 1) last
  if lo && up then (if b.2 < a.2 then b.1 else a.1) else if lo then a.1 else if up then b.1 else last

/-- Take the servo sample of a period: readers, position, and the end of a write inhibit (R295, R298). -/
def takeServo (x : PeriodInputs) (s : State) : State :=
  if s.periods % 2 ≠ 0 ∨ !s.xport.headLoaded then s
  else
    let lo := s.xport.servo.lowerValid || x.lower
    let up := s.xport.servo.upperValid || x.upper
    let pos := demodulate x lo up s.xport.servo.pos
    let s1 := modXport (fun y => { y with servo := { y.servo with lowerValid := lo, upperValid := up, pos := pos } }) s
    let good := if onTrack s1 pos && lo && up then min (s.xport.servo.good + 1) 2 else 0
    modXport (fun y => { y with servo := { y.servo with
      good := good, inhibited := y.servo.inhibited && decide (good < 2) } }) s1

/-- Write drivers stop: an inhibit begins (R298). -/
def inhibit (s : State) : State :=
  let s1 := if s.xport.servo.inhibited then s else bump Obj.writeInhibits s
  modXport (fun x => { x with servo := { x.servo with inhibited := true, good := 0 } }) s1

/-- WRITE_INHIBIT: a position sample beyond the limit (R298). -/
def execWriteInhibit (pos : Half) (s : State) : Host.Outcome State Fault Refusal :=
  .next (live s (
    let p := ofBits 16 pos.toNat
    if s.xport.headLoaded && !onTrack s p then
      inhibit (modXport (fun x => { x with servo := { x.servo with pos := p } }) s)
    else s))

/-- Servo LPOS is lost: no radius is measured over this revolution (R334). -/
def breakRevolution (s : State) : State :=
  modXport (fun x => { x with enc := Vector.ofFn (fun r => { vget x.enc r with revValid := false }) }) s

/-- SERVO_READER_LOST: following moves to the other reader and writing is inhibited (R298). -/
def execServoReaderLost (upper : Bool) (s : State) : Host.Outcome State Fault Refusal :=
  .next (live s (
    if !s.xport.headLoaded then s else
    let s1 := modXport (fun x => { x with servo := { x.servo with
        lowerValid := x.servo.lowerValid && upper, upperValid := x.servo.upperValid && !upper } }) s
    inhibit (if readerValid s1 then s1 else breakRevolution s1)))

/-- SERVO_READER_FAULT: a loss that has lasted 20 ms; of both readers it is a transport fault (R298). -/
def execServoReaderFault (s : State) : Host.Outcome State Fault Refusal :=
  .next (live s (
    let v := s.xport.servo
    if !s.xport.headLoaded || (v.lowerValid && v.upperValid) then s
    else if !v.lowerValid && !v.upperValid then transportFault 0x40 s
    else postEvent 0x0607 unitTransport (b2n v.lowerValid) s))

/-- The longitudinal position word of a servo track: sync, LPOS and CRC-8 (R296). -/
def lposWordOf (lpos : BitVec 24) : BitVec 40 :=
  let up : BitVec 32 := 0xA5#8 ++ lpos
  up ++ crc8 (bitsMsb up)

/-- LPOS of a word as read; none where its sync or its CRC fails (R296). -/
def lposOf (w : BitVec 40) : Option (BitVec 24) :=
  if w = lposWordOf (w.extractLsb' 8 24) then some (w.extractLsb' 8 24) else none

/-- LPOS takes a valid word's value, and the encoders carry it no longer (R296, R339). -/
def takeLpos (lpos : Nat) (s : State) : State :=
  modXport (fun x => { x with
    servo := { x.servo with lpos := lpos, lposSub := 0, fromEncoders := false }
    enc := Vector.ofFn (fun r =>
      let e := vget x.enc r
      if e.revValid then e else { e with revCount := e.count, revLpos := lpos, revValid := true }) }) s

/-- LPOS_WORD: a word as a servo reader brings it; one whose CRC fails is ignored (R296, R339). -/
def execLposWord (word : BitVec 40) (s : State) : Host.Outcome State Fault Refusal :=
  .next (live s (
    match lposOf word with
    | some lpos => if s.xport.headLoaded then takeLpos lpos.toNat s else s
    | none => s))

/-- LPOS_WORD_LOSS: no valid word for 50 mm (R296, R339). -/
def execLposWordLoss (s : State) : Host.Outcome State Fault Refusal :=
  .next (live s (
    if !s.xport.headLoaded then s else
    breakRevolution (modXport (fun x => { x with servo := { x.servo with fromEncoders := true } }) s)))

/-! ### Encoder events (R329-R340) -/

/-- Ticks since release of a moment `t` ticks into the present period. -/
def edgeTime (s : State) (t : Nat) : Nat := 2500 * (s.periods - 1) + t

/-- The pair follows the previous one in the order 00, 10, 11, 01 (R330). -/
def countsUp (a b a' b' : Bool) : Bool :=
  match a, b, a', b' with
  | false, false, true, false | true, false, true, true | true, true, false, true | false, true, false, false => true
  | _, _, _, _ => false

/-- A single transition: count, direction and edge history (R330, R333). -/
def edgeMove (t : Nat) (up : Bool) (e : EncoderRt) : EncoderRt :=
  let down := !up
  let e1 := { e with count := ofBits 32 (toBits 32 (e.count + (if up then 1 else -1))), standstill := false, down := down }
  if e.edges = [] ∨ e.down ≠ down then { e1 with edges := [t], speedValid := false }
  else { e1 with edges := (t :: e.edges).take 5, speedValid := true }

/-- The majority filter of an encoder line: `last` holds its last samples, the newest in bit 0, `old` is the filtered line (R329). -/
def majority (f : Nat) (last : BitVec 15) (old : Bool) : Bool :=
  if f ≤ 1 then last.getLsbD 0
  else
    let other := ((List.range f).filter (fun i => last.getLsbD i != old)).length
    if f / 2 + 1 ≤ other then !old else old

/-- ENCODER_EDGE: the last 15 samples of the lines A and B, `tick` ticks after the last valley; the filtered pair moves the count
(R329-R331, R333). -/
def execEncoderEdge (r : Fin 2) (a b : BitVec 15) (tick : BitVec 12) (s : State) : Host.Outcome State Fault Refusal :=
  .next (live s (
    let e := encOf s r
    let t := edgeTime s tick.toNat
    let f := obj s Obj.filterLength
    let a := majority f a e.a
    let b := majority f b e.b
    if a = e.a ∧ b = e.b then s
    else if a ≠ e.a ∧ b ≠ e.b then
      s |> modEnc r (fun e => { e with a := a, b := b, doubles := (t :: e.doubles).take 4 })
        |> bump (Obj.encIllegalTransitions r) |> bumpBy (Obj.encUncertainty r) 2
    else modEnc r (fun e => { edgeMove t (countsUp e.a e.b a b) e with a := a, b := b }) s))

/-- Four double transitions lie within 1,024 samples (R331). -/
def fourDoubles (e : EncoderRt) : Bool :=
  match e.doubles with
  | [t, _, _, t0] => t - t0 < 1024
  | _ => false

/-- ENCODER_FAULT (R331, R338). -/
def execEncoderFault (r : Fin 2) (s : State) : Host.Outcome State Fault Refusal :=
  .next (live s (
    let e := encOf s r
    if e.fault || !fourDoubles e then s
    else
      let s1 := s |> modEnc r (fun e => { e with fault := true }) |> postEvent 0x0704 unitTransport r.val
      transportFault 0x30 (if noSpeedSource s1 then shortBridges s1 else s1)))

/-- STANDSTILL (R333). -/
def execStandstill (r : Fin 2) (s : State) : Host.Outcome State Fault Refusal :=
  .next (live s (modEnc r (fun e => { e with standstill := true, edges := [], speedValid := false }) s))

/-- The sum of the squared radii, in m² times 10^6 (R334). -/
def radiusSum : Nat := 1388

/-- A square root whose rounding the spec leaves open (log entry 7). -/
def openSqrt (n : Nat) : Nat :=
  let r := Nat.sqrt n
  if r * r = n then r else r + (if Config.roundsUp n (n + 1 : Nat) then 1 else 0)

/-- The other radius from the conserved area, Q16.16 (R334). -/
def otherRadius (q : Nat) : Nat := openSqrt (radiusSum * 2 ^ 32 / 10 ^ 6 - q * q)

/-- RADIUS_MEASURED: a reel has completed 8,192 counts of net motion with valid servo LPOS (R334). -/
def execRadiusMeasured (r : Fin 2) (s : State) : Host.Outcome State Fault Refusal :=
  .next (live s (
    let e := encOf s r
    let v := s.xport.servo
    if !e.revValid || v.fromEncoders || (e.count - e.revCount).natAbs < 8192 then s
    else
      let q := (openDiv ((v.lpos - e.revLpos).natAbs * 65536 * 10 ^ 18) (10000 * 2 * piE18)).toNat
      let other : Fin 2 := if r = 0 then 1 else 0
      s |> setObj (Obj.encRadius r) q |> setObj (Obj.encRadius other) (otherRadius q)
        |> modEnc r (fun e => { e with radiusMeasured := true, revCount := e.count, revLpos := v.lpos })))

/-- The encoder and the servo speed differ beyond the tolerance (R336). -/
def speedsDiffer (s : State) : Bool :=
  let e := objQ16 s Obj.tapeSpeedEncoder
  let v := objQ16 s Obj.tapeSpeedServo
  decide (objQ16 s Obj.speedCheckTolerance * v.natAbs * 100 + 2 * 65536 * 65536 < (e - v).natAbs * 65536 * 100)

/-- SPEED_MISMATCH (R336). -/
def execSpeedMismatch (s : State) : Host.Outcome State Fault Refusal :=
  .next (live s (
    if encodersHealthy s && servoSpeedValid s && !s.xport.useServo && speedsDiffer s then
      s |> modXport (fun x => { x with useServo := true }) |> bump Obj.speedMismatches
        |> postEvent 0x0705 unitTransport 0
    else s))

/-- SPEED_AGREEMENT (R336). -/
def execSpeedAgreement (s : State) : Host.Outcome State Fault Refusal :=
  .next (live s (
    if s.xport.useServo && !speedsDiffer s then modXport (fun x => { x with useServo := false }) s else s))

/-- The torque estimate of tension on the trailing reel (R337). -/
def torqueTension (s : State) : Int :=
  let r := trailing s
  openDiv (objQ16 s Obj.torqueConstant * (dqCurrents s r).2.natAbs) (max 1 (objQ16 s (Obj.encRadius r)))

/-- TENSION_ARM_MISMATCH (R337). -/
def execTensionArmMismatch (s : State) : Host.Outcome State Fault Refusal :=
  .next (live s (
    if s.xport.state == .moving && s.xport.speedRamp == s.xport.target
        && decide (objQ16 s Obj.tensionCheckTolerance < (torqueTension s - objQ16 s Obj.tension).natAbs) then
      s |> bump Obj.tensionMismatches |> postEvent 0x0706 unitTransport 0
    else s))

/-! ### Transport requests and events (R325, R326) -/

/-- The tension sample lies outside its fault window (R326). -/
def tensionOut (s : State) : Bool :=
  let t := tensionSample s
  decide (t < objQ16 s Obj.tensionFaultLow) || decide (objQ16 s Obj.tensionFaultHigh < t)

/-- The states in which tension is judged (R326). -/
def tensionJudged (s : State) : Bool :=
  s.cart.threaded && (match s.xport.state with
    | .stopped | .moving | .parked | .test | .draining => true
    | _ => false)

/-- TENSION_FAULT (R326). -/
def execTensionFault (s : State) : Host.Outcome State Fault Refusal :=
  .next (live s (
    if tensionJudged s && tensionOut s then s |> postEvent 0x0703 unitTransport 0 |> transportFault 0x20 else s))

/-- REELS_AT_REST (R325, R326, R366). -/
def execReelsAtRest (s : State) : Host.Outcome State Fault Refusal :=
  .next (live s (
    let s1 := modXport (fun x => { x with atRest := true }) s
    pollPower (if s.xport.state = .draining then enterXport s.xport.before s1 else finishStop s1)))

/-- The head is loaded: HEAD_LOADS, and its limit once (R281). -/
def countHeadLoad (s : State) : State :=
  let n := obj s Obj.headLoads + 1
  s |> bump Obj.headLoads |> (fun t => if n = 50000 then postEvent 0x0707 unitTransport 0 t else t)
    |> modXport (fun x => { x with headLoaded := true, servo := { x.servo with lowerValid := true, upperValid := true } })

/-- Seed both radii from the reel speeds of the last 100 ms of threading, in counts (R334). -/
def seedRadii (wCart wMach : Nat) (s : State) : State :=
  if wCart = 0 ∧ wMach = 0 then s
  else
    let total := radiusSum * 2 ^ 32
    let q := wCart * wCart + wMach * wMach
    s |> setObj (Obj.encRadius 0) (openSqrt (total * (wMach * wMach) / (10 ^ 6 * q)))
      |> setObj (Obj.encRadius 1) (openSqrt (total * (wCart * wCart) / (10 ^ 6 * q)))

/-- HEAD_LOADED: after threading or on leaving PARKED (R325, R334). -/
def execHeadLoaded (wCart wMach : Half) (s : State) : Host.Outcome State Fault Refusal :=
  .next (live s (
    match s.xport.state with
    | .threading =>
      if s.cart.threaded && s.cart.state != .unloading && !s.xport.headLoaded then
        s |> countHeadLoad |> seedRadii wCart.toNat wMach.toNat |> enterXport .stopped
      else s
    | .parked =>
      if powerToward s = 0 then
        s |> countHeadLoad |> enterXport .stopped
      else s
    | _ => s))

/-- HEAD_UNLOADED: the head is off the tape (R326, R366). -/
def execHeadUnloaded (s : State) : Host.Outcome State Fault Refusal :=
  .next (live s (finishStop (modXport (fun x => { x with
    headLoaded := false, servo := { x.servo with lowerValid := false, upperValid := false } }) s)))

/-- The cause of the fault is still present (R325, R338). -/
def causePresent (s : State) : Bool :=
  let cause := obj s Obj.faultCause
  match cause / 16 with
  | 1 => (loopOf s (Fin.ofNat 16 cause)).stale
  | 2 => s.cart.threaded && tensionOut s
  | 3 => ([0, 1] : List Reel).any (fun r => (encOf s r).fault
      && (encOf s r).doubles.any (fun t => decide (100 * nowUs s - t < 10000000)))
  | 4 => s.xport.headLoaded && !readerValid s
  | 7 => blockBusy s 0x0E
  | _ => false

/-- A transport STATE_REQUEST (R325). -/
def transportRequest (w : Writer) (action : Nat) (gen : Half) (legal : Bool) (f : State → State) (s : State) : State :=
  stateRequest w 0x3400 action gen.toNat 3 legal true f s

/-- FAULTED ends: slot faults, encoder faults and UNCERTAINTY clear (R325, R331, R338). -/
def clearFault (s : State) : State :=
  let s1 := (allSlots.filter (fun n => !s.power.slotFaults.contains n.val)).foldl
    (fun t n => t |> modLoop n (fun l => { l with fault := false }) |> showLoop n) s
  s1 |> modXport (fun x => { x with
        forceShort := false, enc := Vector.ofFn (fun r => { vget x.enc r with fault := false }) })
    |> setObj (Obj.encUncertainty 0) 0 |> setObj (Obj.encUncertainty 1) 0
    |> enterXport (if s.cart.threaded then .parked else .idle) |> pollPower

/-- CLEAR_FAULT (R325). -/
def reqClearFault (w : Writer) (gen : Half) (s : State) : State :=
  transportRequest w 1 gen
    (s.xport.state == .faulted && s.xport.atRest && !causePresent s) clearFault s

/-- CLEAR_FAULT (R325). The request arrives. -/
def execClearFault (w : Writer) (gen : Half) (s : State) : Host.Outcome State Fault Refusal :=
  .next (live s (arriveValue w 0x3400 3 (reqClearFault w gen) s))

/-- Cartridge states that keep the transport out of TEST (R325). -/
def cartBusy (c : CartState) : Bool :=
  match c with
  | .threading | .searching | .ready | .draining | .unloading | .formatting => true
  | _ => false

/-- ENTER_TEST (R325). -/
def reqEnterTest (w : Writer) (gen : Half) (s : State) : State :=
  transportRequest w 2 gen
    ((s.xport.state == .idle || s.xport.state == .stopped) && !cartBusy s.cart.state)
    (fun t => enterXport .test (modXport (fun x => { x with before := x.state }) t)) s

/-- ENTER_TEST (R325). The request arrives. -/
def execEnterTest (w : Writer) (gen : Half) (s : State) : Host.Outcome State Fault Refusal :=
  .next (live s (arriveValue w 0x3400 3 (reqEnterTest w gen) s))

/-- END_TEST (R325). -/
def reqEndTest (w : Writer) (gen : Half) (s : State) : State :=
  transportRequest w 3 gen (s.xport.state == .test) (enterXport .draining) s

/-- END_TEST: leaving TEST ends an injection (R323, R325). The request arrives. -/
def execEndTest (w : Writer) (gen : Half) (s : State) : Host.Outcome State Fault Refusal :=
  .next (live s (arriveValue w 0x3400 3 (reqEndTest w gen) s))

/-- CAPTURE_FULL: 4,096 samples are recorded (R324). -/
def execCaptureFull (s : State) : Host.Outcome State Fault Refusal :=
  .next (live s (
    if s.xport.capture.state = .running ∧ 4096 ≤ s.xport.capture.samples.length then
      showCapture (modXport (fun x => { x with capture := { x.capture with state := .full } }) s)
    else s))

/-! ### The PWM period (R312) -/

/-- A measurement of COMM_OFFSET goes on, and ends after 200 ms (R315). -/
def runAlign (s : State) : State :=
  if !aligning s then s
  else if s.xport.commLeft = 1 then
    let put (k : Nat) (r : Reel) (t : State) : State :=
      if imageGives s k then t else setObj k ((encOf s r).count % 8192).toNat t
    s |> put Obj.commOffsetCart 0 |> put Obj.commOffsetMach 1
      |> modXport (fun x => { x with commLeft := 0 })
  else modXport (fun x => { x with commLeft := x.commLeft - 1 }) s

/-- The slots that are due, in ascending order, and what follows from their outputs; a loop engine held in reset executes
none (R478). -/
def runSlots (s : State) : State :=
  if blockBusy s 0x0E then s else
  (allSlots.foldl (fun t n => runSlot n t) s) |> minSelect |> modulate

/-- MOVING ends where the ramp stands at a target of 0 (R325). -/
def settleMotion (s : State) : State :=
  let s1 := if s.xport.speedRamp ≠ 0 then modXport (fun x => { x with atRest := false }) s else s
  if s1.xport.state = .moving ∧ s1.xport.target = 0 ∧ s1.xport.speedRamp = 0 then
    enterXport .stopped (modXport (fun x => { x with
      atRest := true, servo := { x.servo with clockLocked := false, holdover := false, overrun := false } }) s1)
  else s1

/-- Refill of one bucket in one period: rate kB/s is rate/40 bytes; at most 2 ms of the rate (R168). -/
def refill (rate : Nat) (level : Int) : Int := min (level + rate) (80 * rate : Nat)

/-- The token buckets in one period, and the clamp to a lowered guarantee (R168). -/
def refillTokens (s : State) : State :=
  allDoms.foldl (fun t d => modDom d (fun x => { x with tokens :=
    { write := refill (obj s (Obj.effectiveWrite d)) x.tokens.write
      tapeRead := refill (obj s (Obj.effectiveTapeRead d)) x.tokens.tapeRead
      bufRead := refill (obj s (Obj.effectiveBufferRead d)) x.tokens.bufRead } }) t) s

/-- One PWM period. -/
def pwmPeriod (x : PeriodInputs) (s : State) : State :=
  s |> valley |> advanceLpos x.cycles.toNat |> latchEncoders |> takeServo x |> judgeSpeed
    |> takeSamples x |> meterPeriod |> setObjIntTension |> runRamps |> runSlots |> raiseLoopFaults |> runAlign
    |> runCapture |> showCapture |> settleMotion |> followCart |> startReads |> refillTokens |> pollPower
    |> (fun t => { t with periods := t.periods + 1 }) |> closeAtCutOff
where
  /-- TENSION and VHOLD show the samples of the period. -/
  setObjIntTension (s : State) : State :=
    s |> setObjInt Obj.tension (tensionSample s) |> setObjInt Obj.vhold (vbus s)

/-- PWM_PERIOD (R312). -/
def execPwmPeriod (x : PeriodInputs) (s : State) : Host.Outcome State Fault Refusal :=
  .next (live s (pwmPeriod x s))

end Sys2Proof.Machine
end

