-- ==== Sys2Proof/Machine/Limits.lean ====
section
/-!
DEFINITION. Limits over several objects: domain resources (R23, R344, R539), guarantee demands and budgets (R40-R43, R80,
R129), routing (R451), tension (R328) and PWM (R318).
-/
namespace Sys2Proof.Machine

/-! ### Domain resources (R23, R539) -/

/-- Sectors a cut quota holds raw (R539). -/
def quotaSectors (quota : Nat) : Nat := 832 * (quota * 393986 / 1024)

/-- Volume sectors of a domain, all four volumes. -/
def volumeTotal (s : State) (d : Dom) : Nat := volumeSize s d 0 + volumeSize s d 1 + volumeSize s d 2 + volumeSize s d 3

/-- Sum of an object over domains. -/
def sumOver (ds : List Dom) (f : Dom → Nat) : Nat := (ds.map f).sum

/-- The limits of R23 on RING_SHARE. -/
def shareWithin (s : State) (d : Dom) : Bool := 4 ≤ obj s (Obj.ringShare d) && obj s (Obj.ringShare d) ≤ 160

/-- RING_SHARE over domains (R23). -/
def sharesWithin (s : State) (ds : List Dom) : Bool := sumOver ds (fun d => obj s (Obj.ringShare d)) ≤ 160

/-- The limits of R23 on PAGE_FLOOR and PAGE_CEILING, against P as measured at DRAM initialisation (R190). -/
def floorWithin (s : State) (d : Dom) : Bool :=
  64 ≤ obj s (Obj.pageFloor d) && obj s (Obj.pageFloor d) ≤ obj s (Obj.pageCeiling d)

/-- PAGE_CEILING holds P (R23, R190). -/
def ceilingWithin (s : State) (d : Dom) : Bool :=
  obj s (Obj.pageFloor d) ≤ obj s (Obj.pageCeiling d) && obj s (Obj.pageCeiling d) ≤ s.dram.pool

/-- PAGE_FLOOR over domains (R23, R190). -/
def floorsWithin (s : State) (ds : List Dom) : Bool := sumOver ds (fun d => obj s (Obj.pageFloor d)) ≤ s.dram.pool

/-- The volumes a cut quota holds (R23, R539). -/
def volumesWithin (s : State) (d : Dom) : Bool :=
  volumeSize s d 1 + volumeSize s d 2 + volumeSize s d 3 ≤ quotaSectors (obj s (Obj.cutQuota d))

/-- The limits of R23 on CUT_QUOTA. -/
def quotaWithin (s : State) (d : Dom) : Bool :=
  1 ≤ obj s (Obj.cutQuota d) && obj s (Obj.cutQuota d) ≤ 1024 && volumesWithin s d

/-- CUT_QUOTA over domains (R23). -/
def quotasWithin (s : State) (ds : List Dom) : Bool := sumOver ds (fun d => obj s (Obj.cutQuota d)) ≤ 1024

/-- The limits of R23 on VOLUME_SIZE_0 and FIRST_STAGE_SIZE. -/
def bootWithin (s : State) (d : Dom) : Bool :=
  volumeSize s d 0 ≤ 16384 && obj s (Obj.firstStageSize d) ≤ 512 && obj s (Obj.firstStageSize d) ≤ volumeSize s d 0

/-- The sectors the volume index can name (R344). -/
def indexWithin (s : State) (ds : List Dom) : Bool := sumOver ds (volumeTotal s) ≤ 4194304

/-- At least one port is bound (R23). -/
def bindingWithin (s : State) (d : Dom) : Bool := fieldOf (obj s (Obj.linkBinding d)) 0 2 != 0

/-- The resource objects of one configured domain keep its own limits (R23). -/
def domainWithin (s : State) (d : Dom) : Bool :=
  shareWithin s d && floorWithin s d && ceilingWithin s d && quotaWithin s d && bootWithin s d && bindingWithin s d

/-- The limits across domains (R23, R344). -/
def sumsWithin (s : State) (ds : List Dom) : Bool :=
  sharesWithin s ds && floorsWithin s ds && quotasWithin s ds && indexWithin s ds

/-- The resources of a set of configured domains keep every limit. -/
def resourcesWithin (s : State) (ds : List Dom) : Bool := ds.all (domainWithin s) && sumsWithin s ds

/-- The limits of R23 that a resource object of domain `d` takes part in, by index and subindex; a write of another object
breaks none (log entry 137). -/
def ownLimits (s : State) (ds : List Dom) (d : Dom) (i sub : Nat) : Bool :=
  match canonIndex i, sub with
  | 0x4001, 2 => shareWithin s d && sharesWithin s ds
  | 0x4001, 3 => floorWithin s d && floorsWithin s ds
  | 0x4001, 4 => ceilingWithin s d
  | 0x4001, 5 => quotaWithin s d && quotasWithin s ds
  | 0x4003, 2 | 0x4003, 6 => bootWithin s d && indexWithin s ds
  | 0x4003, 3 | 0x4003, 4 | 0x4003, 5 => volumesWithin s d && indexWithin s ds
  | _, _ => true

/-- Configured domains. -/
def confDoms (s : State) : List Dom := allDoms.filter (configured s)

/-- Configured domains with one more. -/
def confWith (s : State) (d : Dom) : List Dom := allDoms.filter (fun e => configured s e || e == d)

/-! ### Guarantees (R40-R43) -/

/-- Guarantees of a domain: write, tape read, buffer read. -/
def guarantees (s : State) (d : Dom) : Nat × Nat × Nat :=
  (obj s (Obj.writeGuarantee d), obj s (Obj.tapeReadGuarantee d), obj s (Obj.bufferReadGuarantee d))

/-- demand_dram of R40. -/
def demandDram (s : State) (ds : List Dom) : Nat :=
  sumOver ds (fun d => let g := guarantees s d; 4 * (g.1 + g.2.1) + 2 * g.2.2)
/-- demand_tape of R40. -/
def demandTape (s : State) (ds : List Dom) : Nat := sumOver ds (fun d => let g := guarantees s d; g.1 + g.2.1)
/-- demand_link of R40. -/
def demandLink (s : State) (ds : List Dom) (p : PortId) : Nat :=
  sumOver (ds.filter (fun d => bound s d p)) (fun d => let g := guarantees s d; g.1 + g.2.1 + g.2.2)

/-- 90 % of a port's payload rate at a width and LANE_RATE, reduced by SPREAD_DECLARED (R80, R129). -/
def linkBudget (s : State) (width rate : Nat) : Nat :=
  (openDiv (1012500 / 2 ^ rate * width * (1000 - obj s Obj.spreadDeclared) : Nat) 1000).toNat

/-- Nominal budgets in the order DRAM, tape, port A, port B (R41). -/
def nominalBudgets (s : State) : List Nat :=
  [7680000, 90000, linkBudget s (obj s (Obj.configuredWidth .a)) (obj s (Obj.laneRate .a)),
   linkBudget s (obj s (Obj.configuredWidth .b)) (obj s (Obj.laneRate .b))]

/-- Demands in that order. -/
def demands (s : State) (ds : List Dom) : List Nat :=
  [demandDram s ds, demandTape s ds, demandLink s ds .a, demandLink s ds .b]

/-- Every demand holds its nominal budget (R33). -/
def demandsWithin (s : State) (ds : List Dom) : Bool :=
  ((demands s ds).zip (nominalBudgets s)).all (fun x => x.1 ≤ x.2)

/-- A change raises no demand above its nominal budget (R41). -/
def raisesWithin (old new : State) : Bool :=
  ((demands old (confDoms old)).zip ((demands new (confDoms new)).zip (nominalBudgets new))).all
    (fun x => decide (x.2.1 ≤ x.1) || decide (x.2.1 ≤ x.2.2))

/-- 90 % of the native rate at a speed step (R42, R260). -/
def tapeBudget (step : Nat) : Nat := stepBudget step * 9 / 10

/-- The current budget of a port (R42). -/
def portBudget (s : State) (p : PortId) : Nat :=
  let q := portOf s p
  if portTrained s p then linkBudget s q.curWidth q.rate else 0

/-- Current budgets with their demands, in the order of LIMITING_BUDGET; an untrained port is left out (R42). -/
def currentBudgets (s : State) : List (Nat × Nat × Nat) :=
  let ds := confDoms s
  [(1, if objBool s Obj.refreshDoubled then 7296000 else 7680000, demandDram s ds), (2, tapeBudget (capStep s), demandTape s ds)]
    ++ (allPorts.filter (portTrained s)).map (fun p => (3 + p.fin.val, portBudget s p, demandLink s ds p))

/-- The lowest value of R42's formula and the budget that gives it first. -/
def scaleOf : List (Nat × Nat × Nat) → Nat × Nat
  | [] => (1024, 0)
  | (n, b, dem) :: rest =>
    let r := scaleOf rest
    if dem = 0 then r
    else
      let x := min 1024 (1024 * b / dem)
      if x < 1024 ∧ x ≤ r.1 then (x, n) else r

/-- Recompute scale, limiting budget, budgets and effective guarantees (R42). -/
def recompute (s : State) : State :=
  let r := scaleOf (currentBudgets s)
  let oldScale := obj s Obj.guaranteeScale
  let oldLimit := obj s Obj.limitingBudget
  let s1 := s |> setObj Obj.guaranteeScale r.1 |> setObj Obj.limitingBudget r.2
    |> setObj Obj.budgetDram (if objBool s Obj.refreshDoubled then 7296000 else 7680000)
    |> setObj Obj.budgetTape (tapeBudget (capStep s))
    |> setObj Obj.budgetLinkA (portBudget s .a) |> setObj Obj.budgetLinkB (portBudget s .b)
  let s2 := allDoms.foldl (fun t d =>
    let g := guarantees t d
    t |> setObj (Obj.effectiveWrite d) (g.1 * r.1 / 1024) |> setObj (Obj.effectiveTapeRead d) (g.2.1 * r.1 / 1024)
      |> setObj (Obj.effectiveBufferRead d) (g.2.2 * r.1 / 1024)) s1
  if r.1 < 1024 ∧ (r.1 ≠ oldScale ∨ r.2 ≠ oldLimit) then postEvent 0x0106 unitDevice (r.1 + 4096 * r.2) s2
  else if r.1 = 1024 ∧ oldScale < 1024 then postEvent 0x0107 unitDevice 0 s2
  else s2

/-- GUARANTEE_RECOMPUTE (R42). -/
def execGuaranteeRecompute (s : State) : Host.Outcome State Fault Refusal := .next (live s (recompute s))

/-! ### Routing (R451) -/

/-- No input signal is selected twice; the encoder lines and gate enables are routed; Kiln's signals stand on Kiln's pins
alone and nothing else does. -/
def routingWithin (s : State) : Bool :=
  let count (f : Nat) : Nat := (allPins.filter (fun q => pinFunction s q == f)).length
  ((List.range 0x40).filter isInputSignal).all (fun f => count f ≤ 1)
    && ([0, 1, 2, 3, 0x0C, 0x0D] : List Nat).all (fun f => 1 ≤ count f)
    && allPins.all (fun q =>
      let f := pinFunction s q
      let kilnSig : Bool := f == 0x28 || f == 0x29 || f == 0x2A
      if pinOwner s q = 9 then kilnSig || f == 0x7E else !kilnSig)

/-! ### Tension and PWM (R318, R328) -/

/-- The chain of tension limits. -/
def tensionWithin (s : State) : Bool :=
  decide (objQ16 s Obj.tensionFaultLow < objQ16 s Obj.parkTension)
    && decide (objQ16 s Obj.parkTension ≤ objQ16 s Obj.tensionSetpoint)
    && decide (objQ16 s Obj.tensionSetpoint < objQ16 s Obj.tensionMax)
    && decide (objQ16 s Obj.tensionMax < objQ16 s Obj.tensionFaultHigh)
    && decide (objQ16 s Obj.tensionFaultHigh ≤ 196608)

/-- MIN_PULSE stands above DEAD_TIME. -/
def pwmWithin (s : State) : Bool := obj s Obj.deadTime < obj s Obj.minPulse

end Sys2Proof.Machine
end

