-- ==== Sys2Proof/Machine/Buffers.lean ====
section
/-!
DEFINITION. The buffer memory: MR4, the page allocator, uncorrectable and corrected lines, and the arbiter (R186-R207).
-/
namespace Sys2Proof.Machine

/-- Change the buffer memory's state. -/
def modDram (f : Dram → Dram) (s : State) : State := { s with dram := f s.dram }

/-! ### Refresh (R191) -/

/-- MR4_READ: each fitted rank's case temperature is above 85 °C (`hot`) or at most 80 °C (`cool`), or between (R191). -/
def execMr4Read (hot cool : Vector Bool 2) (s : State) : Host.Outcome State Fault Refusal :=
  .next (live s (
    let ranks : List (Fin 2) := if obj s Obj.dramRanks = 2 then [0, 1] else [0]
    if ranks.any (fun r => vget hot r) then setObj Obj.refreshDoubled 1 s
    else if ranks.all (fun r => vget cool r) then setObj Obj.refreshDoubled 0 s
    else s))

/-! ### Pages (R192-R194) -/

/-- Block numbers whose requester a recovery masks, by rank (R200, R478). -/
def rankOfBlock (b : Nat) : Option Nat :=
  match b with
  | 0x01 => some 0 | 0x02 => some 1 | 0x03 => some 2 | 0x04 => some 3 | 0x05 => some 4 | 0x06 | 0x07 => some 5
  | 0x08 => some 6 | 0x09 => some 7 | 0x0A => some 8 | 0x0B => some 9 | 0x0C => some 11
  | _ => none

/-- Rank that a block asks with: the CP and the blocks without a requester of their own ask with rank 10 (R200). -/
def blockRank (b : Nat) : Nat := (rankOfBlock b).getD 10

/-- Number of a use of the device reserve, in the table's order (R190). -/
def ReserveUse.no : Sys2Proof.ReserveUse → Fin 6
  | .tables => 0 | .capture => 1 | .ecc => 2 | .cp => 3 | .spares => 4 | .kilnBridge => 5

/-- Pages of the device reserve for each use (R190). -/
def reservePages : Vector Nat 6 := #v[512, 256, 112, 64, 64, 16]

/-- Pages a holder has. -/
def heldPages (s : State) : PageHolder → Nat
  | .domain d => pagesHeld s d
  | .service => s.dram.servicePages
  | .device u => vget s.dram.reserve (ReserveUse.no u)

/-- Pages a holder was granted by PAGE_REQUESTs; a domain's paged content comes on top (log entry 62). -/
def grantedPages (s : State) : PageHolder → Nat
  | .domain d => (domOf s d).pages
  | h => heldPages s h

/-- Change the pages granted to a holder. -/
def setPages (h : PageHolder) (n : Nat) (s : State) : State :=
  match h with
  | .domain d => modDom d (fun x => { x with pages := n }) s
  | .service => modDram (fun m => { m with servicePages := n }) s
  | .device u => modDram (fun m => { m with reserve := vset m.reserve (ReserveUse.no u) n }) s

/-- One page more for a holder, obtained by a block (R477). -/
def grantPage (h : PageHolder) (block : Nat) (s : State) : State :=
  s |> setPages h (grantedPages s h + 1) |> modDram (fun m => { m with taken := m.taken ++ [(block, h)] })

/-- Floor of a holder; the dailies and the self-test have none (R194). -/
def pageFloorOf (s : State) : PageHolder → Nat
  | .domain d => obj s (Obj.pageFloor d)
  | _ => 0

/-- The holder stands at its ceiling; the dailies and the self-test have none (R194). -/
def atCeiling (s : State) : PageHolder → Bool
  | .domain d => obj s (Obj.pageCeiling d) ≤ pagesHeld s d
  | _ => false

/-- Insert a waiter behind those that came before; requests of one cycle come in rank order (R193). -/
def joinCommon (w : PageWait) (s : State) : State := modDram (fun m => { m with commonWait := m.commonWait ++ [w] }) s

/-- Join a ceiling wait list (R192). -/
def joinCeiling (w : PageWait) (s : State) : State := modDram (fun m => { m with ceilingWait := m.ceilingWait ++ [w] }) s

/-- Count a request that joined a wait list (R207). -/
def countWait (h : PageHolder) (s : State) : State :=
  match h with
  | .domain d => countWaitOf d s
  | _ => s

/-- A request of a device unit: from its part of the device reserve, and never from the pool; with that part in use nothing is
granted and nothing waits (R190, R194; DESIGN CHOICE, log entry 153). -/
def requestReserve (u : ReserveUse) (block : Nat) (s : State) : State :=
  if heldPages s (.device u) < vget reservePages (ReserveUse.no u) && u != .spares then grantPage (.device u) block s else s

/-- Serve one request for one page (R192, R194). -/
def requestPage (w : PageWait) (s : State) : State :=
  match w.holder with
  | .device u => requestReserve u w.block s
  | h =>
    if heldPages s h < pageFloorOf s h then grantPage h w.block s
    else if atCeiling s h then s |> joinCeiling w |> countWait h
    else if 0 < commonFree s then grantPage h w.block s
    else s |> joinCommon w |> countWait h

/-- PAGE_REQUEST: the requests that meet the allocator in one CORE cycle, each with its block, served in rank order (R192, R193,
R477). -/
def execPageRequest (reqs : List (PageHolder × BitVec 4)) (s : State) : Host.Outcome State Fault Refusal :=
  .next (live s ((sortBy (fun r => blockRank r.2.toNat) reqs).foldl (fun t r => requestPage ⟨r.1, r.2.toNat, false⟩ t) s))

/-- A waiter gets its page: the pager goes on with its domain's share, another is granted one page. -/
def serveWaiter (w : PageWait) (s : State) : State :=
  match w.pager, w.holder with
  | true, .domain d => runPager d s
  | _, h => grantPage h w.block s

/-- Pages of the common pool go to the head of the common list; a head whose domain has reached its ceiling moves to that
domain's list (R193). -/
def serveCommon : Nat → State → State
  | 0, s => s
  | fuel + 1, s =>
    match s.dram.commonWait with
    | [] => s
    | w :: rest =>
      if commonFree s = 0 then s
      else
        let s1 := modDram (fun m => { m with commonWait := rest }) s
        serveCommon fuel (if atCeiling s w.holder then joinCeiling w s1 else serveWaiter w s1)

/-- A domain that falls below its ceiling serves its own waiter: at once, or, with no page free, behind the others of the common
list, where it is not counted again (R192, R193, R207). -/
def serveCeiling (h : PageHolder) (s : State) : State :=
  match s.dram.ceilingWait.find? (fun w => w.holder == h) with
  | some w =>
    if atCeiling s h then s
    else
      let s1 := modDram (fun m => { m with ceilingWait := m.ceilingWait.eraseP (fun w => w.holder == h) }) s
      if heldPages s h < pageFloorOf s h || 0 < commonFree s then serveWaiter w s1 else joinCommon w s1
  | none => s

/-- Pages have come free: the ceiling lists and the common list are served (R192, R193). -/
def servePages (s : State) : State :=
  let s1 := allDoms.foldl (fun t d => serveCeiling (.domain d) t) s
  serveCommon (s1.dram.commonWait.length + 1) s1

/-- Take one granted page of a block from its account (R477). -/
def dropPage (h : PageHolder) (block : Nat) (s : State) : State :=
  s |> setPages h (grantedPages s h - 1) |> modDram (fun m => { m with taken := m.taken.erase (block, h) })

/-! ### Retirement (R189) -/

/-- Withdraw a marked page from service: the first 64 are replaced from the spares; a later one lowers the pool, unless the floors
need it, in which case the page stays in service and stays marked (R189, R190). -/
def retirePage (page : Nat) (s : State) : State :=
  let pool := obj s Obj.domainPagePool
  let s1 := s |> bump Obj.retiredPages |> modDram (fun m => { m with marked := m.marked.filter (fun e => e.1 != page) })
  if obj s Obj.retiredPages < 64 then grantPage (.device .spares) 0 s1
  else if pool ≤ sumOver (confDoms s) (fun d => obj s (Obj.pageFloor d)) then s
  else
    s1 |> setObj Obj.domainPagePool (pool - 1) |> modDram (fun m => { m with sparesReported := true })
      |> (fun t => if s.dram.sparesReported then t else postEvent 0x0303 unitDevice 0 t)

/-- A page that its holder lets go is retired where it is marked (R189). -/
def retireIfMarked (page : Nat) (s : State) : State :=
  if s.dram.marked.any (fun e => e.1 == page) then retirePage page s else s

/-- The marked pages of a holder that lets go of all its pages are retired (R189). -/
def retireOf (h : PageHolder) (s : State) : State :=
  ((s.dram.marked.filter (fun e => e.2 == h)).map (·.1)).foldl (fun t p => retirePage p t) s

/-- Release one page that a block holds for an account: it returns to the floor reserve or the common pool, or, marked, is retired
(R189, R192, R193). -/
def releasePage (h : PageHolder) (block page : Nat) (s : State) : State :=
  s |> dropPage h block |> retireIfMarked page |> servePages

/-- PAGE_RELEASE of a page that a block has obtained; one that it does not hold changes nothing (R189, R192, R193, R477). -/
def execPageRelease (h : PageHolder) (block : BitVec 4) (page : Half) (s : State) : Host.Outcome State Fault Refusal :=
  .next (live s (if s.dram.taken.contains (block.toNat, h) then releasePage h block.toNat page.toNat s else s))

/-! ### Lines that read wrong (R188, R189) -/

/-- The 64 KiB page of a line. -/
def pageOfLine (line : Nat) : Nat := line / 1024

/-- Mark a page for retirement, with its holder (R189). -/
def markPage (page : Nat) (h : PageHolder) (s : State) : State :=
  modDram (fun m => { m with marked := m.marked ++ [(page, h)] }) s

/-- Corrected lines of a page; a marked page has at least 16. -/
def pageCount (s : State) (page : Nat) : Nat := ((s.dram.pageErrors.find? (fun e => e.1 == page)).map (·.2)).getD 0

/-- Bring the count of a page to `n`; a page that reaches 16 is marked, once (R189). -/
def countPage (page n : Nat) (h : PageHolder) (s : State) : State :=
  let s1 := modDram (fun m => { m with pageErrors := m.pageErrors.filter (fun e => e.1 != page) ++ [(page, n)] }) s
  if pageCount s page < 16 ∧ 16 ≤ n then markPage page h s1 else s1

/-- A corrected line: counted, queued for rewriting; the sixteenth of a page marks it (R188, R189). -/
def correctedLine (line : Nat) (h : PageHolder) (s : State) : State :=
  s |> bump Obj.eccCorrected
    |> modDram (fun m => { m with rewrites := if m.rewrites.contains line then m.rewrites else m.rewrites ++ [line] })
    |> countPage (pageOfLine line) (pageCount s (pageOfLine line) + 1) h

/-- An uncorrectable line: counted, recorded, reported and its page marked (R188, R189). -/
def uncorrectableLine (line : Nat) (h : PageHolder) (s : State) : State :=
  s |> bump Obj.eccUncorrectable |> setObj Obj.eccLastLine line
    |> countPage (pageOfLine line) (max 16 (pageCount s (pageOfLine line))) h |> postEvent 0x0302 unitDevice line

/-- Two or more wrong bits in one half, or the line of another address, cannot be corrected (R187, R188). -/
def EccHit.uncorrectable (h : Sys2Proof.EccHit) : Bool := h.misplaced || decide (2 ≤ h.low.toNat) || decide (2 ≤ h.high.toNat)

/-- One wrong bit in a half or in both is corrected (R188). -/
def EccHit.corrected (h : Sys2Proof.EccHit) : Bool := !EccHit.uncorrectable h && (h.low != 0 || h.high != 0)

/-! ### The check area (R187) -/

/-- Bytes of one rank. -/
def rankBytes (s : State) : Nat := obj s Obj.dramSizeMib * 1048576 / max 1 (obj s Obj.dramRanks)

/-- Byte address of the check word of a data line: in the upper 1/16 of its own rank, 4 bytes for each line of the rank (R187;
DEDUCED for two ranks, log entry 154). -/
def checkAddress (s : State) (line : Nat) : Nat :=
  let n := rankBytes s
  let rank := 64 * line / n
  rank * n + n / 16 * 15 + 4 * (line - rank * n / 64)

/-- A check word: bits 31:20 zero, CHECK_HIGH over bytes 32-63 and CHECK_LOW over bytes 0-31, each with the line index (R187). -/
def checkWord (line : Nat) (bytes : List Byte) : Word :=
  (0 : BitVec 12) ++ Config.secDed line (bytes.drop 32) ++ Config.secDed line (bytes.take 32)

/-- The check line of an aligned 1 KiB block after a write of some of its 16 data lines, from `first` on: a masked write of their
check words alone (R187). -/
def maskedCheck (old : Vector Word 16) (block first : Nat) (lines : List (List Byte)) : Vector Word 16 :=
  Vector.ofFn (fun i =>
    if first ≤ i.val then ((lines[i.val - first]?).map (checkWord (16 * block + i.val))).getD (vget old i) else vget old i)

/-! ### The arbiter (R200-R205) -/

/-- ARBITER_MAX_WAIT of a rank. -/
def noteWait (rank ns : Nat) (s : State) : State :=
  if obj s (Obj.arbiterMaxWait rank) < ns then setObj (Obj.arbiterMaxWait rank) (min ns 0xFFFFFFFF) s else s

/-- Ranks whose requesters are powered down: the formatter and the read channel in P1, and in P2 all that R436 stops (R204; DEDUCED,
log entry 152). -/
def poweredDown (s : State) : List Nat :=
  match powerNow s with
  | 0 => []
  | 1 => [0, 1]
  | _ => [0, 1, 2, 3, 4, 5, 6, 7, 11]

/-- Ranks that the arbiter ignores (R204). -/
def maskedRanks (s : State) : List Nat := s.dram.masked ++ poweredDown s

/-- The transfer of the highest rank that asks and is not masked. -/
def asking (masked : List Nat) (m : Dram) : Option Transfer :=
  (m.requests.filter (fun t => !masked.contains t.rank)).foldl (fun best t =>
    match best with
    | none => some t
    | some b => if t.rank < b.rank then some t else some b) none

/-- Give the grant to the highest rank that asks; with none it parks on the last owner (R201). -/
def arbitrate (masked : List Nat) (m : Dram) : Dram :=
  match asking masked m with
  | none => { m with current := none, parked := true }
  | some t => { m with owner := t.rank, current := some t, parked := false, requests := m.requests.filter (fun x => x.rank != t.rank)
                       starving := m.starving.filter (· != t.rank) }

/-- The next owner, with the present masks. -/
def reArbitrate (s : State) : State := modDram (arbitrate (maskedRanks s)) s

/-- The owner's transfer ends: what rank 11 has rewritten waits no longer, and the next owner follows (R188, R201). -/
def endTransfer (s : State) : State :=
  match s.dram.current with
  | none => s
  | some t => reArbitrate (modDram (fun m => { m with
      rewrites := if t.rank = 11 then m.rewrites.filter (fun l => !(t.line ≤ l && decide (l < t.line + t.lines))) else m.rewrites }) s)

/-- Every waiting transfer has its turn, until the grant parks. -/
def drainRequests : Nat → State → State
  | 0, s => s
  | n + 1, s => drainRequests n (endTransfer s)

/-- A request joins those that wait; a higher rank than the owner's revokes the grant, whose loser keeps asking (R202). -/
def askGrant (t : Transfer) (s : State) : State :=
  let s1 := modDram (fun m => { m with requests := m.requests.filter (fun x => x.rank != t.rank) ++ [t] }) s
  match s.dram.current with
  | none => reArbitrate s1
  | some c =>
    if t.rank < c.rank then reArbitrate (modDram (fun m => { m with requests := m.requests ++ [c], restarts := m.restarts + 1 }) s1)
    else s1

/-- ARBITER_REQUEST: a requester of a rank asserts its request for `lines` lines from `line` on, having waited `wait` ns since it
did; `ended` says that the owner's transfer is over by then, `drained` that every transfer has ended before the next request
comes (R201, R202, R205; log entry 41). -/
def execArbiterRequest (rank : BitVec 4) (wait : Word) (line : BitVec 26) (lines : BitVec 5) (ended drained : Bool) (s : State) :
    Host.Outcome State Fault Refusal :=
  .next (live s (
    let r := rank.toNat
    let s := if ended then endTransfer s else s
    let s1 := if 12 ≤ r || (maskedRanks s).contains r || s.dram.current.any (fun t => t.rank == r) then s
      else s |> askGrant ⟨r, line.toNat, lines.toNat⟩ |> noteWait r wait.toNat
    if drained then drainRequests (s1.dram.requests.length + 1) s1 else s1))

/-- The owner loses the grant before its transfer has ended: one dead cycle, and the transfer is not restarted (R203, R204). -/
def endGrant (s : State) : State :=
  reArbitrate (modDram (fun m => { m with current := none, deadCycles := m.deadCycles + 1 }) s)

/-- An owner that is masked loses the grant (R204). -/
def endMasked (s : State) : State :=
  if s.dram.current.any (fun t => (maskedRanks s).contains t.rank) then endGrant s else s

/-- ARBITER_WITHDRAW: a requester withdraws its request; one that owns the grant costs a dead cycle (R203). -/
def execArbiterWithdraw (rank : BitVec 4) (s : State) : Host.Outcome State Fault Refusal :=
  .next (live s (
    let r := rank.toNat
    if s.dram.current.any (fun t => t.rank == r) then endGrant s
    else modDram (fun m => { m with requests := m.requests.filter (fun x => x.rank != r)
                                    starving := m.starving.filter (· != r) }) s))

/-- ARBITER_STARVATION: a request of rank 8 to 11 has waited beyond STARVATION_REPORT_US, `wait` ns by now; once per episode
(R205). -/
def execArbiterStarvation (rank : BitVec 4) (wait : Word) (s : State) : Host.Outcome State Fault Refusal :=
  .next (live s (
    let r := rank.toNat
    if 8 ≤ r ∧ r ≤ 11 ∧ s.dram.requests.any (fun x => x.rank == r) ∧ !s.dram.starving.contains r
        ∧ 1000 * obj s Obj.starvationReportUs < wait.toNat then
      s |> modDram (fun m => { m with starving := m.starving ++ [r] }) |> noteWait r wait.toNat
        |> postEvent 0x0304 unitDevice r
    else s))

end Sys2Proof.Machine
end

