-- ==== Sys2Proof/Machine/PinOps.lean ====
section
/-!
DEFINITION. The crossbar's pins and event lines (R449-R465).
-/
namespace Sys2Proof.Machine

/-- The key of the object that holds an owner's level bits; none for Kiln (R455, R456). -/
def ownerKey (owner : Nat) : Option Nat :=
  if owner = 0 then some Obj.devicePinOut
  else if owner ≤ 8 then some (Obj.pinOut (Fin.ofNat 8 (owner - 1)))
  else none

/-- Set an owner's bit for a pin. -/
def setOwnerBit (owner q : Nat) (b : Bool) (s : State) : State :=
  match ownerKey owner with
  | none => s
  | some k =>
    let v := obj s k
    setObj k (if bitOf v q = b then v else if b then v + 2 ^ q else v - 2 ^ q) s

/-- A PIN_CONFIG write takes effect: at a change of owner the new owner's bit takes the level the pin had, the old one's
reads 0 (R453, R457). -/
def applyPinConfig (q v : Nat) (s : State) : State :=
  let old := pinOwner s q
  let new := fieldOf v 20 4
  let level := pinValue s q
  let s1 := setObj (Obj.pinConfig (q / 8) (q % 8)) v s
  if old = new then s1 else s1 |> setOwnerBit old q false |> setOwnerBit new q level

/-- Pins whose RESET_LEVEL is high among those a test selects, the rest of them low (R457). -/
def resetPins (sel : Nat → Bool) (s : State) : State :=
  (allPins.filter sel).foldl (fun t q => setOwnerBit (pinOwner t q) q (bitOf (pinCfg t q) 11) t) s

/-- At release every PIN_CONFIG is applied and each owner's bits take the RESET_LEVEL of its pins (R457, R463). -/
def releasePins (s : State) : State :=
  resetPins (fun _ => true) { s with pins := { s.pins with applied := true } }

/-! ### Event lines (R458-R461) -/

/-- An event line. -/
def lineOf (s : State) (n : Fin 8) : EventLine := vget s.pins.lines n
/-- Change an event line. -/
def modLine (n : Fin 8) (f : EventLine → EventLine) (s : State) : State :=
  { s with pins := { s.pins with lines := vset s.pins.lines n (f (lineOf s n)) } }

/-- The pin a line watches. -/
def linePin (s : State) (n : Fin 8) : Nat := 8 * linePort s n.val + n.val

/-- The event of line `n` in a message. -/
def isLineEvent (n : Fin 8) (m : TxMsg) : Bool :=
  match m with
  | .evt _ e => e.code == 0x0C01 && e.detail % 8 == n.val
  | _ => false

/-- Unit number of a pin's owner. -/
def ownerUnit (owner : Nat) : Nat := if 1 ≤ owner ∧ owner ≤ 8 then owner - 1 else unitDevice

/-- Replace the waiting events of a line in a port's queue. -/
def replaceLineEvent (n : Fin 8) (e : EventRec) (p : PortId) (s : State) : State :=
  modPort p (fun q => { q with txWait := q.txWait.map (fun m => if isLineEvent n m then
    (match m with
      | .evt d _ => .evt d e
      | m => m) else m) }) s

/-- Count one more in a half of EVENT_COUNTS, saturating (R465). -/
def bumpCount (n : Fin 8) (high : Bool) (s : State) : State :=
  let v := obj s (Obj.eventCounts n.val)
  let hi := v / 65536
  let lo := v % 65536
  setObj (Obj.eventCounts n.val)
    (if high then 65536 * min (hi + 1) 0xFFFF + lo else 65536 * hi + min (lo + 1) 0xFFFF) s

/-- An event waits for credit on some port (R460). -/
def linePending (s : State) (n : Fin 8) : Bool := allPorts.any (fun p => (portOf s p).txWait.any (isLineEvent n))

/-- Report an accepted change: a waiting event of the line takes the newest level instead of a second one (R459, R460). -/
def reportLine (n : Fin 8) (level : Bool) (s : State) : State :=
  let port := linePort s n.val
  let unit := ownerUnit (pinOwner s (linePin s n))
  let detail := n.val + 16 * port + 256 * b2n level
  if linePending s n then
    let e : EventRec := ⟨0x0C01, unit, 0, detail, nowUs s⟩
    allPorts.foldl (fun t p => replaceLineEvent n e p t) (bumpCount n false s)
  else postEvent 0x0C01 unit detail s

/-- A level is accepted (R458, R459). -/
def acceptLevel (n : Fin 8) (s : State) : State :=
  let l := lineOf s n
  let level := l.filtered
  if level = l.accepted then modLine n (fun l => { l with counting := false }) s
  else
    let s1 := s |> modLine n (fun l => { l with accepted := level, counting := false }) |> bumpCount n true
    let edge := fieldOf (obj s (Obj.eventConfig n.val)) 27 2
    if (level && bitOf edge 0) || (!level && bitOf edge 1) then reportLine n level s1 else s1

/-- No event of a line waits any more. -/
def dropLineEvents (n : Fin 8) (s : State) : State :=
  allPorts.foldl (fun t p => modPort p (fun q => { q with txWait := q.txWait.filter (fun m => !isLineEvent n m) }) t) s

/-- The event of a line in a message. -/
def lineEvent (n : Fin 8) (m : TxMsg) : Option EventRec :=
  match m with
  | .evt _ e => if isLineEvent n m then some e else none
  | _ => none

/-- The event of a line that waits. -/
def pendingEvent (s : State) (n : Fin 8) : Option EventRec :=
  (allPorts.flatMap (fun p => (portOf s p).txWait.filterMap (lineEvent n))).head?

/-- A waiting event of a line goes to the owner that its pin has now (R461). -/
def retargetLine (n : Fin 8) (s : State) : State :=
  let unit := ownerUnit (pinOwner s (linePin s n))
  match pendingEvent s n with
  | none => s
  | some e =>
    if e.unit = unit then s
    else
      let s1 := dropLineEvents n s
      (eventPorts s1 unit).foldl (fun t p => offerEvent (eventDom s1 unit) { e with unit := unit } p t) s1

/-- Restart both filters of a line from the present level and discard its waiting event (R461). -/
def restartLine (n : Fin 8) (s : State) : State :=
  let level := linePort s n.val < 5 && pinValue s (linePin s n)
  dropLineEvents n (modLine n (fun _ => ⟨level, false, level⟩) s)

/-- The lines that see a pin's level change pass it through their glitch filter and start to count (R458). -/
def filterLine (n : Fin 8) (s : State) : State :=
  let l := lineOf s n
  if linePort s n.val < 5 then
    let level := pinValue s (linePin s n)
    if level = l.filtered then s
    else
      let s1 := modLine n (fun l => { l with filtered := level, counting := true }) s
      if fieldOf (obj s (Obj.eventConfig n.val)) 0 16 = 0 then acceptLevel n s1 else s1
  else s

/-- Every event line looks at its pin again. -/
def filterLines (s : State) : State := (List.finRange 8).foldl (fun t n => filterLine n t) s

/-- A domain reset sets its GPIO outputs to their RESET_LEVEL (R457). -/
def resetDomainPins (d : Dom) (s : State) : State :=
  filterLines (resetPins (fun q => pinOwner s q == d.val + 1 && pinFunction s q == 0x7F && bitOf (pinCfg s q) 10) s)

/-- PIN_LEVEL_CHANGE: the level brought to pin `pin` of port `port` from outside changes, for long enough to pass the
glitch filter of a line that watches it; a DEBOUNCE_US of 0 accepts it at once (R458). -/
def execPinLevelChange (port : Fin 5) (pin : Fin 8) (level : Bool) (s : State) : Host.Outcome State Fault Refusal :=
  let q := 8 * port.val + pin.val
  let e := s.pins.external
  let e' := if bitOf e q = level then e else if level then e + 2 ^ q else e - 2 ^ q
  let s1 := { s with pins := { s.pins with external := e' } }
  .next (if released s ∧ linePort s pin.val = port.val then filterLine pin s1 else s1)

/-- EVENT_ACCEPTED: the debounce of a line has run out (R458, R459). -/
def execEventAccepted (line : Fin 8) (s : State) : Host.Outcome State Fault Refusal :=
  .next (live s (if linePort s line.val < 5 ∧ (lineOf s line).counting then acceptLevel line s else s))

end Sys2Proof.Machine
end

