-- ==== Sys2Proof/Machine/Domains.lean ====
section
/-!
DEFINITION. The domain state machine (R31-R35, R168, R199).
-/
namespace Sys2Proof.Machine

/-- A domain STATE_REQUEST (R33). -/
def domainRequest (d : Dom) (w : Writer) (action : Nat) (gen : Half) (legal within : Bool) (f : State → State) (s : State) :
    State :=
  stateRequest w (domIndex d) action gen.toNat 5 legal within f s

/-- The domain is in one of these states. -/
def inStates (s : State) (d : Dom) (l : List DomState) : Bool := l.contains (domOf s d).state

/-- The units of the domains joined by UNCONFIGURED ones start empty (R196). -/
def enterConfigured (d : Dom) (s : State) : State :=
  s |> modDom d (fun x => { x with requestedVote := deepest s d, idle := false, nextLine := 0 }) |> enterDom d .offline |> fitUnits d

/-- CONFIGURE (R31, R33). -/
def reqConfigure (d : Dom) (w : Writer) (gen : Half) (s : State) : State :=
  domainRequest d w 1 gen (inStates s d [.unconfigured])
    (resourcesWithin s (confWith s d) && demandsWithin s (confWith s d)) (enterConfigured d) s

/-- CONFIGURE (R31, R33). The request arrives. -/
def execConfigure (d : Dom) (w : Writer) (gen : Half) (s : State) : Host.Outcome State Fault Refusal :=
  .next (live s (arriveValue w (domIndex d) 3 (reqConfigure d w gen) s))

/-- GO_ONLINE (R31). -/
def reqGoOnline (d : Dom) (w : Writer) (gen : Half) (s : State) : State :=
  domainRequest d w 2 gen (inStates s d [.offline]) true (fun t =>
    t |> modDom d (fun x => { x with bootChecked := false }) |> enterDom d .starting |> pollPower) s

/-- GO_ONLINE (R31). The request arrives. -/
def execGoOnline (d : Dom) (w : Writer) (gen : Half) (s : State) : Host.Outcome State Fault Refusal :=
  .next (live s (arriveValue w (domIndex d) 3 (reqGoOnline d w gen) s))

/-- GO_OFFLINE (R31-R33). -/
def reqGoOffline (d : Dom) (w : Writer) (gen : Half) (s : State) : State :=
  domainRequest d w 3 gen (inStates s d [.online, .starting, .draining]) true
    (fun t => t |> enterDom d .draining |> pollPower) s

/-- GO_OFFLINE (R31-R33). The request arrives. -/
def execGoOffline (d : Dom) (w : Writer) (gen : Half) (s : State) : Host.Outcome State Fault Refusal :=
  .next (live s (arriveValue w (domIndex d) 3 (reqGoOffline d w gen) s))

/-- Every admitted command of a domain ends with ABORTED_RESET; the self-test it holds ends, and one of another domain
with it where this domain is the administrative one (R31, R174, R180). -/
def abortAll (d : Dom) (s : State) : State :=
  let s1 := match s.test.run with
    | some r =>
      if r.dom = d ∨ isAdmin s d then s |> stopTest 3 0 |> completeSlot r.dom r.slot 0x42 0 0 0 0 else s
    | none => s
  ((domOf s1 d).slots.map (·.no)).foldl (fun t no => completeSlot d no 0x42 0 0 0 0 t) (dropSubmits d (fun _ => true) s1)

/-- RESET: commands end, the freeze clears, GPIO outputs take their reset level (R31, R35, R180, R457). -/
def reqReset (d : Dom) (w : Writer) (gen : Half) (s : State) : State :=
  domainRequest d w 4 gen (inStates s d [.starting, .online, .draining]) true (fun t =>
    t |> abortAll d |> modDom d (fun x => { x with frozen := false, idle := false }) |> setOnline d false
      |> enterDom d .resetting |> resetDomainPins d |> pollPower) s

/-- RESET: commands end, the freeze clears, GPIO outputs take their reset level (R31, R35, R180, R457). The request arrives. -/
def execReset (d : Dom) (w : Writer) (gen : Half) (s : State) : Host.Outcome State Fault Refusal :=
  .next (live s (arriveValue w (domIndex d) 3 (reqReset d w gen) s))

/-- The pages of a domain and its floor return, the marked ones to retirement (R35, R189, R192, R193). -/
def returnPages (d : Dom) (s : State) : State :=
  let mine : PageWait → Bool := fun x => x.holder == .domain d
  { s with dram := { s.dram with
      taken := s.dram.taken.filter (fun e => e.2 != .domain d)
      commonWait := s.dram.commonWait.filter (fun x => !mine x)
      ceilingWait := s.dram.ceilingWait.filter (fun x => !mine x) } }
    |> modDom d (fun x => { x with pages := 0, resident := [] }) |> retireOf (.domain d)

/-- UNCONFIGURE (R31, R37). -/
def reqUnconfigure (d : Dom) (w : Writer) (gen : Half) (s : State) : State :=
  domainRequest d w 5 gen (inStates s d [.offline] && !isAdmin s d && itemsOf s d == []) true (fun t =>
    t |> returnPages d |> modDom d (fun x => { x with slots := [] }) |> enterDom d .unconfigured |> fitUnits d |> servePages) s

/-- UNCONFIGURE (R31, R37). The request arrives. -/
def execUnconfigure (d : Dom) (w : Writer) (gen : Half) (s : State) : Host.Outcome State Fault Refusal :=
  .next (live s (arriveValue w (domIndex d) 3 (reqUnconfigure d w gen) s))

/-- DOMAIN_QUIESCENT (R31, R32). -/
def execDomainQuiescent (d : Dom) (s : State) : Host.Outcome State Fault Refusal :=
  .next (live s (
    if inStates s d [.draining] && outstanding s d == 0 then
      let s1 := s |> setOnline d false |> enterDom d .offline
      pollPower (postEvent 0x0102 d.val (obj s1 (Obj.unitGen (domIndex d))) s1)
    else s))

/-- The slot of a domain in the boot cache needs a refill: it names another cartridge, FIRST_STAGE_SIZE has grown, or a sector's
CRC fails (R199). -/
def bootStale (s : State) (d : Dom) : Bool :=
  let b := vget s.ring.boot d
  b.cartridge != tapeId s || decide (b.size < obj s (Obj.firstStageSize d)) || b.failed != []
    || b.sectors.any (fun e => (crc32c e.2.1).toNat != e.2.2)

/-- A sector for the boot cache: its newest content in the ring or in a page, else a copy of R348 on which no ladder has failed;
none where every copy is lost; a sector without a copy was never written and reads zero (R149, R199). -/
def refillSector (s : State) (d : Dom) (n : Nat) : Option (List Byte) :=
  match ringSectorItem s d 0 n, residentSector s d 0 n with
  | some i, _ => some (i.sector n)
  | none, some b => some b
  | none, none =>
    match tapeCopies s d 0 n with
    | [] => some (List.replicate 4096 0)
    | copies => (copies.find? (fun c => !(findCut s c.1).any (·.bad))).map (·.2)

/-- A slot filled anew; sectors that no copy gives are not served from the cache (R199). -/
def refillBoot (d : Dom) (s : State) : BootSlot :=
  let ns := List.range (obj s (Obj.firstStageSize d))
  { cartridge := tapeId s, size := ns.length
    sectors := ns.flatMap (fun n => ((refillSector s d n).map (cacheEntry n)).getD [])
    failed := ns.filter (fun n => (refillSector s d n).isNone) }

/-- Check a domain's boot cache slot, and refill it where it needs that (R199). -/
def checkBoot (d : Dom) (s : State) : State :=
  let b := vget s.ring.boot d
  let b' : BootSlot := if bootStale s d then refillBoot d s else { b with size := obj s (Obj.firstStageSize d) }
  { s with ring := { s.ring with boot := vset s.ring.boot d b' } } |> modDom d (fun x => { x with bootChecked := true })

/-- Buckets filled to 2 ms of their rates (R168). -/
def fillTokens (d : Dom) (s : State) : State :=
  modDom d (fun x => { x with tokens :=
    { write := (80 * obj s (Obj.effectiveWrite d) : Nat), tapeRead := (80 * obj s (Obj.effectiveTapeRead d) : Nat)
      bufRead := (80 * obj s (Obj.effectiveBufferRead d) : Nat) } }) s

/-- DOMAIN_ONLINE: the cartridge is READY, the boot cache slot is checked and the ring's contents are scheduled; `rot` are bytes
of the slot that have gone bad by then (R31, R168, R186, R199). -/
def execDomainOnline (d : Dom) (rot : List CacheRot) (s : State) : Host.Outcome State Fault Refusal :=
  .next (live s (
    if inStates s d [.starting] && s.cart.state == .ready && !s.dram.failed then
      let s1 := s |> rotCache rot |> checkBoot d |> fillTokens d |> setOnline d true |> enterDom d .online
      pollPower (postEvent 0x0101 d.val (obj s1 (Obj.unitGen (domIndex d))) s1)
    else s))

/-- DOMAIN_RESET: the holder-tagged resources of a RESETTING domain have reverted (R31, R35). -/
def execDomainReset (d : Dom) (s : State) : Host.Outcome State Fault Refusal :=
  .next (live s (
    if inStates s d [.resetting] then
      let s1 := s |> returnPages d |> modDom d (fun x => { x with bootChecked := false }) |> enterDom d .starting
        |> servePages |> runPager d
      pollPower (postEvent 0x0103 d.val (obj s1 (Obj.unitGen (domIndex d))) s1)
    else s))

end Sys2Proof.Machine
end

