-- ==== Sys2Proof/Machine/PowerFail.lean ====
section
/-!
DEFINITION. The power-fail sequence and the holdup bank (R364-R374, R379), resets that reload the dictionary (R370, R423) and
escalation (R482).
-/
namespace Sys2Proof.Machine

/-! ### The operation journal (R375-R378) -/

/-- The cartridge operations are bound to: the one threaded. -/
def boundCartridge (s : State) : Option Nat := tapeId s

/-- Open an operation, in place of an open one of its kind. DEDUCED: log entry 179. -/
def openOp (kind param : Nat) (s : State) : State :=
  let o : OpRecord := ⟨kind, 0, s.opLog.nextOp, boundCartridge s, param⟩
  { s with jour := s.jour.openNew o, opLog := s.opLog.openNew o s.jour.openOps }

/-- Record a step of the open operation of a kind. -/
def stepOp (kind step param : Nat) (s : State) : State := 
  { s with jour := s.jour.step kind step param, opLog := s.opLog.step kind step param s.jour.openOps }

/-- End an operation. -/
def endOp (kind : Nat) (s : State) : State := { s with jour := s.jour.close kind, opLog := s.opLog.close 3 kind s.jour.openOps }

/-- The open operation of a kind. -/
def opOf (s : State) (kind : Nat) : Option OpRecord := s.jour.openOps.find? (fun x => x.kind == kind)

/-! ### The sequence (R366-R368) -/

/-- The RING_CLOSE record (R368, R379). -/
def closeRing (s : State) : State :=
  let o := (s.cart.openCut.bind (fun x => if x.phase = .gap then none else some x.cut))
  let f (g : Cut → Nat) : Nat := (o.map g).getD 0
  let r : RingClose :=
    { serial := s.opLog.nextOp, cartridge := tapeId s, openSerial := f (·.serial), openWrap := f (·.wrap)
      openChain := f (fun c => (chainNo c.chain).val), lposStart := f (fun c => lposAt c.chain c.wrap c.start)
      writtenEnd := (o.map (fun _ => s.xport.servo.lpos.toNat)).getD 0, untaped := s.ring.items.length, detectTime := nowUs s }
  { s with opLog := s.opLog.event 9 r.cartridge r.params
           jour := { s.jour with ringClose := some r, exhausted := none, lastExhausted := true } }

/-- Pager, compressors, decompressor, read channel and LPDDR4X stop, their requesters masked until the reset, and the content of
LPDDR4X is abandoned; a block recovery ends (R204, R366, R481). -/
def stopDataPath (s : State) : State :=
  { s with
    comp := { s.comp with gathers := [], blocks := [], captured := [], rereads := [] }
    cart := { s.cart with ladder := none, reallocs := [], calibration := false
                          reallocQueue := (s.cart.reallocQueue ++ s.cart.reallocs.map (·.serial)).take 64 }
    sched := { s.sched with burst := false, mode := .idle, workClass := 0, reading := none, dailies := none, bedrock := none, reclaim := none }
    dram := { s.dram with masked := ([0, 1, 2, 5, 6, 7, 11] ++ s.dram.masked).eraseDups, current := none, requests := []
                          parked := true }
    recov := { s.recov with busy := [], rebuilding := false } }
    |> (fun t => allDoms.foldl (fun u d => modDom d (fun x => { x with resident := [] }) u) t)

/-- The transport brakes from any moving or tensioned state (R325). -/
def brake (s : State) : State :=
  let s1 := modXport (fun x => { x with charger := 0, servo := { x.servo with locate := none } }) s
  match s.xport.state with
  | .threading | .stopped | .moving | .parked | .test | .draining => finishStop (enterXport .braking s1)
  | _ => finishStop s1

/-- The sequence starts: charger off, braking, write drivers off, credits frozen, ring closed (R366). -/
def startSequence (forReset : Bool) (source : Nat) (s : State) : State :=
  { s with power := { s.power with failing := true, forReset := forReset
                                   source := if forReset then s.power.source else source, detectedAt := nowUs s } }
    |> closeRing |> dropOpenCut |> stopDataPath |> brake

/-- A reset that reloads the dictionary is requested: the sequence runs first (R370, R423). -/
def requestReset (cause : Nat) (s : State) : State :=
  if s.power.failing then s
  else startSequence true 0 { s with boot := { s.boot with warmPending := true, cause := cause } }

/-- LAST_RECOVERY: block or unit, OUTCOME and µs (R487). -/
def lastRecovery (unit outcome us : Nat) (s : State) : State :=
  setObj Obj.lastRecovery (2 ^ 24 * unit + 2 ^ 16 * outcome + us) s

/-- Recovery escalates: the event, LAST_RECOVERY, and a reset with cause 7 (R482). -/
def escalate (unit : Nat) (s : State) : State :=
  s |> lastRecovery unit 2 0 |> postEvent 0x0B03 unitDevice unit |> requestReset 7

/-- POWER_FAILURE_DETECTED: the sources that have held their failure condition for 0.5 µs, PFAIL_N in bit 0 and VSENSE in
bit 1 (R364, R366). -/
def execPowerFailureDetected (sources : BitVec 2) (s : State) : Host.Outcome State Fault Refusal :=
  .next (live s (
    let on := sources.toNat &&& obj s Obj.powerFailSource
    if on = 0 ∨ (s.power.failing ∧ !s.power.forReset) then s
    else if s.power.failing then
      { s with power := { s.power with forReset := false, source := on }, boot := { s.boot with warmPending := false } }
    else startSequence false on s))

/-- HOLDUP_EXHAUSTED: VHOLD, in mV, has fallen below 9.0 V before the reels rest (R369, R379). -/
def execHoldupExhausted (vholdMv : Half) (s : State) : Host.Outcome State Fault Refusal :=
  .next (live s (
    if s.power.failing && !s.xport.atRest && decide (vholdMv.toNat < 9000) && s.jour.exhausted.isNone then
      let r : Exhausted := ⟨vholdMv.toNat, (objQ16 s Obj.tapeSpeed).natAbs * 1000 / 65536, nowUs s⟩
      { s with opLog := s.opLog.event 0xC (s.jour.ringClose.bind (·.cartridge)) r.params, jour := { s.jour with exhausted := some r } }
        |> shortBridges
        |> modXport (fun x => { x with
            headLoaded := false, servo := { x.servo with lowerValid := false, upperValid := false } })
        |> finishStop
    else s))

/-- The sequence has come to its end: no tape moves (R366). -/
def sequenceOver (s : State) : Bool := s.power.failing && (s.xport.state == .off || s.xport.state == .idle)

/-- SEQUENCE_END: persistent values and the record are written, the supplies released; `energyMj` is the energy the
sequence took (R366, R379). -/
def execSequenceEnd (energyMj : Word) (s : State) : Host.Outcome State Fault Refusal :=
  .next (live s (
    if !sequenceOver s || s.boot.sequenceEnded then s
    else
      let ms := min ((nowUs s - s.power.detectedAt) / 1000) 0xFFFF
      let r : SequenceEnd :=
        { kilnTime := obj s Obj.kilnTime, energyMj := energyMj.toNat, timeMs := ms, exhausted := s.jour.exhausted.isSome
          kilnTimeValid := s.kiln.bridgeOk && bitOf (obj s Obj.kilnStatus) 29
          ringClose := (s.jour.ringClose.map (·.serial)).getD 0 }
      let at' := s.jour.ringClose.bind (·.cartridge)
      let s1 := { s with opLog := s.opLog.event 0xA at' r.params
                         jour := { s.jour with sequenceEnd := some r, lastExhausted := s.jour.exhausted.isSome }
                         savedEnergy := s.energy, boot := { s.boot with sequenceEnded := true } }
        |> setObj Obj.lastSequenceEnergyMj energyMj.toNat |> setObj Obj.lastSequenceTimeMs ms
      if s.power.forReset then s1
      else { bump Obj.powerFails s1 with boot := { s1.boot with phase := .shelf }, kiln := { s1.kiln with powered := false } }))

/-- HOLDUP_READY: VHOLD has reached HOLDUP_MIN_START (R372). -/
def execHoldupReady (s : State) : Host.Outcome State Fault Refusal :=
  .next (live s (
    if s.power.faulted then s
    else pollPower (followCart { s with power := { s.power with ready := true } })))

/-- HOLDUP_LOW: VHOLD has fallen 0.2 V below HOLDUP_MIN_START (R372). -/
def execHoldupLow (s : State) : Host.Outcome State Fault Refusal := .next (live s (clearReady s))

end Sys2Proof.Machine
end

