-- ==== Sys2Proof/Machine/Lines.lean ====
section
/-!
DEFINITION. What a wrong LPDDR4X line leads to (R188, R189, R485), and the read commands, which may meet one.
-/
namespace Sys2Proof.Machine

/-- Allocator or pager tables are lost: a rebuild starts, or starts again; the third start of one escalates (R485). -/
def startRebuild (s : State) : State :=
  let n := if s.recov.rebuilding then s.recov.rebuilds + 1 else 1
  let s1 := { s with recov := { s.recov with rebuilding := true, rebuilds := n } }
  if n = 3 then escalate 0x21 s1 else s1

/-- The running self-test's step fails (R178, R188). -/
def failTestStep (s : State) : State :=
  match s.test.run with
  | some r => if r.suspended then s else s |> stopTest 1 r.step |> completeSlot r.dom r.slot 0x70 r.step 0 0 0
  | none => s

/-- Copies of Kiln records lost from the bridge buffer are asked for again (R188). -/
def askCopiesAgain (s : State) : State :=
  match s.kiln.copies with
  | [] => s
  | r :: _ => { s with kiln := { s.kiln with copies := [], toKiln := s.kiln.toKiln ++ [.requestCopy r.seq s.kiln.copies.length] } }

/-- The dailies page concerned fails: the pass has not read its cut, which a later pass reads (R188, R354; DESIGN CHOICE, log entry
156). -/
def failDailiesPage (s : State) : State :=
  { s with sched := { s.sched with dailies := (s.sched.dailies.map List.tail).filter (· != []) } }

/-- A line of a page that the self-test or the dailies use is lost: of the dailies where they have the tape (R188). -/
def failServicePage (s : State) : State :=
  if s.sched.mode = .excursion ∧ s.sched.workClass = 9 ∧ s.sched.dailies.isSome ∧ s.sched.dailies.bind (·.head?) = s.sched.reading then
    failDailiesPage s
  else failTestStep s

/-- What an uncorrectable line leads to by what it holds (R188). -/
def lineLost (u : LineUse) (s : State) : State :=
  match u with
  | .data => s
  | .tables => startRebuild s
  | .kilnBuffer => askCopiesAgain s
  | .service => failServicePage s

/-- One wrong line that a read of LPDDR4X met (R188). -/
def meetLine (h : EccHit) (s : State) : State :=
  let line := h.line.toNat
  if EccHit.uncorrectable h then s |> uncorrectableLine line h.holder |> lineLost h.holds
  else if EccHit.corrected h then correctedLine line h.holder s
  else s

/-- The wrong lines a step met, in order. -/
def meetLines (hits : List EccHit) (s : State) : State := hits.foldl (fun t h => meetLine h t) s

/-- Some line that holds data is uncorrectable. -/
def dataLost (hits : List EccHit) : Bool := hits.any (fun h => h.holds == .data && EccHit.uncorrectable h)

/-- READ_LOG (R146): a take still in the ring is read from MRAM, and captured cuts are read with CUT_READ_COMPLETE. -/
def execReadLog (h : CmdHead) (b : CmdBody) (hits : List EccHit) (s : State) : Host.Outcome State Fault Refusal :=
  .next (live s (receiveCmd ⟨opReadLog, h, b, false⟩ (meetLines hits s)))

/-- READ_VOL (R147, R149); `hits` are wrong lines of the resident groups it reads, `rot` bytes of the boot cache that have gone
bad by then (R199). -/
def execReadVol (h : CmdHead) (b : CmdBody) (hits : List EccHit) (rot : List CacheRot) (s : State) :
    Host.Outcome State Fault Refusal :=
  .next (live s (receiveCmd ⟨opReadVol, h, b, dataLost hits⟩ (meetLines hits (rotCache rot s))))

/-- TABLE_REBUILD_COMPLETE: the tables are rebuilt from `slates` slates, and tape work goes on (R485). -/
def execTableRebuildComplete (slates : Half) (s : State) : Host.Outcome State Fault Refusal :=
  .next (live s (
    if s.recov.rebuilding then
      { s with recov := { s.recov with rebuilding := false, rebuilds := 0 } }
        |> postEvent 0x0307 unitDevice slates.toNat |> progressAll
    else s))

end Sys2Proof.Machine
end

