-- ==== Sys2Proof/Machine/Silt.lean ====
section
/-!
DEFINITION. The Silt block: the matcher's tokens, the LZ_HUFFMAN body, and the decoder with its checks (R213-R223).
-/
namespace Sys2Proof.Machine

/-! ### Symbols (R215) -/

/-- A token of the matcher. -/
inductive Token where
  | lit (b : Byte)
  | copy (length distance : Nat)
deriving DecidableEq, Repr

/-- Code, extra bit count and extra value of a number (R215). -/
def codeOf (v : Nat) : Nat × Nat × Nat :=
  if v < 4 then (v, 0, 0)
  else
    let n := Nat.log2 v
    (2 * n + v / 2 ^ (n - 1) % 2, n - 1, v % 2 ^ (n - 1))

/-- Extra bits of a code (R215). -/
def extraBits (c : Nat) : Nat := if c < 4 then 0 else c / 2 - 1

/-- The number of a code and its extra value (R215). -/
def codeValue (c extra : Nat) : Nat := if c < 4 then c else (2 + c % 2) * 2 ^ (c / 2 - 1) + extra

/-! ### The matcher (R217) -/

/-- Hash of the four bytes at a position. -/
def siltHash (w : Nat) : Nat := w * 0x9E3779B1 % 2 ^ 32 / 2 ^ 17

/-- Hash at the head of some input; none where fewer than four bytes remain. -/
def hashAt (rest : List Byte) : Option Nat :=
  if rest.length < 4 then none else some (siltHash (ofLeBytes (rest.take 4)))

/-- Length of the common beginning of two runs of bytes, at most `n`. -/
def commonLength : Nat → List Byte → List Byte → Nat
  | 0, _, _ => 0
  | n + 1, a :: as, b :: bs => if a = b then commonLength n as bs + 1 else 0
  | _ + 1, _, _ => 0

/-- An earlier position with its hash and the input from it on. -/
structure ChainEntry where
  hash : Nat
  pos : Nat
  rest : List Byte

/-- The best match among the chain's entries, newest first: the longest, then the most recent (R217). -/
def bestMatch (cands : List ChainEntry) (p : Nat) (rest : List Byte) : Nat × Nat :=
  cands.foldl (fun best c =>
    let n := commonLength 259 c.rest rest
    if best.1 < n then (n, p - c.pos) else best) (0, 0)

/-- Tokens from a position on. `skip` positions are covered by a match and not searched; `seen` holds the earlier
positions, newest first. -/
def tokensFrom (p skip : Nat) (seen : List ChainEntry) : List Byte → List Token
  | [] => []
  | b :: rest =>
    let h := hashAt (b :: rest)
    let seen' := match h with
      | some x => ⟨x, p, b :: rest⟩ :: seen
      | none => seen
    if skip ≠ 0 then tokensFrom (p + 1) (skip - 1) seen' rest
    else
      let best := match h with
        | some x => bestMatch ((seen.filter (fun c : ChainEntry => c.hash == x)).take 8) p (b :: rest)
        | none => (0, 0)
      if 4 ≤ best.1 then .copy best.1 best.2 :: tokensFrom (p + 1) (best.1 - 1) seen' rest
      else .lit b :: tokensFrom (p + 1) 0 seen' rest

/-- The token sequence of a block's input (R217). -/
def siltTokens (input : List Byte) : List Token := tokensFrom 0 0 [] input

/-! ### Canonical codes (R214, R216) -/

/-- Symbols with their lengths, unused ones left out. -/
def usedSymbols (lengths : List Nat) : List (Nat × Nat) :=
  ((List.range lengths.length).zip lengths).filter (fun e => e.2 != 0)

/-- first[n] (R214). -/
def firstCode (lengths : List Nat) : Nat → Nat
  | 0 => 0
  | n + 1 => if n = 0 then 0 else (firstCode lengths n + (lengths.filter (· == n)).length) * 2

/-- The canonical code of a symbol: its length and code (R214). -/
def canonicalCode (lengths : List Nat) (sym : Nat) : Nat × Nat :=
  let n := (lengths[sym]?).getD 0
  (n, firstCode lengths n + ((lengths.take sym).filter (· == n)).length)

/-- A code-length set is complete, or holds one length of 1 (R216). -/
def codeSetValid (lengths : List Nat) : Bool :=
  let used := (usedSymbols lengths).map (·.2)
  (used.map (fun n => 2 ^ (15 - n))).sum == 2 ^ 15 || used == [1]

/-- `n` bits of a code, most significant first. -/
def bitsHigh (n v : Nat) : List Bool := (List.range n).map (fun i => bitOf v (n - 1 - i))

/-- `n` extra bits, least significant first. -/
def bitsLow (n v : Nat) : List Bool := (List.range n).map (fun i => bitOf v i)

/-- A symbol's bits. -/
def symbolBits (lengths : List Nat) (sym : Nat) : List Bool :=
  let c := canonicalCode lengths sym
  bitsHigh c.1 c.2

/-- A number's symbol and extra bits, its alphabet starting at `base`. -/
def numberBits (lengths : List Nat) (base v : Nat) : List Bool :=
  let c := codeOf v
  symbolBits lengths (base + c.1) ++ bitsLow c.2.1 c.2.2

/-- A token's bits (R214, R215). -/
def tokenBits (lit dist : List Nat) : Token → List Bool
  | .lit b => symbolBits lit b.toNat
  | .copy l d => numberBits lit 257 (l - 4) ++ numberBits dist 0 (d - 1)

/-- Bits packed into bytes from the least significant bit, zero-padded (R214). -/
def packBits : Nat → List Bool → List Byte
  | 0, _ => []
  | fuel + 1, bits =>
    if bits = [] then []
    else BitVec.ofNat 8 ((List.range 8).map (fun i => if (bits[i]?).getD false then 2 ^ i else 0)).sum
      :: packBits fuel (bits.drop 8)

/-- The 153-byte table section of 305 code lengths (R214). -/
def tableSection (lengths : List Nat) : List Byte :=
  (List.range 153).map (fun i =>
    BitVec.ofNat 8 ((lengths[2 * i]?).getD 0 % 16 + 16 * ((if i = 152 then 0 else (lengths[2 * i + 1]?).getD 0) % 16)))

/-- The LZ_HUFFMAN body of an input under 305 code lengths (R214). -/
def huffmanBody (lengths : List Nat) (input : List Byte) : List Byte :=
  let lit := lengths.take 273
  let dist := (lengths.drop 273).take 32
  let bits := (siltTokens input).flatMap (tokenBits lit dist) ++ symbolBits lit 256
  tableSection lengths ++ packBits (bits.length / 8 + 1) bits

/-- MAGIC (R213). -/
def siltMagic : Nat := 0x746C6953

/-- A block around a body (R213): POLICY 1 bounded, 2 strict; CODING 0 STORED, 1 LZ_HUFFMAN. -/
def siltWrap (policy coding : Nat) (input body : List Byte) : List Byte :=
  leBytes 4 siltMagic ++ leBytes 1 (16 * policy + coding) ++ leBytes 3 0 ++ leBytes 4 input.length
    ++ leBytes 4 body.length ++ body ++ leBytes 4 (crc32c input).toNat

/-! ### The decoder (R223) -/

/-- The symbol that begins a run of bits under a code, and the bits after it: `n` bits of value `v` are read. -/
def readSymbol (codes : List (Nat × Nat × Nat)) : Nat → Nat → Nat → List Bool → Option (Nat × List Bool)
  | 0, _, _, _ => none
  | fuel + 1, n, v, bits =>
    match bits with
    | [] => none
    | b :: rest =>
      let v' := 2 * v + b2n b
      match codes.find? (fun c => c.1 == n + 1 && c.2.1 == v') with
      | some c => some (c.2.2, rest)
      | none => readSymbol codes fuel (n + 1) v' rest

/-- The code table: length, code and symbol of every used symbol. -/
def codeTable (lengths : List Nat) : List (Nat × Nat × Nat) :=
  (usedSymbols lengths).map (fun e => (e.2, (canonicalCode lengths e.1).2, e.1))

/-- Extra bits, least significant first, and the bits after them. -/
def readExtra : Nat → List Bool → Option (Nat × List Bool)
  | 0, bits => some (0, bits)
  | n + 1, bits =>
    match bits with
    | [] => none
    | b :: rest => (readExtra n rest).map (fun r => (b2n b + 2 * r.1, r.2))

/-- Copy `n` bytes one at a time from `d` back; output is kept newest first. -/
def copyBack : Nat → Nat → List Byte → List Byte
  | 0, _, out => out
  | n + 1, d, out => copyBack n d ((out[d - 1]?).getD 0 :: out)

/-- How a token stream ends: the output newest first and the bits left, or the reason it fails. -/
inductive Decoded where
  | done (out : List Byte) (rest : List Bool)
  | failed (reason : Nat)

/-- Why no symbol can be read: no used symbol has the code (check 0x05), or the body ends before END (check 0x07). Only a set
of one code, or of none, leaves codes without a symbol (R216, R223). -/
def readFailure (codes : List (Nat × Nat × Nat)) (bits : List Bool) : Nat :=
  if codes.length = 0 ∨ (codes.length = 1 ∧ bits ≠ []) then 5 else 7

/-- Decode tokens up to END (R215, R223). -/
def decodeTokens (lit dist : List (Nat × Nat × Nat)) (limit : Nat) : Nat → List Bool → Nat → List Byte → Decoded
  | 0, _, _, _ => .failed 7
  | fuel + 1, bits, n, out =>
    match readSymbol lit 15 0 0 bits with
    | none => .failed (readFailure lit bits)
    | some (sym, r0) =>
      if sym < 256 then
        if limit ≤ n then .failed 6 else decodeTokens lit dist limit fuel r0 (n + 1) (BitVec.ofNat 8 sym :: out)
      else if sym = 256 then .done out r0
      else
        match readExtra (extraBits (sym - 257)) r0 with
        | none => .failed 7
        | some (le, r1) =>
          match readSymbol dist 15 0 0 r1 with
          | none => .failed (readFailure dist r1)
          | some (ds, r2) =>
            match readExtra (extraBits ds) r2 with
            | none => .failed 7
            | some (de, r3) =>
              let l := codeValue (sym - 257) le + 4
              let d := codeValue ds de + 1
              if n < d then .failed 5
              else if limit < n + l then .failed 6
              else decodeTokens lit dist limit fuel r3 (n + l) (copyBack l d out)

/-- The bits of bytes, each from its least significant bit. -/
def byteBits (bytes : List Byte) : List Bool := bytes.flatMap (fun b => bitsLow 8 b.toNat)

/-- The code lengths of a table section, two to a byte (R214). -/
def sectionLengths (body : List Byte) : List Nat :=
  ((body.take 153).flatMap (fun b => [b.toNat % 16, b.toNat / 16])).take 305

/-- Bytes `lo` to `lo + n - 1` as a number. -/
def fieldAt (b : List Byte) (lo n : Nat) : Nat := ofLeBytes ((b.drop lo).take n)

/-- The last checks of a decoded body: length, END and consumption, CRC, padding (R223). -/
def finishDecode (out : List Byte) (rest : List Bool) (ulen trailer : Nat) : Nat ⊕ List Byte :=
  if out.length ≠ ulen ∨ 8 ≤ rest.length then .inl 7
  else if (crc32c out).toNat ≠ trailer then .inl 8
  else if rest.any id then .inl 9
  else .inr out

/-- Decode a block under a caller limit: the output, or the reason of the first failing check (R223). -/
def siltDecode (limit : Nat) (b : List Byte) : Nat ⊕ List Byte :=
  let mode := fieldAt b 4 1
  let ulen := fieldAt b 8 4
  let clen := fieldAt b 12 4
  let coding := mode % 16
  let policy := mode / 16 % 4
  let body := (b.drop 16).take clen
  let trailer := fieldAt b (16 + clen) 4
  let lim := min ulen limit
  if fieldAt b 0 4 ≠ siltMagic then .inl 1
  else if 64 ≤ mode ∨ 2 ≤ coding ∨ policy = 0 ∨ policy = 3 ∨ (policy = 2 ∧ coding = 0) ∨ fieldAt b 5 3 ≠ 0 then .inl 2
  else if ulen = 0 ∨ 65536 < ulen ∨ b.length < 16 + clen ∨ (coding = 0 ∧ clen ≠ ulen) ∨ (coding = 1 ∧ clen < 154) then .inl 3
  else if coding = 0 then
    if limit < ulen then .inl 6
    else if (crc32c body).toNat ≠ trailer then .inl 8
    else .inr body
  else
    let lengths := sectionLengths body
    let lit := lengths.take 273
    let dist := lengths.drop 273
    if !codeSetValid lit ∨ (lit[256]?).getD 0 = 0 ∨ (!codeSetValid dist ∧ dist.any (· != 0))
        ∨ 16 ≤ fieldAt body 152 1 then .inl 4
    else
      let bits := byteBits (body.drop 153)
      match decodeTokens (codeTable lit) (codeTable dist) lim (bits.length + 1) bits 0 [] with
      | .failed r => .inl r
      | .done out rest => finishDecode out.reverse rest ulen trailer

/-! ### Blocks as they stand on tape (R213, R219, R220) -/

/-- The input of a block. -/
def blockInput (b : Block) : List Byte := b.pieces.flatMap (·.bytes)

/-- The block made of an input by an engine that chose code lengths: LZ_HUFFMAN where it is shorter, else STORED or, for a
sector, the raw bytes (R219, R220). -/
def makeBlock (kind : BlockKind) (lengths : List Nat) (input : List Byte) : BlockKind × List Byte × Bool :=
  let body := huffmanBody lengths input
  if kind = .sector then
    let whole := siltWrap 2 1 input body
    if whole.length ≤ 4095 then (.sector, whole, true) else (.rawSector, input, false)
  else if body.length < input.length then (kind, siltWrap 1 1 input body, true)
  else (kind, siltWrap 1 0 input input, false)

/-- The bytes of a block on tape: its coding is remembered by its code lengths. -/
def blockBytes (b : Block) : List Byte :=
  let input := blockInput b
  match b.kind with
  | .log => if b.lengths = [] then siltWrap 1 0 input input
      else siltWrap 1 1 input (huffmanBody (b.lengths.map (·.toNat)) input)
  | .sector => siltWrap 2 1 input (huffmanBody (b.lengths.map (·.toNat)) input)
  | _ => input

/-- A copy of a block with some bytes received wrong. -/
def spoil (wrong : List (Nat × Byte)) (b : List Byte) : List Byte :=
  ((List.range b.length).zip b).map (fun e => wrong.foldl (fun x w => if w.1 = e.1 then x ^^^ w.2 else x) e.2)

end Sys2Proof.Machine
end

