-- ==== Sys2Proof/Machine/Compress.lean ====
section
/-!
DEFINITION. The compression path from pages to cut building (R208-R222, R486).
-/
namespace Sys2Proof.Machine

/-- Change the compression path. -/
def modComp (f : Comp → Comp) (s : State) : State := { s with comp := f s.comp }

/-- COMPRESS_CHECK_FAILURES of an engine. -/
def checkFailures (n : Fin 2) : Nat := if n = 0 then Obj.compressCheckFailures0 else Obj.compressCheckFailures1

/-- New blocks are compressed: COMPRESSION_ENABLE is set and an engine is in service (R221, R222). -/
def compressing (s : State) : Bool := objBool s Obj.compressionEnable && !(vget s.comp.out 0 && vget s.comp.out 1)

/-- An engine holds a block (R227). -/
def engineBusy (s : State) (n : Fin 2) : Bool := s.comp.blocks.any (fun b => b.stage == .engine n)

/-- An engine is free: in service, without a block, and not under recovery (R211, R479). -/
def engineFree (s : State) (n : Fin 2) : Bool :=
  !vget s.comp.out n && !engineBusy s n && !blockBusy s (6 + n.val)

/-- The engine that takes the next block: engine 0 when both are free (R211). -/
def nextEngine (s : State) : Option (Fin 2) :=
  if engineFree s 0 then some 0 else if engineFree s 1 then some 1 else none

/-- A block made without an engine: STORED for a log, raw for a sector (R219-R221). -/
def storedForm (b : Block) : Block :=
  let n := (blockInput b).length
  if b.kind = .sector then { b with kind := .rawSector, length := n, lengths := [] }
  else { b with length := n + 20, lengths := [] }

/-- Replace the first block of the path that a test selects. -/
def replaceBlock (sel : CompBlock → Bool) (f : CompBlock → CompBlock) : List CompBlock → List CompBlock
  | [] => []
  | b :: bs => if sel b then f b :: bs else b :: replaceBlock sel f bs

/-- A block enters cut building, and the byte counters follow (R222, R227). -/
def blockDone (sel : CompBlock → Bool) (new : Block) (s : State) : State :=
  let input := (blockInput new).length
  s |> modComp (fun c => { c with blocks := replaceBlock sel (fun b => { b with stage := .ready, block := new }) c.blocks })
    |> bumpBy Obj.bytesIn input |> bumpBy Obj.bytesOut new.length
    |> (fun t => { t with sched := { t.sched with inflow := t.sched.inflow + new.length } })
    |> (fun t => if new.kind = .log ∧ new.lengths = [] then bump Obj.storedBlocks t else t)

/-! ### Ring data that fails its check (R486) -/

/-- A piece of a take's entry read again after its data went bad. -/
def rereadPiece (idx : Nat) (entry : List Byte) (p : Piece) : Piece :=
  if p.commit = idx then { p with bytes := (entry.drop p.off).take p.bytes.length } else p

/-- The boot cache without a sector whose newest write is not applied: it is read from tape or the ring until the next refill
(R199, R486). DEDUCED: log entry 185. -/
def uncache (d : Dom) (n : Nat) (s : State) : State :=
  let b := vget s.ring.boot d
  { s with ring := { s.ring with boot := vset s.ring.boot d { b with failed := if b.failed.contains n then b.failed else b.failed ++ [n] } } }

/-- The content of groups is paged again from what the ring and the tape still hold (R345, R486). -/
def repage (d : Dom) (v : Nat) (groups : List Nat) (s : State) : State :=
  let touched : RingItem → Bool := fun r => r.item.dom == d && r.item.kind == .sectors && r.item.target == v && r.leftSectors != []
    && r.item.groups.any (fun g => groups.contains g)
  runPager d (groups.foldl (fun t g => dropGroup d v g t) { s with
    ring := { s.ring with items := s.ring.items.map (fun r => if touched r then { r with paged := 0 } else r) }
    comp := { s.comp with blocks := s.comp.blocks.filter (fun b => !groups.any (fun g => inGroup d v g b)) } })

/-- The pager finds ring data failing its DATA_CRC: a take is taped as read, sectors are not applied (R486). -/
def spoilItem (idx : Nat) (wrong : List (Nat × Byte)) (s : State) : State :=
  match s.ring.items.find? (fun r => r.item.idx == idx) with
  | none => s
  | some r =>
    let i := r.item
    let bytes := spoil wrong i.bytes
    if (crc32c bytes).toNat = i.crc then s
    else
      let isVol : Bool := i.kind == .sectors
      let s1 := postEvent 0x0305 i.dom.val (i.target % 16 + 16 * b2n isVol + 256 * (i.seq % 2 ^ 24)) s
      if isVol then
        let s2 := { s1 with ring := { s1.ring with items := s1.ring.items.filter (fun x => x.item.idx != idx) } }
        let ns := (List.range (i.bytes.length / 4096)).map (· + i.seq)
        let s3 := if i.target = 0 then
            (ns.filter (fun n => n < obj s (Obj.firstStageSize i.dom))).foldl (fun t n => uncache i.dom n t) s2 else s2
        progress i.dom (repage i.dom i.target i.groups s3)
      else
        let bad : Item := { i with bytes := bytes }
        let fix : List Piece → List Piece := fun ps => ps.map (rereadPiece idx bad.entry)
        { s1 with
          ring := { s1.ring with items := s1.ring.items.map (fun x =>
            if x.item.idx = idx then { x with item := bad, corrupt := true } else x) }
          comp := { s1.comp with
            gathers := s1.comp.gathers.map (fun g => if g.dom = i.dom ∧ g.log = i.target then { g with pieces := fix g.pieces } else g)
            blocks := s1.comp.blocks.map (fun b =>
              if b.isLog ∧ b.dom = i.dom ∧ b.target = i.target ∧ b.stage ≠ .ready then
                { b with block := { b.block with pieces := fix b.block.pieces } } else b) } }

/-! ### The commands -/

/-- BLOCK_GATHER_EXPIRY: BLOCK_GATHER_US has passed since the log's oldest waiting byte reached a page (R209). -/
def execBlockGatherExpiry (d : Dom) (log : LogNo) (s : State) : Host.Outcome State Fault Refusal :=
  .next (live s (closeGather d log.val s))

/-- The block that waits to be started. -/
def nextBlock (s : State) : Option CompBlock := s.comp.blocks.find? (fun b => b.stage == .waiting)

/-- Start the next block: made at once where no engine judges it, else in a free engine (R209, R211, R221). -/
def startBlock (s : State) : State :=
  match nextBlock s with
  | none => s
  | some b =>
    let first : CompBlock → Bool := fun x => x.stage == .waiting
    if b.raw || b.store || !compressing s then blockDone first (storedForm b.block) s
    else
      match nextEngine s with
      | none => s
      | some n => modComp (fun c => { c with blocks := replaceBlock first (fun x => { x with stage := .engine n }) c.blocks }) s

/-- BLOCK_START: `hits` are wrong LPDDR4X lines met; take and sector data are copied again from the ring (R188); `bad`
are bytes of the ring item of the block's first content that read wrong (R486); `spares` MRAM lines are replaced. -/
def execBlockStart (hits : List EccHit) (bad : List (Nat × Byte)) (spares : Byte) (s : State) :
    Host.Outcome State Fault Refusal :=
  .next (working 3 s (
    let s1 := s |> meetLines hits |> useSpares spares.toNat
    let s2 := match (nextBlock s1).bind (fun b => b.block.pieces.head?) with
      | some p => spoilItem p.commit bad s1
      | none => s1
    startBlock s2))

/-- A check failure of an engine: counted and reported; the third takes the engine out of service (R222). -/
def countCheckFailure (n : Fin 2) (s : State) : State :=
  let k := vget s.comp.failures n + 1
  let s1 := s |> modComp (fun c => { c with failures := vset c.failures n k }) |> bump (checkFailures n)
    |> postEvent 0x0401 unitDevice n.val
  if k = 3 then
    s1 |> modComp (fun c => { c with out := vset c.out n true }) |> postEvent 0x0402 unitDevice n.val
  else s1

/-- BLOCK_COMPRESSED: engine `n` has chosen code lengths for its block; `wrong` are bytes it emits wrong. The check decoder
passes the block, or it is made again without an engine (R213-R222). -/
def execBlockCompressed (n : Fin 2) (lengths : List (BitVec 4)) (wrong : List (Nat × Byte)) (s : State) :
    Host.Outcome State Fault Refusal :=
  .next (working (6 + n.val) s (
    let mine : CompBlock → Bool := fun x => x.stage == .engine n
    match s.comp.blocks.find? mine with
    | none => s
    | some b =>
      let r := makeBlock b.block.kind (lengths.map (·.toNat)) (blockInput b.block)
      let made : Block := { b.block with kind := r.1, length := r.2.1.length, lengths := if r.2.2 then lengths else [] }
      if r.1 = .rawSector then s |> blockDone mine made |> bump Obj.notSmallerSectors
      else
        match siltDecode 65536 (spoil wrong r.2.1) with
        | .inr _ => blockDone mine made s
        | .inl _ => s |> blockDone mine (storedForm b.block) |> countCheckFailure n))

end Sys2Proof.Machine
end

