-- ==== Sys2Proof/Machine/Codes.lean ====
section
/-!
DEFINITION. The codes of recorded data: shift-register sequences, Gray code, the Reed-Solomon field with C2 and C3, and the C1
LDPC code (R233, R234, R236, R262-R266, R304).
-/
namespace Sys2Proof.Machine

/-! ### Sequences and Gray code -/

/-- `n` bits of the generator x^a + x^b + 1 from a register of `a` bits: the oldest bit is put out, and the sum of bits `a` and
`b` back comes in (R234, R304; the register's order is DEDUCED, log entry 158). -/
def lfsr (a b : Nat) : Nat → Nat → List Bool
  | 0, _ => []
  | n + 1, r => bitOf r (a - 1) :: lfsr a b n ((2 * r + b2n (bitOf r (a - 1) ^^ bitOf r (b - 1))) % 2 ^ a)

/-- Gray code: v XOR (v >> 1) (R233). -/
def gray {w : Nat} (v : BitVec w) : BitVec w := v ^^^ (v >>> 1)

/-- The value whose Gray code is given: each bit is the parity of the bits from the top to it. -/
def ungray {w : Nat} (g : BitVec w) : BitVec w :=
  BitVec.ofNat w (ofBitsMsb ((bitsMsb g).foldl (fun acc b => acc ++ [(acc.getLast?.getD false) ^^ b]) []))

/-- Bits with a list of places turned. -/
def flipBits (places : List Nat) (bits : List Bool) : List Bool :=
  ((List.range bits.length).zip bits).map (fun e => if places.count e.1 % 2 = 1 then !e.2 else e.2)

/-! ### GF(2^8) with x^8 + x^4 + x^3 + x^2 + 1 (R236) -/

/-- Times α. -/
def gfDouble (a : Byte) : Byte := if a.msb then (a <<< 1) ^^^ 0x1D#8 else a <<< 1

/-- Product by the low `n` bits of the second factor. -/
def gfMulBits : Nat → Byte → Byte → Byte
  | 0, _, _ => 0
  | n + 1, a, b => gfDouble (gfMulBits n a (b >>> 1)) ^^^ (if b.getLsbD 0 then a else 0)

/-- Product. -/
def gfMul (a b : Byte) : Byte := gfMulBits 8 a b

/-- α to a power. -/
def gfAlpha : Nat → Byte
  | 0 => 1
  | n + 1 => gfDouble (gfAlpha n)

/-- The power `n`. -/
def gfPow (a : Byte) : Nat → Byte
  | 0 => 1
  | n + 1 => gfMul a (gfPow a n)

/-- Quotient; the inverse is the power 254. -/
def gfDiv (a b : Byte) : Byte := gfMul a (gfPow b 254)

/-! ### Reed-Solomon with roots α^0 and α^1 (R236, R238, R262) -/

/-- Locator of symbol `i` of a word of `n`: symbol 0 comes first and has the highest power. -/
def locator (n i : Nat) : Byte := gfAlpha (n - 1 - i)

/-- The two checks of a word given by its nonzero symbols: its values at α^0 and α^1. -/
def rsChecks (n : Nat) (symbols : List (Nat × Byte)) : Byte × Byte :=
  (symbols.foldl (fun a x => a ^^^ x.2) 0, symbols.foldl (fun a x => a ^^^ gfMul x.2 (locator n x.1)) 0)

/-- Values of two symbols that bring the checks `c` to zero. -/
def solveTwo (n i j : Nat) (c : Byte × Byte) : Byte × Byte :=
  let xi := locator n i
  let xj := locator n j
  let a := gfDiv (c.2 ^^^ gfMul c.1 xj) (xi ^^^ xj)
  (a, c.1 ^^^ a)

/-- The parity of the first `n - 2` symbols of a word of `n`: its last two symbols (R236, R238). -/
def rsParity (n : Nat) (data : List Byte) : Byte × Byte :=
  solveTwo n (n - 2) (n - 1) (rsChecks n ((List.range data.length).zip data))

/-- What a Reed-Solomon decoder makes of a word: the symbols it leaves wrong, each with the bits that differ from what was
written. -/
inductive RsResult where
  /-- Both checks hold. -/
  | kept (wrong : List (Nat × Byte))
  | fixed (wrong : List (Nat × Byte))
  | failed
deriving DecidableEq, Repr

/-- Symbols that are still wrong: with none of no difference. -/
def realErrors (l : List (Nat × Byte)) : List (Nat × Byte) := l.filter (fun e => e.2 != 0)

/-- Correct a word of `n` symbols (R265, R266): up to two erased ones; with one erased, the other check detects a further wrong
one; with none, one wrong symbol, where the checks point to a symbol of the word. By the code's linearity it is enough to know
which symbols are erased and by which bits the others differ from what was written. -/
def rsFix (n : Nat) (erased : List Nat) (wrong : List (Nat × Byte)) : RsResult :=
  let w := wrong.filter (fun e => !erased.contains e.1)
  let c := rsChecks n w
  match erased with
  | [] =>
    if c = (0, 0) then .kept w
    else if c.1 = 0 then .failed
    else match (List.range n).find? (fun i => gfMul c.1 (locator n i) == c.2) with
      | some i => .fixed (realErrors (w.filter (fun e => e.1 != i)
          ++ [(i, ((w.find? (fun e => e.1 == i)).map (·.2)).getD 0 ^^^ c.1)]))
      | none => .failed
  | [i] => if gfMul c.1 (locator n i) = c.2 then .fixed (w ++ realErrors [(i, c.1)]) else .failed
  | [i, j] => let x := solveTwo n i j c; .fixed (w ++ realErrors [(i, x.1), (j, x.2)])
  | _ => .failed

/-! ### C1: the quasi-cyclic LDPC code (R262-R264) -/

/-- Channel bits and information bits of a C1 codeword. -/
def c1Bits : Nat := 9216
/-- Information bits of a C1 codeword. -/
def c1Info : Nat := 8448

/-- Shift of information block `c` in block row `i` (R263). -/
def c1Shift (i c : Nat) : Nat := ((i + 1) * (c * c + 5 * c + 1)) % 256

/-- Q(s) applied to a block: bit r of the result is bit r + s (R263). -/
def c1Rotate (s : Nat) (x : List Bool) : List Bool := x.drop s ++ x.take s

/-- Sum of two blocks over GF(2). -/
def addBits (x y : List Bool) : List Bool := List.zipWith (fun a b => a ^^ b) x y

/-- Block `c` of 256 bits. -/
def bitBlock (bits : List Bool) (c : Nat) : List Bool := (bits.drop (256 * c)).take 256

/-- The sum of block row `i` over the information blocks (R263). -/
def c1Row (info : List Bool) (i : Nat) : List Bool :=
  (List.range 33).foldl (fun a c => addBits a (c1Rotate (c1Shift i c) (bitBlock info c))) (List.replicate 256 false)

/-- The codeword of 8,448 information bits: they, then p0, p1 and p2 (R263). -/
def c1Encode (info : List Bool) : List Bool :=
  let p0 := c1Row info 0
  let p1 := addBits (c1Row info 1) p0
  let p2 := addBits (c1Row info 2) p1
  info ++ p0 ++ p1 ++ p2

/-- The parity checks that bit `t` of a codeword takes part in, of 768 (R263). -/
def c1ChecksOf (t : Nat) : List Nat :=
  let c := t / 256
  let x := t % 256
  if c < 33 then (List.range 3).map (fun i => 256 * i + (x + 256 - c1Shift i c) % 256)
  else if c = 33 then [x, 256 + x]
  else if c = 34 then [256 + x, 512 + x]
  else [512 + x]

/-- All 768 parity checks hold for a codeword read with these bits wrong: every check meets an even number of them (R264). -/
def c1Holds (wrong : List Nat) : Bool :=
  let hit := wrong.flatMap c1ChecksOf
  hit.all (fun n => hit.count n % 2 == 0)

/-- Where information bit `t` of codeword `k` lies: its byte in the frame, and the bit in it as a byte (R263). -/
def c1BytePlace (k t : Nat) : Nat × Byte := (8 * (t / 8) + k, 1#8 <<< (7 - t % 8))

/-- The information bytes of codeword `k` that wrong bits of it change, each with its changed bits. -/
def c1WrongBytes (k : Nat) (wrong : List Nat) : List (Nat × Byte) :=
  let odd := (wrong.filter (fun t => t < c1Info && wrong.count t % 2 == 1)).eraseDups
  (odd.map (fun t => (c1BytePlace k t).1)).eraseDups.map (fun j =>
    (j, (odd.filter (fun t => (c1BytePlace k t).1 == j)).foldl (fun a t => a ^^^ (c1BytePlace k t).2) 0))

/-- Information bits of codeword `k` of a frame's 8,448 information bytes: bytes j with j mod 8 = k, most significant bit first
(R234, R263). -/
def c1InfoOf (info : List Byte) (k : Nat) : List Bool :=
  ((List.range info.length).zip info).flatMap (fun e => if e.1 % 8 = k then bitsMsb e.2 else [])

/-- The 73,728 codeword bits of a frame (R234, R263). -/
def c1Frame (info : List Byte) : List Bool := (List.range 8).flatMap (fun k => c1Encode (c1InfoOf info k))

/-- Seed of a frame's scrambler (R234). -/
def frameSeed (serial fsIndex rewrite track : Nat) : Nat :=
  let v := (BitVec.ofNat 15 (serial * 64 + fsIndex * 2 + (if rewrite = 0 then 0 else 1)) ^^^ BitVec.ofNat 15 (track * 2048)).toNat
  if v = 0 then 1 else v

/-- Codeword bits as they are written: XORed with the generator x^15 + x^14 + 1 (R234). -/
def scrambleFrame (seed : Nat) (bits : List Bool) : List Bool := addBits bits (lfsr 15 14 bits.length seed)

end Sys2Proof.Machine
end

