-- ==== Sys2Proof/Machine/Recorded.lean ====
section
/-!
DEFINITION. What stands on tape, bit by bit: stripes and tracks, the clock sync word, the wedge word, the frame header, the slate
and the block map, and the frames of a cut with their parity (R228-R245, R262-R263, R304).
-/
namespace Sys2Proof.Machine

/-! ### Across the tape (R228, R229, R295) -/

/-- A stripe of the tape. -/
inductive Stripe where
  | guard
  | servo (k : Fin 5)
  | band (b : Fin 4)
deriving DecidableEq, Repr

/-- The stripes from the lower edge of the tape up, with their widths in 0.1 µm: 8.0 mm in all (R228). -/
def stripes : List (Stripe × Nat) :=
  [(.guard, 2000), (.servo 0, 1500), (.band 0, 17125), (.servo 1, 1500), (.band 1, 17125), (.servo 2, 1500), (.band 2, 17125),
   (.servo 3, 1500), (.band 3, 17125), (.servo 4, 1500), (.guard, 2000)]

/-- Lower edge of a stripe above the tape's edge, in 0.1 µm. -/
def stripeEdge (x : Stripe) : Nat := ((stripes.takeWhile (fun e => e.1 != x)).map (·.2)).sum

/-- Band of a wrap (R228). -/
def bandOf (w : Nat) : Nat := w / 24

/-- Track pitch in nm (R228). -/
def trackPitchNm : Nat := 4197

/-- Centre of track `t` of wrap `w` above the lower edge of its band, in half nanometres (R229). -/
def trackCentre (w t : Nat) : Nat := (2 * (24 * t + w % 24) + 1) * trackPitchNm

/-- The tracks that the head writes and reads at once on a wrap: 16 data tracks and the clock track (R228, R229). -/
def wrapTracks (w : Nat) : List Nat := (List.range 17).map (trackCentre w)

/-- The servo tracks that the two servo readers read on a wrap: below and above its band (R229). -/
def servoTracks (w : Nat) : Nat × Nat := (bandOf w, bandOf w + 1)

/-- Whether the PKA-880 writes a stripe: the bands only (R228, R230). -/
def Stripe.written : Stripe → Bool
  | .band _ => true
  | _ => false

/-! ### Words on the tracks (R231, R233) -/

/-- The clock sync word of a frame set (R231). -/
def clockWord (fs serial rewrite : Nat) : BitVec 64 :=
  let up : BitVec 56 := 0xC3#8 ++ BitVec.ofNat 8 fs ++ BitVec.ofNat 32 serial ++ BitVec.ofNat 8 rewrite
  up ++ crc8 (bitsMsb up)

/-- FS_INDEX, CUT_SERIAL and REWRITE_NUMBER of a clock sync word whose CRC passes (R231, R291). -/
def readClockWord (x : BitVec 64) : Option (Nat × Nat × Nat) :=
  if x.extractLsb' 56 8 = 0xC3#8 ∧ crc8 (bitsMsb (x.extractLsb' 8 56)) = x.extractLsb' 0 8 then
    some ((x.extractLsb' 48 8).toNat, (x.extractLsb' 16 32).toNat, (x.extractLsb' 8 8).toNat)
  else none

/-- The embedded servo wedge word (R233). -/
def wedgeWord (wrap track lpos : Nat) : BitVec 64 :=
  let up : BitVec 56 := 0b1010#4 ++ gray (BitVec.ofNat 7 wrap) ++ gray (BitVec.ofNat 4 track) ++ gray (BitVec.ofNat 24 lpos) ++ 0#17
  up ++ crc8 (bitsMsb up)

/-- WRAP, TRACK and LPOS of a valid wedge word (R233). -/
def readWedge (x : BitVec 64) : Option (Nat × Nat × Nat) :=
  if x.extractLsb' 60 4 = 0b1010#4 ∧ crc8 (bitsMsb (x.extractLsb' 8 56)) = x.extractLsb' 0 8 then
    some ((ungray (x.extractLsb' 53 7)).toNat, (ungray (x.extractLsb' 49 4)).toNat, (ungray (x.extractLsb' 25 24)).toNat)
  else none

/-- The servo wedge of a frame: its word four times, true and complemented in turn (R232). -/
def wedgeBits (wrap track lpos : Nat) : List Bool :=
  let w := wedgeWord wrap track lpos
  bitsMsb w ++ bitsMsb (~~~w) ++ bitsMsb w ++ bitsMsb (~~~w)

/-- The pattern 0b1100 repeated (R231, R232). -/
def clockPattern (n : Nat) : List Bool := (List.range n).map (fun i => i % 4 < 2)

/-- The sync mark of a frame (R232). -/
def syncMark : BitVec 64 := 0x3A5C96F10E4BD287#64

/-! ### The frame header (R235) -/

/-- CUT_KIND code (R243). -/
def cutKindCode : CutKind → Nat
  | .data => 1 | .kiln => 2 | .bedrock => 3 | .calibration => 4 | .map => 5

/-- DOMAIN byte of a cut: its domain for domain data and Bedrock cuts (R243). -/
def cutDomain (c : Cut) : Nat :=
  match c.kind, c.dom with
  | .data, some d | .bedrock, some d => d.val
  | _, _ => 0xFF

/-- FS_KIND of a frame set of a cut (R235). -/
def fsKind (fs rewrite : Nat) : Nat := if rewrite ≠ 0 then 3 else if fs < 30 then 1 else 2

/-- Track of frame `n` in frame set `fs` (R236). -/
def frameTrack (fs n : Nat) : Nat := (n + 2 * fs) % 16

/-- Bytes whose last four are the CRC-32C of those before them. -/
def crcHolds (b : List Byte) : Bool := ofLeBytes (b.drop (b.length - 4)) == (crc32c (b.take (b.length - 4))).toNat

/-- Zero bytes. -/
def zeroBytes (n : Nat) : List Byte := List.replicate n 0

/-- The 64 bytes of a frame header, the frame starting at `lpos` on the cartridge `id` (R235). -/
def headerBytes (id : Nat) (c : Cut) (fs rewrite n lpos : Nat) : List Byte :=
  withCrc (leBytes 1 1 ++ leBytes 1 (16 * fsKind fs rewrite + n) ++ leBytes 1 (frameTrack fs n) ++ leBytes 1 c.wrap
    ++ leBytes 4 c.serial ++ leBytes 1 fs ++ leBytes 1 rewrite ++ leBytes 1 (cutKindCode c.kind)
    ++ leBytes 1 (if cutDomain c = 0xFF then 0 else cutDomain c) ++ leBytes 4 lpos ++ leBytes 4 c.gen
    ++ leBytes 8 (id % 2 ^ 64) ++ zeroBytes 32)

/-- A header copy as it is read: its bytes with some bits turned, each byte most significant bit first. -/
def readHeader (flips : List (BitVec 9)) (h : List Byte) : List Byte :=
  bytesOfBits (flipBits (flips.map (·.toNat)) (bitsOfBytes h))

/-- The header of a frame: copy 1 where it is valid, else copy 2 where that is; none where neither is (R235). -/
def usedHeader (one two : List Byte) : Option (List Byte) :=
  if crcHolds one then some one else if crcHolds two then some two else none

/-! ### A cut's payload (R237, R240-R242, R304) -/

/-- Payload bytes of a frame set (R237). -/
def setBytes : Nat := 114688

/-- Where a cut's payload stands: the next byte, and the blocks that start in its frame set (R240). -/
structure Layout where
  pos : Nat
  fs : Nat
  starts : Nat

/-- Where the next block starts: no 193rd block starts in one frame set (R240). -/
def Layout.next (l : Layout) : Nat :=
  if 192 ≤ (if l.pos / 114688 = l.fs then l.starts else 0) then (l.pos / 114688 + 1) * 114688 else l.pos

/-- Lay a block: no 193rd block starts in one frame set (R240). -/
def layBlock (l : Layout) (length : Nat) : Layout :=
  let fs := l.pos / 114688
  let starts := if fs = l.fs then l.starts else 0
  if 192 ≤ starts then ⟨(fs + 1) * 114688 + length, fs + 1, 1⟩ else ⟨l.pos + length, fs, starts + 1⟩

/-- Where a cut's payload ends. -/
def layoutOf (blocks : List Block) : Layout := blocks.foldl (fun x b => layBlock x b.length) ⟨0, 0, 0⟩

/-- Blocks with the payload byte of the cut at which each starts. -/
def placedFrom (l : Layout) : List Block → List (Nat × Block)
  | [] => []
  | b :: bs => (l.next, b) :: placedFrom (layBlock l b.length) bs

/-- The blocks of a cut with the payload byte at which each starts (R240, R241). -/
def placedBlocks (c : Cut) : List (Nat × Block) := placedFrom ⟨0, 0, 0⟩ c.blocks

/-- The payload of a calibration cut: the generator x^31 + x^28 + 1 from the wrap number plus 1 (R304). -/
def calibrationBytes (wrap : Nat) : List Byte := bytesOfBits (lfsr 31 28 (8 * cutPayload) (wrap + 1))

/-- The 3,440,640 payload bytes of a cut; what no block fills is zero (R238, R241, R304). -/
def cutBytes (c : Cut) : List Byte :=
  if c.kind = .calibration then calibrationBytes c.wrap
  else
    let bytes := (placedBlocks c).foldl (fun out b => out ++ zeroBytes (b.1 - out.length) ++ blockBytes b.2) []
    bytes ++ zeroBytes (cutPayload - bytes.length)

/-- KEY of a block map entry (R241). -/
def blockKey (b : Block) : Nat :=
  match b.kind with
  | .log => ((b.pieces.find? (fun p => p.off == 0)).map (·.seq)).getD 0
  | .sector | .rawSector | .kiln => ((b.pieces.head?).map (·.seq)).getD 0
  | _ => 0

/-- BLOCK_KIND code (R241). -/
def blockKindCode : BlockKind → Nat
  | .log => 1 | .sector => 2 | .rawSector => 3 | .kiln => 4 | .map => 5 | .calibration => 6

/-- The block map entry of a block (R241). -/
def blockEntry (at' : Nat) (b : Block) : List Byte :=
  let target := match b.kind with
    | .log | .sector | .rawSector => b.target
    | _ => 0
  leBytes 3 (at' % setBytes) ++ leBytes 1 (16 * blockKindCode b.kind + target) ++ leBytes 4 b.length ++ leBytes 8 (blockKey b)

/-- Blocks that start in a frame set, in payload order. -/
def blocksStarting (c : Cut) (fs : Nat) : List (Nat × Block) := (placedBlocks c).filter (fun b => b.1 / setBytes == fs)

/-! ### The slate (R243) -/

/-- FIRST_SEQ and LAST_SEQ of a log: the takes whose headers start in the cut. -/
def logRange (c : Cut) (log : Nat) : Nat × Nat :=
  let seqs := (c.blocks.filter (fun b => b.kind == .log && b.target == log)).flatMap (fun b =>
    (b.pieces.filter (fun p => p.off == 0)).map (·.seq))
  match seqs with
  | [] => (0, 0)
  | n :: ns => (ns.foldl min n, ns.foldl max n)

/-- Sectors of a volume in a cut. -/
def volumeCount (c : Cut) (v : Nat) : Nat :=
  ((c.blocks.filter (fun b => (b.kind == .sector || b.kind == .rawSector) && b.target == v)).map (·.pieces.length)).sum

/-- KIND_FIELDS: BEDROCK_GEN is the serial of the generation's first cut, and PART counts from 0 (DESIGN CHOICE, log entry 159). -/
def kindFields (c : Cut) : List Byte :=
  let seqs := (c.blocks.flatMap (·.pieces)).map (·.seq)
  match c.kind, c.chain with
  | .kiln, _ => leBytes 8 (seqs.head?.getD 0) ++ leBytes 8 (seqs.getLast?.getD 0)
  | .bedrock, .zone z => leBytes 4 c.generation ++ leBytes 1 z.val ++ leBytes 1 (b2n c.last) ++ leBytes 2 c.part ++ zeroBytes 8
  | .map, _ => leBytes 4 ((c.blocks.map (·.length)).sum / 16) ++ leBytes 1 c.part ++ leBytes 1 c.parts ++ zeroBytes 10
  | _, _ => zeroBytes 16

/-- The 512 bytes of a cut's slate on the cartridge `id` (R243). -/
def slate (id : Nat) (c : Cut) : List Byte :=
  withCrc ([0x53#8, 0x4C#8, 0x54#8, 0x45#8] ++ leBytes 1 1 ++ leBytes 1 (cutKindCode c.kind) ++ leBytes 1 (cutDomain c)
    ++ leBytes 1 (b2n c.padded + 2 * b2n c.replacement + 4 * b2n c.reallocated)
    ++ leBytes 4 c.serial ++ leBytes 4 c.previous ++ leBytes 4 c.retires ++ leBytes 1 c.wrap ++ zeroBytes 3
    ++ leBytes 4 (lposAt c.chain c.wrap c.start) ++ leBytes 4 c.gen ++ leBytes 16 id
    ++ leBytes 4 (payloadBytes c) ++ leBytes 2 c.blocks.length ++ zeroBytes 2 ++ leBytes 8 c.writer
    ++ (List.range 16).flatMap (fun n => leBytes 8 (logRange c n).1 ++ leBytes 8 (logRange c n).2)
    ++ (List.range 4).flatMap (fun v => leBytes 4 (volumeCount c v)) ++ zeroBytes 16 ++ kindFields c ++ zeroBytes 140)

/-- The slate of a cut: the first copy in FS_INDEX order whose CRC passes (R243). -/
def firstSlate (copies : List (List Byte)) : Option (List Byte) := copies.find? crcHolds

/-- The metadata of a data frame set: a slate copy and the block map (R240). -/
def metadata (id : Nat) (c : Cut) (fs : Nat) : List Byte :=
  let entries := (blocksStarting c fs).flatMap (fun b => blockEntry b.1 b.2)
  slate id c ++ entries ++ zeroBytes (3072 - entries.length)

/-! ### Frames with their parity (R236-R238) -/

/-- A data frame's 8,448 information bytes: its payload, then its metadata (R237). -/
def dataFrame (id : Nat) (c : Cut) (fs n : Nat) : List Byte :=
  ((cutBytes c).drop (setBytes * fs + 8192 * n)).take 8192 ++ ((metadata id c fs).drop (256 * n)).take 256

/-- The two parity frames of frames that stand side by side, byte by byte: C2 over 16 of them, C3 over 32 (R236, R238). -/
def parityFrames (frames : List (List Byte)) : List Byte × List Byte :=
  let n := frames.length + 2
  ((List.range 8448).map (fun j => (rsParity n (frames.map (fun f => f.getD j 0))).1),
   (List.range 8448).map (fun j => (rsParity n (frames.map (fun f => f.getD j 0))).2))

/-- Data frame position `n` of frame set `fs`: of a data frame set, or of a C3 parity frame set (R238). -/
def setFrame (id : Nat) (c : Cut) (fs n : Nat) : List Byte :=
  if fs < 30 then dataFrame id c fs n
  else
    let p := parityFrames ((List.range 30).map (fun f => dataFrame id c f n))
    if fs = 30 then p.1 else p.2

/-- The information bytes of frame `n` of frame set `fs`: frames 14 and 15 are C2 parity (R236). -/
def frameInfo (id : Nat) (c : Cut) (fs n : Nat) : List Byte :=
  if n < 14 then setFrame id c fs n
  else
    let p := parityFrames ((List.range 14).map (setFrame id c fs))
    if n = 14 then p.1 else p.2

/-! ### A cut along the tape (R232, R269, R273) -/

/-- The frame sets of a cut in write order, each with its REWRITE_NUMBER and the trailing window before it: a rewrite stands behind
the frame set written after the one it repeats, or behind the last (R269, R270). -/
def writeOrder : Nat → List Nat → List (Nat × Nat) → Nat → List (Nat × Nat × Nat) → List (Nat × Nat × Nat)
  | 0, _, _, _, done => done
  | fuel + 1, originals, rewrites, k, done =>
    match rewrites, originals with
    | [], [] => done
    | [], f :: fs => writeOrder fuel fs [] k (done ++ [(f, 0, 0)])
    | (g, window) :: rs, [] => writeOrder fuel [] rs (k + 1) (done ++ [(g, k, window)])
    | (g, window) :: rs, f :: fs =>
      if done.dropLast.getLast?.any (fun e => e.1 == g) then writeOrder fuel (f :: fs) rs (k + 1) (done ++ [(g, k, window)])
      else writeOrder fuel fs ((g, window) :: rs) k (done ++ [(f, 0, 0)])

/-- The frame sets of a cut in write order. -/
def setsOf (c : Cut) : List (Nat × Nat × Nat) := writeOrder (33 + c.rewrites.length) (List.range 32) c.rewrites 1 []

/-- Channel bits from the start of a cut to a frame set of it. -/
def setStart (c : Cut) (fs rewrite : Nat) : Nat :=
  let before := (setsOf c).takeWhile (fun e => !(e.1 == fs && e.2.1 == rewrite))
  (before.map (fun e => e.2.2 + frameSetBits)).sum + (((setsOf c).drop before.length).head?.map (·.2.2)).getD 0

/-- LPOS at which a frame set of a cut starts. -/
def setLpos (c : Cut) (fs rewrite : Nat) : Nat := lposAt c.chain c.wrap (c.start + setStart c fs rewrite)

/-- The copies of a frame set, the highest REWRITE_NUMBER first (R273). -/
def copiesOf (c : Cut) (fs : Nat) : List Nat :=
  (((List.range c.rewrites.length).zip c.rewrites).filter (fun e => e.2.1 == fs)).reverse.map (fun e => e.1 + 1) ++ [0]

/-- The 76,032 channel bits of a frame (R232). -/
def frameBits (id : Nat) (c : Cut) (fs rewrite n : Nat) : List Bool :=
  let lpos := setLpos c fs rewrite
  let track := frameTrack fs n
  let header := bitsOfBytes (headerBytes id c fs rewrite n lpos)
  clockPattern 832 ++ wedgeBits c.wrap track lpos ++ bitsMsb syncMark ++ header
    ++ scrambleFrame (frameSeed c.serial fs rewrite track) (c1Frame (frameInfo id c fs n)) ++ header ++ clockPattern 128

/-- The clock track over a frame set: the pattern with the clock sync word where the data tracks have their sync mark (R231). -/
def clockBits (c : Cut) (fs rewrite : Nat) : List Bool :=
  let p := clockPattern frameSetBits
  p.take 1088 ++ bitsMsb (clockWord fs c.serial rewrite) ++ p.drop 1152

/-- What the 17 tracks hold over a frame set, by track: the data tracks' frames and the clock track (R228, R231, R236). -/
def setTracks (id : Nat) (c : Cut) (fs rewrite : Nat) : List (List Bool) :=
  (List.range 16).map (fun t => frameBits id c fs rewrite ((t + 32 - 2 * fs % 16) % 16)) ++ [clockBits c fs rewrite]

end Sys2Proof.Machine
end

