-- ==== Sys2Proof/Machine/Cuts.lean ====
section
/-!
DEFINITION. Cuts: the areas of the chains, the spare pool, wear, how a cut is started and closed, and how one is built
from waiting content (R238-R251, R274-R282, R341-R351).
-/
namespace Sys2Proof.Machine

/-! ### Areas (R239, R245-R248, R350) -/

/-- The wraps with calibration cuts (R248). -/
def calibrationWraps : List Nat := [4, 28, 52, 76]

/-- The calibration cuts stand at both ends of this area. -/
def hasCalibration (c : Chain) (w : Nat) : Bool := c == .data && calibrationWraps.contains w

/-- Channel bits of the frame-set lengths an area keeps free before a cut starts (R239). -/
def cutRoom : Nat := 36 * frameSetBits

/-- Where cuts of an area begin: behind the calibration cut where there is one. -/
def areaFirst (s : State) (c : Chain) (w : Nat) : Nat :=
  if hasCalibration c w then
    (((tapeCuts s).find? (fun x => x.kind == .calibration && x.wrap == w && x.start == 0)).map (·.length)).getD (32 * frameSetBits)
  else 0

/-- Where cuts of an area end. -/
def areaLast (c : Chain) (w : Nat) : Nat := areaBits c w - (if hasCalibration c w then cutRoom else 0)

/-- Position of a chain. -/
def chainAt (s : State) (c : Chain) : ChainPos := vget s.cart.chains (chainNo c)

/-- Change a chain's position. -/
def modChain (c : Chain) (f : ChainPos → ChainPos) (s : State) : State :=
  { s with cart := { s.cart with chains := vset s.cart.chains (chainNo c) (f (chainAt s c)) } }

/-- Cut positions of the data area on a wrap (R245). -/
def dataPositions (w : Nat) : Nat := if w ≤ 1 then 3107 else if w ≤ 3 then 3866 else 4142

/-- Change the cartridge unit. -/
def modCart (f : Cart → Cart) (s : State) : State := { s with cart := f s.cart }

/-! ### Wear (R278, R279, R282) -/

/-- Channel bits of an eighth of a pass: 90 m (R278). -/
def eighthBits : Nat := 90 * metreBits

/-- Bits written on a wrap since the wear block was last written, remainders included. -/
def wearRest (s : State) (w : Nat) : Nat :=
  ((s.cart.wearBits.find? (fun e => some e.1 == tapeId s && e.2.1 == w)).map (·.2.2)).getD 0

/-- Eighths of a pass of a wrap in the wear block. -/
def wearStored (s : State) (w : Nat) : Nat := (((tape s).bind (·.wear)).bind (fun l => l[w]?)).getD 0

/-- Eighths of a pass of a wrap. -/
def wearOf (s : State) (w : Nat) : Nat := wearStored s w + wearRest s w / eighthBits

/-- The wear objects (R282). -/
def refreshWear (s : State) : State :=
  s |> setObj Obj.maxWrapEighths (((List.range 96).map (wearOf s)).foldl max 0)
    |> setObj Obj.wornWraps s.cart.worn.length

/-- Warn of a wrap's wear, and mark a worn wrap (R279). -/
def judgeWear (w : Nat) (s : State) : State :=
  let n := wearOf s w
  let s1 := if 38000 ≤ n ∧ !s.cart.warned.contains w then
      s |> modCart (fun c => { c with warned := c.warned ++ [w] }) |> postEvent 0x050C unitCartridge w else s
  if 40000 ≤ n ∧ !s.cart.worn.contains w then
    s1 |> modCart (fun c => { c with worn := c.worn ++ [w] }) |> postEvent 0x050D unitCartridge w
  else s1

/-- Tape written on a wrap, in channel bits (R278). -/
def addWear (w bits : Nat) (s : State) : State :=
  let rest := wearRest s w + bits
  let others := s.cart.wearBits.filter (fun e => !(some e.1 == tapeId s && e.2.1 == w))
  let mine := (tapeId s).toList.map (fun id => (id, w, rest))
  s |> modCart (fun c => { c with wearBits := others ++ mine })
    |> judgeWear w |> refreshWear

/-- The wear block is written: whole eighths move into it, and at unload every remainder is rounded up (R278). -/
def flushWear (unload : Bool) (s : State) : State :=
  let whole : Nat → Nat := fun b => if unload then ceilDiv b eighthBits else b / eighthBits
  let add : Nat → Nat := fun w => whole (wearRest s w)
  let left := if unload then s.cart.wearBits.filter (fun e => some e.1 != tapeId s)
    else s.cart.wearBits.map (fun e => if some e.1 = tapeId s then (e.1, e.2.1, e.2.2 % eighthBits) else e)
  s |> modTape (fun c => { c with wear := some ((List.range 96).map (fun w => wearStored s w + add w)) })
    |> modCart (fun c => { c with wearBits := left })

/-- The present zone entries of a wrap (R287). -/
def zoneEntries (s : State) (w : Nat) : List Nat := (List.range 8).map (fun z => obj s (Obj.zone w z))

/-- Changed zone records go to the cartridge memory (R289). -/
def flushZones (s : State) : State :=
  s |> modTape (fun c => { c with zones := (List.range 96).map (fun w =>
        if s.cart.zonesChanged.contains w then some (zoneEntries s w) else (c.zones[w]?).join) })
    |> modCart (fun c => { c with zonesChanged := [] })

/-- A state block is written, the wear block before it (R256, R278). -/
def updateMemory (f : StateBlock → StateBlock) (s : State) : State :=
  s |> flushWear false |> writeStateBlock (fun b => { f b with nextSerial := s.jour.nextSerial })

/-! ### The spare pool (R248, R350) -/

/-- Frame-set lengths charged in units that are not free. -/
def totalCharge (s : State) : Nat :=
  (((List.range 96).filter (fun w => !unitFree s w)).map (fun w =>
    (((tapeCuts s).filter (fun c => c.chain == .data && c.wrap == w)).map (·.charge)).sum)).sum

/-- Positions of worn wraps that hold no content (R279). -/
def wornLoss (s : State) : Nat :=
  (s.cart.worn.map (fun w => dataPositions w
    - ((tapeCuts s).filter (fun c => c.chain == .data && c.wrap == w && cutLive s c)).length)).sum

/-- SPARE_CUTS_LEFT and DATA_CUTS follow the charges; reaching 0 is reported (R248). -/
def refreshSpare (s : State) : State :=
  if !s.cart.threaded then s
  else
    let used := totalCharge s / 32
    let old := obj s Obj.spareCutsLeft
    s |> setObj Obj.spareCutsLeft (1016 - used) |> setObj Obj.dataCuts (393986 - (used - 1016) - wornLoss s)
      |> (fun t => if old ≠ 0 ∧ 1016 ≤ used then postEvent 0x050A unitCartridge 0 t else t)

/-- Charge frame-set lengths to a cut's unit. -/
def addCharge (serial n : Nat) (s : State) : State :=
  s |> modCut serial (fun c => { c with charge := c.charge + n }) |> refreshSpare

/-- The map objects that follow the cuts on tape. -/
def refreshTape (s : State) : State := s |> refreshCuts |> refreshSpare

/-! ### The next area -/

/-- The free unit with the fewest wear eighths, ties to the lower wrap, never a worn one (R350). -/
def leastWorn (s : State) : Option Nat :=
  ((freeUnits s).filter (fun w => !wrapWorn s w)).foldl (fun best w =>
    match best with
    | none => some w
    | some b => if wearOf s w < wearOf s b then some w else some b) none

/-- The wrap a chain goes on in after `w` (R245, R246, R279, R350). -/
def nextArea (s : State) (c : Chain) (w : Nat) : Option Nat :=
  if c = .data then
    let fresh := if s.cart.filled then none else (List.range 96).find? (fun x => w < x && !wrapWorn s x)
    match fresh with
    | some x => some x
    | none => leastWorn s
  else nextWrap c w

/-- Open an area for writing: what lay there is dead and goes (R350). -/
def openArea (c : Chain) (w : Nat) (s : State) : State :=
  let filled := s.cart.filled || (c == .data && decide (w ≤ (chainAt s c).wrap))
  let s1 := if c = .data then
      modTape (fun m => { m with cuts := m.cuts.filter (fun x => !(x.chain == .data && x.wrap == w && x.kind != .calibration)) }) s
    else s
  s1 |> modCart (fun x => { x with filled := filled })
    |> (fun t => modChain c (fun p => { p with wrap := w, bits := areaFirst t c w, abandons := 0 }) t)

/-- The rest of a data area stays blank and is charged to the last cut in it (R239, R248). -/
def blankEnd (c : Chain) (s : State) : State :=
  let p := chainAt s c
  let rest := areaLast c p.wrap - p.bits
  if c = .data then addCharge p.serial (ceilDiv rest frameSetBits) s else s

/-- Kiln cuts of a wrap; at most 1,024 are used (R245, R246). -/
def kilnCutsOn (s : State) (w : Nat) : Nat := ((tapeCuts s).filter (fun c => c.chain == .kiln && c.wrap == w)).length

/-- The chain of a Bedrock zone. -/
def zoneChain : Chain → Bool
  | .zone _ => true
  | _ => false

/-- Cuts of the generation in a zone; at most 256 positions are used (R245, R247). -/
def zoneCutsOn (s : State) (c : Chain) : Nat := ((tapeCuts s).filter (fun x => x.chain == c)).length

/-- A cut may start at a chain's position. -/
def roomHere (s : State) (c : Chain) : Bool :=
  let p := chainAt s c
  p.bits + cutRoom ≤ areaLast c p.wrap && !(c == .kiln && decide (1024 ≤ kilnCutsOn s p.wrap))
    && !(c == .data && wrapWorn s p.wrap) && !(zoneChain c && decide (256 ≤ zoneCutsOn s c))

/-- Go to where the chain's next cut starts; none where the chain is full. -/
def findRoom (c : Chain) (s : State) : Option State :=
  if roomHere s c then some s
  else (nextArea s c (chainAt s c).wrap).map (fun w => s |> blankEnd c |> openArea c w)

/-! ### Starting a cut (R243, R244) -/

/-- The unit's objects of the threaded cartridge that show serials (R261). -/
def takeSerial (s : State) : State :=
  { s with jour := { s.jour with nextSerial := s.jour.nextSerial + 1 } } |> setObj Obj.nextSerial (s.jour.nextSerial + 1)

/-- A cut that starts at a place of a chain: it has its serial, and PREVIOUS_SERIAL is the chain's (R239, R244). -/
def freshCut (c : Chain) (p : ChainPos) (serial gen writer : Nat) : Cut :=
  { serial := serial, previous := p.serial, retires := 0, order := serial, kind := .data, dom := none, padded := false
    replacement := false, reallocated := false, retired := false, complete := false, bad := false, chain := c
    wrap := p.wrap, start := p.bits, length := 0, gen := gen, generation := 0, last := false, charge := 0
    writer := writer, part := 0, parts := 0, rewrites := [], blocks := [] }

/-- A cut that replaces a cut, or none. -/
def replacing (r : Option Nat) (cut : Cut) : Cut :=
  match r with
  | some n => { cut with replacement := true, retires := n }
  | none => cut

/-- The serial that a power loss left to replace, for the first data-area cut that replaces no other (R382). -/
def replayFor (s : State) (c : Chain) (cut : Cut) : Option Nat :=
  if c = .data ∧ cut.retires = 0 then s.cart.replay else none

/-- Start a cut where the chain's next cut goes: serial and place are the chain's (R239, R244); after a power loss the first
data-area cut replaces the cut that it cut short (R382). -/
def placeCut (c : Chain) (f : Cut → Cut) (source : List CompBlock) (s : State) : State :=
  let p := chainAt s c
  let cut := f (freshCut c p s.jour.nextSerial (obj s Obj.formatGen) (writerId s))
  let after := replayFor s c cut
  s |> takeSerial
    |> modCart (fun x => { x with openCut := some ⟨replacing after cut, .writing, source, [], []⟩
                                  replay := if after.isSome then none else x.replay })
    |> modXport (fun x => { x with servo := { x.servo with wrap := p.wrap }, forward := p.wrap % 2 == 0 })

/-- Start a cut of a chain that has room. -/
def startCut (c : Chain) (f : Cut → Cut) (source : List CompBlock) (s : State) : State :=
  ((findRoom c s).map (placeCut c f source)).getD s

/-! ### Building from waiting content (R341-R343) -/

/-- The group a sector block belongs to. -/
def groupKey (b : CompBlock) : Option (Nat × Nat) :=
  if b.isLog then none else (b.block.pieces.head?).map (fun p => (b.target, p.seq / 16))

/-- Blocks that go to tape together: a log block alone, the sectors of a group (R343). -/
def splitUnits : List CompBlock → List (List CompBlock)
  | [] => []
  | b :: bs =>
    match splitUnits bs with
    | (c :: u) :: us => if (groupKey b).isSome ∧ groupKey b = groupKey c then (b :: c :: u) :: us else [b] :: (c :: u) :: us
    | us => [b] :: us

/-- A cut holds less content than its 30 frame sets can: PADDED (R242). -/
def cutShort (blocks : List Block) : Bool := decide ((layoutOf blocks).pos < cutPayload)

/-- Fill a cut with units until the next would pass its payload: the blocks, and whether it is full (R341). -/
def fillCut (l : Layout) : List (List CompBlock) → List CompBlock × Bool
  | [] => ([], false)
  | u :: us =>
    if u.any (fun b => b.stage != .ready) then ([], false)
    else
      let l' := u.foldl (fun x b => layBlock x b.block.length) l
      if cutPayload < l'.pos then ([], true)
      else
        let r := fillCut l' us
        (u ++ r.1, r.2)

/-- A domain's blocks of the path, in order. -/
def domainBlocks (s : State) (d : Dom) : List CompBlock := s.comp.blocks.filter (fun b => b.dom == d)

/-- What the domain's next cut would hold, and whether it is full. -/
def domainFill (s : State) (d : Dom) : List CompBlock × Bool := fillCut ⟨0, 0, 0⟩ (splitUnits (domainBlocks s d))

/-- Everything the domain has waiting is ready for a cut. -/
def allReady (s : State) (d : Dom) : Bool :=
  (domainBlocks s d).all (fun b => b.stage == .ready) && s.comp.gathers.all (fun g => g.dom != d)

/-- The oldest waiting content of a domain, by commit number. -/
def oldestWaiting (s : State) (d : Dom) : Option Nat :=
  (((domainBlocks s d).map (·.oldest))
    ++ ((s.comp.gathers.filter (fun g => g.dom == d)).filterMap (fun g => (g.pieces.head?).map (·.commit)))).min?

/-- Only the 2 free units kept for reclaim copies remain (R351). -/
def unitsKept (s : State) : Bool := s.cart.filled && decide ((freeUnits s).length ≤ 2)

/-- A domain cut of a domain may be built: full, or short for a flush (R341, R342). -/
def buildable (s : State) (flush : Bool) (d : Dom) : Bool :=
  let r := domainFill s d
  !unitsKept s && (if flush then flushDue s d && r.1 != [] && (r.2 || allReady s d) else r.2)

/-- The domain with the oldest waiting byte among those that may be served, ties to the lower number (R341). -/
def chooseDomain (s : State) (flush : Bool) : Option Dom :=
  (allDoms.filter (buildable s flush)).foldl (fun best d =>
    match best with
    | none => some d
    | some b => if (oldestWaiting s d).getD 0 < (oldestWaiting s b).getD 0 then some d else some b) none

/-- The allocator needs what a domain's logs gather to complete a cut: for a flush, or where the blocks alone do not fill a cut and
the whole waiting content does (R209). -/
def needsGathered (s : State) (d : Dom) : Bool :=
  flushDue s d || (decide (cutPayload ≤ waitingBytes s d) && !(domainFill s d).2
    && (domainBlocks s d).all (fun b => b.stage == .ready))

/-- Logs whose waiting content a cut needs have it closed into blocks (R209). -/
def closeForCut (s : State) : State :=
  allDoms.foldl (fun t d =>
    if needsGathered t d then
      (t.comp.gathers.filter (fun g => g.dom == d)).foldl (fun u g => closeGather d g.log u) t
    else t) s

/-- Build a domain's next cut: its blocks leave their pages for staging SRAM, and what waits for pages goes on (R17, R206, R341,
R342). PADDED_CUTS counts every domain cut that PADDED marks (DEDUCED, log entry 157). -/
def buildDomainCut (d : Dom) (s : State) : State :=
  let r := domainFill s d
  let n := r.1.length
  let keep := (domainBlocks s d).drop n
  let others := s.comp.blocks.filter (fun b => b.dom != d)
  let s1 := modComp (fun c => { c with blocks := others ++ keep })
    { s with sched := { s.sched with aged := s.sched.aged.filter (· != d) } }
  let blocks := r.1.map (·.block)
  let s2 := startCut .data (fun c => { c with dom := some d, padded := cutShort blocks, blocks := blocks }) r.1 s1
  runPagers (servePages (if cutShort blocks then bump Obj.paddedCuts s2 else s2))

/-- Frame sets of the open cut in staging SRAM, by FS_INDEX: from cut building until each has verified, itself or in a rewrite
(R17, R206, R272). -/
def stagedSets (s : State) : List Nat :=
  match s.cart.openCut with
  | some o => (List.range 32).filter (fun n => !o.passed.contains n)
  | none => []

/-! ### Closing a cut -/

/-- Channel bits of an open cut's content: 32 frame sets, its rewrites and its trailing windows. -/
def openLength (o : OpenCut) : Nat :=
  32 * frameSetBits + (o.rewrites.filter (fun r => r.1 != 0xFE)).length * frameSetBits + o.cut.length

/-- Note a cut in the last 64 (R275). -/
def noteRecent (abandoned : Bool) (s : State) : State :=
  modCart (fun c => { c with recent := (abandoned :: c.recent).take 64 }) s

/-- Enter a cut in page 0x84 (R276). -/
def logRewrite (o : OpenCut) (outcome forced : Nat) (s : State) : State :=
  modCart (fun c => { c with
    rewriteTotal := c.rewriteTotal + 1
    rewriteMap := ({ serial := o.cut.serial, wrap := o.cut.wrap, dom := (o.cut.dom.map (·.val)).getD 0xFF
                     outcome := outcome, positions := o.rewrites, lpos := lposAt o.cut.chain o.cut.wrap o.cut.start
                     forced := forced, time := nowUs s } :: c.rewriteMap).take 64 }) s

/-- CONSECUTIVE_ABANDONS follows the chain written last (R277). -/
def showAbandons (c : Chain) (s : State) : State := setObj Obj.consecutiveAbandons (chainAt s c).abandons s

/-- The cut ends on tape: it joins the cuts, and its chain goes on after it. -/
def layDown (cut : Cut) (s : State) : State :=
  s |> modTape (fun m => { m with cuts := m.cuts ++ [cut] })
    |> modChain cut.chain (fun p => { p with bits := cut.start + cut.length, serial := cut.serial })
    |> addWear cut.wrap cut.length
    |> modCart (fun c => { c with openCut := none })

end Sys2Proof.Machine
end

