-- ==== Sys2Proof/Machine/Decoding.lean ====
section
/-!
DEFINITION. Decoding what the read channel hands over: the frames of a cut, C1 with the copies of a frame set, C2 and C3, and the
bytes that stay unrecovered (R235, R264-R268, R273, R292, R297).
-/
namespace Sys2Proof.Machine

/-! ### The detector's schedule (R292) -/

/-- Pairs of tracks that a global iteration detects jointly, each over one 16-state trellis (R292). -/
def jointPairs (iteration : Nat) : List (Nat × Nat) :=
  if iteration % 2 = 1 then (List.range 8).map (fun i => (2 * i, 2 * i + 1)) else (List.range 7).map (fun i => (2 * i + 1, 2 * i + 2))

/-- Tracks that a global iteration detects alone (R292). -/
def loneTracks (iteration : Nat) : List Nat := if iteration % 2 = 1 then [] else [0, 15]

/-- A track's trellis has the last two bits as its state, a pair's trellis both tracks' states (R292). -/
abbrev TrackState := Bool × Bool
/-- State of a joint pair: 16 of them. -/
abbrev PairState := TrackState × TrackState

/-- The signal level of a bit. -/
def bitLevel (b : Bool) : Int := if b then 1 else -1

/-- A branch of a track's trellis: the next state, and the equalised sample of the target 1 + 2D + D² (R283, R292). -/
def trackBranch (x : TrackState) (b : Bool) : TrackState × Int := ((b, x.1), bitLevel b + 2 * bitLevel x.1 + bitLevel x.2)

/-- A branch of a pair's trellis (R292). -/
def pairBranch (x : PairState) (a b : Bool) : PairState × Int × Int :=
  let l := trackBranch x.1 a
  let u := trackBranch x.2 b
  ((l.1, u.1), l.2, u.2)

/-- Interference that is taken from a track's sample, in 1/256: that of its lower and upper neighbour by their expected samples;
of the clock track the known pattern, and from the second global iteration on the neighbours' soft decisions of the one before
(R286, R292). -/
def interference (itiLower itiUpper lower upper : Int) : Int := itiLower * lower + itiUpper * upper

/-- Global iterations that the decoding of a frame set runs: until all its codewords are decoded, or to the limit (R292). -/
def iterationsRun (limit : Nat) (words : List Nat) : Nat := if words.all (· ≤ limit) then words.foldl max 1 else limit

/-! ### C1 (R235, R264, R273, R297) -/

/-- Nothing failed and nothing wrong. -/
def Symbols.clean : Symbols := ⟨[], []⟩

/-- A codeword is decoded: all its parity checks hold within the iterations allowed, and no bit of it was sampled past the holdover
limit (R264, R291). -/
def wordDecoded (limit : Nat) (w : WordRead) : Bool :=
  !w.late && decide (w.iterations.toNat ≤ limit) && c1Holds (w.wrong.map (·.toNat))

/-- At least 3 of the 4 wedge copies of a frame pass a test of wrap, track and LPOS (R268, R297). -/
def threeWedges (ok : Nat × Nat × Nat → Bool) (words : List DWord) : Bool := decide (3 ≤ (words.filter (fun w => (readWedge w).any ok)).length)

/-- The wedge words of a frame as read. -/
def wedgesRead (c : Cut) (fs copy : Nat) (r : FrameRead) : List DWord :=
  r.wedges.toList.map (fun m => wedgeWord c.wrap (frameTrack fs r.frame.val) (setLpos c fs copy) ^^^ m)

/-- The wedges of a frame name another wrap or track: at least 3 of its copies do (R297; DEDUCED, log entry 160). -/
def wedgesElsewhere (c : Cut) (fs copy : Nat) (r : FrameRead) : Bool :=
  threeWedges (fun x => x.1 != c.wrap || x.2.1 != frameTrack fs r.frame.val) (wedgesRead c fs copy r)

/-- The header of a frame as written. -/
def headerOf (id : Nat) (c : Cut) (fs copy n : Nat) : List Byte := headerBytes id c fs copy n (setLpos c fs copy)

/-- A frame can be taken from a copy: its sync mark was found, a header copy is valid and is this frame's, and its wedges name no
other place (R235, R264, R297). -/
def frameUsable (id : Nat) (c : Cut) (x : CopyRead) : Bool :=
  let h := headerOf id c x.fs.toNat x.copy.toNat x.read.frame.val
  x.read.sync && usedHeader (readHeader x.read.header1 h) (readHeader x.read.header2 h) == some h
    && !wedgesElsewhere c x.fs.toNat x.copy.toNat x.read

/-- A frame's codewords that are not clean. -/
def wordOf (r : FrameRead) (k : Nat) : Option WordRead := r.words.find? (fun w => w.k.val == k)

/-- Codeword `k` of a frame of a copy is decoded. -/
def copyDecodes (id : Nat) (c : Cut) (limit k : Nat) (x : CopyRead) : Bool :=
  frameUsable id c x && ((wordOf x.read k).map (wordDecoded limit)).getD true

/-- A frame of a copy decodes: all its 8 codewords do (R273). -/
def frameDecodes (id : Nat) (c : Cut) (limit : Nat) (x : CopyRead) : Bool := (List.range 8).all (fun k => copyDecodes id c limit k x)

/-- A frame of a copy as it was read; one that the read does not list is clean. -/
def readOf (reads : List CopyRead) (fs copy n : Nat) : CopyRead :=
  (reads.find? (fun x => x.fs.toNat == fs && x.copy.toNat == copy && x.read.frame.val == n)).getD
    ⟨BitVec.ofNat 5 fs, BitVec.ofNat 3 copy, ⟨Fin.ofNat 16 n, true, [], [], Vector.replicate 4 0, []⟩⟩

/-- Where codeword `k` of a frame is taken from: the copy with the highest REWRITE_NUMBER whose frame decodes, else the highest
one in which the codeword decodes (R273). DEDUCED: log entry 188. -/
def sourceCopy (id : Nat) (c : Cut) (limit : Nat) (reads : List CopyRead) (fs n k : Nat) : Option CopyRead :=
  let copies := (copiesOf c fs).map (fun r => readOf reads fs r n)
  (copies.find? (frameDecodes id c limit)).orElse (fun _ => copies.find? (copyDecodes id c limit k))

/-- Frames that some copy was read with something not clean: frame set and frame. -/
def dirtyFrames (reads : List CopyRead) : List (Nat × Nat) := (reads.map (fun x => (x.fs.toNat, x.read.frame.val))).eraseDups

/-- What C1 makes of a read of a cut (R264, R273). -/
def c1Decode (id : Nat) (c : Cut) (limit : Nat) (reads : List CopyRead) : Symbols :=
  let words := (dirtyFrames reads).flatMap (fun f => (List.range 8).map (fun k => (f.1, f.2, k)))
  { failed := words.filter (fun w => (sourceCopy id c limit reads w.1 w.2.1 w.2.2).isNone)
    wrong := words.flatMap (fun w =>
      match (sourceCopy id c limit reads w.1 w.2.1 w.2.2).bind (fun x => wordOf x.read w.2.2) with
      | some x => (c1WrongBytes w.2.2 (x.wrong.map (·.toNat))).map (fun b => (w.1, w.2.1, b.1, b.2))
      | none => ([] : List (Nat × Nat × Nat × Byte))) }

/-- Codewords that failed C1 in every copy that was read, as 0x2C04:01 counts them (R277). -/
def c1Failures (id : Nat) (c : Cut) (limit : Nat) (reads : List CopyRead) : Nat :=
  ((reads.filter (fun x => (copiesOf c x.fs.toNat).contains x.copy.toNat)).map (fun x =>
    ((List.range 8).filter (fun k => !copyDecodes id c limit k x)).length)).sum

/-! ### C2 (R265) -/

/-- Frames of a frame set whose codeword `k` failed. -/
def failedFrames (y : Symbols) (fs k : Nat) : List Nat := (y.failed.filter (fun e => e.1 == fs && e.2.2 == k)).map (·.2.1)

/-- Wrong symbols of a position of a frame set after C1. -/
def wrongAt (y : Symbols) (fs j : Nat) : List (Nat × Byte) := (y.wrong.filter (fun e => e.1 == fs && e.2.2.1 == j)).map (fun e => (e.2.1, e.2.2.2))

/-- C2 over byte position `j` of a frame set (R265). -/
def c2At (y : Symbols) (fs j : Nat) : RsResult := rsFix 16 (failedFrames y fs (j % 8)) (wrongAt y fs j)

/-- A symbol is still erased after C2 (R265, R266). -/
def stillErased (y : Symbols) (fs n j : Nat) : Bool := y.failed.contains (fs, n, j % 8) && c2At y fs j == .failed

/-- Wrong symbols of a position of a frame set after C2; a failed position keeps what C1 decoded (R265). -/
def wrongAfterC2 (y : Symbols) (fs j : Nat) : List (Nat × Byte) :=
  match c2At y fs j with
  | .kept w | .fixed w => w
  | .failed => wrongAt y fs j

/-- Positions of a frame set at which C1 left something wrong. -/
def oddPositions (y : Symbols) (fs k : Nat) : List Nat :=
  ((y.wrong.filter (fun e => e.1 == fs && e.2.2.1 % 8 == k)).map (·.2.2.1)).eraseDups

/-- Positions that C2 corrects and fails on, in a frame set's codeword index `k`: a position without wrong symbols goes by its
erasures alone (R265). -/
def c2Tally (y : Symbols) (fs k : Nat) : Nat × Nat :=
  let odd := (oddPositions y fs k).map (c2At y fs)
  let rest := 1056 - odd.length
  let n := (failedFrames y fs k).length
  let fixed := (odd.filter (fun r => match r with
    | .fixed _ => true
    | _ => false)).length
  ((if n = 1 ∨ n = 2 then rest else 0) + fixed, (if 3 ≤ n then rest else 0) + (odd.filter (· == .failed)).length)

/-- Frame sets and codeword indices at which something failed or is wrong. -/
def c2Classes (y : Symbols) : List (Nat × Nat) :=
  let failed : List (Nat × Nat) := y.failed.map (fun e => (e.1, e.2.2))
  let wrong : List (Nat × Nat) := y.wrong.map (fun e => (e.1, e.2.2.1 % 8))
  (failed ++ wrong).eraseDups

/-- Positions that C2 corrected and failed on in a cut (R265, R277). -/
def c2Counts (y : Symbols) : Nat × Nat :=
  let l := (c2Classes y).map (fun e => c2Tally y e.1 e.2)
  ((l.map (·.1)).sum, (l.map (·.2)).sum)

/-! ### C3 (R266) -/

/-- Frame sets whose symbol at frame `n` and position `j` is still erased (R266). -/
def erasedSets (y : Symbols) (n j : Nat) : List Nat := (List.range 32).filter (fun fs => stillErased y fs n j)

/-- Wrong symbols of frame `n` and position `j` after C2, by frame set. -/
def wrongSets (y : Symbols) (n j : Nat) : List (Nat × Byte) :=
  (List.range 32).flatMap (fun fs => ((wrongAfterC2 y fs j).filter (fun e => e.1 == n)).map (fun e => (fs, e.2)))

/-- C3 over frame position `n` and byte position `j`; with one erasure the other check detects a further wrong symbol (R266;
DEDUCED, log entry 161). -/
def c3At (y : Symbols) (n j : Nat) : RsResult := rsFix 32 (erasedSets y n j) (wrongSets y n j)

/-- Byte positions at which some frame set has something wrong. -/
def oddBytes (y : Symbols) : List Nat := (y.wrong.map (·.2.2.1)).eraseDups

/-- Frame sets in which codeword index `k` of frame `n` failed with too many others for C2. -/
def lostSets (y : Symbols) (n k : Nat) : List Nat :=
  (List.range 32).filter (fun fs => y.failed.contains (fs, n, k) && decide (3 ≤ (failedFrames y fs k).length))

/-- Positions that C3 corrects and fails on, at frame `n` in codeword index `k`, those with wrong bytes apart. -/
def c3Tally (y : Symbols) (n k : Nat) : Nat × Nat :=
  let rest := 1056 - ((oddBytes y).filter (fun j => j % 8 == k)).length
  let e := (lostSets y n k).length
  (if e = 1 ∨ e = 2 then rest else 0, if 3 ≤ e then rest else 0)

/-- Positions that C3 corrected and failed on in a cut (R266, R277). -/
def c3Counts (y : Symbols) : Nat × Nat :=
  let plain := ((y.failed.map (·.2)).eraseDups.filter (fun e => e.1 < 14)).map (fun e => c3Tally y e.1 e.2)
  let odd := (oddBytes y).flatMap (fun j => (List.range 14).map (fun n => c3At y n j))
  ((plain.map (·.1)).sum + (odd.filter (fun r => match r with
      | .fixed _ => true
      | _ => false)).length,
   (plain.map (·.2)).sum + (odd.filter (· == .failed)).length)

/-- A data byte is unrecovered: C3 fails at its position, where the byte was erased, or where a wrong symbol was found and none was
erased (R266; DEDUCED, log entry 161). -/
def byteLost (y : Symbols) (fs n j : Nat) : Bool :=
  c3At y n j == .failed && (stillErased y fs n j || erasedSets y n j == [])

/-- Bits in which a data byte that counts as recovered differs from what was written. -/
def byteWrong (y : Symbols) (fs n j : Nat) : Byte :=
  let l := match c3At y n j with
    | .kept w | .fixed w => w
    | .failed => wrongSets y n j
  l.foldl (fun a e => if e.1 = fs then a ^^^ e.2 else a) 0

/-! ### Needed bytes (R299) -/

/-- What a reader needs of a cut: runs of payload bytes, and the frame sets whose metadata it needs. -/
structure Needed where
  payload : List (Nat × Nat)
  metadata : List Nat
deriving DecidableEq, Repr

/-- Frame set, frame and byte position of a payload byte of the cut (R237). -/
def payloadPlace (q : Nat) : Nat × Nat × Nat := (q / setBytes, q % setBytes / 8192, q % setBytes % 8192)

/-- The payload byte of the cut at a place, for the places that hold payload. -/
def placePayload (fs n j : Nat) : Nat := setBytes * fs + 8192 * n + j

/-- A data byte is needed. -/
def byteNeeded (x : Needed) (fs n j : Nat) : Bool :=
  if j < 8192 then
    let q := placePayload fs n j
    x.payload.any (fun r => r.1 ≤ q && decide (q < r.1 + r.2))
  else x.metadata.contains fs

/-- The bytes of codeword index `k` of a frame are unrecovered, positions with wrong bytes apart: too many frames failed for C2 and
too many frame sets for C3 (R265, R266). -/
def classLost (y : Symbols) (fs n k : Nat) : Bool := (lostSets y n k).contains fs && decide (3 ≤ (lostSets y n k).length)

/-- Some data byte among those that `need` names is unrecovered. -/
def lostIn (y : Symbols) (need : Nat → Nat → Nat → Bool) : Bool :=
  (y.failed.filter (fun e => e.1 < 30 && e.2.1 < 14)).any (fun e => classLost y e.1 e.2.1 e.2.2
      && (List.range 1056).any (fun m => need e.1 e.2.1 (8 * m + e.2.2) && !(oddBytes y).contains (8 * m + e.2.2)))
    || (oddBytes y).any (fun j => (List.range 30).any (fun fs => (List.range 14).any (fun n => need fs n j && byteLost y fs n j)))

/-- Every needed byte is recovered (R299). -/
def allRecovered (y : Symbols) (x : Needed) : Bool := !lostIn y (byteNeeded x)

/-- Some slate copy of a cut is wholly recovered (R243, R252). -/
def slateRecovered (y : Symbols) : Bool :=
  (List.range 30).any (fun fs => !lostIn y (fun f n j => f == fs && n < 2 && decide (8192 ≤ j)))

/-- Payload bytes of the cut that were read wrong without being found wrong, each with the bits that differ (R262, R265). -/
def payloadWrong (y : Symbols) : List (Nat × Byte) :=
  (oddBytes y).flatMap (fun j => if j < 8192 then
      (List.range 30).flatMap (fun fs => (List.range 14).filterMap (fun n =>
        let x := byteWrong y fs n j
        if x = 0 then none else some (placePayload fs n j, x)))
    else [])

/-! ### The verify margin (R268) -/

/-- The tests of the verify margin that a frame fails, as bits of MISS_REASON. A frame without its sync mark has no header copy
and no codeword; COMPARE is judged on codewords that decode (DEDUCED, log entry 162). -/
def frameMiss (s : State) (id : Nat) (c : Cut) (fs copy : Nat) (r : FrameRead) : Nat :=
  let limit := obj s Obj.verifyIterations
  let n := r.frame.val
  let here : Nat × Nat × Nat → Bool := fun x => x == (c.wrap, frameTrack fs n, setLpos c fs copy)
  let h := headerOf id c fs copy n
  let words := r.words.map (fun w => wordDecoded limit w)
  b2n (!r.sync || !(crcHolds (readHeader r.header1 h) && readHeader r.header1 h == h && crcHolds (readHeader r.header2 h)
      && readHeader r.header2 h == h))
    + 2 * b2n (!threeWedges here (wedgesRead c fs copy r))
    + 4 * b2n (!r.sync || words.any (!·))
    + 8 * b2n (r.words.any (fun w => decide (obj s Obj.verifyBitLimit < w.corrected.toNat)))
    + 16 * b2n (r.words.any (fun w => wordDecoded limit w && c1WrongBytes w.k.val (w.wrong.map (·.toNat)) != []))
    + 64 * b2n (!r.sync)

/-- OR of two MISS_REASONs. -/
def orMiss (a b : Nat) : Nat := (BitVec.ofNat 7 a ||| BitVec.ofNat 7 b).toNat

/-- MISS_REASON of a frame set: the tests its frames fail, and CLOCK where its clock sync word was not read as written (R268). -/
def missReason (s : State) (id : Nat) (c : Cut) (fs copy : Nat) (clock : DWord) (frames : List FrameRead) : Nat :=
  (frames.map (frameMiss s id c fs copy)).foldl orMiss (32 * b2n (clock != 0))

/-- Codewords that fail C1 in the verification of a frame set (R277). -/
def verifyFailures (s : State) (frames : List FrameRead) : Nat :=
  (frames.map (fun r => if r.sync then (r.words.filter (fun w => !wordDecoded (obj s Obj.verifyIterations) w)).length else 8)).sum

end Sys2Proof.Machine
end

