-- ==== Sys2Proof/Machine/Channel.lean ====
section
/-!
DEFINITION. The AFE chain of the read channel: its stages, the seeds of its values, and their adaptation (R283-R289).
-/
namespace Sys2Proof.Machine

/-! ### The stages (R283) -/

/-- Gain of the amplifier in 0.125 dB: 0 to 30 dB. -/
def vgaGain (g : Int) : Int := clampI g 0 240

/-- Asymmetry corrector: a × x² is subtracted from a sample of `x`, with `a` in 1 % from -16 to +15; both in units of which 100
make one (R283). -/
def asymCorrect (a x : Int) : Int := x - openDiv (clampI a (-16) 15 * x * x) 10000

/-- Offset DAC in 0.5 ADC LSB: ±16 LSB. -/
def offsetDac (o : Int) : Int := clampI o (-32) 32

/-- The 6-bit ADC over a level in 0.5 LSB, the offset DAC's share taken off. -/
def adcSample (offset level : Int) : Int := clampI ((level - offsetDac offset) / 2) (-32) 31

/-- The 10-tap FIR equaliser over the last samples, newest first. -/
def firOut (taps samples : List Int) : Int := (List.zipWith (· * ·) (taps.take 10) samples).sum

/-- The target response 1 + 2D + D² over the last three bits, newest first. -/
def targetOut (b0 b1 b2 : Int) : Int := b0 + 2 * b1 + b2

/-- An LMS step of the taps towards the target, with the step `mu` (R283 names LMS and no step: log entry 163). -/
def lmsStep (mu err : Int) (taps samples : List Int) : List Int := List.zipWith (fun t x => t - mu * err * x) taps samples

/-- Filter corner: it follows the speed step, which gives the channel rate in kb/s (R260, R283). -/
def filterCorner (step : Nat) : Nat := 17500 + 3500 * step

/-- Bytes of the equalised samples of a frame set: 6 bits of each channel bit of 16 tracks (R283, R294). -/
def sampleBytes : Nat := 16 * 76032 * 6 / 8

/-! ### Seeds (R284-R287, R299) -/

/-- BASE_GAIN of an element (R286). -/
def baseGain (s : State) (e : Nat) : Int := (obj s (Obj.elementTrim e) / 2 ^ 24 % 256 : Nat)

/-- Zone of an LPOS (R287). -/
def zoneAt (lpos : Int) : Nat := (clampI (lpos / 900000) 0 7).toNat

/-- Fields of a zone entry: gain above BASE_GAIN in 0.125 dB, offset, asymmetry, lateral offset (R287). -/
def zoneGain (e : Nat) : Int := 2 * ((e / 2 ^ 18 % 64 : Nat) - 32)
/-- Offset in 0.5 LSB. -/
def zoneOffset (e : Nat) : Int := ofBits 6 (e / 2 ^ 12)
/-- Asymmetry in 1 %. -/
def zoneAsym (e : Nat) : Int := ofBits 5 (e / 2 ^ 7)
/-- LATERAL in 1/256 pitch. -/
def zoneLateral (e : Nat) : Int := ofBits 7 e

/-- Seed of an AFE: head trim plus zone entry, with what a re-read adds in 0.125 dB and in 1 % (R284, R299). -/
def afeSeed (s : State) (entry : Nat) (gain asym : Int) (e : Nat) : Afe :=
  let g := vgaGain (baseGain s e + zoneGain entry + gain)
  { seed := g, gain := g, offset := offsetDac (zoneOffset entry), asym := clampI (zoneAsym entry + asym) (-16) 15 }

/-- A read of the wrap followed starts: every AFE is seeded from the zone where it starts (R284). -/
def seedChannel (gain asym : Int) (s : State) : State :=
  let v := s.xport.servo
  let entry := obj s (Obj.zone v.wrap (zoneAt v.lpos))
  modXport (fun x => { x with servo := { x.servo with afe := Vector.ofFn (fun e => afeSeed s entry gain asym e.val) } }) s

/-- What the adaptation brings an AFE to: the gain within ±6 dB of its seed, offset and asymmetry over their ranges (R283). -/
def adaptAfe (a : Afe) (r : AfeRead) : Afe :=
  { a with gain := vgaGain (clampI r.gain.toNat (a.seed - 48) (a.seed + 48)), offset := offsetDac r.offset.toInt
           asym := clampI r.asym.toInt (-16) 15 }

/-- The AFEs adapt while a track is read; a zone's end reloads no seed (R283, R284). -/
def adaptChannel (adapted : Vector AfeRead 17) (s : State) : State :=
  modXport (fun x => { x with servo := { x.servo with afe := Vector.ofFn (fun e => adaptAfe (vget x.servo.afe e) (vget adapted e)) } }) s

/-- Mean of a value over the 16 data elements, rounded to the nearest, halves up (DESIGN CHOICE, log entry 164). -/
def dataMean (f : Fin 17 → Int) (unit : Int) : Int :=
  let n := 16 * unit
  ((((List.finRange 17).filter (fun e => e.val < 16)).map f).sum * 2 + n) / (2 * n)

/-- A zone entry from its fields in their units, each clamped to its range (R287, R289). -/
def zoneEntry (gain offset asym lateral : Int) : Nat :=
  2 ^ 18 * (clampI gain (-32) 31 + 32).toNat + 2 ^ 12 * toBits 6 (clampI offset (-32) 31)
    + 2 ^ 7 * toBits 5 (clampI asym (-16) 15) + toBits 7 (clampI lateral (-64) 63)

/-- The entry that a pass stores for a zone it leaves: adapted gain above BASE_GAIN in 0.25 dB, adapted offset and asymmetry, and
the mean lateral error added to LATERAL (R289). -/
def adaptedEntry (s : State) (old : Nat) (lateral : Int) : Nat :=
  let a := s.xport.servo.afe
  zoneEntry (dataMean (fun e => (vget a e).gain - baseGain s e.val) 2) (dataMean (fun e => (vget a e).offset) 1)
    (dataMean (fun e => (vget a e).asym) 1) (zoneLateral old + lateral)

end Sys2Proof.Machine
end

