-- ==== Sys2Proof/Machine/DeviceCuts.lean ====
section
/-!
DEFINITION. Device cuts: map checkpoints, reallocation cuts, Kiln cuts, Bedrock generations and reclaim copies
(R246-R249, R301, R343-R351, R409).
-/
namespace Sys2Proof.Machine

/-! ### Map checkpoints (R249) -/

/-- Bits for the targets a cut's blocks of some kinds have. -/
def targetMask (c : Cut) (sel : BlockKind → Bool) : Nat :=
  ((List.range 16).map (fun n => if c.blocks.any (fun b => sel b.kind && b.target == n) then 2 ^ n else 0)).sum

/-- A map checkpoint entry (R249). -/
def mapEntry (c : Cut) : List Byte :=
  leBytes 4 c.serial ++ leBytes 4 c.order ++ leBytes 3 (lposAt c.chain c.wrap c.start) ++ leBytes 1 c.wrap
    ++ leBytes 1 (cutKindCode c.kind + 16 * (c.dom.map (·.val)).getD 0 + 128 * b2n (c.retired || !c.complete))
    ++ leBytes 1 (targetMask c (fun k => k == .sector || k == .rawSector)) ++ leBytes 2 (targetMask c (· == .log))

/-- The cuts a checkpoint lists, in serial order. -/
def mappedCuts (s : State) : List Cut :=
  sortBy (·.serial) ((tapeCuts s).filter (fun c => c.chain == .data && c.kind == .data))

/-- Entries of one checkpoint cut. -/
def mapPart : Nat := 215040

/-- First cut of the checkpoint under way, once it has verified (R378). -/
def mapFirst (s : State) : Option Nat := (opOf s 7).bind (fun o => if o.step = 0 then none else some o.param)

/-- Build the next cut of a map checkpoint. -/
def buildMapCut (s : State) : State :=
  let all := mappedCuts s
  let s1 := if (opOf s 7).isNone then openOp 7 0 s else s
  let first := mapFirst s1
  let part := if first.isSome then all.drop mapPart else all.take mapPart
  let bytes := part.flatMap mapEntry
  startCut .data (fun c => { c with
    kind := .map, part := b2n first.isSome, parts := if all.length ≤ mapPart then 1 else 2, generation := first.getD c.serial, last := first.isSome || decide (all.length ≤ mapPart)
    padded := bytes.length != cutPayload, blocks := [⟨.map, 0, bytes.length, [⟨0, 0, 0, bytes⟩], []⟩] }) [] s1

/-! ### Reallocation (R301, R302) -/

/-- Write a recovered cut again: in the data area, or in the next Kiln band position (R301). -/
def buildReallocCut (r : Realloc) (s : State) : State :=
  match findCut s r.serial with
  | none => { s with cart := { s.cart with reallocs := s.cart.reallocs.filter (· != r) } }
  | some old =>
    let chain : Chain := if old.kind = .kiln then .kiln else .data
    s |> startCut chain (fun c => { c with
          kind := old.kind, dom := old.dom, padded := old.padded, reallocated := true, retires := old.serial, order := old.order
          blocks := old.blocks }) []
      |> modCart (fun y => { y with reallocs := y.reallocs.map (fun x =>
          if x.serial = r.serial then { x with replacement := y.openCut.map (fun o => o.cut.serial) } else x) })

/-! ### Kiln cuts (R246, R409) -/

/-- First record a Kiln cut may hold. -/
def kilnFirst (s : State) : Nat := max ((cartState s).kilnLastSeq + 1) (s.kiln.confirmed + 1)

/-- Records a Kiln cut holds at most (R246). -/
def kilnCutRecords : Nat := 21504

/-- Copies for the next Kiln cut: ascending from the first, without a hole. -/
def kilnRun (s : State) : List KilnRecord :=
  let from' := sortBy (·.seq) (s.kiln.copies.filter (fun r => kilnFirst s ≤ r.seq))
  let start := ((from'.head?).map (·.seq)).getD 0
  (((List.range from'.length).zip from').filter (fun p => p.2.seq == start + p.1)).map (·.2) |>.take kilnCutRecords

/-- The age timer of the waiting records stops: a Kiln cut takes them (R246). -/
def clearCutDue (s : State) : State := { s with kiln := { s.kiln with cutDue := false } }

/-- Build a Kiln cut. -/
def buildKilnCut (s : State) : State :=
  match kilnRun s with
  | [] => clearCutDue s
  | r :: rs =>
    let ps : List Piece := (r :: rs).map (fun x => ⟨x.seq, 0, 0, x.bytes⟩)
    let n := 160 * (rs.length + 1)
    s |> startCut .kiln (fun c => { c with
          kind := .kiln, padded := n != cutPayload, blocks := [⟨.kiln, 0, n, ps, []⟩] }) []
      |> clearCutDue

/-- Kiln cuts on the cartridge, every written one counted (R246). -/
def kilnCutsUsed (s : State) : Nat := kilnCutsOn s 0 + kilnCutsOn s 1

/-! ### Bedrock generations (R247, R347) -/

/-- A zone's wrap is worn (R279). -/
def zoneWorn (s : State) (z : Fin 2) : Bool := wrapWorn s (2 + z.val)

/-- The zone of the newest complete generation. -/
def newestZone (s : State) : Option (Fin 2) :=
  let a := vget s.cart.zones 0
  let b := vget s.cart.zones 1
  if a.complete && b.complete then (if a.first < b.first then some 1 else some 0)
  else if a.complete then some 0 else if b.complete then some 1 else none

/-- The zone the next generation goes to: the one without the newest complete generation, unless its wrap is worn. -/
def nextZone (s : State) : Option (Fin 2) :=
  let z : Fin 2 := if newestZone s = some 0 then 1 else 0
  let w : Fin 2 := if z = 0 then 1 else 0
  if !zoneWorn s z then some z else if !zoneWorn s w then some w else none

/-- Written groups of a domain's volume 0, in order. -/
def bootGroups (s : State) (d : Dom) : List Nat :=
  sortBy id ((s.cart.index.entries.filter (fun e => e.dom == d && e.volume == 0)).map (·.group))

/-- The groups of one domain in cuts of 52 (R343). -/
def groupCuts : Nat → List Nat → List (List Nat)
  | 0, _ => []
  | fuel + 1, gs => if gs = [] then [] else gs.take 52 :: groupCuts fuel (gs.drop 52)

/-- The cuts of a generation: each with its domain and groups. -/
def generationCuts (s : State) : List (Dom × List Nat) :=
  (allDoms.filter (configured s)).flatMap (fun d =>
    (groupCuts ((bootGroups s d).length + 1) (bootGroups s d)).map (fun g => (d, g)))

/-- Blocks of a group as the data area holds them (R345, R347). -/
def tapedGroup (s : State) (d : Dom) (v g : Nat) : List Block :=
  match indexOf s d v g with
  | none => []
  | some e =>
    let of (serial : Nat) : List Block := ((findCut s serial).map (fun c => c.blocks.filter (fun b =>
      (b.kind == .sector || b.kind == .rawSector) && b.target == v && b.pieces.any (fun p => p.seq / 16 == g)))).getD []
    let new := of e.newest
    let has (b : Block) : Bool := new.any (fun n => n.pieces.map (·.seq) == b.pieces.map (·.seq))
    new ++ (if e.older = 0 then [] else (of e.older).filter (fun b => !has b))

/-- Change a zone. -/
def modZone (z : Fin 2) (f : Zone → Zone) (s : State) : State :=
  modCart (fun c => { c with zones := vset c.zones z (f (vget c.zones z)) }) s

/-- A zone without its old generation: the next one is written from its start. -/
def clearZone (z : Fin 2) (s : State) : State :=
  s |> modTape (fun m => { m with cuts := m.cuts.filter (fun c => c.chain != .zone z) })
    |> modChain (.zone z) (fun p => { p with wrap := 2 + z.val, bits := 0, abandons := 0 })

/-- Begin a generation, or find that none can be written (R347). -/
def startGeneration (s : State) : State :=
  let off := { s with sched := { s.sched with bedrockDue := false } }
  match generationCuts s, nextZone s with
  | [], _ => modCart (fun c => { c with zones := Vector.ofFn (fun z => { vget c.zones z with marked := false }) }) off
  | _, none => postEvent 0x0804 unitDevice 0
      (modCart (fun c => { c with zones := Vector.ofFn (fun z => { vget c.zones z with marked := false }) }) off)
  | cuts, some z =>
    off |> clearZone z |> modZone z (fun x => { x with writing := true, complete := false }) |> openOp 5 z.val
      |> (fun t => { t with sched := { t.sched with bedrock := some (z, cuts) } })

/-- Build the next cut of the generation under way. -/
def buildBedrockCut (s : State) : State :=
  match s.sched.bedrock with
  | some (z, (d, gs) :: rest) =>
    let blocks := gs.flatMap (tapedGroup s d 0)
    let isFirst : Bool := (opOf s 5).all (fun o => o.step == 0)
    let s1 := if isFirst then modZone z (fun x => { x with first := s.jour.nextSerial }) s else s
    startCut (.zone z) (fun c => { c with
      kind := .bedrock, dom := some d, part := ((opOf s 5).map (·.step)).getD 0, generation := (vget s1.cart.zones z).first, last := rest == []
      padded := cutShort blocks, blocks := blocks }) [] s1
  | _ => s

/-! ### Reclaim (R351) -/

/-- Live cuts of a unit. -/
def unitLive (s : State) (w : Nat) : List Nat :=
  ((tapeCuts s).filter (fun c => c.chain == .data && c.wrap == w && c.kind == .data && cutLive s c)).map (·.serial)

/-- A unit that is not free holds a dead or partly live cut. -/
def unitGain (s : State) (w : Nat) : Bool :=
  (tapeCuts s).any (fun c => c.chain == .data && c.wrap == w && c.kind != .calibration &&
    (!cutLive s c || c.dom.any (fun d => c.blocks.any (fun b => !blockLive s d c.serial b))))

/-- The unit to reclaim: the fewest live cuts, ties to the lower wear, then to the lower wrap; a unit that only waits for a
newer checkpoint has nothing to copy. -/
def reclaimUnit (s : State) : Option Nat :=
  (((List.range 96).filter (fun w => !unitFree s w && (chainAt s .data).wrap != w && unitGain s w && unitLive s w != [])).foldl (fun best w =>
    match best with
    | none => some w
    | some b =>
      let lw := (unitLive s w).length
      let lb := (unitLive s b).length
      if lw < lb ∨ (lw = lb ∧ wearOf s w < wearOf s b) then some w else some b) (none : Option Nat))

/-- Reclaim starts once few free units remain after the first fill; with nothing to reclaim it is reported once (R351). -/
def reclaimCheck (s : State) : State :=
  if s.cart.filled && s.sched.reclaim.isNone && decide ((freeUnits s).length ≤ obj s Obj.reclaimThreshold) then
    match reclaimUnit s with
    | some w => openOp 2 w { s with sched := { s.sched with reclaim := some (w, unitLive s w), stalled := false } }
    | none =>
      if s.sched.stalled || (List.range 96).any (fun w => !unitFree s w && (chainAt s .data).wrap != w && unitGain s w) then s
      else postEvent 0x0802 unitDevice 0 { s with sched := { s.sched with stalled := true } }
  else s

/-- A reclaimed unit is done once its last source cut is retired (R351). -/
def stepReclaim (old : Nat) (s : State) : State :=
  match s.sched.reclaim with
  | some (w, n :: rest) =>
    if n = old then
      let s1 := { s with sched := { s.sched with reclaim := if rest = [] then none else some (w, rest) } }
      if rest = [] then endOp 2 s1 else stepOp 2 (((opOf s 2).map (·.step)).getD 0 + 1) w s1
    else s
  | _ => s

/-- Copy the next source cut: its live blocks, in its place in the order. -/
def buildReclaimCut (s : State) : State :=
  match s.sched.reclaim with
  | some (_, n :: _) =>
    match (findCut s n).bind (fun c => if cutLive s c then some c else none) with
    | none => stepReclaim n s
    | some old =>
      let blocks := old.blocks.filter (fun b => old.dom.any (fun d => blockLive s d old.serial b))
      startCut .data (fun c => { c with
        dom := old.dom, padded := cutShort blocks, reallocated := true, retires := old.serial, order := old.order
        blocks := blocks }) [] s
  | _ => s

end Sys2Proof.Machine
end

