-- ==== Sys2Proof/Machine/Scheduler.lean ====
section
/-!
DEFINITION. The motion scheduler: work at a cut boundary, speed steps, bursts, backhitches and the claim of P0
(R341, R342, R352-R360).
-/
namespace Sys2Proof.Machine

/-! ### What is served at a boundary (R352) -/

/-- Tape work at a cut boundary. -/
inductive Work where
  | read (r : ReadWork)
  | kiln
  | domain (d : Dom)
  | map
  | realloc (r : Realloc)
  | generation
  | bedrock
  | reclaim
  | index (serial : Nat)
  | dailies (serial : Nat)
deriving DecidableEq, Repr

/-- The first choice there is. -/
def firstWork : List (Option Work) → Option Work
  | [] => none
  | some w :: _ => some w
  | none :: rest => firstWork rest

/-- Offer a kind of work under a condition. -/
def offer (b : Bool) (w : Work) : Option Work := if b then some w else none

/-- The work served next: the lowest class first; within class 7 checkpoint, reallocation, domain cuts, index rebuild and
Bedrock in this order (R352; the order within class 7 is the model's, log entry 21). -/
def chooseWork (s : State) : Option Work :=
  let data := (findRoom .data s).isSome
  let read (cls : Nat) : Option Work := (nextRead s).bind (fun r => offer (r.cls == cls && readsMay s) (.read r))
  let dom (flush : Bool) : Option Work := if data then (chooseDomain s flush).map .domain else none
  firstWork [
    read 3,
    offer (kilnCutDue s && (findRoom .kiln s).isSome && decide (kilnCutsUsed s < 2048)) .kiln,
    (nextRealloc s true).map .realloc,
    dom true,
    read 6,
    offer (s.cart.mapDue && data) .map,
    (nextRealloc s false).bind (fun r => offer data (.realloc r)),
    dom false,
    ((indexNext s).orElse (fun _ => fetchNext s)).bind (fun n => offer (readsMay s) (.index n)),
    offer s.sched.bedrock.isSome .bedrock,
    offer (bedrockWaits s && s.sched.bedrock.isNone) .generation,
    offer (s.sched.reclaim.isSome && data) .reclaim,
    ((selfTestNext s).orElse (fun _ => dailiesNext s)).map .dailies]

/-- The chain a cut of the work goes to. -/
def Work.chain (s : State) : Work → Option Chain
  | .kiln => some .kiln
  | .domain _ | .map | .reclaim => some .data
  | .realloc r => some (if (findCut s r.serial).any (fun c => c.kind == .kiln) then .kiln else .data)
  | .bedrock => s.sched.bedrock.map (fun b => .zone b.1)
  | _ => none

/-- Build the cut of the work. -/
def buildWork (w : Work) (s : State) : State :=
  match w with
  | .kiln => buildKilnCut s
  | .domain d => buildDomainCut d s
  | .map => buildMapCut s
  | .realloc r => buildReallocCut r s
  | .bedrock => buildBedrockCut s
  | .reclaim => buildReclaimCut s
  | _ => s

/-! ### Speed (R355-R358) -/

/-- Tape speed of a step in Q16.16 m/s. -/
def stepTarget (n : Nat) : Int := (stepSpeed n * 65536 / 1000 : Nat)

/-- Run at the present step in the present direction. -/
def runAtStep (s : State) : State :=
  modXport (fun x => { x with target := if x.forward then stepTarget s.sched.step else -stepTarget s.sched.step }) s

/-- The step the last evaluations ask for at a boundary, within CAP_STEP (R356, R358, R359). -/
def wantedStep (s : State) : Nat :=
  let step := s.sched.step
  let down := if 3 ≤ s.sched.lower.length then min step ((s.sched.lower.map (fun x => x.getD 0)).foldl max 0) else step
  let want :=
    if s.sched.pooled then 0
    else match s.sched.target with
      | some t =>
        if step < t then t
        else down
      | none => down
  min want (capStep s)

/-- A change of step lets the next cut start within 0.4 m: the ramp at RAMP_ACCEL and 20 ms of settling (R356). -/
def stepFits (s : State) (old new : Nat) : Bool :=
  let v1 : Int := stepSpeed old
  let v2 : Int := stepSpeed new
  let a := objQ16 s Obj.rampAccel
  decide ((v2 * v2 - v1 * v1).natAbs * 65536 * 50 + v2 * 2000 * a ≤ 40000000 * a)

/-- The step at this boundary: one or two steps towards the wanted one, as many as fit; none where not even one fits. -/
def boundaryStep (s : State) : Option Nat :=
  let cur := s.sched.step
  let want := wantedStep s
  if want = cur then some cur
  else
    let go (n : Nat) : Nat := if cur < want then cur + n else cur - n
    let far := if cur < want then want - cur else cur - want
    if 2 ≤ far ∧ stepFits s cur (go 2) then some (go 2)
    else if stepFits s cur (go 1) then some (go 1) else none

/-- Enter a step. -/
def setStep (n : Nat) (s : State) : State :=
  { s with sched := { s.sched with step := n } }

/-! ### The claim of P0 (R360) -/

/-- Content still missing for a burst to start, in bytes (R359). -/
def missingBytes (s : State) : Nat :=
  let w := allDoms.map (waitingBytes s)
  if s.sched.pooled then 13762560 - w.sum else cutPayload - w.foldl max 0

/-- The next burst start is projected within 10 s, at the inflow of the last interval in whole kB/s as INFLOW_KBPS shows it. -/
def burstNear (s : State) : Bool :=
  (s.cart.state == .ready || s.cart.state == .draining) && decide (missingBytes s ≤ 10000 * obj s Obj.inflowKbps)

/-! ### Bursts (R357, R359) -/

/-- A burst ends and the backhitch starts; P0 stays claimed until it has placed the tape. -/
def endBurst (s : State) : State :=
  { s with sched := { s.sched with burst := false, mode := .idle, workClass := 0, claim := !s.sched.enteringP1 } }
    |> stopTape |> bump Obj.backhitches |> pollPower

/-- The tape stands within the search window of a cut's place: 0.5 m on its wrap (R254, R359). -/
def tapeAt (s : State) (c : Chain) : Bool :=
  let p := chainAt s c
  s.xport.servo.wrap == p.wrap && decide (((lposAt c p.wrap p.bits : Int) - s.xport.servo.lpos).natAbs ≤ 5000)

/-- Serve a choice of work at a boundary. -/
def serveWork (w : Work) (s : State) : State :=
  match w with
  | .read r => startExcursion r.cls r.serial s
  | .index n => startExcursion 7 n s
  | .dailies n => startExcursion 9 n s
  | .generation => startGeneration s
  | w =>
    match (w.chain s).bind (fun c => (findRoom c s).map (fun t => (c, t))) with
    | none => s
    | some (c, t) =>
      let p := chainAt t c
      match seedCut t p.wrap with
      | some x => startExcursion 7 x.serial s
      | none => if tapeAt t c then runAtStep (buildWork w s) else startLocate (lposAt c p.wrap p.bits) p.wrap s

/-- At a boundary nothing is chosen: a pooled burst ends; while streaming the tape runs on for up to 0.4 m. -/
def boundaryIdle (s : State) : State := if s.sched.pooled then endBurst s else s

/-- A burst runs at a cut boundary: no cut open, no locate under way. -/
def atBoundary (s : State) : Bool :=
  s.sched.burst && s.xport.state == .moving && s.xport.servo.locate.isNone && s.cart.openCut.isNone
    && s.cart.ladder.isNone && !s.power.failing && !s.recov.rebuilding && !s.cart.calibration

/-- CUT_BOUNDARY: the next cut is built, or the speed changes first, or the burst ends (R341, R352, R356, R359, R372). -/
def execCutBoundary (s : State) : Host.Outcome State Fault Refusal :=
  .next (working 0x0D s (
    if !atBoundary s then s
    else if !s.power.ready then endBurst s
    else
      let s1 := reclaimCheck (closeForCut s)
      match boundaryStep s1 with
      | none => endBurst (setStep (if s1.sched.step < wantedStep s1 then s1.sched.step + 1 else s1.sched.step - 1) s1)
      | some n =>
        let s2 := runAtStep (setStep n s1)
        match chooseWork s2 with
        | none => boundaryIdle s2
        | some w => serveWork w s2))

/-- STREAM_GAP_EXPIRY: nothing came within 0.4 m; the burst ends and the step falls by one (R357). -/
def execStreamGapExpiry (s : State) : Host.Outcome State Fault Refusal :=
  .next (live s (
    if atBoundary s && !s.sched.pooled && (chooseWork s).isNone then
      endBurst (setStep (s.sched.step - 1) s)
    else s))

/-- A burst may start now: device cuts are due, or a domain's cut, or a pooled start's content is there (R359). -/
def burstDue (s : State) : Bool :=
  match chooseWork s with
  | none => false
  | some (.read _) | some (.index _) | some (.dailies _) => false
  | some (.domain d) => !s.sched.pooled || flushDue s d || decide (13762560 ≤ ((allDoms.map (waitingBytes s)).sum))
  | some _ => true

/-- A burst opens, pooled or streaming as the last evaluation found; it claims the tape unless P1 is being entered. -/
def openBurst (s : State) : State :=
  { s with sched := { s.sched with burst := true, claim := !s.sched.enteringP1
                                   mode := if s.sched.pooled then .pooled else .streaming } }

/-- BURST_START (R325, R359, R372). -/
def execBurstStart (s : State) : Host.Outcome State Fault Refusal :=
  .next (working 0x0D s (
    let s0 := reclaimCheck (closeForCut s)
    if s.xport.state == .stopped && tapeFree s && s.xport.servo.lowerValid && s.xport.servo.upperValid
        && powerNow s == 0 && burstDue s0 then
      let forward : Bool := (chainAt s0 .data).wrap % 2 == 0
      let s1 := if s0.sched.pooled then setStep 0 s0 else s0
      openBurst s1 |> modXport (fun x => { x with forward := forward, atRest := false }) |> enterXport .moving |> seedChannel 0 0 |> runAtStep |> pollPower
    else s0))

/-- BACKHITCH_COMPLETE: the tape is placed; the claim is kept only where the next burst is projected within 10 s (R360). -/
def execBackhitchComplete (s : State) : Host.Outcome State Fault Refusal :=
  .next (live s (
    if !s.sched.burst && s.sched.mode == .idle && s.xport.state == .stopped then
      pollPower { s with sched := { s.sched with claim := burstNear s } }
    else s))

/-! ### Evaluations (R355, R356, R358, R360) -/

/-- The target step for a demand: `num` is the demand in kB/s times 10,000 SPEED_EVAL_MS; none when pooled (R355). -/
def targetFor (s : State) (num : Nat) : Option Nat :=
  let ev := obj s Obj.speedEvalMs
  if num < 12374 * 10000 * ev then none
  else
    let cap := capStep s
    some (((List.range (cap + 1)).find? (fun n => decide (4 * num ≤ 19798 * (5 + n) * 10000 * ev))).getD cap)

/-- SPEED_EVALUATION: SPEED_EVAL_MS is over (R355, R356, R360). -/
def execSpeedEvaluation (s : State) : Host.Outcome State Fault Refusal :=
  .next (working 0x0D s (
    let ev := obj s Obj.speedEvalMs
    let wait := (allDoms.map (waitingBytes s)).sum
    let inflow := s.sched.inflow
    let target := targetFor s (11000 * inflow + wait * ev)
    let isLower : Bool := match target with
      | none => true
      | some t => t < s.sched.step
    let lower := if isLower then (target :: s.sched.lower).take 3 else []
    let pooled : Bool := if s.sched.pooled then target.isNone else lower.length == 3 && lower.all Option.isNone
    let s1 := { s with sched := { s.sched with target := target, lower := lower, pooled := pooled, inflow := 0 } }
      |> setObj Obj.inflowKbps (openDiv inflow ev).toNat |> setObj Obj.backlogKb (openDiv wait 1000).toNat
    let claim : Bool := if !s.sched.burst && s.sched.mode == .idle then burstNear s1 else s.sched.claim
    pollPower { s1 with sched := { s1.sched with claim := claim } }))

/-- POOL_MAX_AGE_EXPIRY: the domain's oldest waiting byte has waited POOL_MAX_AGE_MS (R342). -/
def execPoolMaxAgeExpiry (d : Dom) (s : State) : Host.Outcome State Fault Refusal :=
  .next (live s (
    if waitingBytes s d != 0 && !s.sched.aged.contains d then
      pollPower { s with sched := { s.sched with aged := s.sched.aged ++ [d] } }
    else s))

/-- DERATE_RECOVERY: 600 s without a speed excursion raise the derate by one step (R358). -/
def execDerateRecovery (s : State) : Host.Outcome State Fault Refusal :=
  .next (live s (withCap (fun t => { t with sched := { t.sched with derate := min 15 (t.sched.derate + 1) } }) s))

/-- READ_EXCURSION_LIMIT: with writes waiting, READ_EXCURSION_MS of an excursion have passed; 4 cuts are owed, so that no read
follows the one in progress (R353). -/
def execReadExcursionLimit (s : State) : Host.Outcome State Fault Refusal :=
  .next (live s (
    if s.sched.mode == .excursion && writesWait s then { s with sched := { s.sched with owed := 4 } } else s))

/-- READ_WAIT_PRIORITY: a read has waited 5 s and goes ahead of every other read of its class (R352). -/
def execReadWaitPriority (h : CmdHead) (s : State) : Host.Outcome State Fault Refusal :=
  .next (live s (match slotOfTag s h.dom h.port h.tag.toNat with
    | some x =>
      if readsTape x && !s.sched.urgent.contains (h.dom, x.no) then
        { s with sched := { s.sched with urgent := s.sched.urgent ++ [(h.dom, x.no)] } }
      else s
    | none => s))

end Sys2Proof.Machine
end

