-- ==== Sys2Proof/Machine/Writing.lean ====
section
/-!
DEFINITION. Writing a cut: read-while-write decisions, rewrites, abandoned cuts and what a verified cut brings
(R14, R250, R251, R267-R276, R301, R347, R349-R351, R377, R410).
-/
namespace Sys2Proof.Machine

/-! ### Decisions (R268-R271) -/

/-- The clock PLL locks while the head reads, read-while-write included (R290). -/
def lockClock (s : State) : State :=
  modXport (fun x => { x with servo := { x.servo with clockLocked := true } }) s

/-- Change the open cut. -/
def modOpen (f : OpenCut → OpenCut) (s : State) : State :=
  modCart (fun c => { c with openCut := c.openCut.map f }) s

/-- A frame set passes (R272). -/
def passFrame (fs : Nat) (s : State) : State :=
  modOpen (fun o => { o with passed := if o.passed.contains fs then o.passed else o.passed ++ [fs] }) s

/-- A frame set misses and is rewritten; a trailing window of `window` channel bits takes a rewrite position before it
(R269-R271). -/
def rewriteFrame (fs miss window : Nat) (s : State) : State :=
  s |> modOpen (fun o => { o with
        rewrites := o.rewrites ++ (if window = 0 then [] else [(0xFE, 0)]) ++ [(fs, miss)]
        cut := { o.cut with length := o.cut.length + window, rewrites := o.cut.rewrites ++ [(fs, window)] } })
    |> bump Obj.frameSetsRewritten |> (fun t => if window = 0 then t else bump Obj.trailingWindows t)

/-! ### Abandoned cuts (R250, R251, R274, R275) -/

/-- The rest of a chain's area is refused for this pass: it counts as a blank end, and the chain goes on in the next area
(R274). -/
def refuseArea (c : Chain) (s : State) : State :=
  let w := (chainAt s c).wrap
  let s1 := s |> blankEnd c |> bump Obj.wrapRefusals |> postEvent 0x0508 unitCartridge w
  match nextArea s1 c w with
  | some x => openArea c x s1
  | none => modChain c (fun p => { p with bits := areaBits c w, abandons := 0 }) s1

/-- KILN_CUTS_FREE and KILN_CUTS_USED follow a Kiln cut written; the 2,048th is reported (R246, R256). -/
def countKiln (f : StateBlock → StateBlock) (s : State) : State :=
  let used := kilnCutsUsed s
  let s1 := s |> updateMemory (fun b => { f b with kilnCutsUsed := used }) |> setObj Obj.kilnCutsFree (2048 - used)
  if used = 2048 then postEvent 0x050B unitCartridge 0 s1 else s1

/-- After every 1,024 data-area cuts a checkpoint is due (R249). -/
def countData (s : State) : State :=
  modCart (fun c => { c with sinceMap := c.sinceMap + 1, mapDue := c.mapDue || decide (1024 ≤ c.sinceMap + 1) }) s

/-- 8 of the last 64 cuts written are abandoned (R275). -/
def writePathFault (s : State) : State :=
  if 8 ≤ (s.cart.recent.filter id).length then s |> postEvent 0x0509 unitCartridge 0 |> transportFault 0x60 else s

/-- Room for a splice gap and 36 frame-set lengths is left in the chain's area (R251). -/
def gapRoom (s : State) (c : Chain) : Bool :=
  let p := chainAt s c
  p.bits + gapBits + cutRoom ≤ areaLast c p.wrap

/-- Abandon the open cut after `written` frame sets and a last trailing window: it stays on tape, and the splice gap begins,
or the next area where the gap has no room (R250, R251, R274-R276). -/
def abandonCut (miss window written : Nat) (s : State) : State :=
  match s.cart.openCut with
  | none => s
  | some o =>
    let c := o.cut.chain
    let windows := (o.rewrites.filter (fun r => r.1 == 0xFE)).length + (if window = 0 then 0 else 1)
    let length := written * frameSetBits + o.cut.length + window
    let o' : OpenCut := { o with rewrites := (o.rewrites ++ (if window = 0 then [] else [(0xFE, 0)])).take 4 }
    let dead : Cut := { o.cut with length := length, complete := false, retired := true, charge := written + windows }
    let n := (chainAt s c).abandons + 1
    let s1 := s |> layDown dead |> modChain c (fun p => { p with abandons := n }) |> noteRecent true
      |> bump Obj.abandonedCuts |> postEvent 0x0507 unitCartridge o.cut.serial
      |> (fun t => if window = 0 then t else bump Obj.trailingWindows t) |> logRewrite o' (if 3 ≤ n then 2 else 1) miss
    let s1 := if c = .kiln then countKiln id s1 else if c = .data then countData s1 else s1
    let s2 := if 3 ≤ n then s1 |> showAbandons c |> refuseArea c
      else if gapRoom s1 c then
        s1 |> addCharge o.cut.serial gapCharge |> modChain c (fun p => { p with bits := p.bits + gapBits }) |> showAbandons c
      else
        match nextArea s1 c (chainAt s1 c).wrap with
        | some w => s1 |> showAbandons c |> blankEnd c |> openArea c w
        | none => s1 |> showAbandons c |> modChain c (fun p => { p with bits := areaBits c p.wrap })
    s2 |> modCart (fun x => { x with openCut := some { o with phase := .gap } }) |> refreshTape |> writePathFault

/-- REWRITE_NUMBER of the copy of a frame set that a decision judges: the last one written (R269). -/
def judgedCopy (c : Cut) (fs : Nat) : Nat := (copiesOf c fs).headD 0

/-- MISS_REASON of the frame set that a decision judges (R268). -/
def decisionMiss (o : OpenCut) (fs : Nat) (clock : DWord) (frames : List FrameRead) (s : State) : Nat :=
  missReason s ((tapeId s).getD 0) o.cut fs (judgedCopy o.cut fs) clock frames

/-- FRAME_SET_DECISION: the decision for frame set `fs` (R268): `clock` are the bits in which its clock sync word differs from the
one written, `frames` its frames that were not read clean; `window` the channel bits of the trailing window that runs then, 0 for
none; `written` the frame sets the cut has on tape if it is abandoned now. -/
def execFrameSetDecision (fs : BitVec 5) (clock : DWord) (frames : List FrameRead) (window : Half) (written : BitVec 6)
    (s : State) : Host.Outcome State Fault Refusal :=
  .next (working 1 s (
    match s.cart.openCut with
    | none => s
    | some o =>
      if o.phase ≠ .writing ∨ s.power.failing then s
      else
        let m := decisionMiss o fs.toNat clock frames s
        let s1 := s |> bump Obj.frameSetsWritten |> bumpBy Obj.c1FailedCodewords (verifyFailures s frames) |> lockClock
          |> addWeight (cutAccount o.cut) (openDiv (payloadBytes o.cut) 32).toNat
        if m = 0 then passFrame fs.toNat s1
        else
          let s2 := setObj Obj.lastMissReason m s1
          let need := o.rewrites.length + (if window = 0 then 1 else 2)
          if need ≤ 4 then rewriteFrame fs.toNat m window.toNat s2
          else abandonCut m window.toNat written.toNat s2))

/-- A replacement is written with new GEN and place (R244, R250): REPLACEMENT set, RETIRES_SERIAL and PREVIOUS_SERIAL both
the abandoned cut's. -/
def startReplacement (o : OpenCut) (s : State) : State :=
  let old := o.cut
  let s1 := modCart (fun c => { c with openCut := none }) s
  let s2 := startCut old.chain (fun c => { c with
    kind := old.kind, dom := old.dom, padded := old.padded, reallocated := old.reallocated, replacement := true
    retires := old.serial
    order := if old.reallocated then old.order else c.order
    generation := if old.generation = old.serial then c.serial else old.generation
    last := old.last, part := old.part, parts := old.parts, blocks := old.blocks }) o.source s1
  let new := (s2.cart.openCut.map (fun x => x.cut.serial)).getD 0
  let s3 := modCart (fun c => { c with reallocs := c.reallocs.map (fun r =>
      if r.replacement = some old.serial then { r with replacement := if new = 0 then none else some new } else r) }) s2
  match old.chain with
  | .zone z => if old.generation = old.serial then modZone z (fun x => { x with first := new }) s3 else s3
  | _ => s3

/-- SPLICE_GAP_END: the replacement cut starts; where its chain has no room, the content goes back to the path (R250, R251). -/
def execSpliceGapEnd (s : State) : Host.Outcome State Fault Refusal :=
  .next (live s (
    match s.cart.openCut with
    | none => s
    | some o =>
      if o.phase ≠ .gap ∨ s.power.failing ∨ s.xport.state ≠ .moving then s
      else
        let s1 := startReplacement o s
        if s1.cart.openCut.isSome then runAtStep s1
        else
          { s1 with comp := { s1.comp with blocks := o.source ++ s1.comp.blocks }
                    cart := { s1.cart with mapDue := s1.cart.mapDue || o.cut.kind == .map }
                    kiln := { s1.kiln with cutDue := s1.kiln.cutDue || o.cut.kind == .kiln } }))

/-! ### Verified cuts (R272) -/

/-- The volume index follows a verified domain cut: each of its groups is newest there; the older copy is kept where the
group was written with some sectors only (R344, R345). -/
def indexCut (cut : Cut) (d : Dom) (s : State) : State :=
  modCart (fun c => { c with index := { c.index with
    entries := indexAdd (tapeCuts s) { cut with dom := some d } c.index.entries } }) s

/-- A retired cut's content stands in another cut: the index follows it. -/
def renameIndex (old new : Nat) (s : State) : State :=
  modCart (fun c => { c with index := { c.index with entries := c.index.entries.map (fun e => { e with
    newest := if e.newest = old then new else e.newest, older := if e.older = old then new else e.older }) } }) s

/-- A cut is retired: its content is no longer read (R252). -/
def retireCut (serial : Nat) (s : State) : State := modCut serial (fun c => { c with retired := true }) s

/-- The cut whose content a reallocated cut carries: the held one, or the source that reclaim copies. -/
def sourceOf (s : State) (cut : Cut) : Nat :=
  match s.cart.reallocs.find? (fun r => r.replacement == some cut.serial) with
  | some r => r.serial
  | none => ((s.sched.reclaim.bind (fun r => r.2.head?))).getD cut.retires

/-- A reallocation has verified (R301, R308): it is held no longer, and the log names the new cut. -/
def finishRealloc (old new : Nat) (s : State) : State :=
  s |> modCart (fun c => { c with
        reallocs := c.reallocs.filter (fun r => r.serial != old)
        recoveryLog := c.recoveryLog.map (fun e => if e.serial = old ∧ e.newSerial = 0 then { e with newSerial := new } else e) })
    |> (fun t => if t.cart.reallocs = [] then endOp 6 t else t)

/-- A cut that carries the content of another has verified: the source is retired (R252, R301, R351). -/
def finishCopy (cut : Cut) (s : State) : State :=
  let old := sourceOf s cut
  let held : Bool := s.cart.reallocs.any (fun r => r.replacement == some cut.serial)
  s |> retireCut old |> renameIndex old cut.serial
    |> (fun t => if held then finishRealloc old cut.serial t else stepReclaim old t)

/-- What a verified domain cut brings (R14, R301, R344, R351, R377). -/
def afterData (cut : Cut) (d : Dom) (s : State) : State :=
  if cut.reallocated then finishCopy cut s else s |> indexCut cut d |> releaseCut d cut.blocks |> runPagers

/-- What a verified Kiln cut brings: the state block and CONFIRM (R246, R256, R410). -/
def afterKiln (cut : Cut) (s : State) : State :=
  let last := ((cut.blocks.flatMap (·.pieces)).map (·.seq)).foldl max 0
  let s1 := s |> countKiln (fun b => { b with kilnLastCut := cut.serial, kilnLastSeq := max b.kilnLastSeq last })
    |> bump Obj.kilnCutsWritten
  let s2 := { s1 with kiln := { s1.kiln with
    copies := s1.kiln.copies.filter (fun r => decide (last < r.seq)), toKiln := s1.kiln.toKiln ++ [.confirm last cut.serial] } }
  if cut.reallocated then finishCopy cut s2 else s2

/-- What a verified Bedrock cut brings (R247, R347). -/
def afterBedrock (cut : Cut) (z : Fin 2) (s : State) : State :=
  let s1 := { s with sched := { s.sched with bedrock := s.sched.bedrock.map (fun b => (b.1, b.2.tail)) } }
    |> stepOp 5 (((opOf s 5).map (·.step)).getD 0 + 1) z.val
  if cut.last then
    { s1 with sched := { s1.sched with bedrock := none } }
      |> modZone z (fun x => { x with complete := true, writing := false, marked := false }) |> endOp 5
      |> postEvent 0x0803 unitDevice z.val
  else s1

/-- What a verified checkpoint cut brings (R249, R256, R349). -/
def afterMap (cut : Cut) (s : State) : State :=
  if cut.last then
    let first := (findCut s cut.generation).getD cut
    s |> modCart (fun c => { c with mapDue := false, sinceMap := 0 })
      |> updateMemory (fun b => { b with
          mapSerial := first.serial, mapWrap := first.wrap, mapLpos := lposAt first.chain first.wrap first.start })
      |> flushZones |> endOp 7
  else stepOp 7 1 cut.serial s

/-- Every effect of a verified cut by its kind. -/
def afterCut (cut : Cut) (s : State) : State :=
  match cut.kind with
  | .data => countData (match cut.dom with
      | some d => afterData cut d s
      | none => s)
  | .kiln => afterKiln cut s
  | .bedrock => (match cut.chain with
      | .zone z => afterBedrock cut z s
      | _ => s)
  | .map => afterMap cut s
  | .calibration => s

/-- Classes 5 and 7 have written one more cut since an excursion ended by its limit (R353). -/
def payOwed (k : CutKind) (s : State) : State :=
  if k = .kiln then s else { s with sched := { s.sched with owed := s.sched.owed - 1 } }

/-- CUT_VERIFIED: every frame set has passed, no decision is pending, and the cut has ended (R272). -/
def execCutVerified (s : State) : Host.Outcome State Fault Refusal :=
  .next (live s (
    match s.cart.openCut with
    | none => s
    | some o =>
      if o.phase ≠ .writing ∨ s.power.failing ∨ !(List.range 32).all (fun n => o.passed.contains n) then s
      else
        let cut : Cut := { o.cut with
          complete := true, length := openLength o
          charge := o.rewrites.length + (if o.cut.kind = .map then 32 else 0) }
        let s1 := s |> layDown cut |> modChain cut.chain (fun p => { p with abandons := 0 }) |> noteRecent false
          |> showAbandons cut.chain |> (fun t => if o.rewrites = [] then t else logRewrite o 0 0 t)
        progressAll (pollPower (reclaimCheck (refreshTape (payOwed cut.kind (afterCut cut s1)))))))

end Sys2Proof.Machine
end

