-- ==== Sys2Proof/Machine/Cartridge.lean ====
section
/-!
DEFINITION. The cartridge's own events: insertion, threading, the search for end-of-data, replay after a power loss,
draining, unloading and the format (R162, R253-R258, R278-R280, R288, R343-R349, R378-R384).
-/
namespace Sys2Proof.Machine

/-! ### Insertion and requests (R162) -/

/-- AUTO_LOAD threads a PRESENT cartridge that was not ejected and has fewer than 20,000 loads (R162, R280). -/
def autoLoad (s : State) : State :=
  let n := (s.cart.medium.map (fun c => ((stateBlockOf c).getD blankStateBlock).loadCount)).getD 0
  if objBool s Obj.autoLoad && s.cart.state == .present && !s.cart.ejected && decide (n < 20000) then startThreading false s
  else s

/-- CARTRIDGE_INSERTED. Before release the cartridge stands in the transport and is found at release. -/
def execCartridgeInserted (c : Cartridge) (s : State) : Host.Outcome State Fault Refusal :=
  .next (if !released s then (if s.cart.medium.isNone then modCart (fun x => { x with medium := some c }) s else s)
    else if s.cart.state ≠ .absent then s
    else
      pollPower (autoLoad (s |> modCart (fun x => { x with medium := some c, ejected := false }) |> enterCart .present
        |> postEvent 0x0501 unitCartridge 0)))

/-- CARTRIDGE_REMOVED. -/
def execCartridgeRemoved (s : State) : Host.Outcome State Fault Refusal :=
  .next (live s (
    if s.cart.state = .present then enterCart .absent (modCart (fun x => { x with medium := none, ejected := false }) s)
    else s))

/-- A cartridge STATE_REQUEST (R33, R162). -/
def cartRequest (a : CartAction) (w : Writer) (gen : Half) (s : State) : State :=
  stateRequest w 0x2C00 (cartActionCode a) gen.toNat 6 (cartLegal s a) true
    (fun t => pollPower (wakeCartridge (cartAction a t))) s

/-- LOAD (R162, R280). -/
def execLoad (w : Writer) (gen : Half) (s : State) : Host.Outcome State Fault Refusal :=
  .next (live s (arriveValue w 0x2C00 3 (cartRequest .load w gen) s))
/-- UNLOAD (R162). -/
def execUnload (w : Writer) (gen : Half) (s : State) : Host.Outcome State Fault Refusal :=
  .next (live s (arriveValue w 0x2C00 3 (cartRequest .unload w gen) s))
/-- EJECT (R162). -/
def execEject (w : Writer) (gen : Half) (s : State) : Host.Outcome State Fault Refusal :=
  .next (live s (arriveValue w 0x2C00 3 (cartRequest .eject w gen) s))
/-- FORMAT (R162, R258). -/
def execFormat (w : Writer) (gen : Half) (s : State) : Host.Outcome State Fault Refusal :=
  .next (live s (arriveValue w 0x2C00 3 (cartRequest .format w gen) s))
/-- FORMAT_FORCE (R162, R258). -/
def execFormatForce (w : Writer) (gen : Half) (s : State) : Host.Outcome State Fault Refusal :=
  .next (live s (arriveValue w 0x2C00 3 (cartRequest .formatForce w gen) s))
/-- DISCARD_RING (R143, R162). -/
def execDiscardRing (w : Writer) (gen : Half) (s : State) : Host.Outcome State Fault Refusal :=
  .next (live s (arriveValue w 0x2C00 3 (cartRequest .discardRing w gen) s))

/-! ### Threading (R162, R255-R257, R278-R280, R288) -/

/-- A zone entry at reset (R287). -/
def zoneReset : Nat := 0x00800000

/-- The zone tables are loaded; a record whose CRC fails is replaced by reset entries and reported (R288). -/
def loadZones (s : State) : State :=
  let recs := ((tape s).map (·.zones)).getD []
  (List.range 96).foldl (fun t w =>
    let r : Option (List Nat) := (recs[w]?).join
    let put (t : State) : State := (List.range 8).foldl (fun u z =>
      setObj (Obj.zone w z) ((r.bind (fun l => l[z]?)).getD zoneReset) u) t
    match r with
    | some _ => put t
    | none => postEvent 0x0604 unitCartridge w (modCart (fun c => { c with zonesChanged := c.zonesChanged ++ [w] }) (put t))) s

/-- Bands all of whose wrap records were reset, to be seeded from calibration (R306). -/
def resetBands (s : State) : List Nat :=
  (List.range 4).filter (fun b => (List.range 24).all (fun k => s.cart.zonesChanged.contains (24 * b + k)))

/-- A wear block whose CRC fails is rebuilt (R278). -/
def loadWear (s : State) : State :=
  let s1 := match (tape s).bind (·.wear) with
    | some _ => s
    | none => s |> modTape (fun c => { c with wear := some (List.replicate 96 (8 * (cartState s).formatGen)) })
        |> postEvent 0x050E unitCartridge 0
  (List.range 96).foldl (fun t w => judgeWear w t) (modCart (fun c => { c with warned := [], worn := [] }) s1) |> refreshWear

/-- The format objects of the threaded cartridge (R163, R261). -/
def showCartridge (s : State) : State :=
  let b := cartState s
  let id := (tapeId s).getD 0
  s |> setObj Obj.formatGen b.formatGen |> setObj Obj.cartridgeIdLow (id % 2 ^ 64) |> setObj Obj.cartridgeIdHigh (id / 2 ^ 64)
    |> setObj Obj.loadCount b.loadCount |> setObj Obj.nextSerial s.jour.nextSerial
    |> setObj Obj.kilnCutsFree (2048 - b.kilnCutsUsed) |> setObj Obj.spareCutsLeft 1016 |> setObj Obj.dataCuts 393986

/-- The format, wear and zone objects read 0 while no cartridge is threaded (R163, R261, R282, R307, R363). -/
def hideCartridge (s : State) : State :=
  let keys := [Obj.formatGen, Obj.cartridgeIdLow, Obj.cartridgeIdHigh, Obj.loadCount, Obj.nextSerial, Obj.kilnCutsFree
    , Obj.spareCutsLeft, Obj.dataCuts, Obj.abandonedCuts, Obj.maxWrapEighths, Obj.wornWraps, Obj.wrapRefusals
    , Obj.freeReuseUnits, Obj.deadCuts]
  let zones := (List.range 96).flatMap (fun w => (List.range 8).map (fun z => Obj.zone w z))
  (keys ++ zones).foldl (fun t k => setObj k 0 t) s

/-- The ring holds content bound to the threaded cartridge (R162). -/
def ringHere (s : State) : Bool := s.ring.items.any (fun r => r.cartridge.isSome && r.cartridge == tapeId s)

/-- NEXT_SERIAL as the memory gives it, or as the journal does for the cartridge the ring or the last sequence names
(R256, R384). -/
def threadedSerial (s : State) : Nat :=
  let mine : Bool := ringHere s || s.jour.ringClose.any (fun r => r.cartridge == tapeId s)
  max (cartState s).nextSerial (if mine then s.jour.nextSerial else 0)

/-- Head calibration is due: the head was exchanged, or the trims read invalid (R305). -/
def calibrationDue (s : State) : Bool := s.jour.headChanged || !s.jour.trimsValid

/-- Untaped content of the ring is bound to another cartridge (R162). -/
def ringForeign (s : State) : Bool := s.ring.items.any (fun r => !itemHere s r && !r.done)

/-- The journal holds an open format of the threaded cartridge (R257, R381). -/
def formatOpen (s : State) : Bool := (opOf s 1).any (fun o => o.cartridge == tapeId s)

/-- The journal's count of wraps done (R376, R381). -/
def wrapsDone (s : State) : Nat := ((opOf s 1).map (fun o => o.step - 1)).getD 0

/-- An open format goes on after its last wrap done (R381). -/
def resumeFormat (s : State) : State :=
  { startFormat true s with jour := { (startFormat true s).jour with resuming := 1 } }
    |> setObj Obj.formatProgress (min 96 (wrapsDone s)) |> postEvent 0x0904 unitDevice 1
    |> writeStateBlock (fun b => { b with wrapsFormatted := min 96 (wrapsDone s) })

/-- Where a threaded cartridge goes (R162, R257). -/
def afterThreading (s : State) : State :=
  if (cartState s).formatState ≠ 2 then
    let s1 := s |> enterCart .unformatted |> postEvent 0x0502 unitCartridge 0 |> wakeCartridge
    if (cartState s).formatState = 1 && formatOpen s then wakeCartridge (resumeFormat s1) else s1
  else if ringForeign s then s |> enterCart .mismatch |> postEvent 0x0503 unitCartridge 0
  else s |> modCart (fun c => { c with calibration := calibrationDue s }) |> enterCart .searching

/-- THREADED: the cartridge memory is read and LOAD_COUNT rises; `arm` is the tension-arm reading with the tape slack
(R162, R255-R257, R278-R280, R288, R321). -/
def execThreaded (arm : BitVec 12) (s : State) : Host.Outcome State Fault Refusal :=
  .next (live s (
    if s.cart.state ≠ .threading ∨ s.xport.state ≠ .threading then s
    else
      let s1 := s |> modXport (fun x => { x with zero := vset x.zero 13 arm.toNat })
        |> modCart (fun c => { c with threaded := true, zonesChanged := [], bandsReset := [], calibration := false, replay := none, replayed := false })
      if !s.cart.medium.any (·.manufacturer) then
        progressAll (pollPower (s1 |> postEvent 0x0506 unitCartridge 0 |> faultCartridge))
      else
        let s2 := s1 |> writeStateBlock (fun b => { b with loadCount := b.loadCount + 1 })
        let s3 := { s2 with jour := { s2.jour with nextSerial := threadedSerial s2 } } |> showCartridge |> loadZones
        let s4 := s3 |> modCart (fun c => { c with bandsReset := resetBands s3 }) |> loadWear
        let n := (cartState s4).loadCount
        let s5 := if 19000 ≤ n then postEvent 0x050F unitCartridge n s4 else s4
        progressAll (pollPower (wakeCartridge (afterThreading s5)))))

/-! ### The search for end-of-data and replay (R253, R254, R382-R384) -/

/-- The newest cut of a chain on tape. -/
def lastOf (s : State) (c : Chain) : Option Cut :=
  ((tapeCuts s).filter (fun x => x.chain == c && x.kind != .calibration)).foldl (fun best x =>
    match best with
    | none => some x
    | some b => if b.serial < x.serial then some x else some b) none

/-- A slate lies where the search looks for it behind a cut: within 0.5 m and one frame-set length after its end, or at the start
of another area of the chain (R254). -/
def lieBehind (s : State) (cut x : Cut) : Bool :=
  if x.wrap = cut.wrap then
    decide (cut.start + cut.length ≤ x.start) && decide (x.start ≤ cut.start + cut.length + gapBits + frameSetBits)
  else x.start == areaFirst s .data x.wrap

/-- The slate that the search finds next: a data-area cut whose PREVIOUS_SERIAL names the cut (R254). -/
def slateAfter (s : State) (cut : Cut) : Option Cut :=
  (tapeCuts s).find? (fun x => x.chain == .data && x.kind != .calibration && x.previous == cut.serial && x.serial != cut.serial
    && lieBehind s cut x)

/-- The search for end-of-data from a cut on: the last cut met. It stops at a cut that is not complete and is followed by no
replacement (R254). -/
def searchEnd : Nat → State → Cut → Cut
  | 0, _, cut => cut
  | fuel + 1, s, cut =>
    match slateAfter s cut with
    | some x => if !cut.complete && !x.replacement then cut else searchEnd fuel s x
    | none => cut

/-- The last cut of the data area: the search begins at the checkpoint that MAP_SERIAL names, or, where that is not on tape, at the
newest cut (R253, R254; DESIGN CHOICE, log entry 168). -/
def dataEnd (s : State) : Option Cut :=
  match (tapeCuts s).find? (fun x => x.chain == .data && x.kind == .map && x.serial == (cartState s).mapSerial) with
  | some m => some (searchEnd (tapeCuts s).length s m)
  | none => lastOf s .data

/-- The last cut of a chain. -/
def chainLast (s : State) (c : Chain) : Option Cut := if c = .data then dataEnd s else lastOf s c

/-- Where a chain goes on: after its last cut, and behind a splice gap where that cut is incomplete (R250, R253, R382). -/
def chainEnd (s : State) (c : Chain) : ChainPos :=
  match chainLast s c with
  | none => { wrap := firstWrap c, bits := areaFirst s c (firstWrap c), serial := 0, abandons := 0 }
  | some x => { wrap := x.wrap, bits := x.start + x.length + (if x.complete then 0 else gapBits), serial := x.serial, abandons := 0 }

/-- A Bedrock zone as the tape shows it (R247). -/
def zoneOnTape (s : State) (z : Fin 2) : Zone :=
  let cuts := (tapeCuts s).filter (fun c => c.chain == .zone z && !c.retired)
  let g := (cuts.map (·.generation)).foldl max 0
  let done : Bool := cuts.any (fun c => c.generation == g && c.last && c.complete)
  { complete := done, writing := false, marked := false, first := g }

/-- The chains and zones of the threaded cartridge. -/
def readTapeEnd (s : State) : State :=
  let top := ((tapeCuts s).map (·.serial)).foldl max 0
  let s1 := modCart (fun c => { c with
    chains := #v[chainEnd s .data, chainEnd s .kiln, chainEnd s (.zone 0), chainEnd s (.zone 1)]
    zones := Vector.ofFn (zoneOnTape s)
    filled := (tapeCuts s).any (fun x => x.chain == .data && x.kind != .calibration && x.wrap == 95) }) s
  { s1 with jour := { s1.jour with nextSerial := max s1.jour.nextSerial (top + 1) } }
    |> (fun t => setObj Obj.nextSerial t.jour.nextSerial t)

/-- Cuts of the data area that power loss or a fault left incomplete: nothing names them yet (R254).
DEDUCED: log entry 178. -/
def openCuts (s : State) : List Cut := (tapeCuts s).filter (fun c => c.chain == .data && !c.complete && !c.retired)

/-- A replay is due: a sequence's RING_CLOSE record names this cartridge, or the ring does and the path has lost its
content; something is untaped or a cut was left open (R382). -/
def replayDue (s : State) : Bool :=
  s.cart.state == .searching && !s.cart.replayed
    && (s.jour.ringClose.any (fun r => r.cartridge == tapeId s)
      || (ringHere s && s.comp.blocks == [] && s.comp.gathers == []))
    && (s.ring.items.any (itemHere s) || openCuts s != [])

/-- Takes and sectors of the ring (R384). -/
def ringCount (s : State) : Nat :=
  ((s.ring.items.filter (itemHere s)).map (fun r => if r.item.kind = .take then 1 else r.item.bytes.length / 4096)).sum

/-- The open cut is charged and retired with the splice gap behind it (R248, R383, R384). -/
def retireOpen (s : State) : State :=
  (openCuts s).foldl (fun t c =>
    t |> modCut c.serial (fun x => { x with retired := true })
      |> addCharge c.serial (ceilDiv c.length frameSetBits + gapCharge) |> bump Obj.abandonedCuts) s

/-- Cuts left open are retired, and the next data-area cut replaces the first of them (R254, R382, R383). -/
def passOpen (s : State) : State :=
  match ((openCuts s).map (·.serial)).min? with
  | some n => s |> retireOpen |> modCart (fun c => { c with replay := some n })
  | none => s

/-- POWER_LOSS_REPLAY: the read back is done and the replacement is scheduled (R382-R384). -/
def execPowerLossReplay (s : State) : Host.Outcome State Fault Refusal :=
  .next (live s (
    if !replayDue s then s
    else
      let s1 := s |> passOpen |> modCart (fun c => { c with replayed := true })
      { s1 with jour := { s1.jour with ringClose := none } } |> bump Obj.powerReplays
        |> postEvent 0x0903 unitDevice (ringCount s)))

/-- An item that is not yet on tape as a whole is paged again from its first byte. -/
def RingItem.restart (r : RingItem) : RingItem :=
  if r.done then r
  else { r with
    paged := 0
    leftBytes := if r.item.kind = .take then r.item.entry.length else 0
    leftSectors := if r.item.kind = .take then [] else (List.range (r.item.bytes.length / 4096)).map (· + r.item.seq) }

/-- The ring's content of this cartridge is scheduled, what was bound to none with it: what the path no longer holds is paged
again as a whole (R162, R382). -/
def scheduleRing (s : State) : State :=
  let fresh : Bool := s.comp.blocks == [] && s.comp.gathers == []
  runPagers { s with ring := { s.ring with items := s.ring.items.map (fun r =>
    if !itemHere s r then r
    else
      let b := { r with cartridge := tapeId s }
      if fresh then b.restart else b) } }

/-- LAST_COMMITTED of each log is at least the highest take found on the cartridge (R143). -/
def meetLogs (s : State) : State :=
  let high (d : Dom) (l : Nat) : Nat := ((liveDataCuts s d).flatMap (fun c =>
    (c.blocks.filter (fun b => b.kind == .log && b.target == l)).flatMap (fun b => b.pieces.map (·.seq)))).foldl max 0
  allDoms.foldl (fun t d => modDom d (fun x => { x with logs := Vector.ofFn (fun l =>
    let y := vget x.logs l
    let h := high d l.val
    if y.lastCommitted < h then { y with lastCommitted := h, lastTaped := h } else y) }) t) s

/-- Roll an open operation back (R378). -/
def rollBack (kind : Nat) (s : State) : State :=
  if (opOf s kind).isSome then
    { s with jour := s.jour.close kind, opLog := s.opLog.close 4 kind s.jour.openOps } |> postEvent 0x0905 unitDevice kind
  else s

/-- A generation, a reallocation and a checkpoint of this cartridge that a reset or a fault cut short are rolled back, and the
generation and the checkpoint are due again (R378, R380). -/
def redoOps (s : State) : State :=
  let lost (k : Nat) (running : Bool) : Bool := (opOf s k).isSome && !running
  let s1 := if lost 5 s.sched.bedrock.isSome then rollBack 5 { s with sched := { s.sched with bedrockDue := true } } else s
  let s2 := if lost 6 (s.cart.reallocs != []) then rollBack 6 s1 else s1
  if lost 7 false then rollBack 7 (modCart (fun c => { c with mapDue := true }) s2) else s2

/-- Open operations bound to another cartridge are rolled back; a reclaim of this one goes on (R378, R380). -/
def meetOps (s : State) : State :=
  let foreign (k : Nat) : Bool := (opOf s k).any (fun o => o.cartridge != tapeId s)
  let s1 := redoOps (([2, 5, 6, 7, 8] : List Nat).foldl (fun t k => if foreign k then rollBack k t else t) s)
  match opOf s1 2 with
  | some o =>
    if unitLive s1 o.param = [] then endOp 2 s1
    else if s1.sched.reclaim.isNone then
      { s1 with sched := { s1.sched with reclaim := some (o.param, unitLive s1 o.param) }
                jour := { s1.jour with resuming := 2 } } |> postEvent 0x0904 unitDevice 2
    else s1
  | none => s1

/-- Without an index for this cartridge a rebuild starts; one that was under way goes on (R344, R346, R378). -/
def meetIndex (s : State) : State :=
  if s.cart.index.cartridge = tapeId s then
    if s.cart.index.status = 0x80 then s
    else { s with jour := { s.jour with resuming := 8 } } |> postEvent 0x0904 unitDevice 8
  else
    let cuts := (volumeCuts s).map (·.serial)
    s |> modCart (fun c => { c with index := ⟨tapeId s, 0, [], cuts, cuts.length⟩ }) |> openOp 8 0

/-- EOD_FOUND: end-of-data is found and the ring's content scheduled: READY; `rot` are bytes of the boot cache that have gone bad
by then (R143, R162, R199, R346, R380). -/
def execEodFound (rot : List CacheRot) (s : State) : Host.Outcome State Fault Refusal :=
  .next (live s (
    if s.cart.state ≠ .searching ∨ replayDue s then s
    else
      let s1 := s |> rotCache rot |> readTapeEnd |> passOpen |> meetOps |> meetIndex |> meetLogs |> scheduleRing |> enterCart .ready |> refreshTape
      let s2 := (confDoms s1).foldl (fun t d => checkBoot d t) s1
      progressAll (pollPower (wakeCartridge s2))))

/-- The cuts a rebuild has read so far as a percentage; 0x80 when it is valid (R363). -/
def indexStatus (total left : Nat) : Nat := if left = 0 then 0x80 else 100 * (total - left) / max 1 total

/-- A rebuild has read its next cut (R346). -/
def indexRead (serial : Nat) (s : State) : State :=
  match s.cart.index.todo with
  | n :: rest =>
    if n = serial then
      let es := match findCut s n with
        | some c => indexAdd (tapeCuts s) c s.cart.index.entries
        | none => s.cart.index.entries
      s |> modCart (fun c => { c with index := { c.index with
            entries := es, todo := rest, status := min 99 (100 * (c.index.total - rest.length) / max 1 c.index.total) } })
        |> stepOp 8 (s.cart.index.total - rest.length) serial
    else s
  | [] => s

/-- INDEX_REBUILD_COMPLETE: every cut with volume content has been read; groups that waited go on (R346). -/
def execIndexRebuildComplete (s : State) : Host.Outcome State Fault Refusal :=
  .next (live s (
    if s.cart.threaded && s.cart.index.cartridge == tapeId s && s.cart.index.status != 0x80 && s.cart.index.todo == [] then
      let s1 := s |> modCart (fun c => { c with index := { c.index with status := 0x80 } }) |> endOp 8 |> refreshTape
      progressAll (runPagers s1)
    else s))

/-! ### Draining and unloading (R162, R256, R278, R289) -/

/-- The cartridge's quiescent point, with the checkpoint of an unload written (R162, R249). -/
def cartQuiescent (s : State) : Bool :=
  s.cart.state == .draining && s.ring.items.all (fun r => r.done || !itemHere s r) && s.sched.reading.isNone && s.cart.openCut.isNone && s.cart.ladder.isNone
    && s.xport.servo.locate.isNone && !s.cart.calibration && (!s.cart.mapDue || s.cart.goal == .format)

/-- CARTRIDGE_QUIESCENT (R161, R162). -/
def execCartridgeQuiescent (s : State) : Host.Outcome State Fault Refusal :=
  .next (live s (
    if !cartQuiescent s then s
    else
      let s1 := stopTape { s with sched := { s.sched with burst := false, mode := .idle, workClass := 0, reading := none, claim := false } }
      let s2 := match s.cart.goal with
        | .format => startFormat false s1
        | .eject => startUnloading true s1
        | _ => startUnloading false s1
      progressAll (pollPower (wakeCartridge (loseCartridge 0x32 s2)))))

/-- Scheduler work that belongs to the cartridge ends with it; held reallocations return to the queue (R302, R378). -/
def dropTapeWork (s : State) : State :=
  { s with sched := { s.sched with reclaim := none, bedrock := none, bedrockDue := false, dailies := none, stalled := false }
           cart := { s.cart with reallocs := [], ladder := none, calibration := false, openCut := none
                                 reallocQueue := (s.cart.reallocQueue ++ s.cart.reallocs.map (·.serial)).take 64 } }
    |> rollBack 5 |> rollBack 6

/-- UNTHREADED: the state block, the wear block with its remainders rounded up, and the zone records are written, and the
cartridge is PRESENT (R162, R256, R278, R289). -/
def execUnthreaded (s : State) : Host.Outcome State Fault Refusal :=
  .next (live s (
    if s.cart.state ≠ .unloading ∨ s.xport.state ≠ .threading then s
    else
      let s1 := if s.cart.threaded && s.cart.medium.any (·.manufacturer) then
          s |> flushZones |> flushWear true |> writeStateBlock (fun b => { b with nextSerial := max b.nextSerial s.jour.nextSerial })
        else s
      let s2 := s1 |> dropTapeWork |> modCart (fun c => { c with threaded := false, ejected := c.pushOut, pushOut := false })
        |> hideCartridge |> enterCart .present
      progressAll (pollPower (wakeCartridge (enterXport .idle (modXport (fun x => { x with atRest := true }) s2)))))) 

/-! ### The format (R258, R376, R378) -/

/-- The Kiln band of wraps 0 and 1 is skipped whenever Kiln cuts are on it. -/
def keepsKiln (s : State) : Bool := (cartState s).kilnCutsUsed != 0

/-- Channel bits of format fill on a wrap: none on a worn wrap, all but a kept Kiln band else (R258, R279). -/
def fillBits (s : State) (w : Nat) : Nat :=
  if wrapWorn s w then 0 else if w ≤ 1 ∧ keepsKiln s then areaBits .data w else 7200000 * 1400

/-- FORMAT_WRAP_DONE: the wrap in progress is written with fill frames (R258). -/
def execFormatWrapDone (s : State) : Host.Outcome State Fault Refusal :=
  .next (live s (
    let w := wrapsDone s
    if s.cart.state ≠ .formatting ∨ 96 ≤ w ∨ (opOf s 1).isNone then s
    else
      s |> modTape (fun c => { c with cuts := c.cuts.filter (fun x => x.wrap != w || (x.chain == .kiln && keepsKiln s)) })
        |> addWear w (fillBits s w) |> stepOp 1 (w + 2) 0 |> updateMemory (fun b => { b with wrapsFormatted := w + 1 })
        |> setObj Obj.formatProgress (w + 1)))

/-- A complete cut that the format writes at a place of a chain. -/
def formatCut (kind : CutKind) (c : Chain) (w start : Nat) (last : Bool) (s : State) : State :=
  let serial := s.jour.nextSerial
  let cut : Cut :=
    { serial := serial, previous := (chainAt s c).serial, retires := 0, order := serial, kind := kind
      dom := if kind = .bedrock then some 0 else none
      padded := kind != .calibration, replacement := false, reallocated := false, retired := false, complete := true
      bad := false, chain := c, wrap := w, start := start, length := 32 * frameSetBits, gen := obj s Obj.formatGen
      generation := serial, last := last, charge := if kind = .map then 32 else 0
      writer := writerId s, part := 0, parts := b2n (kind == .map), rewrites := []
      blocks := if kind = .calibration then List.replicate 30 ⟨.calibration, 0, 114688, [], []⟩ else [] }
  s |> takeSerial |> modTape (fun m => { m with cuts := m.cuts ++ [cut] }) |> modChain c (fun p => { p with serial := serial })
    |> addWear w cut.length

/-- The 8 calibration cuts: the first and last positions of their wraps (R248, R258, R304). -/
def writeCalibration (s : State) : State :=
  calibrationWraps.foldl (fun t w =>
    t |> formatCut .calibration .data w 0 false |> formatCut .calibration .data w (areaBits .data w - cutRoom) false) s

/-- A generation of one cut with no sectors in a zone whose wrap is not worn (R258). -/
def writeEmptyZone (z : Fin 2) (s : State) : State :=
  if zoneWorn s z then s
  else
    let g := s.jour.nextSerial
    s |> formatCut .bedrock (.zone z) (2 + z.val) 0 true
      |> modChain (.zone z) (fun p => { p with wrap := 2 + z.val, bits := 32 * frameSetBits })
      |> modZone z (fun _ => { complete := true, writing := false, marked := false, first := g })

/-- The chains start anew. -/
def restartChains (s : State) : State :=
  modCart (fun c => { c with
    chains := #v[⟨0, 0, 0, 0⟩, vget c.chains 1, ⟨2, 0, 0, 0⟩, ⟨3, 0, 0, 0⟩], filled := false, sinceMap := 0, mapDue := false
    zones := Vector.replicate 2 ⟨false, false, false, 0⟩, reallocs := [], reallocQueue := [] }) s

/-- Every log starts after its last take, and every volume and its cached sectors read zero; what the ring holds of another
cartridge stays (R143, R162, R199). -/
def emptyContent (s : State) : State :=
  let s1 := allDoms.foldl (fun t d => modDom d (fun x => { x with
      resident := []
      logs := Vector.ofFn (fun l =>
        let y := vget x.logs l
        { firstRetained := y.lastCommitted + 1, lastCommitted := y.lastCommitted, lastTaped := y.lastCommitted, discarded := [] }) }) t) s
  { s1 with
    ring := { s1.ring with items := s.ring.items.filter (fun r => !itemHere s r)
                           boot := Vector.ofFn (fun d => ⟨tapeId s, obj s (Obj.firstStageSize d), [], []⟩) }
    comp := { s1.comp with gathers := [], blocks := [] } }

/-- FORMAT_COMPLETE: calibration cuts, Bedrock generations and the first checkpoint stand, and FORMAT_STATE reads 0x02 (R162,
R258, R376). -/
def execFormatComplete (s : State) : Host.Outcome State Fault Refusal :=
  .next (live s (
    if s.cart.state ≠ .formatting ∨ wrapsDone s < 96 then s
    else
      let s1 := s |> restartChains |> writeCalibration |> stepOp 1 98 0 |> writeEmptyZone 0 |> writeEmptyZone 1 |> stepOp 1 99 0
      let first := s1.jour.nextSerial
      let s2 := s1 |> formatCut .map .data 0 0 true |> modChain .data (fun p => { p with bits := 32 * frameSetBits })
        |> updateMemory (fun b => { b with
            formatState := 2, wrapsFormatted := 96, mapSerial := first, mapWrap := 0, mapLpos := lposAt .data 0 0 })
        |> stepOp 1 100 0 |> endOp 1
        |> modCart (fun c => { c with index := ⟨tapeId s, 0x80, [], [], 0⟩ }) |> emptyContent |> enterCart .searching
      progressAll (pollPower (refreshTape (postEvent 0x0505 unitCartridge (obj s2 Obj.formatGen % 65536) s2)))))

end Sys2Proof.Machine
end

