-- ==== Sys2Proof/Machine/Image.lean ====
section
/-!
DEFINITION. Defaults from straps and fuses (R30, R48, R424, R501), the Miomen image with its checks (R425-R428), downloads
into the inactive slot (R71, R72, R430) and activation (R429, R431).
-/
namespace Sys2Proof.Machine

/-! ### Defaults: steps 1 to 3 of R48 -/

/-- Values a start measures before it loads the dictionary: size, ranks and pool of the LPDDR4X, fuse status (R186, R424). -/
def startKey (k : Nat) : Bool :=
  k == Obj.dramSizeMib || k == Obj.dramRanks || k == Obj.domainPagePool || k == Obj.fuseStatus

/-- Step 1: every object at its constant default, but for the kept ones (R48, R536). -/
def clearDict (s : State) : State :=
  { s with dict := s.dict.filter (fun e => keptThroughReset e.1 || startKey e.1) }

/-- Step 2: fuse values (R424, R535). -/
def loadFuses (s : State) : State :=
  let f := s.boot.fuses
  s |> setObj Obj.vendorId f.vendorId.toNat |> setObj Obj.serialNumber (f.uniqueId.toNat % 2 ^ 32)
    |> setObj Obj.uniqueIdLow (f.uniqueId.toNat % 2 ^ 64) |> setObj Obj.uniqueIdHigh (f.uniqueId.toNat / 2 ^ 64)
    |> setObj Obj.fuseOptions (b2n f.keyProgrammed) |> setObj Obj.keyId f.kilnKeyId.toNat

/-- Domains of the template that DOMTPL selects (R30). -/
def templateCount (s : State) : Nat := 2 ^ fieldOf s.boot.straps 8 2

/-- Defaults of a domain by the template (R30). -/
def loadTemplate (d : Dom) (s : State) : State :=
  let n := templateCount s
  let pool := obj s Obj.domainPagePool
  if d.val < n then
    s |> setObj (Obj.ringShare d) (160 / n) |> setObj (Obj.cutQuota d) (1024 / n)
      |> setObj (Obj.pageFloor d) (pool / (2 * n)) |> setObj (Obj.pageCeiling d) pool
  else s

/-- Strap defaults of a port (R77). -/
def loadPortStraps (p : PortId) (s : State) : State :=
  let rate := fieldOf s.boot.straps 3 2
  s |> setObj (Obj.laneRate p) (if rate = 3 then 0 else rate) |> setObj (Obj.autoEnable p) (b2n (rate != 3))
    |> setObj (Obj.eqTable p) (fieldOf s.boot.straps 5 3)

/-- Step 3: strap defaults (R28, R30, R77, R501). -/
def loadStraps (s : State) : State :=
  let rate := fieldOf s.boot.straps 3 2
  let budget := 4050000 / 2 ^ (if rate = 3 then 0 else rate)
  let s1 := s |> setObj Obj.straps s.boot.straps |> setObj Obj.linkClockMode (fieldOf s.boot.straps 2 1)
    |> loadPortStraps .a |> loadPortStraps .b |> setObj Obj.budgetLinkA budget |> setObj Obj.budgetLinkB budget
  allDoms.foldl (fun t d => loadTemplate d t) s1

/-- Steps 1 to 3 of R48. -/
def reloaded (s : State) : State := s |> clearDict |> loadFuses |> loadStraps

/-! ### The layout of an image (R426, R427) -/

/-- Longest image and slot size (R426, R429). -/
def slotSize : Nat := 262144

/-- Bytes `off` to `off + n - 1`. -/
def slice (b : List Byte) (off n : Nat) : List Byte := (b.drop off).take n

/-- The number at an offset. -/
def numAt (b : List Byte) (off n : Nat) : Nat := ofLeBytes (slice b off n)

/-- Every byte is zero. -/
def allZero (b : List Byte) : Bool := b.all (· == 0)

/-- A section: its header, its body and the padding behind it. -/
structure Section where
  header : List Byte
  body : List Byte
  padding : List Byte
deriving DecidableEq, Repr

/-- TYPE of a section. -/
def Section.type (x : Section) : Nat := numAt x.header 0 2

/-- `n` sections that fill the bytes exactly; none where they do not. -/
def sectionsOf : Nat → List Byte → Option (List Section)
  | 0, b => if b = [] then some [] else none
  | n + 1, b =>
    let len := numAt b 4 4
    let whole := 16 * ceilDiv len 16
    if b.length < 16 + whole then none
    else (sectionsOf n (b.drop (16 + whole))).map
      (fun rest => ⟨b.take 16, slice b 16 len, slice b (16 + len) (whole - len)⟩ :: rest)

/-- An entry of an OBJECT_VALUES section. -/
structure Entry where
  index : Nat
  sub : Nat
  /-- Reserved bytes and padding, all to be zero. -/
  reserved : List Byte
  value : List Byte
deriving DecidableEq, Repr

/-- The entries of a body; none where it does not hold whole entries. -/
def entriesOf : Nat → List Byte → Option (List Entry)
  | _, [] => some []
  | 0, _ => none
  | fuel + 1, b =>
    let len := numAt b 4 2
    let whole := 4 * ceilDiv len 4
    if b.length < 8 + whole then none
    else (entriesOf fuel (b.drop (8 + whole))).map (fun rest =>
      ⟨numAt b 0 2, numAt b 2 1, slice b 3 1 ++ slice b 6 2 ++ slice b (8 + len) (whole - len), slice b 8 len⟩ :: rest)

/-- A big-endian number. -/
def ofBeBytes (b : List Byte) : Nat := ofLeBytes b.reverse

/-- CRC-32C of a section's body stands in its header (R427). -/
def sectionCrc (x : Section) : Bool := (crc32c x.body).toNat == numAt x.header 12 4

/-- Types and counts of the sections, and bodies of a length their type has (R427). -/
def sectionsLegal (l : List Section) : Bool :=
  let count (t : Nat) : Nat := (l.filter (fun x => x.type == t)).length
  l.all (fun x => sectionCrc x && (match x.type with
      | 1 => (entriesOf x.body.length x.body).isSome
      | 2 => x.body.length ≤ 4096
      | 3 => 4 ≤ x.body.length
      | 4 => 1 ≤ x.body.length && x.body.length ≤ 64
      | _ => false))
    && count 2 ≤ 1 && count 3 ≤ 1 && count 4 ≤ 1

/-- The entries of every OBJECT_VALUES section, in image order. -/
def imageEntries (l : List Section) : List Entry :=
  (l.filter (fun x => x.type == 1)).flatMap (fun x => (entriesOf x.body.length x.body).getD [])

/-! ### Values an image may set (R49, R428) -/

/-- The object is one an image may give a value to (R49, R535). -/
def imageSettable (i sub : Nat) : Bool :=
  (i == 0x100A && sub == 0)
    || (!(0x6000 ≤ i && i ≤ 0x60FF) && (findObj i sub).any (fun r => r.access == .rw && !r.type.isText))

/-- A count of mapping or assignment entries beyond its array (R67). -/
def countTooHigh (i sub v : Nat) : Bool :=
  sub == 0 && (((canonIndex i == 0x1600 || canonIndex i == 0x1A00) && 32 < v) || ((i == 0x1C12 || i == 0x1C13) && 8 < v))

/-- Reserved bits of an entry's value (R8). -/
def entryReserved (e : Entry) : Bool :=
  !allZero e.reserved || (ofLeBytes e.value &&& reservedBits e.index e.sub) != 0

/-- A legal value for the object (R427, R428). -/
def entryLegal (e : Entry) : Bool :=
  let v := ofLeBytes e.value
  imageSettable e.index e.sub &&
    (if e.index = 0x100A then 1 ≤ e.value.length && e.value.length ≤ 255
     else ((findObj e.index e.sub).map (·.type.bytes)) == some e.value.length && v < 2 ^ typeWidth e.index e.sub
      && inOwnRange e.index e.sub (typedValue e.index e.sub v) && !unmappable e.index e.sub v)

/-! ### The checks of R428 -/

/-- The reference may carry a declared spread: common-reference mode, clock on REF_IN (R80, R415). -/
def spreadAllowed (s : State) : Bool := bitOf s.boot.straps 2 && bitOf s.boot.straps 10

/-- Apply image values in order (R427). -/
def applyValues (l : List (Nat × Nat × List Byte)) (s : State) : State :=
  l.foldl (fun t e => if e.1 = 0x100A then t else setObj (objKey e.1 e.2.1) (ofLeBytes e.2.2) t) s

/-- The configured set after an image: the domains with ring share (R30). -/
def configureByShare (s : State) : State :=
  allDoms.foldl (fun t d => modDom d (fun x => { x with
    state := if obj t (Obj.ringShare d) = 0 then .unconfigured else .offline }) t) s

/-- The dictionary as an image would leave it. -/
def withValues (l : List (Nat × Nat × List Byte)) (s : State) : State := configureByShare (applyValues l (reloaded s))

/-- Limits across objects (R23, R41, R67, R190, R318, R328, R344, R385, R415, R451). -/
def limitsHold (s : State) (l : List (Nat × Nat × List Byte)) : Bool :=
  let t := withValues l s
  resourcesWithin t (confDoms t) && demandsWithin t (confDoms t) && configured t (adminDom t) && tensionWithin t && pwmWithin t
    && routingWithin t && objInt 32 t Obj.holdupMinStart ≤ objInt 32 t Obj.vholdTarget
    && (obj t Obj.spreadDeclared == 0 || spreadAllowed t)
    && l.all (fun e => !countTooHigh e.1 e.2.1 (ofLeBytes e.2.2))

/-- CP ROM version of A1 (R66). -/
def cpRomVersion : Nat := 0x00010000

/-- Check an image that is to be `total` bytes long: the reason of the first check of R428 that fails, or what it gives. -/
def checkImage (s : State) (total : Nat) (b : List Byte) : Except Nat ImageContent :=
  let len := numAt b 12 4
  let secs := if 192 ≤ len ∧ len ≤ b.length then sectionsOf (numAt b 16 4) (slice b 128 (len - 192)) else none
  let l := secs.getD []
  let entries := imageEntries l
  let values := entries.map (fun e => (e.index, e.sub, e.value))
  let key := slice b 64 64
  let body (t : Nat) : Option (List Byte) := (l.find? (fun x => x.type == t)).map (·.body)
  let patched := body 3
  if b.length < 6 || numAt b 0 4 != 0x4D4F494D || numAt b 4 2 != 1 then .error 1
  else if slotSize < len || len != total || len != b.length || secs.isNone || numAt b 16 4 = 0 || 64 < numAt b 16 4 then .error 2
  else if numAt b 6 2 != 0x0880 || numAt b 8 1 != 0xA1 then .error 3
  else if !s.boot.fuses.keyProgrammed || Config.sha256 key != s.boot.fuses.keyHash then .error 4
  else if !Config.ecdsaValid key (Config.sha256 (b.take (len - 64))) (BitVec.ofNat 512 (ofBeBytes (slice b (len - 64) 64)))
    then .error 5
  else if !sectionsLegal l then .error 6
  else if !allZero (slice b 9 3) || !allZero (slice b 32 32)
      || !l.all (fun x => allZero (slice x.header 2 2) && allZero (slice x.header 8 4) && allZero x.padding)
      || entries.any entryReserved then .error 7
  else if !entries.all entryLegal then .error 8
  else if !limitsHold s values then .error 9
  else if patched.any (fun x => numAt x 0 4 != cpRomVersion) then .error 0xA
  else .ok { version := numAt b 20 4, values := values, sii := body 2, strings := body 4, patched := patched.isSome }

/-! ### Downloads (R71, R72, R430) -/

/-- End a download without a change to any slot (R72). -/
def dropDownload (s : State) : State := { s with boot := { s.boot with download := none } }

/-- Check what a download holds as an image of `total` bytes; where it passes, the inactive slot takes it (R430). -/
def finishDownload (total : Nat) (s : State) : Bool × State :=
  match s.boot.download with
  | none => (false, s)
  | some x =>
    let b := x.bytes.take total
    match checkImage s total b with
    | .error r => (false, s |> dropDownload |> setObj Obj.lastRefusal r)
    | .ok c =>
      (true, dropDownload { s with boot := { s.boot with
        slots := vset s.boot.slots (inactiveSlot s) ⟨b, 1, 0, c.version⟩ } })

/-- A link push is open. -/
def pushOpen (s : State) : Bool := s.boot.download.any (fun x => match x.source with
  | .push _ => true
  | .foe => false)

/-- Put bytes at an offset; bytes between that nothing has placed are free values. -/
def placeBytes (free off : Nat) (new old : List Byte) : List Byte :=
  let gap := (List.range (off - old.length)).map (fun n => Config.pushGap free n)
  (old ++ gap).take off ++ new ++ old.drop (off + new.length)

/-- A write to IMAGE_PUSH_DATA that passed its checks: offset 0 opens the push (R430). -/
def pushData (w : Writer) (bytes : List Byte) (s : State) : State :=
  let off := obj s Obj.imagePushOffset
  let port : Option PortId := match w with
    | .regw p _ _ | .mgmt p _ _ => some p
    | _ => none
  let old := if off = 0 then [] else (s.boot.download.map (·.bytes)).getD []
  { s with boot := { s.boot with download := some ⟨.push port, placeBytes s.free off bytes old, 0⟩ } }
    |> draw |> setObj Obj.imagePushOffset (off + bytes.length)

/-- State checks of IMAGE_PUSH_DATA: FoE holds the slot, or no push is open at an offset beyond 0 (R72, R430). -/
def pushAllowed (s : State) : Bool :=
  match s.boot.download with
  | none => obj s Obj.imagePushOffset == 0
  | some _ => pushOpen s

/-! ### Activation (R429, R431) -/

/-- The 64 bytes of an activation record copy (R429). -/
def Activation.bytes (a : Activation) : List Byte :=
  let b := leBytes 4 0x5443414D ++ leBytes 4 a.counter ++ leBytes 1 a.slot.val ++ List.replicate 51 0
  b ++ leBytes 4 (crc32c b).toNat

/-- The copy that 64 bytes hold; none where MAGIC or CRC is wrong or the slot is neither (R429). -/
def activationOf (b : List Byte) : Option Activation :=
  if b.length = 64 ∧ numAt b 0 4 = 0x5443414D ∧ numAt b 60 4 = (crc32c (b.take 60)).toNat ∧ numAt b 8 1 < 2 then
    some ⟨numAt b 4 4, if numAt b 8 1 = 0 then 0 else 1⟩
  else none

/-- Where slot `n` and copy `n` of the activation record begin in the SPI NOR (R429). -/
def slotAddr (n : Fin 2) : Nat := 0x40000 * n.val
/-- First byte of an activation record copy. -/
def copyAddr (n : Fin 2) : Nat := 0x80000 + 0x1000 * n.val

/-- What the SPI NOR holds at an address of the slots and the copies; none where neither stands. -/
def norByte (s : State) (addr : Nat) : Option Byte :=
  if addr < 0x80000 then (vget s.boot.slots (if addr < 0x40000 then 0 else 1)).bytes[addr % 0x40000]?
  else if addr < 0x82000 then
    ((vget s.boot.copies (if addr < 0x81000 then 0 else 1)).map Activation.bytes).bind (fun b => b[addr % 0x1000]?)
  else none

/-- The copy that an activation writes: the one that is invalid or has the lower COUNTER. -/
def olderCopy (s : State) : Fin 2 :=
  match vget s.boot.copies 0, vget s.boot.copies 1 with
  | none, _ => 0
  | some _, none => 1
  | some a, some b => if a.counter < b.counter then 0 else 1

/-- The highest COUNTER of the valid copies. -/
def copyCounter (s : State) : Nat :=
  max (((vget s.boot.copies 0).map (·.counter)).getD 0) (((vget s.boot.copies 1).map (·.counter)).getD 0)

/-- Make the inactive slot active: KIND 0x03 runs through its three steps (R378, R431). -/
def activate (s : State) : State :=
  let n := inactiveSlot s
  let s1 := openOp 3 n.val s
  let c : Activation := ⟨copyCounter s1 + 1, n⟩
  { s1 with boot := { s1.boot with copies := vset s1.boot.copies (olderCopy s1) (some c) } } |> stepOp 3 2 n.val |> endOp 3

end Sys2Proof.Machine
end

