-- ==== Sys2Proof/Machine/Lanes.lean ====
section
/-!
DEFINITION. The rows of a port's lanes, of its training and of its states (R77-R102).
-/
namespace Sys2Proof.Machine

/-! ### Signals and training phases -/

/-- A lane in LISTEN that sees a signal: own clapper burst and LOCK; alone where the port runs (R94). DEDUCED: in a running
port, and in a short training, such a lane trains as a lone lane (R97): EQUALIZE skipped, back to RETRAIN_WAIT at any timer's
expiry; the spec does not say how it goes on (log entry 132). -/
def laneWakes (p : PortId) (l : Lane) (alone : Bool) (s : State) : State :=
  modLane p l (fun x => { trainLane s p (alone || (portOf s p).keepTaps) x with alone := alone }) s

/-- A port in LISTEN starts its full training with the link configuration in force from here on (R95, R101). -/
def listenToTraining (p : PortId) (s : State) : State :=
  let s1 := takeLinkConfig p s
  s1 |> modLanes p (fun k x =>
          if k.val < (portOf s1 p).width then (if x.state = .off then { x with state := .listen } else x)
          else { x with state := .off })
     |> modPort p (fun q => { q with fullTraining := true }) |> enterPort p .training

/-- SIGNAL_DETECTED: LOS clears; in LISTEN the lane answers with its own burst (R86, R94, R95). -/
def execSignalDetected (p : PortId) (l : Lane) (s : State) : Host.Outcome State Fault Refusal :=
  .next (live s (
    let s1 := modLane p l (fun x => { x with los := false }) s
    match (laneOf s1 p l).state with
    | .listen =>
      match (portOf s1 p).state with
      | .listen =>
        let s2 := listenToTraining p s1
        if (laneOf s2 p l).state = .listen then laneWakes p l false s2 else s2
      | .training => laneWakes p l (!(portOf s1 p).fullTraining) s1
      | _ => laneWakes p l true s1
    | _ => s1))

/-- LOS (R86, R93, R94, R96). -/
def execLos (p : PortId) (l : Lane) (s : State) : Host.Outcome State Fault Refusal :=
  .next (live s (
    let s1 := modLane p l (fun x => { x with los := true, losEvents := min (x.losEvents + 1) 0xFFFF }) s
    match (laneOf s p l).state with
    | .lock | .align | .equalize | .deskew => laneFallback p l s1
    | .active | .standby => laneLost p l s1
    | _ => s1))

/-- LOL is asserted on a lane: LOL_EVENTS counts it where it did not stand already (R86, R96, R102). -/
def lolAsserted (p : PortId) (l : Lane) (s : State) : State :=
  let s1 := modLane p l (fun x => { x with lol := true, missed := 0, lolEvents := min (x.lolEvents + b2n !x.lol) 0xFFFF }) s
  match (laneOf s p l).state with
  | .active | .standby => laneLost p l s1
  | _ => s1

/-- LOL. -/
def execLol (p : PortId) (l : Lane) (s : State) : Host.Outcome State Fault Refusal :=
  .next (live s (lolAsserted p l s))

/-- A lane of a port in LOOPBACK has locked: far-end loopback needs no more, near-end loopback goes on to ALIGN (R100). -/
def loopLocked (goal : PortGoal) (x : LaneRt) : LaneRt :=
  if x.loop ≠ .lock then x else { x with loop := if goal = .loopback .fe then .run else .align }

/-- LOCK_COMPLETE (R89, R100). -/
def execLockComplete (p : PortId) (l : Lane) (s : State) : Host.Outcome State Fault Refusal :=
  .next (live s (modLane p l (fun x =>
    match x.state with
    | .lock => { x with state := .align, lol := false, retries := 0 }
    | .loopback => loopLocked (portOf s p).goal { x with lol := false }
    | _ => { x with lol := false }) s))

/-- EQUALIZE starts: an own request stands where PARTNER_TAP_REQUEST_n is VALID (R88). -/
def enterEqualize (s : State) (p : PortId) (l : Lane) (x : LaneRt) : LaneRt :=
  { x with state := .equalize, retries := 0, tapUnanswered := false, tapStatus := 0
           requesting := bitOf (obj s (Obj.partnerTapRequest p l.val)) 15 }

/-- The lane's search starts at its last slip position: in an idle exit and in a lone retrain (R90). -/
def searchesFromLast (q : Port) (x : LaneRt) : Bool := x.alone || !q.fullTraining

/-- The bit-slip search of a lane in ALIGN over what its receiver meets at the 64 positions (R90). -/
def searchSlip (q : Port) (x : LaneRt) (hits : List SlipHit) : Option SlipHit :=
  slipSearch (if x.state = .align && searchesFromLast q x then x.slip else 0) hits

/-- ALIGN_COMPLETE (R89, R90, R91, R100): the search has found the position, and a valid lane word has come. -/
def execAlignComplete (p : PortId) (l : Lane) (word : DWord) (hits : List SlipHit) (s : State) :
    Host.Outcome State Fault Refusal :=
  .next (live s (
    let x := laneOf s p l
    let q := portOf s p
    match searchSlip q x hits, LaneWord.decode word with
    | some h, some w =>
      let y := takeLaneWord w { x with slip := h.slip.toNat, rxInverted := h.inverted, missed := 0 }
      match x.state with
      | .align =>
        if w.lane.toNat ≠ l.val then
          s |> setLane p l { y with state := .retrainWait, alone := false, txLine := [] }
            |> postEvent 0x0207 (unitPort p) (l.val + 0x100 * w.lane.toNat)
        else if searchesFromLast q x then
          setLane p l { y with state := .deskew, retries := 0, advertised := 0 } s
        else setLane p l (enterEqualize s p l y) s
      | .loopback => if x.loop = .align ∧ w.lane.toNat = l.val then setLane p l { y with loop := .deskew } s else s
      | _ => s
    | _, _ => s))

/-- PHASE_TIMER_EXPIRY (R93, R94, R97). -/
def execPhaseTimerExpiry (p : PortId) (l : Lane) (s : State) : Host.Outcome State Fault Refusal :=
  .next (live s (
    let x := laneOf s p l
    match x.state with
    | .lock | .align | .equalize | .deskew =>
      if x.alone || 3 ≤ x.retries then laneFallback p l s
      else
        let y := { x with retries := x.retries + 1 }
        setLane p l (if x.state = .lock then y.burst else y) s
    | _ => s))

/-! ### Lane frames -/

/-- A partner's tap request while EQUALIZE runs (R88). -/
def answerTaps (accept : Bool) (w : LaneWord) (x : LaneRt) : LaneRt :=
  if !w.reqValid then x
  else if !accept then { x with tapStatus := 2 }
  else { x with txPre := min w.reqPre.toNat 8, txPost := min w.reqPost.toNat 24
                tapStatus := if 8 < w.reqPre.toNat ∨ 24 < w.reqPost.toNat then 1 else 0 }

/-- An own request is settled: the partner reports the requested taps or a status other than zero (R88). -/
def requestSettled (req : Nat) (w : LaneWord) : Bool :=
  (w.curPre.toNat == fieldOf req 5 4 && w.curPost.toNat == fieldOf req 0 5) || w.tapStatus != 0

/-- EQUALIZE on a valid lane word (R88, R89). -/
def equalizeWord (accept : Bool) (req : Nat) (w : LaneWord) (x : LaneRt) : LaneRt :=
  let y := answerTaps accept w x
  let z := { y with requesting := y.requesting && !requestSettled req w }
  if !z.requesting && w.kind == 4 then { z with state := .deskew, retries := 0, advertised := 0 } else z

/-- The lanes both ends have advertised long enough to carry the port: the running ones, and a locked one after four
lane frames (R97). -/
def widenLanes (q : Port) : List Lane :=
  (commonLanes q).filter (fun l => let x := vget q.lanes l; x.state == .active || 4 ≤ x.advertised)

/-- Count the lane frames in which both ends advertise each lane (R97). -/
def countAdvertised (q : Port) : Port :=
  { q with lanes := Vector.ofFn (fun l =>
      let x := vget q.lanes l
      { x with advertised := if common q l then min (x.advertised + 1) 4 else 0 }) }

/-- What a running port does on a valid lane word: narrow as the partner narrows, report a finished narrowing, and widen
at a FRAME_SEQ that is a multiple of 16 (R96, R97). DEDUCED: the FRAME_SEQ that places the widening is the one in the partner's
lane word; the spec does not say whose it is (log entry 133). -/
def followPartner (p : PortId) (w : LaneWord) (s : State) : State :=
  let q := portOf s p
  if q.state ≠ .up then s else
  let lost := allLanes.any (fun l => (vget q.lanes l).state == .active && !common q l)
  if lost then narrow p s
  else
    let cur := (activeLanes q).length
    let s1 := if q.narrowing && widthOfCode w.txWidth ≤ cur then reportWidth p 0x0204 cur s else s
    let q1 := countAdvertised (portOf s1 p)
    let wide := widthFor (widenLanes q1).length
    if !q1.narrowing && cur < wide && w.frameSeq.toNat % 16 == 0 then
      s1 |> setPort p (assignLanes wide q1) |> reportWidth p 0x0205 wide
    else setPort p q1 s1

/-- A lane frame of an aligned lane: a missed marker counts, two in a row assert LOL; a found one brings lane word and content
(R84-R86, R88, R96, R97). -/
def alignedLine (p : PortId) (l : Lane) (line : List Bool) (s : State) : State :=
  let x := laneOf s p l
  match afterMarker x line with
  | none => if 1 ≤ x.missed then lolAsserted p l s else setLane p l { x with missed := x.missed + 1 } s
  | some rest =>
    match takeLaneFrame x rest with
    | (y, none) => setLane p l y s
    | (y, some w) =>
      if x.state = .equalize then
        setLane p l (equalizeWord (portOf s p).acceptTaps (obj s (Obj.partnerTapRequest p l.val)) w y) s
      else
        let s1 := setLane p l y s
        if allLanes.find? (fun k => (laneOf s1 p k).locked) == some l then followPartner p w s1 else s1

/-- LANE_FRAME_RECEIVED (R84-R86, R88, R96, R97, R100): the line bits of one lane frame, from the end of the one before. In
far-end loopback they go out again on the same lane while LOL is clear, neither descrambled nor destuffed. -/
def execLaneFrameReceived (p : PortId) (l : Lane) (line : List Bool) (s : State) : Host.Outcome State Fault Refusal :=
  .next (live s (
    let x := laneOf s p l
    match x.state with
    | .equalize | .deskew | .active | .standby => alignedLine p l line s
    | .loopback =>
      if (portOf s p).goal = .loopback .fe then
        setLane p l { x with txLine := if x.loop = .run ∧ !x.lol then line else [] } s
      else match x.loop with
        | .deskew | .run => alignedLine p l line s
        | .none | .lock | .align => s
    | _ => s))

/-! ### Width -/

/-- A lane's measured skew in DESKEW: within 96 UI it stays, beyond it waits for a retrain (R92). -/
def judgeSkew (skew : Nat) (x : LaneRt) : LaneRt :=
  if x.state ≠ .deskew then x
  else if 96 < skew then { x with skew := 127, state := .retrainWait, alone := false, txLine := [] }
  else { x with skew := skew }

/-- The lanes whose skew is too large (R92). -/
def skewedLanes (s : State) (p : PortId) (skews : Vector (BitVec 8) 4) : List Lane :=
  allLanes.filter (fun l => (laneOf s p l).state == .deskew && decide (96 < (vget skews l).toNat))

/-- A port reaches UP at a width: lanes assigned, lanes still in a phase go on alone (R92, R95, R97, R99). DEDUCED: a lane still
in LOCK, ALIGN or EQUALIZE then goes on as a lone lane; the spec does not say how such a lane goes on (log entry 132). -/
def portUp (p : PortId) (w : Nat) (s : State) : State :=
  let before := (portOf s p).idleWidth
  let short := !(portOf s p).fullTraining
  let s1 := s |> modPort p (fun q => { assignLanes w q with curWidth := w, narrowing := false, keepTaps := false })
    |> modLanes p (fun _ x => match x.state with
        | .lock | .align | .equalize => { x with alone := true }
        | _ => x)
    |> enterPort p .up |> postEvent 0x0201 (unitPort p) w
  let s2 := if short && w < before then postEvent 0x0204 (unitPort p) (w + 0x100 * (portOf s1 p).laneMap) s1 else s1
  s2 |> modPort p (fun q => { q with creditDue := true }) |> raiseLimits p |> payLost p

/-- DESKEW_COMPLETE (R92, R95, R97, R99): the port chooses its width; a lone lane of a running port stands by. -/
def execDeskewComplete (p : PortId) (skews : Vector (BitVec 8) 4) (s : State) : Host.Outcome State Fault Refusal :=
  .next (live s (
    let s1 := (skewedLanes s p skews).foldl (fun t l => postEvent 0x0208 (unitPort p) l.val t)
      (modLanes p (fun l x => judgeSkew (vget skews l).toNat x) s)
    match (portOf s p).state with
    | .training =>
      let w := widthFor (commonLanes (portOf s1 p)).length
      if w = 0 then s1 else portUp p w s1
    | .up | .draining =>
      modLanes p (fun _ x => if x.state = .deskew then { x with state := .standby, alone := false, advertised := 0 }
        else x) s1
    | .loopback => modLanes p (fun _ x => if x.loop = .deskew then { x with loop := .run } else x) s
    | _ => s))

/-! ### Timers of a port's lanes -/

/-- LISTEN_BURST (R94): a clapper burst, and LOCK frames for the 4 ms that follow. -/
def execListenBurst (p : PortId) (l : Lane) (s : State) : Host.Outcome State Fault Refusal :=
  .next (live s (modLane p l (fun x =>
    if x.state = .listen then { x.burst with lockLeft := lockFrames (portOf s p).rate } else x) s))

/-- LONE_RETRAIN (R94, R97). -/
def execLoneRetrain (p : PortId) (l : Lane) (s : State) : Host.Outcome State Fault Refusal :=
  .next (live s (modLane p l (fun x =>
    if x.state = .retrainWait then { x with state := .lock, alone := true, retries := 0, advertised := 0 } else x) s))

/-- TAP_REQUEST_TIMEOUT (R88): the request is withdrawn and the phase goes on. -/
def execTapRequestTimeout (p : PortId) (l : Lane) (s : State) : Host.Outcome State Fault Refusal :=
  .next (live s (modLane p l (fun x =>
    if x.state = .equalize && x.requesting then
      let y := { x with requesting := false, tapUnanswered := true }
      if x.wordKind = 4 then { y with state := .deskew, retries := 0, advertised := 0 } else y
    else x) s))

/-- NARROWING_TIMEOUT (R95, R96): UP to TRAINING. -/
def execNarrowingTimeout (p : PortId) (s : State) : Host.Outcome State Fault Refusal :=
  .next (live s (if (portOf s p).state = .up ∧ (portOf s p).narrowing then linkDown p false s else s))

/-! ### Electrical idle -/

/-- CLAPPER_BURST (R86, R99, R185): a port in IDLE, whose lanes in IDLE see the signal, starts its short training, which also
leaves P2. -/
def execClapperBurst (p : PortId) (s : State) : Host.Outcome State Fault Refusal :=
  .next (live s (
    if (portOf s p).state = .idle then
      s |> modLanes p (fun _ x => if x.state = .idle then { x with los := false } else x) |> idleExit p |> leaveP2
    else s))

/-- Both ends have exchanged their markers: IDLE (R98). -/
def idleIfExchanged (p : PortId) (s : State) : State :=
  let q := portOf s p
  if q.state = .draining ∧ q.goal = .idle ∧ q.eotSent ∧ q.eotSeen then enterIdle p s else s

/-- END_OF_TRANSMISSION (R95, R98). -/
def execEndOfTransmission (p : PortId) (s : State) : Host.Outcome State Fault Refusal :=
  .next (live s (
    match (portOf s p).state, (portOf s p).goal with
    | .up, _ => s |> startIdle p |> modPort p (fun q => { q with eotSeen := true })
    | .draining, .idle => s |> modPort p (fun q => { q with eotSeen := true }) |> idleIfExchanged p
    | _, _ => s))

/-- IDLE_ENTRY_TIMEOUT (R98): 1 ms without the partner's marker cancels the entry. -/
def execIdleEntryTimeout (p : PortId) (s : State) : Host.Outcome State Fault Refusal :=
  .next (live s (
    let q := portOf s p
    if q.state = .draining ∧ q.goal = .idle ∧ !q.eotSeen then cancelIdle p s else s))

/-- PORT_QUIESCENT (R95, R98): the retry buffer holds no frame; the port goes where its request asked, for idle once both
markers are exchanged. -/
def execPortQuiescent (p : PortId) (s : State) : Host.Outcome State Fault Refusal :=
  .next (live s (
    let q := portOf s p
    if q.state = .draining ∧ q.retry = [] then
      match q.goal with
      | .disabled => disablePort p s
      | .loopback m => enterLoopback p m s
      | .idle => s |> modPort p (fun q => { q with eotSent := true }) |> putEotMarkers p |> idleIfExchanged p
      | .none => s
    else s))

/-! ### STATE_REQUESTs of a port (R95, R100) -/

/-- A port request: unit, action, the states it is legal in and its effect. -/
def portRequest (p : PortId) (w : Writer) (action : Nat) (gen : Half) (legal : PortState → Bool) (f : State → State)
    (s : State) : State :=
  stateRequest w (portIndex p) action gen.toNat 8 (legal (portOf s p).state) true f s

/-- From UP, drain towards a goal (R95, R119). -/
def drainTo (p : PortId) (g : PortGoal) (s : State) : State :=
  s |> modPort p (fun q => { q with goal := g, eotSent := false, eotSeen := false }) |> enterPort p .draining

/-- ENABLE. -/
def reqEnable (p : PortId) (w : Writer) (gen : Half) (s : State) : State :=
  portRequest p w 1 gen (· == .disabled) (enablePort p) s

/-- ENABLE: the request arrives. -/
def execEnable (p : PortId) (w : Writer) (gen : Half) (s : State) : Host.Outcome State Fault Refusal :=
  .next (live s (arriveValue w (portIndex p) 3 (reqEnable p w gen) s))

/-- DISABLE: from UP through DRAINING (R95). -/
def reqDisable (p : PortId) (w : Writer) (gen : Half) (s : State) : State :=
  portRequest p w 2 gen (fun x => x == .up || x == .listen || x == .training || x == .idle)
    (fun t => if (portOf t p).state = .up then drainTo p .disabled t else disablePort p t) s

/-- DISABLE: the request arrives. -/
def execDisable (p : PortId) (w : Writer) (gen : Half) (s : State) : Host.Outcome State Fault Refusal :=
  .next (live s (arriveValue w (portIndex p) 3 (reqDisable p w gen) s))

/-- RETRAIN: LINK_DOWN from UP; a full training with table taps (R87, R95). DEDUCED: RETRAIN in IDLE takes the full training of
R95's row; R99 names RETRAIN beside the causes of its short exit with taps kept (log entry 134). -/
def reqRetrain (p : PortId) (w : Writer) (gen : Half) (s : State) : State :=
  portRequest p w 3 gen (fun x => x == .up || x == .listen || x == .idle)
    (fun t => if (portOf t p).state = .up then linkDown p false t else leaveP2 (fullTraining p false true t)) s

/-- RETRAIN: the request arrives. -/
def execRetrain (p : PortId) (w : Writer) (gen : Half) (s : State) : Host.Outcome State Fault Refusal :=
  .next (live s (arriveValue w (portIndex p) 3 (reqRetrain p w gen) s))

/-- ENTER_IDLE. -/
def reqEnterIdle (p : PortId) (w : Writer) (gen : Half) (s : State) : State :=
  portRequest p w 4 gen (· == .up) (startIdle p) s

/-- ENTER_IDLE: the request arrives. -/
def execEnterIdle (p : PortId) (w : Writer) (gen : Half) (s : State) : Host.Outcome State Fault Refusal :=
  .next (live s (arriveValue w (portIndex p) 3 (reqEnterIdle p w gen) s))

/-- A LOOPBACK action: from DISABLED directly, from UP through DRAINING (R100). -/
def loopbackEffect (p : PortId) (m : LoopMode) (s : State) : State :=
  if (portOf s p).state = .up then drainTo p (.loopback m) s else enterLoopback p m s

/-- LOOPBACK_NES. -/
def reqLoopbackNes (p : PortId) (w : Writer) (gen : Half) (s : State) : State :=
  portRequest p w 5 gen (fun x => x == .disabled || x == .up) (loopbackEffect p .nes) s

/-- LOOPBACK_NES: the request arrives. -/
def execLoopbackNes (p : PortId) (w : Writer) (gen : Half) (s : State) : Host.Outcome State Fault Refusal :=
  .next (live s (arriveValue w (portIndex p) 3 (reqLoopbackNes p w gen) s))

/-- LOOPBACK_NEP. -/
def reqLoopbackNep (p : PortId) (w : Writer) (gen : Half) (s : State) : State :=
  portRequest p w 6 gen (fun x => x == .disabled || x == .up) (loopbackEffect p .nep) s

/-- LOOPBACK_NEP: the request arrives. -/
def execLoopbackNep (p : PortId) (w : Writer) (gen : Half) (s : State) : Host.Outcome State Fault Refusal :=
  .next (live s (arriveValue w (portIndex p) 3 (reqLoopbackNep p w gen) s))

/-- LOOPBACK_FE. -/
def reqLoopbackFe (p : PortId) (w : Writer) (gen : Half) (s : State) : State :=
  portRequest p w 7 gen (fun x => x == .disabled || x == .up) (loopbackEffect p .fe) s

/-- LOOPBACK_FE: the request arrives. -/
def execLoopbackFe (p : PortId) (w : Writer) (gen : Half) (s : State) : Host.Outcome State Fault Refusal :=
  .next (live s (arriveValue w (portIndex p) 3 (reqLoopbackFe p w gen) s))

/-- END_LOOPBACK. -/
def reqEndLoopback (p : PortId) (w : Writer) (gen : Half) (s : State) : State :=
  portRequest p w 8 gen (· == .loopback) (disablePort p) s

/-- END_LOOPBACK: the request arrives. -/
def execEndLoopback (p : PortId) (w : Writer) (gen : Half) (s : State) : Host.Outcome State Fault Refusal :=
  .next (live s (arriveValue w (portIndex p) 3 (reqEndLoopback p w gen) s))

end Sys2Proof.Machine
end

