-- ==== Sys2Proof/Machine/Dictionary.lean ====
section
/-!
DEFINITION. The dictionary server: the bytes of objects, the checks of a write in the order of R540, what each write does,
complete access (R541), the register window (R60-R62) and the MGMT tunnel (R63, R64).
-/
namespace Sys2Proof.Machine

/-! ### Bytes of objects (R6, R45) -/

/-- The bytes of ASCII text. -/
def asciiBytes (t : String) : List Byte := t.toList.map (fun c => BitVec.ofNat 8 c.toNat)

/-- CAPTURE_DATA: four INTEGER32 a sample, in the order recorded (R324). -/
def captureBytes (s : State) : List Byte :=
  padTo 65536 (s.xport.capture.samples.reverse.flatMap (fun l => (l.take 4).flatMap (fun v => leBytes 4 (toBits 32 v))))

/-- An audit entry's 64 bytes (R401). -/
def AuditEntry.bytes (e : AuditEntry) : List Byte :=
  let b := leBytes 2 e.index ++ leBytes 1 e.event ++ leBytes 1 e.flags ++ leBytes 4 e.counter ++ leBytes 8 e.time
    ++ leBytes 8 e.recordSeq ++ leBytes 2 e.objIndex ++ leBytes 1 e.sub ++ [0] ++ leBytes 8 e.old ++ leBytes 8 e.new
    ++ leBytes 2 e.gen ++ List.replicate 14 0
  b ++ leBytes 4 (crc32c b).toNat

/-- AUDIT_LOG: 1,024 entries of 64 bytes, zeros where none is written (R401, R413). -/
def auditBytes (s : State) : List Byte := padTo 65536 (s.kiln.audit.flatMap AuditEntry.bytes)

/-- Value of a string or octet string (R66, R324, R413, R424); a hash's bytes stand in SHA-256's own order (R6). -/
def textValue (s : State) (i sub : Nat) : List Byte :=
  match i, sub with
  | 0x1008, 0 => asciiBytes "PKA-880"
  | 0x1009, 0 => asciiBytes "A1"
  | 0x100A, 0 =>
    let c := s.boot.image.map (·.2)
    let given := (c.bind (fun x => (x.values.filter (fun e => e.1 == 0x100A)).getLast?)).map (·.2.2)
    ((c.bind (·.strings)).orElse (fun _ => given)).getD (asciiBytes "ROM 1.00")
  | 0x2000, 9 => beBytes 32 (if s.boot.fuses.keyProgrammed then s.boot.fuses.keyHash.toNat else 0)
  | 0x3012, 0 => captureBytes s
  | 0x6001, 1 => asciiBytes "PKA-880 KILN K1"
  | 0x6002, 1 => s.boot.fuses.kilnPublicKey
  | 0x6005, 0 => auditBytes s
  | 0x6010, n => if 1 ≤ n ∧ n ≤ 8 then vget s.kiln.inputs (Fin.ofNat 8 (n - 1)) else []
  | _, _ => []

/-- Bytes of a type. -/
def typeBytes (i sub : Nat) : Nat := ((findObj i sub).map (·.type.bytes)).getD 0

/-- The object is a string or an octet string. -/
def isText (i sub : Nat) : Bool := (findObj i sub).any (·.type.isText)

/-- The bytes a read of an object returns. -/
def objBytes (s : State) (i sub : Nat) : List Byte :=
  if isText i sub then textValue s i sub else leBytes (typeBytes i sub) (viewObj s i sub)

/-- Subindices present at an index from `sub` on (R541). -/
def subsFrom (i sub : Nat) : List Nat :=
  (List.range (highestSub i + 1)).filter (fun n => sub ≤ n && (findObj i n).isSome)

/-- Complete access is supported: a count at subindex 0x00 and no string (R541). -/
def completeSupported (i : Nat) : Bool := (rowsOf i).all (fun r => 1 ≤ r.sub && !r.type.isText)

/-- The bytes of a complete read (R541). -/
def completeBytes (s : State) (i sub : Nat) : List Byte := (subsFrom i sub).flatMap (objBytes s i)

/-! ### Checks of a value: steps 6 to 12 of R540 -/

/-- Pins of an object's level bits that are not its owner's (R456). -/
def foreignBits (s : State) (owner v : Nat) : Bool := allPins.any (fun q => bitOf v q && pinOwner s q != owner)

/-- Range checks that follow the state: page pool, quota, VHOLD_TARGET, pin owners, a configured domain's lower ends
(R23, R385, R456, R539). FIRST_STAGE_SIZE holds the VOLUME_SIZE_0 of `t`, the state the whole write would leave. -/
def inPresentRange (s t : State) (i sub v : Nat) : Bool :=
  let d := (indexDomain i).getD 0
  let low : Bool := match indexDomain i with
    | some d => !configured s d || domainRangeLow i sub (typedValue i sub v)
    | none => true
  low && (match canonIndex i, sub with
    | 0x4001, 4 => v ≤ s.dram.pool
    | 0x4003, 3 | 0x4003, 4 | 0x4003, 5 => v ≤ quotaSectors (obj s (Obj.cutQuota d))
    | 0x4003, 6 => v ≤ volumeSize t d 0
    | 0x3600, 4 => decide (typedValue i sub v ≤ objInt 32 s Obj.vholdTarget)
    | 0x3800, 3 => !foreignBits s 0 v
    | 0x4007, 1 => !foreignBits s (d.val + 1) v
    | 0x2202, 1 => v ≤ slotSize
    | _, _ => true)

/-- Pin number of a PIN_CONFIG object. -/
def configPin (i sub : Nat) : Nat := 8 * (i - 0x3801) + (sub - 1)

/-- A Kiln-owned pin's routing is fixed while Kiln is SEALED (R452). -/
def kilnPinLocked (s : State) (i sub v : Nat) : Bool :=
  canonIndex i == 0x3801 && kilnSeen s == 1 &&
    (let q := configPin i sub
     (pinOwner s q == 9 && v != pinCfg s q) || (pinOwner s q != 9 && fieldOf v 20 4 == 9))

/-- Functions whose routing needs a resting transport (R452). -/
def motionFunction (f : Nat) : Bool := f ≤ 3 || f == 0x0C || f == 0x0D

/-- The transport is in OFF, IDLE or TEST (R311, R318, R329). -/
def xportCalm (s : State) : Bool :=
  match s.xport.state with
  | .off | .idle | .test => true
  | _ => false

/-- Step 11: the present state allows the write. -/
def stateAllows (s : State) (i sub v : Nat) : Bool :=
  let d := (indexDomain i).getD 0
  let old := obj s (objKey i sub)
  let free : Bool := (domOf s d).state == .unconfigured || (domOf s d).state == .offline
  if isPdoSetup i then s.ecat.al == .preop
  else match canonIndex i, sub with
  | 0x2110, 2 => v == 0 || spreadAllowed s
  | 0x2201, 4 => (vget s.boot.slots (inactiveSlot s)).status == 1 && s.boot.download.isNone
  | 0x2202, 3 => pushOpen s
  | 0x2C05, 4 => s.cart.state == .absent
  | 0x2E03, 1 => s.cart.threaded
  | 0x3000, 7 => v % 2 == old % 2 || xportCalm s
  | 0x3010, 2 => v == 0 || s.xport.state == .test
  | 0x3011, 1 | 0x3011, 2 | 0x3011, 3 => s.xport.capture.state == .idle || s.xport.capture.state == .full
  | 0x3100, 1 | 0x3200, 1 | 0x3200, 2 => xportCalm s
  | 0x3201, _ | 0x3202, _ => xportCalm s
  | 0x3801, _ =>
    let a := pinFunction s (configPin i sub)
    let b := fieldOf v 24 8
    a == b || !(motionFunction a || motionFunction b) || s.xport.state == .off || s.xport.state == .idle
  | 0x4001, 2 => free && (old ≤ v || itemsOf s d == [])
  | 0x4001, 3 | 0x4001, 4 | 0x4001, 5 => free
  | 0x4003, _ => free
  | _, _ => true

/-- Step 12: the limits across objects hold in the state `t` that the whole write would leave. -/
def limitAllows (s t : State) (i sub v : Nat) : Bool :=
  let d := (indexDomain i).getD 0
  !countTooHigh i sub v && (match canonIndex i, sub with
    | 0x2680, 1 => configured s (Fin.ofNat 8 v)
    | 0x3000, 7 =>
      let n : SlotNo := Fin.ofNat 16 (i - 0x3000)
      !bitOf v 2 || decide (objQ16 t (Obj.slotUmin n) < objQ16 t (Obj.slotUmax n))
    | 0x3200, 1 | 0x3200, 2 => pwmWithin t
    | 0x3401, n => n == 0 || 6 ≤ n || tensionWithin t
    | 0x3801, _ => routingWithin t
    | 0x4001, 2 | 0x4001, 3 | 0x4001, 4 | 0x4001, 5 | 0x4003, _ => !configured s d || ownLimits t (confDoms t) d i sub
    | 0x4001, 6 | 0x4002, 1 | 0x4002, 2 | 0x4002, 3 => raisesWithin s t
    | _, _ => true)

/-- Steps 6 to 12 of R540 for a value of `len` bytes; `t` is the state the whole write would leave. -/
def valueChecks (s t : State) (w : Writer) (i sub len v : Nat) : List (Bool × Reason) :=
  [ (len != typeBytes i sub, .length),
    (v &&& reservedBits i sub != 0, .invalidField),
    (!(v < 2 ^ typeWidth i sub) || !inOwnRange i sub (typedValue i sub v) || !inPresentRange s t i sub v, .range),
    (unmappable i sub v, .notMappable),
    ((w != .rxpdo && pdoLocked s i sub) || kilnPdoLocked s i sub || kilnPinLocked s i sub v, .locked),
    (!stateAllows s i sub v, .state),
    (!limitAllows s t i sub v, .limit) ]

/-- Every check of a write of one object. -/
def writeChecks (s : State) (w : Writer) (i sub len v : Nat) : List (Bool × Reason) :=
  accessChecks s w i sub ++ valueChecks s (setObj (objKey i sub) v s) w i sub len v

/-! ### What a write does -/

/-- CONTROL of a loop slot: APPLY reads 0 and loads the shadows at the next valley (R311). -/
def writeControl (n : SlotNo) (v : Nat) (s : State) : State :=
  let s1 := setObj (Obj.slotControl n) (v % 4) s
  if bitOf v 2 then modLoop n (fun l => { l with apply := true }) s1 else s1

/-- CAPTURE_CONTROL: arm or stop (R324). -/
def captureControl (v : Nat) (s : State) : State :=
  showCapture (modXport (fun x =>
    if v = 1 then { x with capture := ⟨.armed, [], 0⟩ }
    else { x with capture := { x.capture with state := match x.capture.state with
      | .armed | .running => .idle
      | st => st } }) s)

/-- HOLDUP_CONTROL: the holdup slots' faults end and the charger may run (R374). -/
def clearHoldup (s : State) : State :=
  s.power.slotFaults.foldl (fun t n =>
      let k : SlotNo := Fin.ofNat 16 n
      t |> modLoop k (fun l => { l with fault := false, stale := false, staleCount := 0 }) |> showLoop k)
    { s with power := { s.power with slotFaults := [], faulted := false } }

/-- What a write that passed its checks does, as one change (R53). -/
def applyWrite (w : Writer) (i sub v : Nat) (s : State) : State :=
  let put : State := setObj (objKey i sub) v s
  match canonIndex i, sub with
  | 0x2140, 2 => pollPower put
  | 0x2160, 0xB => { s with energy := { s.energy with clearDue := true } }
  | 0x2200, 3 => requestReset 3 s
  | 0x2201, 4 => activate s
  | 0x2480, 1 => setObj Obj.nodeIdValid 1 put
  | 0x2C05, 4 => { put with jour := { put.jour with headChanged := true } }
  | 0x2E03, 1 => pollPower (modCart (fun c => { c with calibration := true }) s)
  | 0x3000, 7 => writeControl (Fin.ofNat 16 (i - 0x3000)) v s
  | 0x3010, 2 => modXport (fun x => { x with inject := ⟨0, 0x7FF⟩ }) put
  | 0x3011, 4 => captureControl v s
  | 0x3402, 2 => withCap (setObj (objKey i sub) v) s
  | 0x3404, 1 => pollPower put
  | 0x3601, 5 => clearHoldup s
  | 0x3800, 3 | 0x4007, 1 | 0x3808, 1 => filterLines put
  | 0x3801, _ =>
    let q := configPin i sub
    filterLines (retargetLine (Fin.ofNat 8 (q % 8)) (applyPinConfig q v s))
  | 0x3806, _ => restartLine (Fin.ofNat 8 (sub - 1)) put
  | 0x4001, 2 => fitUnits ((indexDomain i).getD 0) put
  | 0x4001, 3 | 0x4001, 4 => servePages put
  | 0x4001, 7 =>
    let d := (indexDomain i).getD 0
    pollPower (modDom d (fun x => { x with requestedVote := min x.requestedVote (deepest put d) }) put)
  | 0x6004, _ => { s with kiln := { s.kiln with toKiln := s.kiln.toKiln ++ [.stage w sub [(sub, v)]] } }
  | _, _ => put

/-- The object is a unit's STATE_REQUEST (R55). -/
def isUnitRequest (i sub : Nat) : Bool :=
  sub == 3 && (canonIndex i == 0x2400 || i == 0x2C00 || i == 0x3400 || canonIndex i == 0x4000)

/-- A write to a STATE_REQUEST (R29, R33): the action's own request, or one that no state has a transition for. -/
def unitRequest (w : Writer) (i v : Nat) (s : State) : State :=
  let action := v / 65536
  let gen : Half := BitVec.ofNat 16 v
  if canonIndex i = 0x2400 then
    let p : PortId := if i = 0x2400 then .a else .b
    match action with
    | 1 => reqEnable p w gen s
    | 2 => reqDisable p w gen s
    | 3 => reqRetrain p w gen s
    | 4 => reqEnterIdle p w gen s
    | 5 => reqLoopbackNes p w gen s
    | 6 => reqLoopbackNep p w gen s
    | 7 => reqLoopbackFe p w gen s
    | 8 => reqEndLoopback p w gen s
    | _ => portRequest p w action gen (fun _ => false) id s
  else if i = 0x2C00 then
    match action with
    | 1 => cartRequest .load w gen s
    | 2 => cartRequest .unload w gen s
    | 3 => cartRequest .eject w gen s
    | 4 => cartRequest .format w gen s
    | 5 => cartRequest .formatForce w gen s
    | 6 => cartRequest .discardRing w gen s
    | _ => stateRequest w 0x2C00 action gen.toNat 6 false true id s
  else if i = 0x3400 then
    match action with
    | 1 => reqClearFault w gen s
    | 2 => reqEnterTest w gen s
    | 3 => reqEndTest w gen s
    | _ => transportRequest w action gen false id s
  else
    let d := (indexDomain i).getD 0
    match action with
    | 1 => reqConfigure d w gen s
    | 2 => reqGoOnline d w gen s
    | 3 => reqGoOffline d w gen s
    | 4 => reqReset d w gen s
    | 5 => reqUnconfigure d w gen s
    | _ => domainRequest d w action gen false true id s

/-- A commit of a link push: the image is checked; a failed check refuses the commit with RANGE (R430). -/
def commitPush (w : Writer) (v : Nat) (s : State) : State :=
  let r := finishDownload v s
  if r.1 then answer w 0x2202 3 none r.2 else refuse w 0x2202 3 .range r.2

/-- A write of one object's value, `len` bytes as it came (R53, R540). A write that Kiln judges is answered by its result
(R405). -/
def writeValue (w : Writer) (i sub len v : Nat) (s : State) : State :=
  if isUnitRequest i sub then
    match firstReason (accessChecks s w i sub ++ [(len != typeBytes i sub, .length)]) with
    | some r => refuse w i sub r s
    | none => unitRequest w i v s
  else match firstReason (writeChecks s w i sub len v) with
    | some r => refuse w i sub r s
    | none =>
      if i = 0x6004 then applyWrite w i sub v s
      else if i = 0x2202 ∧ sub = 3 then commitPush w v s
      else answer w i sub none (applyWrite w i sub v s)

/-- A write to IMAGE_PUSH_DATA (R430). -/
def writePush (w : Writer) (bytes : List Byte) (s : State) : State :=
  match firstReason (accessChecks s w 0x2202 2 ++ [
    (bytes == [] || decide (65536 < bytes.length), .length),
    (decide (slotSize < obj s Obj.imagePushOffset + bytes.length), .range),
    (!pushAllowed s, .state)]) with
  | some r => refuse w 0x2202 2 r s
  | none => answer w 0x2202 2 none (pushData w bytes s)

/-- A write of the bytes of one object, by SDO or MGMT. -/
def writeBytes (w : Writer) (i sub : Nat) (bytes : List Byte) (s : State) : State :=
  if i = 0x2202 ∧ sub = 2 then writePush w bytes s else writeValue w i sub bytes.length (ofLeBytes bytes) s

/-! ### Complete access (R541) -/

/-- Cut the data into one value for each subindex: subindex, length present and value. -/
def splitEntries (i : Nat) : List Nat → List Byte → List (Nat × Nat × Nat)
  | [], _ => []
  | n :: rest, b =>
    let k := typeBytes i n
    (n, (b.take k).length, ofLeBytes (b.take k)) :: splitEntries i rest (b.drop k)

/-- An entry that must equal the present value: an RO object or subindex 0x00. -/
def fixedEntry (i sub : Nat) : Bool := sub == 0 || (findObj i sub).any (fun r => r.access == .ro)

/-- The state with every value of a complete write put. -/
def putAll (i : Nat) (l : List (Nat × Nat × Nat)) (s : State) : State :=
  l.foldl (fun t e => if fixedEntry i e.1 then t else setObj (objKey i e.1) e.2.2 t) s

/-- The checks of one entry, step by step. An RO entry that differs from the present value is refused as a write to an RO
object, a count that differs as INVALID_FIELD: the model's choice (R541; DESIGN CHOICE, log entry 143). -/
def entryChecks (s t : State) (w : Writer) (i : Nat) (e : Nat × Nat × Nat) : List (Bool × Reason) :=
  let row := findObj i e.1
  if fixedEntry i e.1 then
    let differs : Bool := e.2.2 != viewObj s i e.1
    let ro : Bool := (row.map (·.access)).getD .ro == .ro
    [(false, .kilnRange), (differs && ro, .writeRo), (false, .notOwner), (false, .length), (differs, .invalidField)]
  else
    (accessChecks s w i e.1).drop 2 ++ valueChecks s t w i e.1 e.2.1 e.2.2

/-- The checks of every entry, the earlier step first (R540). -/
def byStep (l : List (List (Bool × Reason))) : List (Bool × Reason) :=
  (List.range 10).flatMap (fun k => l.filterMap (fun c => (c.drop k).head?))

/-- Checks of a complete write before its entries: presence, Kiln's range, support, path and owner, the length of the data,
and the subindex named, 0x00 or 0x01: another is refused with INVALID_FIELD, the model's choice (R63, R541; DESIGN CHOICE,
log entry 140). -/
def completeChecks (s : State) (w : Writer) (i sub len : Nat) : List (Bool × Reason) :=
  [ (!indexPresent i, .indexAbsent),
    (0x6000 ≤ i && i ≤ 0x60FF && !(procedureOpen s && i == 0x6004), .kilnRange),
    (!completeSupported i, .noComplete),
    (!(pathEnabled s w && (integratorRank s w || (subsFrom i sub).any (fun n =>
        ownerAllows s w i (((findObj i n).map (·.owner)).getD .nobody)))), .notOwner),
    (len != ((subsFrom i sub).map (typeBytes i)).sum, .length),
    (1 < sub, .invalidField) ]

/-- A complete-access write: applied as one write where every entry passes (R541). -/
def writeComplete (w : Writer) (i sub : Nat) (bytes : List Byte) (s : State) : State :=
  let l := splitEntries i (subsFrom i sub) bytes
  let t := putAll i l s
  match firstReason (completeChecks s w i sub bytes.length
      ++ byStep ((l.filter (fun e => !isUnitRequest i e.1)).map (entryChecks s t w i))) with
  | some r => refuse w i sub r s
  | none =>
    let set := l.filter (fun e => !fixedEntry i e.1)
    match set.find? (fun e => isUnitRequest i e.1) with
    | some e => unitRequest w i e.2.2 s
    | none =>
      if i = 0x6004 then
        { s with kiln := { s.kiln with toKiln := s.kiln.toKiln ++ [.stage w sub (set.map (fun e => (e.1, e.2.2)))] } }
      else answer w i sub none (set.foldl (fun u e => applyWrite w i e.1 e.2.2 u) s)

/-! ### The register window (R60-R62, R532, R534) -/

/-- What a window address stands for: index, subindex, and whether it is the upper word of a 64-bit object; none where no
mapped object is there. -/
def windowTarget (a : Nat) : Option (Nat × Nat × Bool) :=
  let i := windowIndex a
  let sub := windowSub a
  if windowEnd ≤ a then none
  else if (findObj i sub).any (·.mapped) then some (i, sub, false)
  else if 1 ≤ sub ∧ (findObj i sub).isNone ∧ isWide i (sub - 1) ∧ (findObj i (sub - 1)).any (·.mapped) then
    some (i, sub - 1, true)
  else none

/-- Answer a window access. -/
def sendRegd (p : PortId) (d : Dom) (addr : Word) (reqId : Byte) (status word : Nat) (s : State) : State :=
  sendMsg p (.regd d addr.toNat reqId.toNat status word) s

/-- A refused window access. -/
def refuseWindow (p : PortId) (d : Dom) (addr : Word) (reqId : Byte) (i sub : Nat) (r : Reason) (word : Nat) (s : State) : State :=
  s |> refusalDetail Obj.refusalDetailLink i sub r.link |> sendRegd p d addr reqId r.link word

/-- The value a REGW word spells for a narrower object; beyond its width where it must be refused (R60). -/
def regwValue (i sub word : Nat) : Nat :=
  match findObj i sub with
  | some r =>
    if r.type.signed ∧ r.type.width < 32 then
      (if toBits 32 (ofBits r.type.width word) = word then word % 2 ^ r.type.width else 2 ^ 32)
    else word
  | none => word

/-- A REGW (R60-R62). -/
def regw (p : PortId) (d : Dom) (reqId : Byte) (addr value : Word) (s : State) : State :=
  let w : Writer := .regw p d reqId
  let a := addr.toNat
  let held := (portOf s p).held
  let s1 := s |> dropPair p |> returnAdmin p 1
  if a % 4 ≠ 0 then refuseWindow p d addr reqId (windowIndex a) (windowSub a) .invalidField 0 s1
  else match windowTarget a with
  | none => refuseWindow p d addr reqId (windowIndex a) (windowSub a) .subAbsent 0 s1
  | some (i, sub, upper) =>
    if !isWide i sub then writeValue w i sub (typeBytes i sub) (regwValue i sub value.toNat) s1
    else
      match firstReason (accessChecks s1 w i sub) with
      | some r => refuseWindow p d addr reqId i sub r (windowWord s1 i sub upper) s1
      | none =>
        if !upper then
          s1 |> modPort p (fun q => { q with held := some (objKey i sub, value.toNat) })
            |> sendRegd p d addr reqId 0 (windowWord s1 i sub false)
        else match held with
          | some (k, low) =>
            if k = objKey i sub then writeValue w i sub 8 (2 ^ 32 * value.toNat + low) s1
            else refuseWindow p d addr reqId i sub .invalidField (windowWord s1 i sub true) s1
          | none => refuseWindow p d addr reqId i sub .invalidField (windowWord s1 i sub true) s1

/-- A REGR may be answered: index 0x2000 on any port, else on a bound port the administrative domain or, within its own
block, the domain itself (R36, R534). -/
def mayRead (s : State) (p : PortId) (d : Dom) (i : Nat) : Bool :=
  i == 0x2000 || (bound s d p && (isAdmin s d || indexDomain i == some d))

/-- A REGR (R60-R62). -/
def regr (p : PortId) (d : Dom) (reqId : Byte) (addr : Word) (s : State) : State :=
  let a := addr.toNat
  let cap := (portOf s p).capture
  let s1 := s |> dropPair p |> returnAdmin p 1
  if a % 4 ≠ 0 then refuseWindow p d addr reqId (windowIndex a) (windowSub a) .invalidField 0 s1
  else match windowTarget a with
  | none => refuseWindow p d addr reqId (windowIndex a) (windowSub a) .subAbsent 0 s1
  | some (i, sub, upper) =>
    if (findObj i sub).any (fun r => r.access == .wo) then refuseWindow p d addr reqId i sub .readWo 0 s1
    else if !mayRead s1 p d i then refuseWindow p d addr reqId i sub .notOwner 0 s1
    else if upper then
      let word := match cap with
        | some (k, high) => if k = objKey i sub then high else windowWord s1 i sub true
        | none => windowWord s1 i sub true
      sendRegd p d addr reqId 0 word s1
    else
      let s2 := if isWide i sub then
          modPort p (fun q => { q with capture := some (objKey i sub, windowWord s1 i sub true) }) s1 else s1
      sendRegd p d addr reqId 0 (windowWord s1 i sub false) s2

/-! ### Object writes as commands -/

/-- An SDO protocol abort (R469): it writes the detail word with STATUS 0x10 (R59). -/
def sdoProtocol (i sub code : Nat) (s : State) : State :=
  let t := refusalDetail Obj.refusalDetailField i sub 0x10 s
  { t with ecat := { t.ecat with reply := .sdoAbort code } }

/-- The object an SDO segment is about, for the detail word: the open transfer's, else none. -/
def sdoTarget (s : State) : Nat × Nat := (s.ecat.sdo.map (fun x => (x.index, x.sub))).getD (0, 0)

/-- The open segmented SDO transfer and the answer to the master. -/
def putSdo (x : Option SdoTransfer) (r : MailboxReply) (s : State) : State := { s with ecat := { s.ecat with sdo := x, reply := r } }

/-- No segmented SDO transfer is open. -/
def closeSdo (s : State) : State := { s with ecat := { s.ecat with sdo := none } }

/-- An SDO protocol abort that ends the open transfer: nothing is written (R469). -/
def dropSdo (code : Nat) (s : State) : State :=
  sdoProtocol (sdoTarget s).1 (sdoTarget s).2 code (closeSdo s)

/-- The whole value of an SDO download (R53, R541). -/
def sdoValue (complete : Bool) (i sub : Nat) (bytes : List Byte) (s : State) : State :=
  if complete then writeComplete .sdo i sub bytes s else writeBytes .sdo i sub bytes s

/-- A segment of a download: the last one writes the value, refused where the bytes are not the announced total (R65, R469,
R541; log entry 146). -/
def sdoSegment (toggle last : Bool) (bytes : List Byte) (s : State) : State :=
  match s.ecat.sdo with
  | none => dropSdo 0x05040001 s
  | some x =>
    if !x.write then dropSdo 0x05040001 s
    else if toggle != x.toggle then dropSdo 0x05030000 s
    else
      let all := x.bytes ++ bytes
      if !last then putSdo (some { x with toggle := !toggle, bytes := all }) (.sdoSegment toggle) s
      else if all.length ≠ x.total then refuse .sdo x.index x.sub .length (closeSdo s)
      else sdoValue x.complete x.index x.sub all (closeSdo s)

/-- The path of a write that arrives whole. -/
def objectWrite (w : ObjWrite) (s : State) : State :=
  match w with
  | .sdo i sub bytes => if coeServed s then sdoValue false i.toNat sub.toNat bytes (closeSdo s) else s
  | .sdoComplete i sub bytes => if coeServed s then sdoValue true i.toNat sub.toNat bytes (closeSdo s) else s
  | .sdoBegin complete i sub total bytes =>
    if coeServed s then
      putSdo (some ⟨true, complete, i.toNat, sub.toNat, total.toNat, false, bytes⟩) (.sdoDone []) s
    else s
  | .sdoSegment toggle last bytes => if coeServed s then sdoSegment toggle last bytes s else s
  | .regw p d reqId addr value => if portReceives s p then regw p d reqId addr value s else s
  | .rxpdo i sub v =>
    arrive .rxpdo i.toNat sub.toNat 0 (writeValue .rxpdo i.toNat sub.toNat (typeBytes i.toNat sub.toNat) v.toNat) s

/-- OBJECT_WRITE (R53, R540). -/
def execObjectWrite (w : ObjWrite) (s : State) : Host.Outcome State Fault Refusal := .next (live s (objectWrite w s))

/-- REGW_LOWER_WORD: a REGW of the lower word of a 64-bit object is held; one of any other address is that REGW (R61). -/
def execRegwLowerWord (p : PortId) (d : Dom) (reqId : Byte) (addr value : Word) (s : State) :
    Host.Outcome State Fault Refusal :=
  .next (live s (if portReceives s p then regw p d reqId addr value s else s))

/-- REGR_LOWER_WORD: a REGR of the lower word of a 64-bit object captures the upper word; one of any other address is that
REGR (R61). -/
def execRegrLowerWord (p : PortId) (d : Dom) (reqId : Byte) (addr : Word) (s : State) : Host.Outcome State Fault Refusal :=
  .next (live s (if portReceives s p then regr p d reqId addr s else s))

/-- A write of a whole value to one object arrives on a path. -/
def valueArrives (w : Writer) (i sub v : Nat) (s : State) : State :=
  live s (arriveValue w i sub (writeValue w i sub (typeBytes i sub) v) s)

/-- RESET_REQUEST (R370, R423). -/
def execResetRequest (w : Writer) (value : Half) (s : State) : Host.Outcome State Fault Refusal :=
  .next (valueArrives w 0x2200 3 value.toNat s)

/-- HOLDUP_CONTROL (R374, R385). -/
def execHoldupControl (w : Writer) (value : Byte) (s : State) : Host.Outcome State Fault Refusal :=
  .next (valueArrives w 0x3601 5 value.toNat s)

/-- CALIBRATE (R305, R307). -/
def execCalibrate (w : Writer) (value : Byte) (s : State) : Host.Outcome State Fault Refusal :=
  .next (valueArrives w 0x2E03 1 value.toNat s)

/-- APPLY: a write of CONTROL with its bit 2 (R311, R327). -/
def execApply (w : Writer) (n : Fin 16) (control : Byte) (s : State) : Host.Outcome State Fault Refusal :=
  .next (valueArrives w (0x3000 + n.val) 7 (control.toNat ||| 4) s)

/-- INJECT_WAVEFORM (R323). -/
def execInjectWaveform (w : Writer) (value : Byte) (s : State) : Host.Outcome State Fault Refusal :=
  .next (valueArrives w 0x3010 2 value.toNat s)

/-- CAPTURE_ARM (R324). -/
def execCaptureArm (w : Writer) (s : State) : Host.Outcome State Fault Refusal := .next (valueArrives w 0x3011 4 1 s)

/-- CAPTURE_STOP (R324). -/
def execCaptureStop (w : Writer) (s : State) : Host.Outcome State Fault Refusal := .next (valueArrives w 0x3011 4 2 s)

/-- PIN_CONFIG (R451-R453, R457). -/
def execPinConfig (w : Writer) (port : Fin 5) (pin : Fin 8) (value : Word) (s : State) : Host.Outcome State Fault Refusal :=
  .next (valueArrives w (0x3801 + port.val) (pin.val + 1) value.toNat s)

/-- EVENT_CONFIG (R461). -/
def execEventConfig (w : Writer) (line : Fin 8) (value : Word) (s : State) : Host.Outcome State Fault Refusal :=
  .next (valueArrives w 0x3806 (line.val + 1) value.toNat s)

/-- PIN_OUT of a domain (R456). -/
def execPinOut (w : Writer) (d : Dom) (value : DWord) (s : State) : Host.Outcome State Fault Refusal :=
  .next (valueArrives w (0x4007 + 0x100 * d.val) 1 value.toNat s)

/-- DEVICE_PIN_OUT (R456). -/
def execDevicePinOut (w : Writer) (value : DWord) (s : State) : Host.Outcome State Fault Refusal :=
  .next (valueArrives w 0x3800 3 value.toNat s)

/-- ENERGY_CLEAR (R446). -/
def execEnergyClear (w : Writer) (value : Byte) (s : State) : Host.Outcome State Fault Refusal :=
  .next (valueArrives w 0x2160 0xB value.toNat s)

/-- IMAGE_PUSH_DATA (R430). -/
def execImagePushData (w : Writer) (bytes : List Byte) (s : State) : Host.Outcome State Fault Refusal :=
  .next (live s (match w with
    | .regw _ _ _ | .rxpdo => s
    | _ => arrive w 0x2202 2 bytes.length (writePush w bytes) s))

/-- IMAGE_PUSH_COMMIT (R430). -/
def execImagePushCommit (w : Writer) (length : Word) (s : State) : Host.Outcome State Fault Refusal :=
  .next (valueArrives w 0x2202 3 length.toNat s)

/-- IMAGE_ACTIVATE (R431). -/
def execImageActivate (w : Writer) (value : Byte) (s : State) : Host.Outcome State Fault Refusal :=
  .next (valueArrives w 0x2201 4 value.toNat s)

/-! ### The MGMT tunnel (R63, R64) -/

/-- Answer a MGMT request. -/
def mgmtReply (p : PortId) (d : Dom) (op : Nat) (m : MgmtReq) (r : Option Reason) (total : Nat) (bytes : List Byte) (s : State) :
    State :=
  let status := (r.map Reason.link).getD 0
  let abort := (r.map Reason.abort).getD 0
  let s1 := match r with
    | some x => refusalDetail Obj.refusalDetailLink m.index.toNat m.sub.toNat x.link s
    | none => s
  sendMsg p (.mgmt d (op % 128 + 128) status m.index.toNat m.sub.toNat m.transferId.toNat m.segment.toNat total abort bytes) s1

/-- Refuse a MGMT request. -/
def mgmtRefuse (p : PortId) (d : Dom) (op : Nat) (m : MgmtReq) (r : Reason) (s : State) : State :=
  mgmtReply p d op m (some r) m.total.toNat [] s

/-- The sender may use MGMT: the administrative domain on a bound port (R36, R534). -/
def mgmtAllowed (s : State) (p : PortId) (d : Dom) : Bool := isAdmin s d && bound s d p

/-- Checks of a READ's target (R540, R541). -/
def readChecks (s : State) (p : PortId) (d : Dom) (m : MgmtReq) : List (Bool × Reason) :=
  let i := m.index.toNat
  let sub := m.sub.toNat
  let wo (n : Nat) : Bool := (findObj i n).any (fun r => r.access == .wo)
  [ (!indexPresent i, .indexAbsent),
    (!m.complete && (findObj i sub).isNone, .subAbsent),
    (m.complete && !completeSupported i, .noComplete),
    (if m.complete then (subsFrom i sub).any wo else wo sub, .readWo),
    (!mgmtAllowed s p d, .notOwner) ]

/-- What any READ or WRITE request meets of the port's transfer (R64): too long, another transfer, out of order. The abort code
of a TOTAL_LENGTH that R64 refuses with RANGE is that of a wrong length, 0x0607_0010, and a segment of the open transfer with
another opcode, index, subindex or COMPLETE_ACCESS is refused with INVALID_FIELD: the model's choice (DESIGN CHOICE, log
entry 141). -/
def segmentChecks (q : Port) (write : Bool) (m : MgmtReq) : List (Bool × Reason) :=
  match q.transfer with
  | some t =>
    [ (65536 < m.total.toNat, .length),
      (t.transferId != m.transferId.toNat, .state),
      (t.write != write || t.next != m.segment.toNat || t.index != m.index.toNat || t.sub != m.sub.toNat
        || t.complete != m.complete, .invalidField) ]
  | none => [(65536 < m.total.toNat, .length), (m.segment != 0 || (m.complete && 1 < m.sub.toNat), .invalidField)]

/-- Close the port's transfer. -/
def closeTransfer (p : PortId) (s : State) : State := modPort p (fun q => { q with transfer := none }) s

/-- MGMT_READ: the first 240 bytes, or the next ones of the open transfer (R64). -/
def execMgmtRead (p : PortId) (d : Dom) (m : MgmtReq) (s : State) : Host.Outcome State Fault Refusal :=
  .next (live s (
    if !portReceives s p then s else
    let s1 := returnAdmin p (mgmtUnits 0) s
    match firstReason (readChecks s1 p d m ++ segmentChecks (portOf s1 p) false m) with
    | some r => mgmtRefuse p d 1 m r s1
    | none =>
      let i := m.index.toNat
      let sub := m.sub.toNat
      let t : MgmtTransfer := match (portOf s1 p).transfer with
        | some t => t
        | none =>
          let b := if m.complete then completeBytes s1 i sub else objBytes s1 i sub
          ⟨false, m.transferId.toNat, i, sub, m.complete, b.length, 0, b⟩
      let left := t.bytes.drop 240
      s1 |> modPort p (fun q => { q with transfer := if left = [] then none else some { t with next := t.next + 1, bytes := left } })
        |> mgmtReply p d 1 m none t.total (t.bytes.take 240)))

/-- Checks of a WRITE's target that its first segment meets (R64, R540). -/
def mgmtWriteChecks (s : State) (w : Writer) (m : MgmtReq) : List (Bool × Reason) :=
  if m.complete then (completeChecks s w m.index.toNat m.sub.toNat 0).take 4 else accessChecks s w m.index.toNat m.sub.toNat

/-- MGMT_WRITE: a segment is taken; the last one applies the write (R64). A transfer that Kiln judges stays open until its
RESULT (R405). -/
def execMgmtWrite (p : PortId) (d : Dom) (m : MgmtReq) (bytes : List Byte) (s : State) : Host.Outcome State Fault Refusal :=
  .next (live s (
    if !portReceives s p then s else
    let s1 := returnAdmin p (mgmtUnits bytes.length) s
    let w : Writer := .mgmt p d m.transferId
    match firstReason (mgmtWriteChecks s1 w m ++ segmentChecks (portOf s1 p) true m
        ++ [(!m.last && bytes.length != 240, .invalidField)]) with
    | some r => mgmtRefuse p d 2 m r s1
    | none =>
      let i := m.index.toNat
      let sub := m.sub.toNat
      let t : MgmtTransfer := match (portOf s1 p).transfer with
        | some t => t
        | none => ⟨true, m.transferId.toNat, i, sub, m.complete, m.total.toNat, 0, []⟩
      let all := t.bytes ++ bytes
      if !m.last then
        s1 |> modPort p (fun q => { q with transfer := some { t with next := t.next + 1, bytes := all } })
          |> mgmtReply p d 2 m none m.total.toNat []
      else if all.length ≠ t.total then s1 |> closeTransfer p |> mgmtRefuse p d 2 m .length
      else
        s1 |> modPort p (fun q => { q with transfer := some { t with next := m.segment.toNat } })
          |> (if m.complete then writeComplete w i sub all else writeBytes w i sub all)
          |> (fun t => if t.kiln.toKiln.length = s1.kiln.toKiln.length then closeTransfer p t else t)))

/-- The decimal digits of a number. -/
def decimal (n : Nat) : String := toString n

/-- The name of an object (R63): a row of several objects counts them from 0. -/
def objName (i sub : Nat) : List Byte :=
  match (rowsOf i).find? (fun r => r.sub ≤ sub && sub < r.sub + r.count) with
  | none => Config.countName i
  | some r =>
    let n := sub - r.sub
    asciiBytes (match canonIndex i with
      | 0x1600 => r.name ++ "_" ++ decimal (i - 0x1600)
      | 0x1A00 => r.name ++ "_" ++ decimal (i - 0x1A00)
      | 0x1C00 | 0x1C12 | 0x1C13 | 0x1C32 | 0x1C33 => r.name
      | 0x2E80 => r.name ++ "_" ++ decimal (i - 0x2E80) ++ "_" ++ decimal n
      | 0x3801 => r.name ++ "_P" ++ String.singleton (Char.ofNat (65 + (i - 0x3801))) ++ decimal n
      | _ => if r.count = 1 then r.name else r.name ++ "_" ++ decimal n)

/-- DATA of GET_DESCRIPTION (R63). -/
def describe (i sub : Nat) : List Byte :=
  match findObj i sub with
  | none => []
  | some r =>
    leBytes 2 r.type.code ++ leBytes 1 r.access.code ++ leBytes 1 r.owner.code
      ++ leBytes 1 (b2n r.mapped)
      ++ objName i sub

/-- GET_DESCRIPTION (R63). -/
def execGetDescription (p : PortId) (d : Dom) (m : MgmtReq) (s : State) : Host.Outcome State Fault Refusal :=
  .next (live s (
    if !portReceives s p then s else
    let s1 := returnAdmin p (mgmtUnits 0) s
    let i := m.index.toNat
    let sub := m.sub.toNat
    match firstReason [
      (!indexPresent i, .indexAbsent), ((findObj i sub).isNone, .subAbsent), (!mgmtAllowed s1 p d, .notOwner),
      ((portOf s1 p).transfer.any (fun t => t.transferId != m.transferId.toNat), .state)] with
    | some r => mgmtRefuse p d 3 m r s1
    | none => mgmtReply p d 3 m none (describe i sub).length (describe i sub) s1))

/-- ABORT_TRANSFER (R64). -/
def execAbortTransfer (p : PortId) (d : Dom) (m : MgmtReq) (s : State) : Host.Outcome State Fault Refusal :=
  .next (live s (
    if !portReceives s p then s else
    let s1 := returnAdmin p (mgmtUnits 0) s
    match firstReason [
      (!mgmtAllowed s1 p d, .notOwner),
      ((portOf s1 p).transfer.any (fun t => t.transferId != m.transferId.toNat), .state)] with
    | some r => mgmtRefuse p d 4 m r s1
    | none => s1 |> closeTransfer p |> mgmtReply p d 4 m none m.total.toNat []))

/-- UNDEFINED_MGMT_OPCODE: a defined OPCODE is that request's own row (R63). -/
def execUndefinedMgmtOpcode (p : PortId) (d : Dom) (opcode : Byte) (m : MgmtReq) (s : State) :
    Host.Outcome State Fault Refusal :=
  .next (live s (
    if !portReceives s p || (1 ≤ opcode.toNat && opcode.toNat ≤ 4) then s
    else s |> returnAdmin p (mgmtUnits 0) |> mgmtRefuse p d opcode.toNat m .badOpcode))

/-- MGMT_TRANSFER_TIMEOUT: 100 ms without a segment (R64). -/
def execMgmtTransferTimeout (p : PortId) (s : State) : Host.Outcome State Fault Refusal := .next (live s (closeTransfer p s))

end Sys2Proof.Machine
end

