-- ==== Sys2Proof/Machine/Startup.lean ====
section
/-!
DEFINITION. Resets and the road to release: what each reset reaches, the start reference, fuses, LPDDR4X, image slots and the
release itself (R364, R370, R371, R378, R417-R424, R432, R433, R441, R446, R500-R504, R508, R512, R536).
-/
namespace Sys2Proof.Machine

/-! ### What a reset leaves (R422, R536) -/

/-- Kiln runs on; the main side of the bridge forgets what it holds (R386, R412). -/
def bridgeReset (k : Kiln) : Kiln :=
  { k with toKiln := [], toMain := [], bridgeOk := false, copies := [], cutDue := false
           inputs := Vector.replicate 8 (List.replicate 68 0), fallback := true }

/-- The journalled energy accounts, in a new window (R446). -/
def journalEnergy (e : Energy) : Energy :=
  { e with tick := Vector.replicate 9 0, window := Vector.replicate 9 0, ticks := 0, clearDue := false, motor := 0 }

/-- The cartridge unit after a reset: the medium in the transport, and what the journal keeps of it; content held for
reallocation is lost and its cuts are queued again (R375, R378). -/
def cartAfter (c : Cart) : Cart :=
  { Cart.init with medium := c.medium, ejected := c.ejected, index := c.index, wearBits := c.wearBits
                   reallocQueue := (c.reallocQueue ++ c.reallocs.map (·.serial)).take 64 }

/-- The part held in reset, with everything kept that R422 and R536 keep: the journal, the ring and the boot cache, the fuse
and NOR content, Kiln, the cartridge and the levels at the pins. `cause` is the RESET_CAUSE of the next start, 0 for a
power-on (R422). The open cut stays incomplete on tape, outputs go low and the reels coast (R368, R371). -/
def resetState (cause : Nat) (s : State) : State :=
  let t := dropOpenCut s
  { State.reset with
    pending := s.pending, free := s.free
    dict := s.dict.filter (fun e => keptThroughReset e.1 || e.1 == Obj.fuseStatus)
    ev := { State.reset.ev with faults := s.ev.faults, faultTotal := s.ev.faultTotal }
    doms := Vector.ofFn (fun d => { DomainRt.init with logs := (domOf s d).logs, nextLine := (domOf s d).nextLine })
    ring := { s.ring with closed := false }
    dram := { Dram.init with sparesReported := s.dram.sparesReported, marked := s.dram.marked }
    boot := { s.boot with phase := .held, download := none, image := none, imageFailed := false, cause := cause
                          warmPending := false, thermalHold := false, releaseUs := 0 }
    cart := cartAfter t.cart
    xport := { Xport.init with atRest := s.xport.atRest
                               enc := Vector.ofFn (fun r => { EncoderRt.init with a := (encOf s r).a, b := (encOf s r).b }) }
    kiln := bridgeReset s.kiln
    recov := { State.reset.recov with sparesPosted := s.recov.sparesPosted }
    jour := { s.jour with resuming := 0 }, opLog := s.opLog
    energy := journalEnergy s.savedEnergy, savedEnergy := s.savedEnergy
    pins := { Pins.init with external := s.pins.external } }

/-- A reset that reloads the dictionary: both ports enter DISABLED, a transition that GEN counts (R31, R56, R95, R422). -/
def afterReset (cause : Nat) (s : State) : State :=
  resetState cause s |> bumpGen (portIndex .a) |> bumpGen (portIndex .b)

/-! ### The start (R432, R433) -/

/-- Straps are sampled at a power-on and after PORESET_N only (R422, R499). -/
def samplesStraps (cause : Nat) : Bool := cause == 0 || cause == 2

/-- A warm reset, asked for or forced by recovery, reloads no fuses (R422, R482). -/
def warmCause (cause : Nat) : Bool := cause == 3 || cause == 7

/-- Take the straps, with KILN_EN and the level of the XTALSEL ball at every start reference (R492, R499, R503, R504). -/
def takeStraps (env : StartEnv) (s : State) : State :=
  let kiln := 32768 * (env.straps.toNat / 32768)
  let low := (if samplesStraps s.boot.cause then env.straps.toNat else s.boot.straps) % 4096
  { s with boot := { s.boot with straps := kiln + low, refSelect := env.straps.getLsbD 10, refRuns := true } }

/-- Initialise LPDDR4X: size, ranks and the page pool left by retired pages (R186, R189, R190). -/
def initDram (env : StartEnv) (s : State) : State :=
  let n := env.dramSizeMib.toNat
  let r := env.dramRanks.toNat
  let good : Bool := env.dramOk && (n == 1024 || n == 2048 || n == 4096) && (r == 1 || r == 2)
  let pool := 15 * n - 1024 - (obj s Obj.retiredPages - 64)
  let s1 := s |> setObj Obj.dramSizeMib (if env.dramOk then n else 0) |> setObj Obj.dramRanks (if env.dramOk then r else 0)
    |> setObj Obj.domainPagePool (if good then pool else 0)
    |> (fun t => { t with dram := { t.dram with
          phase := .active, pool := if good then pool else 0
          reserve := vset (Vector.replicate 6 0) (ReserveUse.no .spares) (min 64 (obj t Obj.retiredPages)) } })
  if good then s1 else postEvent 0x0301 unitDevice 0 { s1 with dram := { s1.dram with failed := true } }

/-- The slots in the order BOOTSRC gives (R432). -/
def bootOrder (s : State) : List (Fin 2) :=
  match fieldOf s.boot.straps 0 2 with
  | 0 => [activeSlot s, inactiveSlot s]
  | 1 => [0, 1]
  | 2 => [1, 0]
  | _ => []

/-- Read and check a slot; what it gives where it passes, else it is marked refused (R428, R431, R432). -/
def trySlot (readable : Bool) (n : Fin 2) (s : State) : State :=
  let x := vget s.boot.slots n
  let len := numAt x.bytes 12 4
  let put (y : NorSlot) (f : Boot → Boot) : State := { s with boot := f { s.boot with slots := vset s.boot.slots n y } }
  if !readable then put { x with status := 2, reason := 0xB, version := 0 } (fun b => { b with imageFailed := true })
  else match checkImage s len (x.bytes.take len) with
    | .ok c => put { x with status := 1, reason := 0, version := c.version } (fun b => { b with image := some (n, c) })
    | .error r =>
      put { x with status := 2, reason := r, version := numAt x.bytes 20 4 } (fun b => { b with imageFailed := true })

/-- Try the slots in order until one passes (R432). -/
def loadImage (env : StartEnv) (s : State) : State :=
  (bootOrder s).foldl (fun t n =>
    if t.boot.image.isSome then t else trySlot (if n = 0 then env.norA else env.norB) n t) s

/-- The journal is read: the operations that its log leaves open (R377, R433). -/
def readJournal (s : State) : State := { s with jour := { s.jour with openOps := openFromLog s.opLog.entries } }

/-- From the fuses to the checked image: an activation that was cut short rolls back here; what is bound to a cartridge waits for it (R186, R378, R380, R424, R433). -/
def bringUp (env : StartEnv) (s : State) : State :=
  let s1 := (if warmCause s.boot.cause then s else setObj Obj.fuseStatus env.secondReads.toNat s)
    |> readJournal |> initDram env |> rollBack 3 |> loadImage env
  { s1 with boot := { s1.boot with phase := .started }, kiln := { s1.kiln with fallback := false } }

/-- The fuse load: a part whose fuses keep failing does not release (R424). -/
def loadStart (env : StartEnv) (s : State) : State :=
  if !warmCause s.boot.cause && !env.fuseOk then { s with boot := { s.boot with phase := .stuck } } else bringUp env s

/-- A start from the start reference on: a part that samples TEST high does not release (R433, R502). -/
def startPart (env : StartEnv) (s : State) : State :=
  let s1 := takeStraps env s
  if bitOf s1.boot.straps 11 then { s1 with boot := { s1.boot with phase := .stuck } } else loadStart env s1

/-- PORESET_N_LOW: outputs low at once, held in reset. A power-on stays one whatever PORESET_N does meanwhile (R371, R422,
R500). -/
def execPoresetNLow (s : State) : Host.Outcome State Fault Refusal :=
  let cause := match s.boot.phase with
    | .released => if s.power.failing && !s.power.forReset then 0 else 2
    | .shelf => 0
    | _ => if s.boot.cause = 0 then 0 else 2
  .next (afterReset cause s)

/-- START_REFERENCE: PORESET_N rises or the internal POR is released; after SHELF it is a power-on (R422, R433). -/
def execStartReference (env : StartEnv) (s : State) : Host.Outcome State Fault Refusal :=
  .next (match s.boot.phase with
    | .held => startPart env s
    | .shelf => startPart env (afterReset 0 s)
    | _ => s)

/-- FUSE_LOAD_RETRY: the fuse load starts again every 100 ms (R424). -/
def execFuseLoadRetry (env : StartEnv) (s : State) : Host.Outcome State Fault Refusal :=
  .next (if s.boot.phase = .stuck ∧ !bitOf s.boot.straps 11 then loadStart env s else s)

/-! ### Release (R433, R434) -/

/-- RESET_CAUSE: a power-on whose journal holds a SEQUENCE_END record of this run reads POWER_FAIL_RESTART (R422). -/
def resetCause (s : State) : Nat :=
  if s.boot.cause = 0 then (if s.boot.sequenceEnded then 4 else 1) else s.boot.cause

/-- Kiln time at a count of its crystal (R400). -/
def kilnTimeAt (s : State) (crystal : Nat) : Nat := (s.kiln.offset + crystal) % 2 ^ 64

/-- LAST_SHELF_S (R441). -/
def shelfSeconds (s : State) (crystal : Nat) : Nat :=
  if s.boot.sequenceEnded then
    match s.jour.sequenceEnd with
    | some r =>
      if r.kilnTimeValid && kilnEnabled s && s.kiln.timeValid then
        min ((kilnTimeAt s crystal - r.kilnTime) / 32768) 0xFFFFFFFE else 0xFFFFFFFF
    | none => 0xFFFFFFFF
  else if resetCause s = 1 then 0xFFFFFFFF else 0

/-- The dictionary of a release: R48 with the image's values, and what the start itself reports (R48, R420, R423, R441). -/
def releaseDict (crystal : Nat) (s : State) : State :=
  let vals := (s.boot.image.map (·.2.values)).getD []
  let node : Bool := imageGives s (objKey 0x2480 1) && !imageGives s (objKey 0x2480 2)
  let s1 := withValues vals s |> setObj Obj.resetCause (resetCause s) |> setObj Obj.lastShelfS (shelfSeconds s crystal)
    |> setObj Obj.supplyStatus 0x17
  if node then setObj Obj.nodeIdValid 1 s1 else s1

/-- The engines' state at a release: loop coefficients from their shadows, PREOP, energy counters cleared at a POWER_ON
(R75, R311, R446). -/
def releaseParts (us : Nat) (s : State) : State :=
  { s with
    boot := { s.boot with phase := .released, cause := resetCause s, sequenceEnded := false, releaseUs := us }
    power := { s.power with exhaustedLast := s.jour.lastExhausted }
    energy := if resetCause s = 1 then Energy.zero else s.energy
    savedEnergy := if resetCause s = 1 then Energy.zero else s.savedEnergy
    ecat := { s.ecat with al := .preop }
    xport := { s.xport with loops := Vector.ofFn (fun n => { LoopRt.init with active := shadows s n }) } }

/-- The release of the engines, the pins and the event lines (R75, R311, R446, R463). -/
def releaseCore (us : Nat) (s : State) : State :=
  (List.finRange 8).foldl (fun t n => restartLine n t) (releasePins (releaseParts us s))

/-- No event of the time before the release is kept any more. -/
def clearEarly (s : State) : State := { s with ev := { s.ev with early := [] } }

/-- An event of the release: logged and sent like any other, but queued on its ports although they are DISABLED still, so that
it leaves once a port is UP. DEDUCED: R130, R470 and R472 have the events of the start sent at release, with DEVICE_RELEASED the
first after it, while R473 queues nothing on a port that is DISABLED (log entry 89). -/
def publishAtRelease (e : EventRec) (s : State) : State :=
  let s1 := recordEvent e s
  settleEvent e ((eventPorts s1 e.unit).foldl (fun t p => queueEvent (eventDom s1 e.unit) e p t) s1)

/-- An event that the release itself raises. -/
def releaseEvent (code detail : Nat) (s : State) : State :=
  publishAtRelease ⟨code, unitDevice, (eventClass code).1, detail, nowUs s⟩ s

/-- Events of the start in the order raised, DEVICE_RELEASED and IMAGE_LOAD_FAILED (R432, R470, R472). -/
def releaseEvents (s : State) : State :=
  let s1 := s.ev.early.foldl (fun t e => publishAtRelease e t) (clearEarly s)
  let s2 := releaseEvent 0x0B05 (obj s1 Obj.resetCause) s1
  let r (n : Fin 2) : Nat := (vget s2.boot.slots n).reason
  if bootOrder s2 != [] && s2.boot.image.isNone then releaseEvent 0x0B01 (r 0 + 256 * r 1) s2 else s2

/-- OFF to IDLE without tape: current zeros are measured, and COMM_OFFSET unless the image gives it (R315, R325). -/
def xportIdle (s : State) : State :=
  let given : Bool := imageGives s Obj.commOffsetCart && imageGives s Obj.commOffsetMach
  s |> modXport (fun x => { x with zeroLeft := 64, zeroSum := Vector.replicate 24 0, commLeft := if given then 0 else 8000 })
    |> enterXport .idle

/-- Units at release: ports with AUTO_ENABLE, domains with AUTO_ONLINE, the transport, the cartridge under AUTO_LOAD
(R31, R95, R162, R325, R433, R434). -/
def releaseUnits (s : State) : State :=
  let s1 := allPorts.foldl (fun t p => if objBool t (Obj.autoEnable p) then enablePort p t else t) s
  let s2 := allDoms.foldl (fun t d =>
    if configured t d && bitOf (obj t (Obj.powerPolicy d)) 31 then enterDom d .starting t else t) s1
  let s3 := xportIdle s2
  pollPower (if s3.cart.medium.isSome then autoLoad (enterCart .present s3) else s3)

/-- The ports at release: the configuration of the reload is in force, and the link budgets are the current ones of ports that
are not trained (R28, R42, R101, R128). -/
def releaseLinks (s : State) : State :=
  let s1 := s |> takeLinkConfig .a |> takeLinkConfig .b
  s1 |> setObj Obj.budgetLinkA (portBudget s1 .a) |> setObj Obj.budgetLinkB (portBudget s1 .b)

/-- The buffers at release: pages marked before the reset are free and are retired, the unit table follows the configured domains,
and every token bucket is full (R168, R189, R196). -/
def releaseBuffers (s : State) : State :=
  let s1 := (s.dram.marked.map (·.1)).foldl (fun t p => retirePage p t) s
  allDoms.foldl (fun t d => fillTokens d t) (fitAllUnits s1)

/-- RELEASE: `us` after the start reference, with Kiln's crystal at `crystal` (R433, R434, R441). -/
def execRelease (us : BitVec 25) (crystal : DWord) (s : State) : Host.Outcome State Fault Refusal :=
  .next (if s.boot.phase = .started then
      s |> releaseDict crystal.toNat |> releaseCore us.toNat |> releaseLinks |> releaseBuffers |> releaseEvents |> releaseUnits
    else s)

/-! ### Faults of clock, supply and temperature (R417, R420, R512) -/

/-- The part acts as if PORESET_N had gone low, with a cause of its own. -/
def deviceFault (cause : Nat) (s : State) : State :=
  match s.boot.phase with
  | .held | .shelf => s
  | _ => afterReset cause s

/-- ROOT_UNLOCK; `stopped` says that the reference has stopped, which REF_OUT then has nothing to repeat of (R417, R492). -/
def execRootUnlock (stopped : Bool) (s : State) : Host.Outcome State Fault Refusal :=
  .next (
    let t := deviceFault 6 s
    { t with boot := { t.boot with refRuns := t.boot.refRuns && !stopped } })

/-- SUPPLY_FAULT (R420). -/
def execSupplyFault (s : State) : Host.Outcome State Fault Refusal := .next (deviceFault 5 s)

/-- THERMAL_TRIP: the sequence runs, then the internal POR holds the part (R512). -/
def execThermalTrip (s : State) : Host.Outcome State Fault Refusal :=
  .next (live s (
    if objInt 16 s Obj.tjC < 120 ∨ s.boot.thermalHold ∨ (s.power.failing ∧ !s.power.forReset) then s
    else
      let s1 := bump Obj.thermalTrips s
      let s2 := if s1.power.failing then s1 else startSequence true 0 s1
      { s2 with boot := { s2.boot with thermalHold := true, warmPending := false, cause := 5 } }))

/-- The sequence of a reset request has brought the transport to rest and written its record (R366, R370). -/
def resetReady (s : State) : Bool := sequenceOver s && s.boot.sequenceEnded

/-- THERMAL_RESTART (R512). -/
def execThermalRestart (env : StartEnv) (s : State) : Host.Outcome State Fault Refusal :=
  .next (live s (
    if s.boot.thermalHold ∧ resetReady s ∧ objInt 16 s Obj.tjC ≤ 100 then startPart env (afterReset 5 s) else s))

/-- WARM_RESET: the reset is applied when the transport is OFF, with the cause of its request (R370, R423, R482). -/
def execWarmReset (env : StartEnv) (s : State) : Host.Outcome State Fault Refusal :=
  .next (live s (
    if s.boot.warmPending ∧ resetReady s then startPart env (afterReset s.boot.cause s) else s))

/-- POWER_FAIL_RESTART: the supply is back when the sequence has ended (R364, R422). -/
def execPowerFailRestart (env : StartEnv) (s : State) : Host.Outcome State Fault Refusal :=
  .next (if s.boot.phase = .shelf then startPart env (afterReset 4 s) else s)

/-- BANK_SUPPLY_RISES: a bank's supply has settled at `mv`; banks XA, XB, MII, CTL (R508). -/
def execBankSupplyRises (bank : Fin 4) (mv : Half) (s : State) : Host.Outcome State Fault Refusal :=
  let v := mv.toNat
  let split := if bank = 2 then 2900 else 2100
  let low := if bank = 2 then 2500 else 1800
  let mode : Option Nat := if v ≤ 900 then none else if v < split then some low else if split < v then some 3300 else none
  .next (match mode with
    | some m => { s with boot := { s.boot with bankMode := vset s.boot.bankMode bank m } }
    | none => s)

end Sys2Proof.Machine
end

