-- ==== Sys2Proof/Machine/Kiln.lean ====
section
/-!
DEFINITION. Kiln: its seal, its power-on, the sealed procedure and its audit log, records and their copies, and the isolation
bridge with the main side of it (R386-R414, R503, R510).
-/
namespace Sys2Proof.Machine

/-- Change Kiln. -/
def modKiln (f : Kiln → Kiln) (s : State) : State := { s with kiln := f s.kiln }

/-! ### Limits (R390, R409) -/

/-- Slots of the record store. -/
def storeSlots : Nat := 16384
/-- Entries of the audit log. -/
def auditEntries : Nat := 1024
/-- Copies that the bridge buffer holds. -/
def bufferCopies : Nat := 6553
/-- Copies that make a Kiln cut due. -/
def dueCopies : Nat := 6144

/-! ### Towards the main side (R391, R393) -/

/-- The main side hears Kiln: it is released and reads KILN_EN high (R412, R503). -/
def bridgeUp (s : State) : Bool := released s && kilnEnabled s

/-- Kiln sends a message; nobody takes it while the main side is not up. -/
def toMain (m : BridgeMsg) (s : State) : State :=
  if bridgeUp s then modKiln (fun k => { k with toMain := k.toMain ++ [m] }) s else s

/-- An event of Kiln: posted while the main side hears Kiln, else with the next STATE_REPORT (R391, R393). -/
def kilnEvent (code detail : Nat) (s : State) : State :=
  if bridgeUp s && s.kiln.bridgeOk then postEvent code unitKiln detail s
  else modKiln (fun k => { k with news := k.news ++ [(code, detail)] }) s

/-! ### Records (R394-R400, R405) -/

/-- Records held that are not confirmed. -/
def unconfirmed (k : Kiln) : Nat := k.lastSeq - k.confirmed

/-- The store has a free slot. -/
def storeFree (k : Kiln) : Bool := unconfirmed k < storeSlots

/-- The tag that the next record carries: of its predecessor, or of the public key for the first (R399). -/
def nextTag (s : State) : Nat :=
  if s.kiln.lastSeq = 0 then hashTag s.boot.fuses.kilnPublicKey else s.kiln.chainTag

/-- The next record, signed at a crystal count. -/
def nextRecord (source sourceId flags crystal : Nat) (data : List Byte) (s : State) : KilnRecord :=
  { seq := s.kiln.lastSeq + 1, source := source, sourceId := sourceId, flags := flags, eventCounter := s.kiln.eventCounter
    time := kilnTimeAt s crystal, prevTag := nextTag s, data := data }

/-- Commit a record to the store and send its copy (R390, R400, R409, R410). -/
def storeRecord (r : KilnRecord) (s : State) : State :=
  s |> modKiln (fun k => { k with
        lastSeq := r.seq, chainTag := hashTag r.signed
        records := (k.records ++ [r]).drop (k.records.length + 1 - storeSlots) })
    |> toMain (.recordCopy r)

/-- The record of an audit entry; the entry takes its KILN_SEQ first (R401, R405). -/
def issueEntry (crystal n : Nat) (s : State) : State :=
  match s.kiln.audit[n]? with
  | none => s
  | some e =>
    let e' : AuditEntry := { e with recordSeq := s.kiln.lastSeq + 1 }
    let s1 := modKiln (fun k => { k with audit := k.audit.set n e' }) s
    storeRecord (nextRecord 0x11 0 0 crystal e'.bytes s1) s1

/-- Issue the records of audit entries that wait, in audit order, as far as the store has room (R405). -/
def issueEntries (crystal : Nat) : Nat → State → State
  | 0, s => s
  | n + 1, s =>
    match s.kiln.auditWaiting with
    | [] => s
    | i :: rest =>
      if storeFree s.kiln then
        s |> modKiln (fun k => { k with auditWaiting := rest }) |> issueEntry crystal i |> issueEntries crystal n
      else s

/-- Issue every audit record that the store has room for. -/
def issueAudit (crystal : Nat) (s : State) : State := issueEntries crystal s.kiln.auditWaiting.length s

/-! ### The audit log (R401, R402, R408) -/

/-- Append an entry where one is free, and its record (R401, R405, R408). -/
def addEntry (f : AuditEntry → AuditEntry) (time : Nat) (s : State) : State :=
  let n := s.kiln.audit.length
  if auditEntries ≤ n then s
  else
    let e := f { index := n, event := 0, flags := 0, counter := s.kiln.eventCounter, time := time, recordSeq := 0, objIndex := 0
                 sub := 0, old := 0, new := 0, gen := s.kiln.gen }
    modKiln (fun k => { k with audit := k.audit ++ [e], auditWaiting := k.auditWaiting ++ [n] }) s

/-- Kiln's GEN counts a row of R404. -/
def kilnGen (s : State) : State := modKiln (fun k => { k with gen := (k.gen + 1) % 65536 }) s

/-- The seal has opened, at a Kiln time; `latched` where the supplies were absent (R403, R404). -/
def sealOpened (latched : Bool) (time crystal : Nat) (s : State) : State :=
  let broken : Bool := s.kiln.state == .sealed
  let s1 := s |> kilnGen |> modKiln (fun k => { k with state := if broken then .broken else k.state })
    |> addEntry (fun e => { e with event := 1, flags := b2n latched }) time
  issueAudit crystal (if broken then kilnEvent 0x0A02 s1.kiln.gen s1 else s1)

/-! ### The sealed procedure (R405-R407) -/

/-- The values staged: subindex, value in force, value staged; `now` is the Kiln time in force. -/
def stagedValues (k : Kiln) (now : Nat) : List (Nat × Nat × Nat) :=
  let x := k.staged
  ((x.sources.map (fun v => (1, k.params.sources, v))).toList ++ (x.domains.map (fun v => (2, k.params.domains, v))).toList
    ++ (x.selfTest.map (fun v => (3, k.params.selfTest, v))).toList ++ (x.setTime.map (fun v => (4, now, v))).toList)

/-- The staged values that differ from those in force; a SET_TIME always does. -/
def stagedChanges (k : Kiln) (now : Nat) : List (Nat × Nat × Nat) :=
  (stagedValues k now).filter (fun e => e.1 == 4 || e.2.1 != e.2.2)

/-- The audit log holds `n` more entries and keeps one free (R406). -/
def auditRoom (k : Kiln) (n : Nat) : Bool := k.audit.length + n < auditEntries

/-- One value staged. -/
def stageValue (x : KilnStaged) (e : Nat × Nat) : KilnStaged :=
  match e.1 with
  | 1 => { x with sources := some e.2 }
  | 2 => { x with domains := some e.2 }
  | 3 => { x with selfTest := some e.2 }
  | _ => { x with setTime := some e.2 }

/-- A Kiln time from 2020 to 2099: 7,305 and 36,525 days after 2000-01-01 (R400, R413). -/
def timeInRange (v : Nat) : Bool := 7305 * 86400 ≤ v / 32768 && v / 32768 < 36525 * 86400

/-- A value that a parameter may take (R413). -/
def stageInRange (e : Nat × Nat) : Bool :=
  match e.1 with
  | 1 | 2 => e.2 < 256
  | 3 => e.2 < 2
  | _ => timeInRange e.2

/-- The outcome of a STAGE: nothing where it is staged, else why it is refused (R405). -/
def stageOutcome (k : Kiln) (values : List (Nat × Nat)) : Option Reason :=
  if !sealedProcedure k then some .kilnRange
  else if !values.all stageInRange then some .range
  else if !auditRoom k ((stagedChanges { k with staged := values.foldl stageValue k.staged } 0).length + 1) then some .state
  else none

/-- Parameters with the staged values in force. -/
def paramsAfter (k : Kiln) : KilnParams :=
  { sources := k.staged.sources.getD k.params.sources, domains := k.staged.domains.getD k.params.domains
    selfTest := k.staged.selfTest.getD k.params.selfTest }

/-- Last counts after a commit: 0 for every source that it sets (R395). -/
def countsAfter (k : Kiln) : Vector Nat 8 :=
  Vector.ofFn (fun n =>
    if bitOf (paramsAfter k).sources n.val && !bitOf k.params.sources n.val then 0 else vget k.lastCounts n)

/-- Refuse a commit: staged values go, the state stays (R404, R406, R408). -/
def refuseCommit (reason : Nat) (s : State) : State :=
  let s1 := s |> kilnGen |> modKiln (fun k => { k with staged := .none })
  let s2 := if reason = 2 ∧ !s1.kiln.auditFull then
      kilnEvent 0x0A04 0 (modKiln (fun k => { k with auditFull := true }) s1) else s1
  kilnEvent 0x0A03 reason s2

/-- The entries of a commit, then its commit word (R406). -/
def runCommit (crystal : Nat) (s : State) : State :=
  let now := kilnTimeAt s crystal
  let s1 := kilnGen s
  let s2 := (stagedChanges s.kiln now).foldl (fun t c =>
      let t1 := modKiln (fun k => { k with eventCounter := k.eventCounter + 1 }) t
      addEntry (fun e => { e with event := 2, objIndex := 0x6004, sub := c.1, old := c.2.1, new := c.2.2 }) now t1) s1
  let s3 := addEntry (fun e => { e with event := 3 }) now s2
  let s4 := modKiln (fun k => { k with
      state := .sealed, params := paramsAfter k, lastCounts := countsAfter k
      offset := match k.staged.setTime with
        | some v => (v + (2 ^ 64 - crystal % 2 ^ 64)) % 2 ^ 64
        | none => k.offset
      timeValid := k.timeValid || k.staged.setTime.isSome, staged := .none }) s3
  s4 |> kilnEvent 0x0A01 s4.kiln.gen |> issueAudit crystal

/-- The seal has closed while the procedure was open: Kiln commits or refuses; `interrupted` says that the island loses its
power before the commit word (R404, R406, R407). -/
def sealCommit (interrupted : Bool) (crystal : Nat) (s : State) : State :=
  let k := s.kiln
  let n := (stagedChanges k 0).length + 1
  if !k.timeValid && k.staged.setTime.isNone then refuseCommit 1 s
  else if !auditRoom k n then refuseCommit 2 s
  else if interrupted then modKiln (fun x => { x with committing := true, powered := false }) s
  else runCommit crystal s

/-- SEAL_OPEN: SEAL_N has been low for 10 ms; without the main supplies the monitor latches the first opening (R403, R404). -/
def execSealOpen (crystal : DWord) (s : State) : Host.Outcome State Fault Refusal :=
  .next (
    let k := s.kiln
    let now := kilnTimeAt s crystal.toNat
    if !k.enabled || k.sealOpen then s
    else
      let s1 := modKiln (fun x => { x with sealOpen := true }) s
      if k.powered then sealOpened false now crystal.toNat s1
      else modKiln (fun x => { x with latched := some (x.latched.getD now) }) s1)

/-- SEAL_CLOSED: SEAL_N has been high for 100 ms (R403, R406). DEDUCED: log entry 175. -/
def execSealClosed (crystal : DWord) (interrupted : Bool) (s : State) : Host.Outcome State Fault Refusal :=
  .next (
    let k := s.kiln
    if !k.enabled || !k.sealOpen then s
    else
      let s1 := modKiln (fun x => { x with sealOpen := false }) s
      if sealedProcedure k then sealCommit interrupted crystal.toNat s1 else s1)

/-! ### Power-on of the island (R386, R403, R404, R407, R412, R503, R510) -/

/-- A commit that the power-on finds interrupted is rolled back (R407). -/
def rollBackCommit (now : Nat) (s : State) : State :=
  if s.kiln.committing then
    s |> modKiln (fun k => { k with committing := false, staged := .none }) |> addEntry (fun e => { e with event := 4 }) now
  else s

/-- What the power-on finds of the clock: a SEALED Kiln whose clock is lost becomes BROKEN (R404). -/
def findClock (now : Nat) (s : State) : State :=
  if !s.kiln.timeValid && s.kiln.state == .sealed then
    s |> modKiln (fun k => { k with state := .broken }) |> addEntry (fun e => { e with event := 5 }) now
  else s

/-- A row of R404 applies to this power-on: every one but a lost clock outside SEALED without an interrupted commit. -/
def powerOnRow (clockLost : Bool) (k : Kiln) : Bool := k.committing || k.state == .sealed || !clockLost

/-- Kiln wakes up (R403, R404). -/
def kilnWakes (clockLost : Bool) (crystal : Nat) (s : State) : State :=
  let lost : Bool := clockLost || !s.kiln.timeValid
  let s1 := modKiln (fun k => { k with
    powered := true, enabled := true, timeValid := k.timeValid && !clockLost, toKiln := [], toMain := []
    latched := if clockLost then none else k.latched, fallback := s.boot.phase == .held }) s
  let now := kilnTimeAt s1 crystal
  let s2 := (if powerOnRow lost s1.kiln then kilnGen s1 else s1) |> rollBackCommit now |> findClock now |> issueAudit crystal
  match s2.kiln.latched with
  | some t => s2 |> modKiln (fun k => { k with latched := none }) |> sealOpened true t crystal
  | none => s2

/-- KILN_POWER_ON: the main supplies reach the island. `clockLost` says that its clock has been lost since; a disabled island
stays in reset (R503). -/
def execKilnPowerOn (enabled clockLost : Bool) (crystal : DWord) (s : State) : Host.Outcome State Fault Refusal :=
  .next (
    if s.kiln.powered then s
    else if !enabled then modKiln (fun k => { k with enabled := false, latched := none, sealOpen := false }) s
    else kilnWakes clockLost crystal.toNat s)

/-- VBAT_LOW: without the main supplies the island resets and loses its clock (R412, R510). -/
def execVbatLow (s : State) : Host.Outcome State Fault Refusal :=
  .next (if s.kiln.powered then s
    else modKiln (fun k => { k with timeValid := false, latched := none, sealOpen := false }) s)

/-! ### The bridge towards Kiln (R391, R392, R396-R399, R405, R409, R410) -/

/-- The first message that a test selects. -/
def firstMsg (p : BridgeMsg → Bool) (l : List BridgeMsg) : Option BridgeMsg := l.find? p

/-- The queue without its first message that a test selects. -/
def dropMsg (p : BridgeMsg → Bool) : List BridgeMsg → List BridgeMsg
  | [] => []
  | m :: rest => if p m then rest else m :: dropMsg p rest

/-- A SUBMIT. -/
def isSubmit : BridgeMsg → Bool
  | .submit .. => true
  | _ => false
/-- A CONFIRM. -/
def isConfirm : BridgeMsg → Bool
  | .confirm .. => true
  | _ => false
/-- A REQUEST_COPY. -/
def isRequestCopy : BridgeMsg → Bool
  | .requestCopy .. => true
  | _ => false
/-- A STAGE. -/
def isStage : BridgeMsg → Bool
  | .stage .. => true
  | _ => false
/-- A RECORD_COPY. -/
def isCopy : BridgeMsg → Bool
  | .recordCopy .. => true
  | _ => false
/-- A RESULT, of a SUBMIT or a STAGE. -/
def isResult : BridgeMsg → Bool
  | .result .. | .stageResult .. => true
  | _ => false

/-- Kiln runs and the main side is up: the bridge carries messages. -/
def bridgeRuns (s : State) : Bool := bridgeUp s && s.kiln.powered

/-- A message reaches Kiln; `withdrawn` says that the main side withdrew its request once for it (R392). -/
def kilnReceives (p : BridgeMsg → Bool) (withdrawn : Bool) (f : BridgeMsg → State → State) (s : State) : State :=
  if !bridgeRuns s then s
  else match firstMsg p s.kiln.toKiln with
    | none => s
    | some m =>
      s |> (fun t => if withdrawn then bump Obj.bridgeCollisions t else t)
        |> modKiln (fun k => { k with toKiln := dropMsg p k.toKiln }) |> f m

/-- Why Kiln refuses a record: the DETAIL of R158; 0 where it takes it (R394, R397). -/
def submitRefusal (k : Kiln) (source sourceId : Nat) : Nat :=
  match k.state with
  | .unsealed => 2
  | .broken => 3
  | .sealed =>
    if source = 2 ∧ !bitOf k.params.domains sourceId then 1
    else if !storeFree k then 4
    else 0

/-- GAP of a record: process data that replaced another or whose count does not follow the last one taken (R395). -/
def recordGap (k : Kiln) (source sourceId count : Nat) (replaced : Bool) : Bool :=
  source == 1 && (replaced || (count + 65536 - vget k.lastCounts (Fin.ofNat 8 sourceId)) % 65536 != 1)

/-- The METER_RECORD that a tag names, while it waits for Kiln. -/
def meterSlot (s : State) (d : Dom) (tag : Nat) : Option Slot :=
  (domOf s d).slots.find? (fun x => x.order == tag && x.phase == .kiln)

/-- The DATA of a METER_RECORD whose SUBMIT Kiln takes leave the receive buffer (R115). -/
def meterTaken (source sourceId tag : Nat) (s : State) : State :=
  let d : Dom := Fin.ofNat 8 sourceId
  match meterSlot s d tag with
  | some x =>
    if source = 2 then s |> returnUnits x.cmd.head.port .data x.units |> modSlot d x.no (fun y => { y with units := 0 }) else s
  | none => s

/-- Kiln takes a record or refuses it; a refused process-data record is dropped (R395-R400). -/
def takeSubmit (crystal : Nat) (m : BridgeMsg) (s : State) : State :=
  match m with
  | .submit source sourceId count replaced tag data =>
    let s := meterTaken source sourceId tag s
    let why := submitRefusal s.kiln source sourceId
    if why ≠ 0 then (if source = 2 then toMain (.result source sourceId tag none why) s else s)
    else
      let gap := recordGap s.kiln source sourceId count replaced
      let r := nextRecord source sourceId (b2n gap) crystal data s
      let s1 := modKiln (fun k => { k with
        gaps := k.gaps + b2n gap
        lastCounts := if source = 1 then vset k.lastCounts (Fin.ofNat 8 sourceId) count else k.lastCounts }) s
      s1 |> (if source = 2 then toMain (.result source sourceId tag (some r.seq) 0) else id) |> storeRecord r
  | _ => s

/-- SUBMIT (R395-R400). -/
def execSubmit (crystal : DWord) (withdrawn : Bool) (s : State) : Host.Outcome State Fault Refusal :=
  .next (kilnReceives isSubmit withdrawn (takeSubmit crystal.toNat) s)

/-- CONFIRM: records up to the KILN_SEQ are confirmed; audit records that waited go out (R405, R410). -/
def execConfirm (crystal : DWord) (withdrawn : Bool) (s : State) : Host.Outcome State Fault Refusal :=
  .next (kilnReceives isConfirm withdrawn (fun m t =>
    match m with
    | .confirm seq _ =>
      issueAudit crystal.toNat (modKiln (fun k => { k with confirmed := max k.confirmed (min seq k.lastSeq) }) t)
    | _ => t) s)

/-- REQUEST_COPY: the copies of the records held in the range (R409). -/
def execRequestCopy (withdrawn : Bool) (s : State) : Host.Outcome State Fault Refusal :=
  .next (kilnReceives isRequestCopy withdrawn (fun m t =>
    match m with
    | .requestCopy first count =>
      (t.kiln.records.filter (fun r => decide (first ≤ r.seq) && decide (r.seq < first + count))).foldl
        (fun u r => toMain (.recordCopy r) u) t
    | _ => t) s)

/-- STAGE: Kiln checks the values and stages them; its RESULT says the outcome (R405). -/
def execStage (withdrawn : Bool) (s : State) : Host.Outcome State Fault Refusal :=
  .next (kilnReceives isStage withdrawn (fun m t =>
    match m with
    | .stage w sub values =>
      let why := stageOutcome t.kiln values
      let t1 := if why.isNone then modKiln (fun k => { k with staged := values.foldl stageValue k.staged }) t else t
      let code := match why with
        | none => 0
        | some .range => 1
        | some .state => 2
        | some _ => 3
      toMain (.stageResult w sub code) t1
    | _ => t) s)

/-! ### The bridge towards the main side (R391, R393, R405, R409) -/

/-- A message reaches the main side. -/
def mainReceives (p : BridgeMsg → Bool) (f : BridgeMsg → State → State) (s : State) : State :=
  if !bridgeRuns s then s
  else match firstMsg p s.kiln.toMain with
    | none => s
    | some m => s |> modKiln (fun k => { k with toMain := dropMsg p k.toMain }) |> f m

/-- Complete the METER_RECORD that a RESULT answers (R21, R158). -/
def finishMeter (d : Dom) (tag : Nat) (seq : Option Nat) (detail : Nat) (s : State) : State :=
  match meterSlot s d tag with
  | none => s
  | some x =>
    match seq with
    | some n => completeSlot d x.no 0 0 64 n 0 s
    | none => completeSlot d x.no 0x60 detail 0 0 0 s

/-- Answer the write that a STAGE carried, and close the MGMT transfer it came by (R58, R405). -/
def finishStage (w : Writer) (sub code : Nat) (s : State) : State :=
  let s1 := match code with
    | 0 => answer w 0x6004 sub none s
    | 1 => refuse w 0x6004 sub .range s
    | 2 => refuse w 0x6004 sub .state s
    | _ => refuse w 0x6004 sub .kilnRange s
  match w with
  | .mgmt p _ tid =>
    if (portOf s1 p).transfer.any (fun t => t.transferId == tid.toNat) then closeTransfer p s1 else s1
  | _ => s1

/-- RESULT (R391). -/
def execResult (s : State) : Host.Outcome State Fault Refusal :=
  .next (mainReceives isResult (fun m t =>
    match m with
    | .result source sourceId tag seq detail =>
      if source = 2 then finishMeter (Fin.ofNat 8 sourceId) tag seq detail t else t
    | .stageResult w sub code => finishStage w sub code t
    | _ => t) s)

/-- RECORD_COPY: into the bridge buffer while it has room; 6,144 copies make a cut due (R355, R409). -/
def execRecordCopy (s : State) : Host.Outcome State Fault Refusal :=
  .next (mainReceives isCopy (fun m t =>
    match m with
    | .recordCopy r =>
      if t.kiln.copies.any (fun c => c.seq == r.seq) || decide (r.seq ≤ t.kiln.confirmed)
          || decide (bufferCopies ≤ t.kiln.copies.length) then t
      else modKiln (fun k => { k with
        copies := k.copies ++ [r], cutDue := k.cutDue || decide (dueCopies ≤ k.copies.length + 1) })
        { t with sched := { t.sched with inflow := t.sched.inflow + 160 } }
    | _ => t) s)

/-- KILN_STATUS as Kiln reports it, with BRIDGE_OK (R413). -/
def kilnStatusWord (k : Kiln) : Nat :=
  2 ^ 31 * b2n k.sealOpen + 2 ^ 30 * b2n (sealedProcedure k) + 2 ^ 29 * b2n k.timeValid + 2 ^ 28 * b2n k.auditFull
    + 2 ^ 27 + 2 ^ 26 * b2n k.fallback + (stagedChanges k 0).length

/-- The Kiln objects take the values of a report (R393, R413). -/
def takeReport (crystal : Nat) (s : State) : State :=
  let k := s.kiln
  s |> setObj (Obj.unitState 0x6000) k.state.code |> setObj (Obj.unitGen 0x6000) k.gen
    |> setObj Obj.eventCounter k.eventCounter |> setObj Obj.lastSeq k.lastSeq |> setObj Obj.unconfirmed (unconfirmed k)
    |> setObj Obj.auditUsed k.audit.length |> setObj Obj.kilnTime (kilnTimeAt s crystal)
    |> setObj Obj.kilnStatus (kilnStatusWord k) |> setObj Obj.gaps k.gaps
    |> setObj Obj.rxpdoSources k.params.sources |> setObj Obj.authorizedDomains k.params.domains
    |> setObj Obj.selfTestAllowed k.params.selfTest
    |> modKiln (fun x => { x with bridgeOk := true })

/-- Post the events that waited for a report. -/
def postNews (s : State) : State :=
  s.kiln.news.foldl (fun t e => postEvent e.1 unitKiln e.2 t) (modKiln (fun k => { k with news := [] }) s)

/-- The highest KILN_SEQ confirmed, or on its way to be. -/
def confirmedSoon (k : Kiln) : Nat :=
  k.toKiln.foldl (fun n m => match m with
    | .confirm seq _ => max n seq
    | _ => n) k.confirmed

/-- Records not confirmed of which no copy is held or under way. -/
def missingCopies (k : Kiln) : List Nat :=
  ((k.records.map (·.seq)).filter (fun n => decide (confirmedSoon k < n) && !(k.copies.any (fun c => c.seq == n))
    && !(k.toMain.any (fun m => match m with
      | .recordCopy r => r.seq == n
      | _ => false))))

/-- Ask for the missing range while the buffer has room (R409, R412). -/
def askMissing (s : State) : State :=
  let k := s.kiln
  let room := bufferCopies - k.copies.length
  match missingCopies k with
  | [] => s
  | n :: rest =>
    if room = 0 ∨ k.toKiln.any isRequestCopy then s
    else
      let last := rest.foldl max n
      modKiln (fun x => { x with toKiln := x.toKiln ++ [.requestCopy n (min (last + 1 - n) room)] }) s

/-- STATE_REPORT: sent at every change and at least every 100 ms (R391, R393). -/
def execStateReport (crystal : DWord) (s : State) : Host.Outcome State Fault Refusal :=
  .next (if bridgeRuns s then s |> takeReport crystal.toNat |> postNews |> askMissing else s)

/-- Withdraw a message that Kiln has not taken: its METER_RECORD or write is refused (R158, R393). -/
def withdrawMsg (m : BridgeMsg) (s : State) : State :=
  match m with
  | .submit source sourceId _ _ tag _ => if source = 2 then finishMeter (Fin.ofNat 8 sourceId) tag none 5 s else s
  | .stage w sub _ => finishStage w sub 3 s
  | _ => s

/-- KILN_NOT_RESPONDING: no STATE_REPORT for 300 ms; what Kiln has not taken of METER_RECORDs and writes is refused
(R393, R503). -/
def execKilnNotResponding (s : State) : Host.Outcome State Fault Refusal :=
  .next (live s (
    if !kilnEnabled s then s
    else
      let gone : BridgeMsg → Bool := fun m => match m with
        | .submit source _ _ _ _ _ => source == 2
        | .stage .. => true
        | _ => false
      let s1 := s |> modKiln (fun k => { k with bridgeOk := false, toKiln := k.toKiln.filter (fun m => !gone m) })
        |> setObj Obj.kilnStatus (obj s Obj.kilnStatus &&& (0xFFFFFFFF - 2 ^ 27)) |> postEvent 0x0A05 unitKiln 0
      (s.kiln.toKiln.filter gone).foldl (fun t m => withdrawMsg m t) s1))

/-- KILN_CUT_AGE_EXPIRY: the oldest waiting copy has waited KILN_CUT_AGE_H (R409). -/
def execKilnCutAgeExpiry (s : State) : Host.Outcome State Fault Refusal :=
  .next (live s (if s.kiln.copies = [] then s else modKiln (fun k => { k with cutDue := true }) s))

/-! ### The island's MRAM (R390) -/

/-- First byte of the slot of a KILN_SEQ in the record store. -/
def storeAddr (seq : Nat) : Nat := 96 * ((seq - 1) % storeSlots)

/-- First byte of an entry of the audit log. -/
def auditAddr (n : Nat) : Nat := 0x180000 + 64 * n

/-- What stands at an address of the record store and the audit log: bytes 0-95 of the record whose slot it is, bytes of an entry;
none where nothing has been written yet and in the state region, whose values State holds as fields. -/
def islandByte (k : Kiln) (addr : Nat) : Option Byte :=
  if addr < 0x180000 then ((k.records.find? (fun r => storeAddr r.seq == addr / 96 * 96)).map KilnRecord.signed).bind (fun b => b[addr % 96]?)
  else if addr < 0x190000 then (k.audit[(addr - 0x180000) / 64]?).bind (fun e => (AuditEntry.bytes e)[addr % 64]?)
  else none

/-! ### Offline verification (R411) -/

/-- What a verifier reports of a record. -/
inductive RecordReport where
  | forged | chainBroken | gapBefore
deriving DecidableEq, Repr

/-- A little-endian field of a record's bytes. -/
def recordField (r : List Byte) (at' n : Nat) : Nat := ofLeBytes ((r.drop at').take n)

/-- The signature over bytes 0-95 verifies against the public key. -/
def recordGenuine (key r : List Byte) : Bool :=
  Config.ecdsaValid key (Config.sha256 (r.take 96)) (BitVec.ofNat 512 (ofBeBytes ((r.drop 96).take 64)))

/-- The reports on one record, given all that are held. -/
def verifyRecord (key : List Byte) (held : List (List Byte)) (r : List Byte) : List (RecordReport × Nat) :=
  let seq := recordField r 8 8
  let tag := recordField r 24 8
  let chain : List (RecordReport × Nat) :=
    if seq = 1 then (if tag = hashTag key then [] else [(.chainBroken, seq)])
    else match held.find? (fun p => recordField p 8 8 + 1 == seq) with
      | some p => if tag = hashTag (p.take 96) then [] else [(.chainBroken, seq)]
      | none => [(.gapBefore, seq)]
  (if recordGenuine key r then [] else [(.forged, seq)]) ++ chain

/-- The records a verifier checks: in ascending KILN_SEQ, those with identical bytes 0-95 once. -/
def heldRecords (rs : List (List Byte)) : List (List Byte) :=
  sortBy (fun r => recordField r 8 8)
    (rs.foldl (fun acc r => if acc.any (fun a => a.take 96 == r.take 96) then acc else acc ++ [r]) [])

/-- The whole check: it needs the public key and the records alone. -/
def verifyRecords (key : List Byte) (rs : List (List Byte)) : List (RecordReport × Nat) :=
  (heldRecords rs).flatMap (verifyRecord key (heldRecords rs))

end Sys2Proof.Machine
end

