-- ==== Sys2Proof/Machine/Ecat.lean ====
section
/-!
DEFINITION. The field network: AL states, process data, the mailbox's file access and its errors (R65-R76, R394, R395, R462,
R469).
-/
namespace Sys2Proof.Machine

/-- Change the slave. -/
def modEcat (f : Ecat → Ecat) (s : State) : State := { s with ecat := f s.ecat }

/-! ### The process image (R66, R67) -/

/-- Bits of an object in a process image: 68 bytes of a KILN_INPUT, else its type's width (R67, R395). -/
def imageBits (e : Nat × Nat) : Nat := if e.1 = 0x6010 then 544 else typeWidth e.1 e.2

/-- Values of an assignment object's entries, unused ones left out. -/
def assignedPdos (s : State) (i : Nat) : List Nat :=
  ((List.range (obj s (objKey i 0))).map (fun j => obj s (objKey i (j + 1)))).filter (· != 0)

/-- The objects a mapping object names, in order; an entry of value 0 names none. -/
def mapEntries (s : State) (i : Nat) : List (Nat × Nat) :=
  (((List.range (obj s (objKey i 0))).map (fun j => obj s (objKey i (j + 1)))).filter (· != 0)).map mappingTarget

/-- An assignment names PDOs of its own direction, each once, with legal mappings; `base` is their first index. -/
def assignmentGood (s : State) (i base : Nat) : Bool :=
  let l := assignedPdos s i
  l.all (fun v => base ≤ v && v ≤ base + 7
      && (List.range (obj s (objKey v 0))).all (fun j => !unmappable v (j + 1) (obj s (objKey v (j + 1)))))
    && l.all (fun v => (l.filter (· == v)).length == 1)

/-- Bytes of a process image. -/
def processBytes (s : State) (i : Nat) : Nat :=
  ceilDiv (((assignedPdos s i).flatMap (mapEntries s)).map imageBits).sum 8

/-- Bits of a process image from a bit offset on, bit 0 of byte 0 first (R6). -/
def bitsAt (image : List Byte) (off width : Nat) : Nat := fieldOf (ofLeBytes image) off width

/-- The entries of the output image with their values, in order. -/
def outputValues (image : List Byte) : Nat → List (Nat × Nat) → List (Nat × Nat × Nat)
  | _, [] => []
  | off, e :: rest => (e.1, e.2, bitsAt image off (imageBits e)) :: outputValues image (off + imageBits e) rest

/-! ### Kiln's inputs (R394, R395) -/

/-- RECORD_COUNT of the record of a source that waits to be submitted. -/
def heldCountOf (k : Kiln) (n : Nat) : Option Nat :=
  k.toKiln.findSome? (fun m => match m with
    | .submit source sourceId count _ _ _ => if source = 1 ∧ sourceId = n then some count else none
    | _ => none)

/-- Replace the waiting record of a source; the new one counts as a gap (R395). -/
def replaceHeld (n count : Nat) (data : List Byte) (l : List BridgeMsg) : List BridgeMsg :=
  l.map (fun m => match m with
    | .submit 1 k _ _ tag _ => if k = n then .submit 1 n count true tag data else m
    | m => m)

/-- A new value of KILN_INPUT_n in OP: a designated input whose RECORD_COUNT has moved on is latched (R394, R395). -/
def latchInput (n : Fin 8) (v : Nat) (s : State) : State :=
  let bytes := leBytes 68 v
  let s1 := modKiln (fun k => { k with inputs := vset k.inputs n bytes }) s
  let data := bytes.take 64
  let count := ofLeBytes (slice bytes 64 2)
  if !kilnEnabled s || !bitOf (obj s Obj.rxpdoSources) n.val then s1
  else match heldCountOf s.kiln n.val with
    | some c =>
      if c = count then s1 else modKiln (fun k => { k with toKiln := replaceHeld n.val count data k.toKiln }) s1
    | none =>
      if vget s.kiln.lastCounts n = count then s1
      else modKiln (fun k => { k with toKiln := k.toKiln ++ [.submit 1 n.val count false 0 data] }) s1

/-- A KILN_INPUT value is refused: process data may not write, or its two reserved bytes are not zero (R8, R52, R395). -/
def inputChecks (s : State) (v : Nat) : List (Bool × Reason) :=
  [(!pathEnabled s .rxpdo, .notOwner), (fieldOf v 528 16 != 0, .invalidField)]

/-- One object of the output image takes its value (R8, R52, R59, R68, R395). -/
def takeOutput (e : Nat × Nat × Nat) (s : State) : State :=
  if e.1 = 0x6010 then
    match firstReason (inputChecks s e.2.2) with
    | some r => refuse .rxpdo e.1 e.2.1 r s
    | none => latchInput (Fin.ofNat 8 (e.2.1 - 1)) e.2.2 s
  else writeValue .rxpdo e.1 e.2.1 (typeBytes e.1 e.2.1) e.2.2 s

/-- The output image reaches the objects mapped into the assigned RxPDOs. -/
def applyOutputs (image : List Byte) (s : State) : State :=
  (outputValues image 0 ((assignedRx s).flatMap (rxEntries s))).foldl (fun t e => takeOutput e t) s

/-! ### AL states (R75, R76) -/

/-- Enter an AL state without an error. -/
def enterAl (a : AlState) (s : State) : State :=
  s |> setObj Obj.ecatAlStatusCode 0 |> modEcat (fun e => { e with al := a, errorFlag := false })

/-- Stay, with the error flag and an AL status code. -/
def alError (code : Nat) (s : State) : State :=
  s |> setObj Obj.ecatAlStatusCode code |> modEcat (fun e => { e with errorFlag := true })

/-- Leaving OP: PDO_OUTPUTS takes PDO_SAFE_OUTPUTS, other mapped objects keep their values (R69, R462). -/
def leaveOp (s : State) : State :=
  if s.ecat.al = .op then filterLines (setObj Obj.pdoOutputs (obj s Obj.pdoSafeOutputs) s) else s

/-- The FoE download in progress is abandoned (R72, R75). -/
def dropFoe (s : State) : State := if s.boot.download.isSome && !pushOpen s then dropDownload s else s

/-- The emergencies that wait are dropped. -/
def dropEmergencies (s : State) : State := { s with ev := { s.ev with emergencies := [], emergencyDrops := 0 } }

/-- MASTER_REQUESTS_INIT: the mailbox stops (R72, R75). -/
def execMasterRequestsInit (s : State) : Host.Outcome State Fault Refusal :=
  .next (live s (
    s |> leaveOp |> dropFoe |> modEcat (fun e => { e with outputs := none, reply := .nothing, sdo := none })
      |> dropEmergencies |> enterAl .init))

/-- MASTER_REQUESTS_PREOP (R75). -/
def execMasterRequestsPreop (s : State) : Host.Outcome State Fault Refusal :=
  .next (live s (
    if s.ecat.al = .boot then alError 0x0011 s
    else s |> leaveOp |> modEcat (fun e => { e with outputs := none }) |> enterAl .preop))

/-- A process data sync manager suits a process image of `n` bytes: disabled where there is none, else as R66 places it. -/
def processSm (x : SyncManager) (start n : Nat) (output : Bool) : Bool :=
  if n = 0 then !x.enabled || x.length == 0
  else x.enabled && x.buffered && x.output == output && x.start.toNat == start && x.length.toNat == n

/-- The assignment at `i` with its sync manager is valid: PDOs from `base` on, at most 1,024 bytes (R66, R67, R75). -/
def processGood (s : State) (i base : Nat) (x : SyncManager) (start : Nat) (output : Bool) : Bool :=
  assignmentGood s i base && decide (processBytes s i ≤ 1024) && processSm x start (processBytes s i) output

/-- A SYNC cycle time: unused, or 25 µs and more (R73). -/
def cycleGood (c : Word) : Bool := c == 0 || decide (25000 ≤ c.toNat)

/-- The DC settings are valid: no DC-synchronous operation under a spread common reference, and cycle times in range (R73). -/
def dcGood (s : State) (x : DcSettings) : Bool :=
  !(x.synchronous && (!cycleGood x.cycle0 || !cycleGood x.cycle1
    || (obj s Obj.linkClockMode == 1 && obj s Obj.spreadDeclared != 0)))

/-- The AL status code of the first setting that is not valid for SAFEOP (R65-R67, R73, R75). A sync manager that does not
stand as R66 places it gives the code of its direction, and a cycle time out of range that of DC (DEDUCED, log entry 145). -/
def safeopError (x : SlaveSettings) (s : State) : Option Nat :=
  if ([4, 5, 6, 7] : List (Fin 8)).any (fun n => (vget x.sm n).enabled) then some 0x0017
  else if !processGood s 0x1C12 0x1600 (vget x.sm 2) 0x1400 true then some 0x001D
  else if !processGood s 0x1C13 0x1A00 (vget x.sm 3) 0x2000 false then some 0x001E
  else if !dcGood s x.dc then some 0x0030
  else none

/-- A request for SAFEOP with the settings standing (R75). -/
def requestSafeop (s : State) : State :=
  match s.ecat.al with
  | .preop =>
    match safeopError s.ecat.settings s with
    | some code => alError code s
    | none => s |> modEcat (fun e => { e with outputs := none }) |> enterAl .safeop
  | .op => s |> leaveOp |> modEcat (fun e => { e with outputs := none }) |> enterAl .safeop
  | .safeop => enterAl .safeop s
  | .init | .boot => alError 0x0011 s

/-- MASTER_REQUESTS_SAFEOP: `x` is what the master has set in the slave controller (R65, R73, R75). -/
def execMasterRequestsSafeop (x : SlaveSettings) (s : State) : Host.Outcome State Fault Refusal :=
  .next (live s (s |> modEcat (fun e => { e with settings := x }) |> requestSafeop))

/-- MASTER_REQUESTS_OP: from SAFEOP, once valid outputs have come or where no RxPDO is assigned; the outputs are applied
(R75). -/
def execMasterRequestsOp (s : State) : Host.Outcome State Fault Refusal :=
  .next (live s (match s.ecat.al with
    | .safeop =>
      match s.ecat.outputs with
      | some image => s |> enterAl .op |> applyOutputs image
      | none => if assignedPdos s 0x1C12 = [] then enterAl .op s else s
    | .op => enterAl .op s
    | .init | .preop | .boot => alError 0x0011 s))

/-- MASTER_REQUESTS_BOOT: from INIT only (R75). -/
def execMasterRequestsBoot (s : State) : Host.Outcome State Fault Refusal :=
  .next (live s (match s.ecat.al with
    | .init | .boot => enterAl .boot s
    | .preop | .safeop | .op => alError 0x0011 s))

/-- SM2_WATCHDOG_EXPIRY: OP falls back to SAFEOP (R69, R75). -/
def execSm2WatchdogExpiry (s : State) : Host.Outcome State Fault Refusal :=
  .next (live s (
    if s.ecat.al = .op then
      s |> leaveOp |> modEcat (fun e => { e with outputs := none }) |> enterAl .safeop |> alError 0x001B
    else s))

/-- NEW_OUTPUT_BUFFER: a new SM2 buffer; in SAFEOP it is kept, in OP it is applied (R75, R395). -/
def execNewOutputBuffer (image : List Byte) (s : State) : Host.Outcome State Fault Refusal :=
  .next (live s (match s.ecat.al with
    | .safeop => modEcat (fun e => { e with outputs := some image }) s
    | .op => s |> modEcat (fun e => { e with outputs := some image }) |> applyOutputs image
    | .init | .preop | .boot => s))

/-! ### The mailbox (R65, R71, R72, R74, R469) -/

/-- Answer the master. -/
def reply (r : MailboxReply) (s : State) : State := modEcat (fun e => { e with reply := r }) s

/-- SDO_TRANSFER_TIMEOUT: a segmented transfer of an object has had no segment for 100 ms (R59, R469). -/
def execSdoTransferTimeout (index : Half) (sub : Byte) (s : State) : Host.Outcome State Fault Refusal :=
  .next (live s (
    if coeServed s then s |> modEcat (fun e => { e with sdo := none }) |> sdoProtocol index.toNat sub.toNat 0x05040000 else s))

/-- An FoE request: served in BOOT, a mailbox error while another mailbox state holds, nothing in INIT (R65, R71, R75). -/
def foeRequest (f : State → State) (s : State) : State :=
  match s.ecat.al with
  | .boot => f s
  | .init => s
  | _ => reply .mailboxError s

/-- FOE_WRITE (R71, R72). -/
def execFoeWrite (name : List Byte) (s : State) : Host.Outcome State Fault Refusal :=
  .next (live s (foeRequest (fun t =>
    if name ≠ asciiBytes "miomen.img" then reply (.foeError 0x8001) t
    else if pushOpen t then reply (.foeError 0x8002) t
    else reply (.foeAck 0) { t with boot := { t.boot with download := some ⟨.foe, [], 1⟩ } }) s))

/-- FOE_READ (R71). -/
def execFoeRead (s : State) : Host.Outcome State Fault Refusal :=
  .next (live s (foeRequest (reply (.foeError 0x8001)) s))

/-- An FoE error ends the transfer (R71, R72). -/
def foeFails (code : Nat) (s : State) : State := s |> dropFoe |> reply (.foeError code)

/-- FOE_PACKET: the next packet of the download; the last one has the image checked (R71, R72, R428, R430). -/
def execFoePacket (number : Word) (last : Bool) (bytes : List Byte) (s : State) : Host.Outcome State Fault Refusal :=
  .next (live s (foeRequest (fun t =>
    match t.boot.download with
    | none => foeFails 0x8005 t
    | some x =>
      let all := x.bytes ++ bytes
      if pushOpen t then foeFails 0x8002 t
      else if number.toNat ≠ x.nextPacket then foeFails 0x8005 t
      else if slotSize < all.length then foeFails 0x8003 t
      else
        let t1 := { t with boot := { t.boot with download := some { x with bytes := all, nextPacket := x.nextPacket + 1 } } }
        if !last then reply (.foeAck number.toNat) t1
        else
          let r := finishDownload all.length t1
          reply (if r.1 then .foeAck number.toNat else .foeError 0x8004) r.2) s))

/-- DOWNLOAD_TIMEOUT: a download has had no packet for 1 s (R72). -/
def execDownloadTimeout (s : State) : Host.Outcome State Fault Refusal := .next (live s (dropDownload s))

end Sys2Proof.Machine
end

