-- ==== Sys2Proof/Machine/Energy.lean ====
section
/-!
DEFINITION. Energy accounting: the 1 ms tick, the 1 s window and the measured values that come with them (R421, R441-R446,
R512).
-/
namespace Sys2Proof.Machine

/-- The accounts in order: D0 to D7 and the device. -/
def allAccounts : List (Fin 9) := List.finRange 9

/-- The device's account. -/
def deviceAccount : Fin 9 := 8

/-- An account that takes energy: the device, and every configured domain (R445). -/
def takesEnergy (s : State) (a : Fin 9) : Bool := if h : a.val < 8 then configured s ⟨a.val, h⟩ else true

/-- The weights that count: those of accounts that take energy. -/
def countedWeights (s : State) (w : Vector Nat 9) : Vector Nat 9 :=
  Vector.ofFn (fun a => if takesEnergy s a then vget w a else 0)

/-- The sum of weights. -/
def weightSum (w : Vector Nat 9) : Nat := w.toList.sum

/-- Split `e` nJ by weights: floors, and the remainder to the device (R443). -/
def splitEnergy (e : Nat) (w : Vector Nat 9) : Vector Nat 9 :=
  let total := weightSum w
  let part : Vector Nat 9 := Vector.ofFn (fun a => e * vget w a / total)
  vset part deviceAccount (vget part deviceAccount + (e - weightSum part))

/-- Add energies to the accounts. -/
def addEnergies (x : Vector Nat 9) (e : Energy) : Energy :=
  { e with accounts := Vector.ofFn (fun a => vget e.accounts a + vget x a) }

/-- All of `e` nJ to the device (R444, R445). -/
def toDevice (n : Nat) (e : Energy) : Energy :=
  { e with accounts := vset e.accounts deviceAccount (vget e.accounts deviceAccount + n) }

/-- Give `n` nJ of a tick: by weight, to the pool without weights, to the device in a power-fail sequence (R443-R445). -/
def giveEnergy (s : State) (n : Nat) (w : Vector Nat 9) (e : Energy) : Energy :=
  if s.power.failing then toDevice n e
  else if weightSum w = 0 then { e with pool := e.pool + n }
  else addEnergies (splitEnergy n w) e

/-- The energy of a tick, of the converters and of the bridges' periods in it: a negative one is carried into the next (R442, R445);
what is below 1 nJ of the bridges' stays for the next tick. -/
def tickEnergy (s : State) (converter : Nat) (e : Energy) : Energy :=
  let w := countedWeights s e.tick
  let transport := openDiv e.motor (2 ^ 33)
  let n := e.carry + converter + transport
  let e1 := { e with
    converter := e.converter + converter, transport := e.transport + transport, motor := e.motor - transport * 2 ^ 33, ticks := e.ticks + 1
    tick := Vector.replicate 9 0, window := Vector.ofFn (fun a => vget e.window a + vget w a)
    times := match powerNow s with
      | 0 => vset e.times 0 (vget e.times 0 + 1)
      | 1 => vset e.times 1 (vget e.times 1 + 1)
      | _ => vset e.times 2 (vget e.times 2 + 1) }
  if n < 0 then { e1 with carry := n } else giveEnergy s n.toNat w { e1 with carry := 0 }

/-- What ENERGY_CLEAR clears: every energy and time counter, COMMITTED_BYTES and the pool; the window runs on (R446).
DEDUCED: log entry 173. -/
def clearEnergy (e : Energy) : Energy :=
  { Energy.zero with window := e.window, ticks := e.ticks, carry := e.carry, motor := e.motor }

/-- The measured values of a tick: Tj and its highest reading, the rails, the current limit (R421, R512). -/
def takeMeasures (x : TickInputs) (s : State) : State :=
  s |> setObj Obj.tjC x.tj.toNat
    |> (fun t => if objInt 16 t Obj.tjMaxC < x.tj.toInt then setObj Obj.tjMaxC x.tj.toNat t else t)
    |> setObj Obj.vcoreMv x.vcoreMv.toNat |> setObj Obj.vmramMv x.vmramMv.toNat
    |> (fun t => if x.limit then setObj Obj.supplyStatus (obj t Obj.supplyStatus ||| 8) t else t)

/-- ENERGY_TICK; a clear applies to the journalled counters too (R441-R446, R512). -/
def execEnergyTick (x : TickInputs) (s : State) : Host.Outcome State Fault Refusal :=
  .next (live s (
    let e := tickEnergy s x.converter.toNat s.energy
    takeMeasures x (if s.energy.clearDue then { s with energy := clearEnergy e, savedEnergy := clearEnergy s.savedEnergy }
      else { s with energy := e })))

/-- ONLINE domains whose vote equals the present power state (R444). -/
def voters (s : State) : List Dom :=
  allDoms.filter (fun d => (domOf s d).state == .online && vote s d == some (powerNow s))

/-- Distribute the pool at the end of a window (R444). -/
def sharePool (s : State) (e : Energy) : Energy :=
  let w := countedWeights s e.window
  let ds := voters s
  let e0 := { e with pool := 0 }
  if weightSum w ≠ 0 then addEnergies (splitEnergy e.pool w) e0
  else if ds = [] then toDevice e.pool e0
  else
    let part := e.pool / ds.length
    toDevice (e.pool - part * ds.length)
      (addEnergies (Vector.ofFn (fun a => if h : a.val < 8 then (if ds.contains ⟨a.val, h⟩ then part else 0) else 0)) e0)

/-- ENERGY_WINDOW: 1,000 ticks have passed; the pool is distributed and the counters are journalled (R444, R446). -/
def execEnergyWindow (s : State) : Host.Outcome State Fault Refusal :=
  .next (live s (
    if s.energy.ticks < 1000 then s
    else
      let e := { sharePool s s.energy with window := Vector.replicate 9 0, ticks := 0 }
      { s with energy := e, savedEnergy := e }))

end Sys2Proof.Machine
end

