-- ==== Sys2Proof/Machine/PowerStates.lean ====
section
/-!
DEFINITION. The device power states: reaching P1, P2 and P0, and asking ports for idle again (R182-R185, R325, R362,
R437-R441).
-/
namespace Sys2Proof.Machine

/-- LPOS and wrap the head is parked at: the nearer Bedrock zone whose latest generation is complete (R362). -/
def parkPlace (s : State) : Nat × Nat :=
  let z0 := (vget s.cart.zones 0).complete
  let z1 := (vget s.cart.zones 1).complete
  let nearer1 : Bool := decide ((s.xport.servo.lpos - 7200000).natAbs < s.xport.servo.lpos.natAbs)
  if z1 && (!z0 || nearer1) then (7200000, 3) else (0, 2)

/-- STOPPED to PARKED: park locate, tension ramp and head unload (R325, R362, R437). -/
def park (s : State) : State :=
  let pl := parkPlace s
  s |> modXport (fun x => { x with
        headLoaded := false
        servo := { x.servo with lowerValid := false, upperValid := false, lpos := pl.1, lposSub := 0, wrap := pl.2, locate := none } })
    |> enterXport .parked

/-- Every domain is flushed and nothing is being written (R342, R437). -/
def flushed (s : State) : Bool :=
  s.cart.openCut.isNone && !s.sched.burst
    && allDoms.all (fun d => !(s.cart.state == .ready && waitingBytes s d != 0))

/-- The transport stands so that P1 can be entered: STOPPED, or at rest without tape tensioned. -/
def parkable (s : State) : Bool :=
  match s.xport.state with
  | .stopped | .parked | .idle | .off => true
  | _ => false

/-- P1_REACHED (R184, R437). -/
def execP1Reached (s : State) : Host.Outcome State Fault Refusal :=
  .next (live s (
    if powerNow s = 0 ∧ powerToward s = 1 ∧ flushed s ∧ parkable s then
      let s1 := if s.xport.state = .stopped then park s else s
      pollPower (endMasked (setPowerState 1 1 { s1 with sched := { s1.sched with enteringP1 := false } }))
    else s))

/-- Every port counts as idle (R438). -/
def portsIdle (s : State) : Bool :=
  allPorts.all (fun p => match (portOf s p).state with
    | .idle | .disabled | .listen => true
    | _ => false)

/-- P2_ENTRY: the transport goes OFF, LPDDR4X into self-refresh and the MRAM is powered down (R437, R438, R441). -/
def execP2Entry (s : State) : Host.Outcome State Fault Refusal :=
  .next (live s (
    if powerNow s = 1 ∧ powerToward s = 2 ∧ portsIdle s then
      let s1 := match s.xport.state with
        | .parked | .idle => enterXport .off s
        | _ => s
      let s2 := { s1 with dram := { s1.dram with phase := .selfRefresh } }
      pollPower (endMasked (bump Obj.p2Entries (setPowerState 2 2 s2)))
    else s))

/-- IDLE_ENTRY_RETRY: the target is still P2, and a port is back in UP (R438). -/
def execIdleEntryRetry (s : State) : Host.Outcome State Fault Refusal :=
  .next (live s (if powerNow s = 1 ∧ powerToward s = 2 then askIdle s else s))

/-- Out of OFF at a power-state exit: PARKED with tape threaded, IDLE without (R325). -/
def xportExit (s : State) : State :=
  if s.xport.state ≠ .off then s
  else if s.cart.threaded then enterXport .parked s
  else xportIdle s

/-- EXIT_P1_REACHED: LPDDR4X is out of self-refresh and waiting commands are admitted (R184, R185, R325). -/
def execExitP1Reached (s : State) : Host.Outcome State Fault Refusal :=
  .next (live s (
    if powerNow s = 2 ∧ powerToward s < 2 then
      let s1 := { s with dram := { s.dram with phase := .active } }
      pollPower (drainBacklogs (xportExit (setPowerState 1 (powerToward s) s1)))
    else s))

/-- P0_REACHED: the exit is complete and tape work starts (R184). -/
def execP0Reached (s : State) : Host.Outcome State Fault Refusal :=
  .next (live s (
    if powerNow s = 1 ∧ powerToward s = 0 ∧ s.xport.state ≠ .parked ∧ s.xport.state ≠ .off then
      pollPower (progressAll (followCart (setPowerState 0 0 s)))
    else s))

end Sys2Proof.Machine
end

