-- ==== Sys2Proof/Machine/ReadPath.lean ====
section
/-!
DEFINITION. Reading tape: locates and the wrap check, the clock PLL, zone entries, a read cut and its blocks, the recovery
ladder with reallocation, head calibration, the dailies and the Bedrock delay (R223, R224, R287-R306, R347, R354, R361).
-/
namespace Sys2Proof.Machine

/-! ### Locates and the wrap check (R293, R297, R361) -/

/-- The step reads run at: while LOCAL_ITERATIONS is above 4 at most step 7 (R293). -/
def readStep (s : State) : Nat := if 4 < obj s Obj.localIterations then min s.sched.step 7 else s.sched.step

/-- Run at a step in the write direction of the wrap followed: even wraps towards EOT. -/
def runWrap (step : Nat) (s : State) : State :=
  let fwd : Bool := s.xport.servo.wrap % 2 == 0
  modXport (fun x => { x with forward := fwd, target := if fwd then stepTarget step else -stepTarget step }) s

/-- A wedge word confirms the wrap and an LPOS within one frame of a locate's target: that LPOS (R297). -/
def wedgeConfirms (target wrap : Nat) (wedge : DWord) : Option Nat :=
  match readWedge wedge with
  | some (w, _, lpos) =>
    if w = wrap ∧ 1400 * ((lpos : Int) - target).natAbs ≤ frameSetBits then some lpos else none
  | none => none

/-- LOCATE_COMPLETE: a wedge word confirms the wrap and an LPOS within one frame of the target; reading starts there (R284, R297,
R361). -/
def execLocateComplete (wedge : DWord) (s : State) : Host.Outcome State Fault Refusal :=
  .next (live s (
    match s.xport.servo.locate with
    | none => s
    | some (target, wrap) =>
      match wedgeConfirms target wrap wedge with
      | none => s
      | some lpos =>
        let s1 := modXport (fun x => { x with servo := { x.servo with
          lpos := lpos, lposSub := 0, wrap := wrap, locate := none, corrections := 0, fromEncoders := false } }) s
        let s2 := seedChannel 0 0 s1
        if s.sched.mode = .excursion then lockClock (runWrap (readStep s) s2) else runWrap s.sched.step s2))

/-- The wrap that at least 3 of 4 wedge copies name, with the track expected (R297). -/
def wrapFound (track : Nat) (wedges : List DWord) : Option Nat :=
  (List.range 128).find? (fun w => threeWedges (fun x => x.1 == w && x.2.1 == track) wedges)

/-- WRAP_CHECK: the first frame after a seek, on track `track`, with its four wedge words as read, must show wrap and track as
expected in at least 3 of them (R297). -/
def execWrapCheck (track : Fin 16) (wedges : Vector DWord 4) (s : State) : Host.Outcome State Fault Refusal :=
  .next (live s (
    match s.xport.servo.locate with
    | none => s
    | some (_, want) =>
      match wrapFound track.val wedges.toList with
      | none => transportFault 0x50 s
      | some found =>
        let far := ((found : Int) - want).natAbs
        if far = 0 then modXport (fun x => { x with servo := { x.servo with corrections := 0 } }) s
        else if far = 12 ∨ far = 24 then
          let s1 := s |> bump Obj.wrapCorrections |> postEvent 0x0606 unitTransport (want + 256 * found)
            |> modXport (fun x => { x with servo := { x.servo with corrections := x.servo.corrections + 1 } })
          if 3 ≤ s1.xport.servo.corrections then transportFault 0x50 s1 else s1
        else transportFault 0x50 s))

/-! ### The clock PLL (R291) -/

/-- Change the servo. -/
def modServo (f : Servo → Servo) (s : State) : State := modXport (fun x => { x with servo := f x.servo }) s

/-- HOLDOVER: the PLL holds its last frequency. -/
def execHoldover (s : State) : Host.Outcome State Fault Refusal :=
  .next (live s (
    if s.xport.servo.clockLocked && !s.xport.servo.holdover then
      modServo (fun v => { v with clockLocked := false, holdover := true, overrun := false }) s
    else s))

/-- HOLDOVER_OVERRUN: the dropout lasts longer than HOLDOVER_BITS. -/
def execHoldoverOverrun (s : State) : Host.Outcome State Fault Refusal :=
  .next (live s (
    if s.xport.servo.holdover && !s.xport.servo.overrun then
      s |> bump Obj.holdoverOverruns |> modServo (fun v => { v with overrun := true })
    else s))

/-- CLOCK_RELOCK: within the limit the dropout counts as a holdover. -/
def execClockRelock (s : State) : Host.Outcome State Fault Refusal :=
  .next (live s (
    if s.xport.servo.holdover then
      (if s.xport.servo.overrun then s else bump Obj.holdovers s)
        |> modServo (fun v => { v with clockLocked := true, holdover := false, overrun := false })
    else s))

/-! ### Zone entries (R287-R289) -/

/-- ZONE_EXIT: a read pass leaves zone `z` of wrap `w` with the AFEs adapted as given and the mean lateral error of track
following; its entry is replaced where a field differs (R283, R284, R289). -/
def execZoneExit (w : BitVec 7) (z : Fin 8) (adapted : Vector AfeRead 17) (lateral : Half) (s : State) :
    Host.Outcome State Fault Refusal :=
  .next (live s (
    if !s.cart.threaded ∨ 96 ≤ w.toNat then s
    else
      let s1 := adaptChannel adapted s
      let k := Obj.zone w.toNat z.val
      let old := obj s k
      let new := adaptedEntry s1 old lateral.toInt
      if new = old then s1
      else s1 |> setObj k new |> modCart (fun c => { c with
        zonesChanged := if c.zonesChanged.contains w.toNat then c.zonesChanged else c.zonesChanged ++ [w.toNat] })))

/-! ### Serving a cut (R224, R299-R303) -/

/-- A command needs a block of a cut for bytes that no ring item, page or cache holds (R18, R212). -/
def needsBlock (s : State) (c : Cut) (b : Block) (x : Slot) : Bool :=
  let cmd := x.cmd.body
  let d := x.cmd.head.dom
  let v := cmd.target.toNat
  needsCut c.serial x && c.dom == some d && b.target == v &&
    (match b.kind with
      | .log => x.cmd.opcode == opReadLog && b.pieces.any (fun p => cmd.argA.toNat ≤ p.seq && p.seq ≤ cmd.argB.toNat
          && (ringTake s d v p.seq).isNone)
      | .sector | .rawSector => x.cmd.opcode == opReadVol
          && b.pieces.any (fun p => (readSectors x.cmd).contains p.seq && !sectorBuffered s d v p.seq)
      | _ => false)

/-- Some command needs a block. -/
def blockNeeded (s : State) (c : Cut) (b : Block) : Bool := allDoms.any (fun d => (domOf s d).slots.any (needsBlock s c b))

/-- Places of the blocks of a cut that waiting commands need. -/
def neededBlocks (s : State) (c : Cut) : List Nat :=
  (((List.range c.blocks.length).zip c.blocks).filter (fun e => blockNeeded s c e.2)).map (·.1)

/-- Places of those that the decompressor takes: raw sectors go past it (R212, R242). -/
def siltBlocks (s : State) (c : Cut) : List Nat :=
  (neededBlocks s c).filter (fun n => (c.blocks[n]?).any (fun b => b.kind != .rawSector))

/-- Change the commands that need a block of a cut. -/
def modBlockReaders (c : Cut) (b : Block) (f : Slot → Slot) (s : State) : State :=
  modSlots (fun x => if needsBlock s c b x then f x else x) s

/-- The cut has been read for the commands that wait for it. -/
def serveCut (serial : Nat) (s : State) : State :=
  let s1 := modReaders serial (fun x => { x with readCuts := x.readCuts ++ [serial] }) s
  progressAll (modComp (fun c => { c with rereads := c.rereads.filter (fun e => e.1 != serial) }) s1)

/-- No block of a cut is in the decompressor, nor has to be read again: the commands are served. -/
def serveIfDone (serial : Nat) (s : State) : State :=
  if inDecompressor s serial || s.comp.rereads.any (fun e => e.1 == serial) then s else serveCut serial s

/-- Content that enters pages for tape, in bytes (R355). -/
def addInflow (n : Nat) (s : State) : State := { s with sched := { s.sched with inflow := s.sched.inflow + n } }

/-- A recovered cut is held for reallocation, or its serial is queued (R302, R355). -/
def holdCut (serial : Nat) (s : State) : State :=
  if s.cart.reallocs.any (fun r => r.serial == serial) then s
  else if s.cart.reallocs.length < 2 ∧ 0 < commonFree s then
    (if s.cart.reallocs = [] then openOp 6 serial s else s) |> modCart (fun c => { c with
      reallocs := c.reallocs ++ [⟨serial, none⟩], reallocQueue := c.reallocQueue.filter (· != serial) })
      |> addInflow (((findCut s serial).map payloadBytes).getD 0)
  else if s.cart.reallocQueue.contains serial then s
  else if s.cart.reallocQueue.length < 64 then modCart (fun c => { c with reallocQueue := c.reallocQueue ++ [serial] }) s
  else postEvent 0x0603 unitCartridge 0 s

/-- What follows a recovered cut by its kind (R301). -/
def reallocate (c : Cut) (s : State) : State :=
  match c.kind, c.chain with
  | .data, _ | .kiln, _ => holdCut c.serial s
  | .bedrock, .zone z => modZone z (fun x => { x with marked := true }) s
  | .bedrock, _ => s
  | .map, _ => modCart (fun x => { x with mapDue := true }) s
  | .calibration, _ => s

/-- The zones of a band whose wrap records were all reset are seeded from a calibration read (R306). -/
def seedBand (band entry : Nat) (s : State) : State :=
  let ws := (List.range 24).map (· + 24 * band)
  let s1 := ws.foldl (fun t w => (List.range 8).foldl (fun u z => setObj (Obj.zone w z) entry u) t) s
  modCart (fun c => { c with bandsReset := c.bandsReset.filter (· != band)
                             zonesChanged := c.zonesChanged ++ ws.filter (fun w => !c.zonesChanged.contains w) }) s1

/-- A dailies pass has dealt with a cut (R354). -/
def dailiesDone (serial : Nat) (s : State) : State :=
  match s.sched.dailies with
  | some (n :: rest) =>
    if n = serial then { s with sched := { s.sched with
      dailies := if rest = [] then none else some rest, dailiesStopped := s.sched.dailiesStopped && rest != [] } }
    else s
  | _ => s

/-- Step 9 of the self-test has read a cut (R178). -/
def selfTestRead (serial : Nat) (s : State) : State :=
  match s.test.run with
  | some r =>
    if r.step = 9 ∧ !r.suspended ∧ s.sched.workClass = 9 ∧ r.cuts.head? = some serial then
      { s with test := { s.test with run := some { r with cuts := r.cuts.tail } } }
    else s
  | none => s

/-- The PKA-880's own readers have a cut: a band's seed, an index rebuild, a merge fetch, the dailies with the reallocation queue,
and the self-test (R178, R302, R306, R345, R346, R354). -/
def ownRead (c : Cut) (seed : Nat) (wrong : List (Nat × Nat × Nat × Byte)) (s : State) : State :=
  let queued : Bool := s.cart.reallocQueue.contains c.serial && s.sched.workClass == 9
  let s1 := if c.kind = .calibration ∧ s.cart.bandsReset.contains (c.wrap / 24) then seedBand (c.wrap / 24) seed s else s
  s1 |> indexRead c.serial |> fetched c.serial wrong |> dailiesDone c.serial |> selfTestRead c.serial
    |> (fun t => if queued then holdCut c.serial t else t)

/-- After a read the excursion goes on, or ends (R352, R353). -/
def nextInExcursion (s : State) : State :=
  if s.sched.mode ≠ .excursion then s
  else if !s.power.ready then endExcursion s
  else
    match readChoice s with
    | some (cls, n) => startExcursion cls n s
    | none => endExcursion s

/-- Bytes of a block among the cut's payload bytes that were read wrong. -/
def blockWrong (c : Cut) (wrong : List (Nat × Byte)) (n : Nat) : List (Nat × Byte) :=
  match (placedBlocks c)[n]? with
  | some (at', b) => (wrong.filter (fun e => at' ≤ e.1 && decide (e.1 < at' + b.length))).map (fun e => (e.1 - at', e.2))
  | none => []

/-- Bytes of raw sectors among the cut's payload bytes that were read wrong: nothing finds them (R242, R262). -/
def rawWrong (c : Cut) (v : Nat) (wrong : List (Nat × Byte)) : List (Nat × Nat × Nat × Byte) :=
  if wrong = [] then []
  else ((List.range c.blocks.length).zip c.blocks).flatMap (fun e =>
    if e.2.kind = .rawSector ∧ e.2.target = v then
      (blockWrong c wrong e.1).map (fun w => (c.serial, ((e.2.pieces.head?).map (·.seq)).getD 0, w.1, w.2))
    else [])

/-- A cut has been read whole, with some payload bytes wrong that nothing found wrong: the Silt blocks that commands need go to the
decompressor, or the cut serves at once (R212, R224). -/
def readGood (serial seed : Nat) (wrong : List (Nat × Byte)) (s : State) : State :=
  match findCut s serial with
  | none => nextInExcursion s
  | some c =>
    let need := siltBlocks s c
    let s0 := modReaders serial (fun x => { x with misread := x.misread ++ rawWrong c x.cmd.body.target.toNat wrong }) s
    let s1 := if need = [] then serveCut serial s0
      else modComp (fun x => { x with captured := x.captured ++ need.map (fun n =>
        ⟨serial, n, x.rereads.contains (serial, n), blockWrong c wrong n⟩) }) s0
    nextInExcursion (ownRead c seed ((List.range 4).flatMap (fun v => rawWrong c v wrong)) s1)

/-! ### A read of a cut (R264-R266, R294, R299) -/

/-- Payload and metadata of whole blocks of a cut. -/
def needOf (c : Cut) (blocks : List Nat) : Needed :=
  let placed := blocks.filterMap (fun n => (placedBlocks c)[n]?)
  { payload := placed.map (fun e => (e.1, e.2.length)), metadata := (placed.map (fun e => e.1 / setBytes)).eraseDups }

/-- Places of the blocks of a cut that a merge fetch waits for (R345). -/
def fetchBlocks (s : State) (c : Cut) : List Nat :=
  let groups := (fetchList s).filter (fun f => f.2.2.2 == c.serial)
  (((List.range c.blocks.length).zip c.blocks).filter (fun e => groups.any (fun g => c.dom == some g.1 && e.2.target == g.2.1
    && (e.2.kind == .sector || e.2.kind == .rawSector) && e.2.pieces.any (fun p => p.seq / 16 == g.2.2.1)))).map (·.1)

/-- The bytes of a cut that its readers need: the blocks that commands and fetches wait for; all of it where the dailies, the
self-test or another reader of the PKA-880's own reads it (R299; DESIGN CHOICE, log entry 165). -/
def neededOf (s : State) (c : Cut) : Needed :=
  let blocks := neededBlocks s c ++ fetchBlocks s c
  if s.sched.workClass = 9 ∨ blocks = [] then ⟨[(0, cutPayload)], List.range 30⟩ else needOf c blocks

/-- Every needed byte of a cut, and a slate copy, are recovered (R252, R299). -/
def readComplete (s : State) (c : Cut) (y : Symbols) : Bool := allRecovered y (neededOf s c) && slateRecovered y

/-- An application of C2 and C3 is counted (R277). DEDUCED: log entry 189. -/
def countDecoding (y : Symbols) (s : State) : State :=
  let c2 := c2Counts y
  let c3 := c3Counts y
  s |> bumpBy Obj.c2CorrectedPositions c2.1 |> bumpBy Obj.c2FailedPositions c2.2
    |> bumpBy Obj.c3CorrectedPositions c3.1 |> bumpBy Obj.c3FailedPositions c3.2

/-- The frame sets that still hold a failed codeword after a normal read: of the first 16 the equalised samples are kept (R294). -/
def captureSets (y : Symbols) : List Nat := ((List.range 32).filter (fun fs => y.failed.any (fun e => e.1 == fs))).take 16

/-- A read that some command, the dailies or the self-test enters the ladder with (R308); a merge fetch or an index rebuild counts
as the dailies (DESIGN CHOICE, log entry 165). -/
def ladderSource (serial : Nat) (s : State) : ReadSource :=
  if s.comp.rereads.any (fun e => e.1 == serial) then .reread
  else if allDoms.any (fun d => (domOf s d).slots.any (needsCut serial)) then .host
  else if s.sched.workClass = 9 ∧ s.test.run.any (fun r => r.step == 9 && r.cuts.head? == some serial) then .selfTest
  else .dailies

/-! ### The ladder (R299-R303, R308) -/

/-- Enter the ladder at step 1 with what the normal read left; the tape stands for it (R294, R299). -/
def enterLadder (serial : Nat) (y : Symbols) (s : State) : State :=
  s |> bump Obj.ladderEntries
    |> modCart (fun c => { c with ladder := some ⟨serial, 1, 0, ladderSource serial s, y.failed.length, y, captureSets y⟩ })
    |> stopTape

/-- A cut that has passed the read elements weighs in its domain's account, or in the device's where the dailies or a device
cut cause it (R443). -/
def weighRead (serial : Nat) (s : State) : State :=
  match findCut s serial with
  | some c => addWeight (if s.sched.workClass = 9 then 8 else cutAccount c) (payloadBytes c) s
  | none => s

/-- The limit on global iterations of a read: READ_ITERATIONS (R293). -/
def readLimit (s : State) : Nat := obj s Obj.readIterations

/-- A normal read of a cut has been decoded. -/
def cutDecoded (c : Cut) (frames : List CopyRead) (seed : Nat) (s : State) : State :=
  let id := (tapeId s).getD 0
  let y := c1Decode id c (readLimit s) frames
  let s1 := s |> bumpBy Obj.c1FailedCodewords (c1Failures id c (readLimit s) frames) |> countDecoding y |> weighRead c.serial
  if readComplete s1 c y then readGood c.serial seed (payloadWrong y) s1 else enterLadder c.serial y s1

/-- CUT_READ_COMPLETE: a normal read of the excursion's cut ends; `frames` are the frames of its copies that were not read clean,
`seed` the zone entry a calibration read adapts to (R264-R266, R299, R306). -/
def execCutReadComplete (frames : List CopyRead) (seed : BitVec 24) (s : State) : Host.Outcome State Fault Refusal :=
  .next (working 2 s (
    match s.sched.reading with
    | none => s
    | some serial =>
      if s.sched.mode ≠ .excursion ∨ s.xport.state ≠ .moving ∨ s.xport.servo.locate.isSome ∨ s.cart.ladder.isSome then s
      else
        match findCut s serial with
        | none => pollPower (nextInExcursion s)
        | some c => pollPower (cutDecoded c frames seed.toNat s)))

/-- Source byte of page 0x85 (R308). -/
def sourceCode : ReadSource → Nat
  | .host => 1 | .dailies => 2 | .selfTest => 3 | .reread => 4

/-- Enter a ladder run in page 0x85 (R308). -/
def logLadder (l : Ladder) (c : Cut) (outcome : Nat) (s : State) : State :=
  modCart (fun x => { x with
    recoveryTotal := x.recoveryTotal + 1
    recoveryLog := ({ serial := c.serial, wrap := c.wrap, dom := (c.dom.map (·.val)).getD 0xFF, outcome := outcome
                      rereads := l.reread, failedCodewords := l.failedCodewords, c3Failed := (c3Counts l.symbols).2, newSerial := 0
                      source := sourceCode l.source, time := nowUs s } :: x.recoveryLog).take 64 }) s

/-- Lateral offset of a re-read in 1/256 pitch (R299). -/
def rereadOffset (n : Nat) : Int :=
  match n with
  | 1 => 26 | 2 => -26 | 3 => 51 | 4 => -51 | _ => 0

/-- What a re-read adds to the zone entry: gain in 0.125 dB, asymmetry in 1 % (R299). -/
def rereadSeed (n : Nat) : Int × Int :=
  match n with
  | 5 => (12, 4) | 6 => (-12, -4) | _ => (0, 0)

/-- A re-read of the cut starts: its offsets are added to the zone entry, and the sixth runs at step 0 (R284, R299). -/
def startReread (n : Nat) (s : State) : State :=
  s |> modCart (fun c => { c with ladder := c.ladder.map (fun l => { l with step := 2, reread := n }) })
    |> modServo (fun v => { v with offset := rereadOffset n })
    |> seedChannel (rereadSeed n).1 (rereadSeed n).2
    |> (fun t => if t.xport.state = .stopped then enterXport .moving t else t)
    |> runWrap (if n = 6 then 0 else readStep s)

/-- The last step of the ladder, which reads no tape. -/
def startLastStep (s : State) : State :=
  s |> modCart (fun c => { c with ladder := c.ladder.map (fun l => { l with step := 3 }) })
    |> modServo (fun v => { v with offset := 0 }) |> stopTape

/-- The ladder is over. -/
def leaveLadder (s : State) : State :=
  s |> modCart (fun c => { c with ladder := none }) |> modServo (fun v => { v with offset := 0 })

/-- The ladder recovers every needed byte (R301). -/
def ladderRecovered (l : Ladder) (s : State) : State :=
  match findCut s l.serial with
  | none => nextInExcursion (leaveLadder s)
  | some c =>
    s |> leaveLadder |> bump Obj.ladderRecovered |> postEvent 0x0601 unitCartridge l.serial |> logLadder l c l.step
      |> modCut l.serial (fun x => { x with bad := false }) |> modReaders l.serial (fun x => { x with recovered := true })
      |> reallocate c |> readGood l.serial zoneReset (payloadWrong l.symbols)

/-- An unrecoverable cut fails step 9 of the self-test that read it (R178, R303). -/
def failSelfTestRead (l : Ladder) (s : State) : State := if l.source = .selfTest then failTestStep s else s

/-- The ladder leaves a needed byte unrecovered (R303). -/
def ladderFailed (l : Ladder) (s : State) : State :=
  match findCut s l.serial with
  | none => nextInExcursion (leaveLadder s)
  | some c =>
    let s1 := s |> leaveLadder |> bump Obj.ladderFailed |> postEvent 0x0602 unitCartridge l.serial |> logLadder l c 0x10
      |> modReaders l.serial (fun x => { x with failedCuts := x.failedCuts ++ [l.serial] })
      |> modCut l.serial (fun x => { x with bad := true })
      |> modComp (fun x => { x with rereads := x.rereads.filter (fun e => e.1 != l.serial) })
      |> modCart (fun x => { x with
          bandsReset := if c.kind = .calibration then x.bandsReset.filter (· != c.wrap / 24) else x.bandsReset })
      |> indexRead l.serial |> dailiesDone l.serial |> failSelfTestRead l
    nextInExcursion (progressAll s1)

/-- The failed codewords that a step decodes again: those of the captured frame sets, all of them in a re-read, and the first 512 in
frame-set order in the last step (R299). -/
def stepScope (l : Ladder) : List (Nat × Nat × Nat) :=
  match l.step with
  | 1 => l.symbols.failed.filter (fun e => l.captured.contains e.1)
  | 2 => l.symbols.failed
  | _ => (sortBy (·.1) l.symbols.failed).take 512

/-- Limit on the global iterations of a step: a re-read is a read like any other (R299; DEDUCED, log entry 166). -/
def stepLimit (l : Ladder) (s : State) : Nat := if l.step = 2 then readLimit s else obj s Obj.extendedIterations

/-- Everything decoded so far in every pass: a codeword of the scope that decodes now stays decoded (R299). -/
def mergePass (scope : List (Nat × Nat × Nat)) (old new : Symbols) : Symbols :=
  let done := scope.filter (fun w => !new.failed.contains w)
  { failed := old.failed.filter (fun w => !done.contains w)
    wrong := old.wrong ++ new.wrong.filter (fun e => done.contains (e.1, e.2.1, e.2.2.1 % 8)) }

/-- The ladder after a step has decoded what it decodes (R299). -/
def stepDecoded (l : Ladder) (c : Cut) (frames : List CopyRead) (s : State) : Ladder :=
  { l with symbols := mergePass (stepScope l) l.symbols (c1Decode ((tapeId s).getD 0) c (stepLimit l s) frames) }

/-- The ladder goes on behind a step that left a needed byte unrecovered (R299). -/
def climb (l : Ladder) (s : State) : State :=
  if l.step = 3 then ladderFailed l s
  else if l.reread < obj s Obj.rereadLimit then startReread (l.reread + 1) s
  else startLastStep s

/-- A step of the ladder has decoded what it could, and C2 and C3 have been applied to everything decoded so far (R277, R299). -/
def stepDone (l0 : Ladder) (c : Cut) (frames : List CopyRead) (s : State) : State :=
  let l := stepDecoded l0 c frames s
  let s1 := s |> modCart (fun x => { x with ladder := some l })
    |> bumpBy Obj.c1FailedCodewords ((stepScope l0).filter (fun w => l.symbols.failed.contains w)).length
    |> countDecoding l.symbols
  if readComplete s1 c l.symbols then ladderRecovered l s1 else climb l s1

/-- LADDER_STEP_COMPLETE: a step ends; `frames` are the frames that it did not bring up clean (R299). -/
def execLadderStepComplete (frames : List CopyRead) (s : State) : Host.Outcome State Fault Refusal :=
  .next (working 2 s (
    match s.cart.ladder with
    | none => s
    | some l =>
      match findCut s l.serial with
      | none => pollPower (nextInExcursion (leaveLadder s))
      | some c => pollPower (stepDone l c frames s)))

/-! ### The decompressor (R223, R224) -/

/-- A block need not be read again any more. -/
def rereadDone (c : Captured) (s : State) : State :=
  modComp (fun x => { x with rereads := x.rereads.filter (· != (c.serial, c.blockNo)) }) s

/-- A block passes: after a second read the cut is reallocated and the completions that the block goes into carry RECOVERED; with
the last block of its cut the commands are served (R224). UNVERIFIED: log entry 187. -/
def blockPassed (c : Captured) (cut : Cut) (b : Block) (s : State) : State :=
  let s1 := if c.second then
      s |> reallocate cut |> modBlockReaders cut b (fun x => { x with recovered := true }) |> rereadDone c
    else s
  serveIfDone c.serial s1

/-- A block fails: where the ring holds its content again, the pager copies it and no host sees anything; else its cut is read again
once, and a second failure ends the commands that need the block with DATA_CHECK (R224). -/
def blockFailed (c : Captured) (cut : Cut) (b : Block) (s : State) : State :=
  if !blockNeeded s cut b then serveIfDone c.serial (rereadDone c s)
  else if c.second then
    s |> modBlockReaders cut b (fun x => { x with badBlocks := x.badBlocks ++ [(c.serial, c.blockNo)] }) |> rereadDone c
      |> serveIfDone c.serial
  else modComp (fun x => { x with rereads := x.rereads ++ [(c.serial, c.blockNo)] }) s

/-- BLOCK_DECOMPRESSED: the decompressor finishes the oldest captured block; `wrong` are bytes of it that reach it wrong,
`hits` the wrong LPDDR4X lines it meets (R188, R223, R224). -/
def execBlockDecompressed (wrong : List (Nat × Byte)) (hits : List EccHit) (s : State) : Host.Outcome State Fault Refusal :=
  .next (working 8 s (
    match s.comp.captured with
    | [] => s
    | c :: rest =>
      let s1 := meetLines hits (modComp (fun x => { x with captured := rest }) s)
      match (findCut s c.serial).bind (fun cut => (cut.blocks[c.blockNo]?).map (fun b => (cut, b))) with
      | none => s1
      | some (cut, b) =>
        let s2 := if dataLost hits then modBlockReaders cut b (fun x => { x with cmd := { x.cmd with badLine := true } }) s1 else s1
        match siltDecode (if b.kind = .sector then 4096 else 65536) (spoil (c.wrong ++ wrong) (blockBytes b)) with
        | .inr _ => blockPassed c cut b s2
        | .inl r => s2 |> bump Obj.decompressFailures |> setObj Obj.lastFailure r |> blockFailed c cut b))

/-! ### Head calibration (R305) -/

/-- A measured trim as ELEMENT_TRIM holds it: BASE_GAIN at most 240, no coupling from beyond the outer elements (R286). -/
def trimOf (n : Nat) (v : Word) : Nat :=
  2 ^ 24 * min 240 (fieldOf v.toNat 24 8) + (if n = 0 then 0 else 2 ^ 16 * fieldOf v.toNat 16 8)
    + (if n = 16 then 0 else 2 ^ 8 * fieldOf v.toNat 8 8)

/-- HEAD_CALIBRATION_COMPLETE: `decoded` says that a calibration cut decoded at offset 0; `trims` are the 17 head trims
adapted from it (R285, R286, R305). -/
def execHeadCalibrationComplete (decoded : Bool) (trims : Vector Word 17) (s : State) : Host.Outcome State Fault Refusal :=
  .next (live s (
    if !s.cart.calibration ∨ !s.cart.threaded then s
    else
      let s1 := modCart (fun c => { c with calibration := false }) s
      let s2 := if decoded then
          let t := (List.finRange 17).foldl (fun u i => setObj (Obj.elementTrim i.val) (trimOf i.val (vget trims i)) u) s1
          { t with jour := { t.jour with trimsValid := true, headChanged := false } }
        else postEvent 0x0605 unitCartridge 0 { s1 with jour := { s1.jour with headChanged := false } }
      pollPower (if s2.sched.mode = .excursion then nextInExcursion s2 else s2)))

/-! ### Dailies and the Bedrock delay (R347, R354) -/

/-- The cuts of a pass: the reallocation queue first, then live data-area cuts, current zones and the Kiln band, in position
order (R354). -/
def dailiesCuts (s : State) : List Nat :=
  let zone (z : Fin 2) (c : Cut) : Bool :=
    let x := vget s.cart.zones z
    x.complete && !x.marked && c.generation == x.first
  let mine (c : Cut) : Bool := !c.retired && (match c.chain with
    | .data => c.kind != .calibration && cutLive s c
    | .kiln => true
    | .zone z => zone z c)
  let order := sortBy placeOf ((tapeCuts s).filter mine)
  s.cart.reallocQueue ++ (order.map (·.serial)).filter (fun n => !s.cart.reallocQueue.contains n)

/-- DAILIES_DUE: DAILIES_INTERVAL_H after the last pass a pass is due (R354). -/
def execDailiesDue (s : State) : Host.Outcome State Fault Refusal :=
  .next (live s (
    if objBool s Obj.dailiesEnable && s.cart.threaded && s.sched.dailies.isNone then
      let cuts := dailiesCuts s
      if cuts = [] then s
      else pollPower { s with sched := { s.sched with
        dailies := some cuts, dailiesTotal := cuts.length, dailiesStopped := false } }
    else s))

/-- DAILIES_RESUME: no other class has had work for 500 ms (R354). -/
def execDailiesResume (s : State) : Host.Outcome State Fault Refusal :=
  .next (live s (
    if s.sched.dailiesStopped && !otherWork s then { s with sched := { s.sched with dailiesStopped := false } } else s))

/-- A domain's volume 0 has groups taped after the first cut of the latest complete generation (R347). -/
def bootNewer (s : State) : Bool :=
  let first := ((newestZone s).map (fun z => (vget s.cart.zones z).first)).getD 0
  s.cart.index.entries.any (fun e => e.volume == 0 && decide (first < e.newest))

/-- BEDROCK_DELAY_EXPIRY: no volume 0 WRITE_VOL has committed for BEDROCK_DELAY_S (R347). -/
def execBedrockDelayExpiry (s : State) : Host.Outcome State Fault Refusal :=
  .next (live s (
    if s.cart.threaded && indexValid s && bootNewer s then
      pollPower { s with sched := { s.sched with bedrockDue := true } }
    else s))

end Sys2Proof.Machine
end

