-- ==== Sys2Proof/Machine/Recovery.lean ====
section
/-!
DEFINITION. Recovery of blocks and of the control processor (R477-R484).
-/
namespace Sys2Proof.Machine

/-- Periods of 25 µs in 60 s. -/
def minutePeriods : Nat := 2400000

/-- A block that is recovered alone (R478). -/
def recoverable (b : Nat) : Bool := 1 ≤ b && b ≤ 0x0E

/-- A unit whose watchdog escalates at once: queue engine, commit ring, arbiter with the LPDDR4X controller, MRAM interface
(R478, R482). -/
def escalatesAtOnce (b : Nat) : Bool := 0x10 ≤ b && b ≤ 0x13

/-- Set the sideband mask of a block: its request is ignored, and a grant it owns ends (R204, R479). -/
def maskBlock (b : Nat) (s : State) : State :=
  match rankOfBlock b with
  | none => s
  | some r =>
    s |> modDram (fun m => { m with masked := if m.masked.contains r then m.masked else m.masked ++ [r] }) |> endMasked

/-- Release the mask of a rank that no other faulty block shares. -/
def unmaskBlock (b : Nat) (s : State) : State :=
  match rankOfBlock b with
  | none => s
  | some r =>
    if s.recov.busy.any (fun x => rankOfBlock x.1 == some r) then s
    else
      let s1 := modDram (fun m => { m with masked := m.masked.filter (· != r) }) s
      if s1.dram.current.isNone ∧ (asking (maskedRanks s1) s1.dram).isSome then reArbitrate s1 else s1

/-- Reads whose DATA leave by a port send them again from the first byte (R478, R480). -/
def resendReads (p : PortId) (s : State) : State :=
  allDoms.foldl (fun t d => modDom d (fun x => { x with slots := x.slots.map (fun y =>
    if y.cmd.head.port = p then restartSending y else y) }) t) s

/-- What the expiry does to the block's work at once (R478). DEDUCED: log entry 176. -/
def faultEffect (b : Nat) (s : State) : State :=
  match b with
  | 0x02 => if s.cart.ladder.isNone then s else
    s |> modCart (fun c => { c with ladder := c.ladder.map (fun l => { l with step := 1, reread := 0, captured := [] }) })
      |> modServo (fun v => { v with offset := 0 }) |> stopTape
  | 0x04 => s |> modPort .a stompBegun |> resendReads .a
  | 0x05 => s |> modPort .b stompBegun |> resendReads .b
  | 0x06 | 0x07 =>
    let n : Fin 2 := if b = 6 then 0 else 1
    let mine : CompBlock → Bool := fun x => x.stage == .engine n
    let s1 := match s.comp.blocks.find? mine with
      | some x => blockDone mine (storedForm x.block) s
      | none => s
    countCheckFailure n s1
  | 0x0C => { s with test := { s.test with run := s.test.run.map (fun r => { r with progress := 0 }) } }
  | 0x0D => stopTape { s with sched := { s.sched with burst := false, mode := .idle, workClass := 0, reading := none } }
  | 0x0E => s |> shortBridges |> transportFault 0x70
  | _ => s

/-- What the release of the block does to its work (R478). -/
def releaseEffect (b written : Nat) (tablesBad : Bool) (s : State) : State :=
  let writing : Bool := s.cart.openCut.any (fun o => o.phase == .writing)
  match b with
  | 0x02 => (match s.sched.reading with
    | some n => if s.sched.mode = .excursion ∧ s.cart.ladder.isNone then startExcursion s.sched.workClass n s else s
    | none => s)
  | 0x01 | 0x0D => if writing then abandonCut 0 0 written s else s
  | 0x0A => if tablesBad then startRebuild s else s
  | 0x0E => if s.xport.state = .off then modXport (fun x => { x with forceShort := false }) s else s
  | _ => s

/-- Times a block has needed recovery in the last 60 s. -/
def recentFaults (s : State) (b : Nat) : Nat :=
  (s.recov.history.filter (fun x => x.1 == b && s.periods < x.2 + minutePeriods)).length

/-- Every page whose holder is the block reverts to its account: `pages` are their numbers in the order they were obtained; a
marked one is retired (R189, R192, R193, R477, R479). DEDUCED: log entry 177. -/
def revertPages (b : Nat) (pages : List Half) (s : State) : State :=
  let mine := (s.dram.taken.filter (fun e => e.1 == b)).map (·.2)
  ((List.range mine.length).zip mine).foldl (fun t e => releasePage e.2 b ((pages[e.1]?).getD 0xFFFF).toNat t) s

/-- A block becomes faulty (R478, R479, R482). -/
def blockFaulty (b : Nat) (pages : List Half) (s : State) : State :=
  let s1 := { s with recov := { s.recov with
    history := s.recov.history.filter (fun x => s.periods < x.2 + minutePeriods) ++ [(b, s.periods)] } }
  if obj s Obj.recoveryLimit < recentFaults s1 b then escalate b s1
  else
    { s1 with recov := { s1.recov with busy := s1.recov.busy ++ [(b, s.periods)] } }
      |> maskBlock b |> revertPages b pages |> faultEffect b

/-- WATCHDOG_EXPIRY of a block or unit: while a power-fail sequence runs, only the loop engine's is acted on (R478, R481,
R482). -/
def execWatchdogExpiry (block : Byte) (pages : List Half) (s : State) : Host.Outcome State Fault Refusal :=
  .next (live s (
    let b := block.toNat
    if blockBusy s b ∨ (s.power.failing ∧ b ≠ 0x0E) then s
    else if recoverable b then blockFaulty b pages s
    else if escalatesAtOnce b then escalate b s
    else s))

/-- The faulty block whose recovery comes first: the lowest number (R481). -/
def nextRecovery (s : State) : Option Nat := (s.recov.busy.map (·.1)).min?

/-- BLOCK_RECOVERY_COMPLETE: the recovery in progress ends `us` after its expiry; beyond 10 ms it has failed. An open cut
that is abandoned has `written` frame sets on tape; `tablesBad` is the allocator's table check (R478, R479, R481, R482). -/
def execBlockRecoveryComplete (us : Half) (written : BitVec 6) (tablesBad : Bool) (s : State) :
    Host.Outcome State Fault Refusal :=
  .next (live s (
    match nextRecovery s with
    | none => s
    | some b =>
      let s1 := { s with recov := { s.recov with busy := s.recov.busy.filter (fun x => x.1 != b) } }
      if 10000 < us.toNat then escalate b s1
      else
        s1 |> unmaskBlock b |> releaseEffect b written.toNat tablesBad |> bump Obj.recoveries |> lastRecovery b 1 us.toNat
          |> (fun t => if b = 0x0E then t else postEvent 0x0B02 unitDevice b t) |> progressAll))

/-- CP_WATCHDOG: the CP restarts; a second restart within 60 s escalates (R482, R484). -/
def execCpWatchdog (s : State) : Host.Outcome State Fault Refusal :=
  .next (live s (
    let again : Bool := s.recov.cpRestart.any (fun t => s.periods < t + minutePeriods)
    { s with recov := { s.recov with cpRestart := some s.periods } } |> bump Obj.cpRestarts |> postEvent 0x0B04 unitDevice 0
      |> (fun t => if again then escalate 0x20 t else t)))

end Sys2Proof.Machine
end

