-- ==== Sys2Proof/Machine/Slave.lean ====
section
/-!
DEFINITION. What the slave controller serves: process memory and FMMUs, distributed clock time, SII data, and the CoE mailbox
with SDO uploads and SDO information (R45, R58, R65, R66, R73, R74, R469, R541).
-/
namespace Sys2Proof.Machine

/-! ### Process memory (R65, R66) -/

/-- The numbers of a process image put one behind the other, bit 0 first (R6). -/
def packImage : List (Nat × Nat) → Nat
  | [] => 0
  | (width, v) :: rest => v % 2 ^ width + 2 ^ width * packImage rest

/-- The input process image: the objects of the assigned TxPDOs (R66, R67). -/
def inputImage (s : State) : List Byte :=
  leBytes (processBytes s 0x1C13)
    (packImage (((assignedPdos s 0x1C13).flatMap (mapEntries s)).map (fun e => (imageBits e, viewObj s e.1 e.2))))

/-- The output buffer last received, as the controller holds it (R66). -/
def outputImage (s : State) : List Byte := s.ecat.outputs.getD []

/-- The byte of process data at a place of process RAM: outputs from 0x1400 and inputs from 0x2000 on (R66); none elsewhere.
Inputs are exchanged in SAFEOP and OP (R75). -/
def processByte (s : State) (a : Nat) : Option Byte :=
  if 0x2000 ≤ a then
    (if s.ecat.al = .safeop ∨ s.ecat.al = .op then (inputImage s)[a - 0x2000]? else none)
  else if 0x1400 ≤ a then (outputImage s)[a - 0x1400]?
  else none

/-- The place of process RAM that an FMMU gives a logical byte address to read; none where it does not map it (R65). -/
def Fmmu.place (f : Fmmu) (a : Nat) : Option Nat :=
  if f.enabled ∧ f.read ∧ f.logical.toNat ≤ a ∧ a < f.logical.toNat + f.length.toNat then
    some (f.physical.toNat + (a - f.logical.toNat))
  else none

/-- The process data byte a logical read of the master gets here: that of the first FMMU that maps the address (R65). -/
def logicalRead (s : State) (a : Nat) : Option Byte :=
  (s.ecat.settings.fmmu.toList.findSome? (fun f => Fmmu.place f a)).bind (processByte s)

/-! ### The distributed clock (R73) -/

/-- The distributed-clock local time: ticks of 10 ns of the MOT clock, 64 bits (R65, R73). DESIGN CHOICE: log entry 147. -/
def dcTime (s : State) : Nat := (Config.dcStart + 100 * nowUs s + Config.dcSubTicks s.free % 100) % 2 ^ 64

/-! ### SII data (R74) -/

/-- The built-in SII data: identity as in 0x1018, the mailboxes of R66, CoE and FoE, no PDO. Where each stands is the word
layout of the EtherCAT SII (PRESUMED, log entry 148). -/
def builtInSii (s : State) : List Byte :=
  let words (l : List Nat) : List Byte := l.flatMap (leBytes 2)
  words [0, 0, 0, 0, 0, 0, 0, 0]
    ++ leBytes 4 (obj s Obj.vendorId) ++ leBytes 4 (obj s Obj.productCode) ++ leBytes 4 (obj s Obj.revisionNumber)
    ++ leBytes 4 (obj s Obj.serialNumber) ++ words [0, 0, 0, 0]
    ++ words [0x1000, 512, 0x1200, 512, 0x1000, 512, 0x1200, 512, 0x000C]
    ++ List.replicate 70 0 ++ words [0xFFFF]

/-- The SII data the controller serves: the SII section of the active image, else the built-in data (R74). -/
def siiData (s : State) : List Byte := ((s.boot.image.map (·.2)).bind (·.sii)).getD (builtInSii s)

/-- The word of SII data at a word address; none beyond the data. -/
def siiWord (s : State) (w : Nat) : Option Nat :=
  if 2 * w + 2 ≤ (siiData s).length then some (numAt (siiData s) (2 * w) 2) else none

/-- SII_WRITE: a write of a word to the SII area is answered with the EEPROM error and changes nothing (R74). -/
def execSiiWrite (_word _value : Half) (s : State) : Host.Outcome State Fault Refusal := .next (live s (reply .eepromError s))

/-! ### SDO upload (R58, R65, R541) -/

/-- Checks of an SDO upload: presence, complete access, access right and the subindex named (R47, R540, R541). -/
def uploadChecks (complete : Bool) (i sub : Nat) : List (Bool × Reason) :=
  let wo (n : Nat) : Bool := (findObj i n).any (fun r => r.access == .wo)
  [ (!indexPresent i, .indexAbsent),
    (!complete && (findObj i sub).isNone, .subAbsent),
    (complete && !completeSupported i, .noComplete),
    (if complete then (subsFrom i sub).any wo else wo sub, .readWo),
    (complete && 1 < sub, .invalidField) ]

/-- Bytes of an upload's first answer and of each segment: what a mailbox of 512 bytes holds beside the headers (R66;
PRESUMED, log entry 146). -/
def uploadFirst : Nat := 496
def uploadNext : Nat := 503

/-- An SDO upload: the bytes of the object, or a refusal with its abort code and its detail word (R58, R59, R541). -/
def upload (complete : Bool) (i sub : Nat) (s : State) : State :=
  match firstReason (uploadChecks complete i sub) with
  | some r => refuse .sdo i sub r (closeSdo s)
  | none =>
    let b := if complete then completeBytes s i sub else objBytes s i sub
    let left := b.drop uploadFirst
    putSdo (if left = [] then none else some ⟨false, complete, i, sub, b.length, false, left⟩)
      (.sdoUpload b.length (b.take uploadFirst) (left == [])) s

/-- The next segment of an upload (R65, R469). -/
def uploadSegment (toggle : Bool) (s : State) : State :=
  match s.ecat.sdo with
  | none => dropSdo 0x05040001 s
  | some x =>
    if x.write then dropSdo 0x05040001 s
    else if toggle != x.toggle then dropSdo 0x05030000 s
    else
      let left := x.bytes.drop uploadNext
      putSdo (if left = [] then none else some { x with toggle := !toggle, bytes := left })
        (.sdoUpload x.total (x.bytes.take uploadNext) (left == [])) s

/-! ### SDO information (R45, R65) -/

/-- The indices of the dictionary, rising (R531). -/
def allIndices : List Nat := (List.range 0x8000).filter indexPresent

/-- The indices of an object list: 1 all, 2 those an RxPDO may map, 3 those a TxPDO may map, 4 and 5 those with stored
parameters, of which there are none (R50, R537; the numbers are PRESUMED, log entry 149). -/
def listIndices (list : Nat) : List Nat :=
  match list with
  | 1 => allIndices
  | 2 => allIndices.filter (fun i => (subsFrom i 0).any (fun n => (List.range 8).any (fun k => rxMappable k i n)))
  | 3 => allIndices.filter (fun i => (subsFrom i 0).any (txMappable i))
  | _ => []

/-- The object list: the type and the indices; list 0 gives the lengths of the five lists (PRESUMED, log entry 149). -/
def objectList (list : Nat) : List Byte :=
  leBytes 2 list ++ (if list = 0 then ([1, 2, 3, 4, 5] : List Nat).flatMap (fun n => leBytes 2 (listIndices n).length)
    else (listIndices list).flatMap (leBytes 2))

/-- The object code: 7 a variable, 8 an array of one type, 9 a record (PRESUMED, log entry 149). -/
def objectCode (i : Nat) : Nat :=
  let types := (subsFrom i 1).map (fun n => (findObj i n).map (·.type))
  if highestSub i = 0 then 7 else if types.all (fun t => t == types.headD none) then 8 else 9

/-- The type code of an object: a variable's or an array's elements', 0 for a record (R45). -/
def objectType (i : Nat) : Nat :=
  let of (n : Nat) : Nat := ((findObj i n).map (fun r => r.type.code)).getD 0
  match objectCode i with
  | 7 => of 0
  | 8 => of ((subsFrom i 1).headD 1)
  | _ => 0

/-- The description of an object (R65; layout PRESUMED, log entry 149). -/
def describeObject (i : Nat) : List Byte :=
  leBytes 2 i ++ leBytes 2 (objectType i) ++ leBytes 1 (highestSub i) ++ leBytes 1 (objectCode i)
    ++ objName i ((subsFrom i (if highestSub i = 0 then 0 else 1)).headD 0)

/-- The access word of an entry: read bits 2:0 and write bits 5:3 for PREOP, SAFEOP and OP, bit 6 RxPDO, bit 7 TxPDO (R47,
R537; layout PRESUMED, log entry 149). -/
def accessWord (i sub : Nat) : Nat :=
  match findObj i sub with
  | none => 0
  | some r =>
    let read := if r.access = .wo then 0 else 7
    let write := if r.access = .ro then 0 else if isPdoSetup i then 8 else 0x38
    read + write + 64 * b2n ((List.range 8).any (fun k => rxMappable k i sub)) + 128 * b2n (txMappable i sub)

/-- Bits of an entry. -/
def entryBits (s : State) (i sub : Nat) : Nat := if isText i sub then 8 * (textValue s i sub).length else typeWidth i sub

/-- The description of an entry: its type code, length, access and name (R45, R65; layout PRESUMED, log entry 149). -/
def describeEntry (s : State) (i sub : Nat) : List Byte :=
  leBytes 2 i ++ leBytes 1 sub ++ leBytes 1 0 ++ leBytes 2 (((findObj i sub).map (fun r => r.type.code)).getD 0)
    ++ leBytes 2 (entryBits s i sub) ++ leBytes 2 (accessWord i sub) ++ objName i sub

/-! ### The mailbox (R65, R75) -/

/-- A CoE request served from PREOP on. SDO information of an absent object is refused as its read would be (R58, R65). -/
def serveCoe (r : CoeRequest) (s : State) : State :=
  match r with
  | .upload complete i sub => upload complete i.toNat sub.toNat s
  | .uploadSegment toggle => uploadSegment toggle s
  | .objectList list => reply (.sdoInfo (objectList list.toNat)) s
  | .objectDescription i =>
    match firstReason [(!indexPresent i.toNat, .indexAbsent)] with
    | some r => refuse .sdo i.toNat 0 r s
    | none => reply (.sdoInfo (describeObject i.toNat)) s
  | .entryDescription i sub =>
    match firstReason [(!indexPresent i.toNat, .indexAbsent), ((findObj i.toNat sub.toNat).isNone, .subAbsent)] with
    | some r => refuse .sdo i.toNat sub.toNat r s
    | none => reply (.sdoInfo (describeEntry s i.toNat sub.toNat)) s
  | .abort => putSdo none .nothing s
  | .badSpecifier => dropSdo 0x05040001 s

/-- A mailbox request without a row of its own: nothing is served in INIT, CoE only outside BOOT, and EoE, SoE, AoE and VoE
never (R65, R75). -/
def mailboxRequest (m : MailboxRequest) (s : State) : State :=
  match m with
  | .coe r => if coeServed s then serveCoe r s else if s.ecat.al = .init then s else reply .mailboxError s
  | .eoe | .soe | .aoe | .voe => if s.ecat.al = .init then s else reply .mailboxError s

/-- UNSUPPORTED_PROTOCOL: the mailbox error for EoE, SoE, AoE or VoE, and for CoE in BOOT; the row carries every mailbox
request that has none of its own, and CoE is served outside BOOT (R65, R75). -/
def execUnsupportedProtocol (m : MailboxRequest) (s : State) : Host.Outcome State Fault Refusal :=
  .next (live s (mailboxRequest m s))

end Sys2Proof.Machine
end

