-- ==== Sys2Proof/Machine/Dispatch.lean ====
section
/-!
DEFINITION. The dispatch: one arm for each command, each one direct call of its meaning.
-/
namespace Sys2Proof.Machine

/-- The effect of a command on everything but the queue. -/
def exec (i : Instr) (s : State) : Host.Outcome State Fault Refusal :=
  match i with
  | .poresetNLow => Sys2Proof.Machine.execPoresetNLow s
  | .startReference env => Sys2Proof.Machine.execStartReference env s
  | .fuseLoadRetry env => Sys2Proof.Machine.execFuseLoadRetry env s
  | .release us crystal => Sys2Proof.Machine.execRelease us crystal s
  | .rootUnlock stopped => Sys2Proof.Machine.execRootUnlock stopped s
  | .supplyFault => Sys2Proof.Machine.execSupplyFault s
  | .thermalTrip => Sys2Proof.Machine.execThermalTrip s
  | .thermalRestart env => Sys2Proof.Machine.execThermalRestart env s
  | .resetRequest w value => Sys2Proof.Machine.execResetRequest w value s
  | .warmReset env => Sys2Proof.Machine.execWarmReset env s
  | .powerFailureDetected sources => Sys2Proof.Machine.execPowerFailureDetected sources s
  | .holdupExhausted vholdMv => Sys2Proof.Machine.execHoldupExhausted vholdMv s
  | .sequenceEnd energyMj => Sys2Proof.Machine.execSequenceEnd energyMj s
  | .powerFailRestart env => Sys2Proof.Machine.execPowerFailRestart env s
  | .holdupReady => Sys2Proof.Machine.execHoldupReady s
  | .holdupLow => Sys2Proof.Machine.execHoldupLow s
  | .holdupControl w value => Sys2Proof.Machine.execHoldupControl w value s
  | .signalDetected p l => Sys2Proof.Machine.execSignalDetected p l s
  | .los p l => Sys2Proof.Machine.execLos p l s
  | .lol p l => Sys2Proof.Machine.execLol p l s
  | .lockComplete p l => Sys2Proof.Machine.execLockComplete p l s
  | .alignComplete p l word hits => Sys2Proof.Machine.execAlignComplete p l word hits s
  | .phaseTimerExpiry p l => Sys2Proof.Machine.execPhaseTimerExpiry p l s
  | .laneFrameReceived p l line => Sys2Proof.Machine.execLaneFrameReceived p l line s
  | .deskewComplete p skews => Sys2Proof.Machine.execDeskewComplete p skews s
  | .listenBurst p l => Sys2Proof.Machine.execListenBurst p l s
  | .loneRetrain p l => Sys2Proof.Machine.execLoneRetrain p l s
  | .tapRequestTimeout p l => Sys2Proof.Machine.execTapRequestTimeout p l s
  | .narrowingTimeout p => Sys2Proof.Machine.execNarrowingTimeout p s
  | .clapperBurst p => Sys2Proof.Machine.execClapperBurst p s
  | .endOfTransmission p => Sys2Proof.Machine.execEndOfTransmission p s
  | .idleEntryTimeout p => Sys2Proof.Machine.execIdleEntryTimeout p s
  | .portQuiescent p => Sys2Proof.Machine.execPortQuiescent p s
  | .enable p w gen => Sys2Proof.Machine.execEnable p w gen s
  | .disable p w gen => Sys2Proof.Machine.execDisable p w gen s
  | .retrain p w gen => Sys2Proof.Machine.execRetrain p w gen s
  | .enterIdle p w gen => Sys2Proof.Machine.execEnterIdle p w gen s
  | .loopbackNes p w gen => Sys2Proof.Machine.execLoopbackNes p w gen s
  | .loopbackNep p w gen => Sys2Proof.Machine.execLoopbackNep p w gen s
  | .loopbackFe p w gen => Sys2Proof.Machine.execLoopbackFe p w gen s
  | .endLoopback p w gen => Sys2Proof.Machine.execEndLoopback p w gen s
  | .linkFrameReceived p => Sys2Proof.Machine.execLinkFrameReceived p s
  | .enumerationFrame d dest addr value reqId => Sys2Proof.Machine.execEnumerationFrame d dest addr value reqId s
  | .ack p seq => Sys2Proof.Machine.execAck p seq s
  | .nak p seq reason => Sys2Proof.Machine.execNak p seq reason s
  | .credit p cmd admin data resp => Sys2Proof.Machine.execCredit p cmd admin data resp s
  | .replayTimeout p => Sys2Proof.Machine.execReplayTimeout p s
  | .creditRefresh p => Sys2Proof.Machine.execCreditRefresh p s
  | .objectWrite w => Sys2Proof.Machine.execObjectWrite w s
  | .regwLowerWord p d reqId addr value => Sys2Proof.Machine.execRegwLowerWord p d reqId addr value s
  | .mgmtRead p d m => Sys2Proof.Machine.execMgmtRead p d m s
  | .mgmtWrite p d m bytes => Sys2Proof.Machine.execMgmtWrite p d m bytes s
  | .getDescription p d m => Sys2Proof.Machine.execGetDescription p d m s
  | .abortTransfer p d m => Sys2Proof.Machine.execAbortTransfer p d m s
  | .undefinedMgmtOpcode p d opcode m => Sys2Proof.Machine.execUndefinedMgmtOpcode p d opcode m s
  | .mgmtTransferTimeout p => Sys2Proof.Machine.execMgmtTransferTimeout p s
  | .sdoTransferTimeout index sub => Sys2Proof.Machine.execSdoTransferTimeout index sub s
  | .masterRequestsInit => Sys2Proof.Machine.execMasterRequestsInit s
  | .masterRequestsPreop => Sys2Proof.Machine.execMasterRequestsPreop s
  | .masterRequestsSafeop x => Sys2Proof.Machine.execMasterRequestsSafeop x s
  | .masterRequestsOp => Sys2Proof.Machine.execMasterRequestsOp s
  | .masterRequestsBoot => Sys2Proof.Machine.execMasterRequestsBoot s
  | .sm2WatchdogExpiry => Sys2Proof.Machine.execSm2WatchdogExpiry s
  | .newOutputBuffer image => Sys2Proof.Machine.execNewOutputBuffer image s
  | .foeWrite name => Sys2Proof.Machine.execFoeWrite name s
  | .foeRead => Sys2Proof.Machine.execFoeRead s
  | .foePacket number last bytes => Sys2Proof.Machine.execFoePacket number last bytes s
  | .downloadTimeout => Sys2Proof.Machine.execDownloadTimeout s
  | .imagePushData w bytes => Sys2Proof.Machine.execImagePushData w bytes s
  | .imagePushCommit w length => Sys2Proof.Machine.execImagePushCommit w length s
  | .imageActivate w value => Sys2Proof.Machine.execImageActivate w value s
  | .configure d w gen => Sys2Proof.Machine.execConfigure d w gen s
  | .goOnline d w gen => Sys2Proof.Machine.execGoOnline d w gen s
  | .goOffline d w gen => Sys2Proof.Machine.execGoOffline d w gen s
  | .reset d w gen => Sys2Proof.Machine.execReset d w gen s
  | .unconfigure d w gen => Sys2Proof.Machine.execUnconfigure d w gen s
  | .domainQuiescent d => Sys2Proof.Machine.execDomainQuiescent d s
  | .domainOnline d rot => Sys2Proof.Machine.execDomainOnline d rot s
  | .domainReset d => Sys2Proof.Machine.execDomainReset d s
  | .guaranteeRecompute => Sys2Proof.Machine.execGuaranteeRecompute s
  | .append h b => Sys2Proof.Machine.execAppend h b s
  | .readLog h b hits => Sys2Proof.Machine.execReadLog h b hits s
  | .writeVol h b => Sys2Proof.Machine.execWriteVol h b s
  | .readVol h b hits rot => Sys2Proof.Machine.execReadVol h b hits rot s
  | .sync h b => Sys2Proof.Machine.execSync h b s
  | .trimLog h b => Sys2Proof.Machine.execTrimLog h b s
  | .identify h b => Sys2Proof.Machine.execIdentify h b s
  | .getLogPage h b => Sys2Proof.Machine.execGetLogPage h b s
  | .selfTest h b => Sys2Proof.Machine.execSelfTest h b s
  | .resume h b => Sys2Proof.Machine.execResume h b s
  | .setPower h b => Sys2Proof.Machine.execSetPower h b s
  | .abort h b => Sys2Proof.Machine.execAbort h b s
  | .meterRecord h b => Sys2Proof.Machine.execMeterRecord h b s
  | .loadUnload h b => Sys2Proof.Machine.execLoadUnload h b s
  | .undefinedOpcode opcode h b => Sys2Proof.Machine.execUndefinedOpcode opcode h b s
  | .data h offset bytes last spares => Sys2Proof.Machine.execData h offset bytes last spares s
  | .dataStallTimeout h => Sys2Proof.Machine.execDataStallTimeout h s
  | .tagCloseTimeout h => Sys2Proof.Machine.execTagCloseTimeout h s
  | .ringRoomGranted d => Sys2Proof.Machine.execRingRoomGranted d s
  | .ringWaitLimitExpiry h => Sys2Proof.Machine.execRingWaitLimitExpiry h s
  | .selfTestResume => Sys2Proof.Machine.execSelfTestResume s
  | .selfTestStepComplete pass progress => Sys2Proof.Machine.execSelfTestStepComplete pass progress s
  | .idleTimeout d => Sys2Proof.Machine.execIdleTimeout d s
  | .p1Reached => Sys2Proof.Machine.execP1Reached s
  | .p2Entry => Sys2Proof.Machine.execP2Entry s
  | .idleEntryRetry => Sys2Proof.Machine.execIdleEntryRetry s
  | .p0Reached => Sys2Proof.Machine.execP0Reached s
  | .mr4Read hot cool => Sys2Proof.Machine.execMr4Read hot cool s
  | .pageRequest reqs => Sys2Proof.Machine.execPageRequest reqs s
  | .pageRelease h block page => Sys2Proof.Machine.execPageRelease h block page s
  | .arbiterRequest rank wait line lines ended drained => Sys2Proof.Machine.execArbiterRequest rank wait line lines ended drained s
  | .arbiterWithdraw rank => Sys2Proof.Machine.execArbiterWithdraw rank s
  | .arbiterStarvation rank wait => Sys2Proof.Machine.execArbiterStarvation rank wait s
  | .blockGatherExpiry d log => Sys2Proof.Machine.execBlockGatherExpiry d log s
  | .blockStart hits bad spares => Sys2Proof.Machine.execBlockStart hits bad spares s
  | .blockCompressed n lengths wrong => Sys2Proof.Machine.execBlockCompressed n lengths wrong s
  | .blockDecompressed wrong hits => Sys2Proof.Machine.execBlockDecompressed wrong hits s
  | .cutBoundary => Sys2Proof.Machine.execCutBoundary s
  | .streamGapExpiry => Sys2Proof.Machine.execStreamGapExpiry s
  | .frameSetDecision fs clock frames window written => Sys2Proof.Machine.execFrameSetDecision fs clock frames window written s
  | .spliceGapEnd => Sys2Proof.Machine.execSpliceGapEnd s
  | .cutVerified => Sys2Proof.Machine.execCutVerified s
  | .backhitchComplete => Sys2Proof.Machine.execBackhitchComplete s
  | .burstStart => Sys2Proof.Machine.execBurstStart s
  | .cartridgeInserted c => Sys2Proof.Machine.execCartridgeInserted c s
  | .cartridgeRemoved => Sys2Proof.Machine.execCartridgeRemoved s
  | .load w gen => Sys2Proof.Machine.execLoad w gen s
  | .unload w gen => Sys2Proof.Machine.execUnload w gen s
  | .eject w gen => Sys2Proof.Machine.execEject w gen s
  | .format w gen => Sys2Proof.Machine.execFormat w gen s
  | .formatForce w gen => Sys2Proof.Machine.execFormatForce w gen s
  | .discardRing w gen => Sys2Proof.Machine.execDiscardRing w gen s
  | .threaded arm => Sys2Proof.Machine.execThreaded arm s
  | .powerLossReplay => Sys2Proof.Machine.execPowerLossReplay s
  | .eodFound rot => Sys2Proof.Machine.execEodFound rot s
  | .cartridgeQuiescent => Sys2Proof.Machine.execCartridgeQuiescent s
  | .unthreaded => Sys2Proof.Machine.execUnthreaded s
  | .formatWrapDone => Sys2Proof.Machine.execFormatWrapDone s
  | .formatComplete => Sys2Proof.Machine.execFormatComplete s
  | .indexRebuildComplete => Sys2Proof.Machine.execIndexRebuildComplete s
  | .cutReadComplete frames seed => Sys2Proof.Machine.execCutReadComplete frames seed s
  | .ladderStepComplete frames => Sys2Proof.Machine.execLadderStepComplete frames s
  | .holdover => Sys2Proof.Machine.execHoldover s
  | .holdoverOverrun => Sys2Proof.Machine.execHoldoverOverrun s
  | .clockRelock => Sys2Proof.Machine.execClockRelock s
  | .zoneExit w z adapted lateral => Sys2Proof.Machine.execZoneExit w z adapted lateral s
  | .wrapCheck track wedges => Sys2Proof.Machine.execWrapCheck track wedges s
  | .locateComplete wedge => Sys2Proof.Machine.execLocateComplete wedge s
  | .writeInhibit pos => Sys2Proof.Machine.execWriteInhibit pos s
  | .servoReaderLost upper => Sys2Proof.Machine.execServoReaderLost upper s
  | .servoReaderFault => Sys2Proof.Machine.execServoReaderFault s
  | .lposWord word => Sys2Proof.Machine.execLposWord word s
  | .lposWordLoss => Sys2Proof.Machine.execLposWordLoss s
  | .calibrate w value => Sys2Proof.Machine.execCalibrate w value s
  | .headCalibrationComplete decoded trims => Sys2Proof.Machine.execHeadCalibrationComplete decoded trims s
  | .pwmPeriod x => Sys2Proof.Machine.execPwmPeriod x s
  | .tensionFault => Sys2Proof.Machine.execTensionFault s
  | .reelsAtRest => Sys2Proof.Machine.execReelsAtRest s
  | .headLoaded wCart wMach => Sys2Proof.Machine.execHeadLoaded wCart wMach s
  | .clearFault w gen => Sys2Proof.Machine.execClearFault w gen s
  | .enterTest w gen => Sys2Proof.Machine.execEnterTest w gen s
  | .endTest w gen => Sys2Proof.Machine.execEndTest w gen s
  | .apply w n control => Sys2Proof.Machine.execApply w n control s
  | .injectWaveform w value => Sys2Proof.Machine.execInjectWaveform w value s
  | .captureArm w => Sys2Proof.Machine.execCaptureArm w s
  | .captureStop w => Sys2Proof.Machine.execCaptureStop w s
  | .captureFull => Sys2Proof.Machine.execCaptureFull s
  | .encoderFault r => Sys2Proof.Machine.execEncoderFault r s
  | .standstill r => Sys2Proof.Machine.execStandstill r s
  | .radiusMeasured r => Sys2Proof.Machine.execRadiusMeasured r s
  | .speedMismatch => Sys2Proof.Machine.execSpeedMismatch s
  | .speedAgreement => Sys2Proof.Machine.execSpeedAgreement s
  | .tensionArmMismatch => Sys2Proof.Machine.execTensionArmMismatch s
  | .speedEvaluation => Sys2Proof.Machine.execSpeedEvaluation s
  | .poolMaxAgeExpiry d => Sys2Proof.Machine.execPoolMaxAgeExpiry d s
  | .readExcursionLimit => Sys2Proof.Machine.execReadExcursionLimit s
  | .readWaitPriority h => Sys2Proof.Machine.execReadWaitPriority h s
  | .dailiesDue => Sys2Proof.Machine.execDailiesDue s
  | .dailiesResume => Sys2Proof.Machine.execDailiesResume s
  | .bedrockDelayExpiry => Sys2Proof.Machine.execBedrockDelayExpiry s
  | .derateRecovery => Sys2Proof.Machine.execDerateRecovery s
  | .sealOpen crystal => Sys2Proof.Machine.execSealOpen crystal s
  | .sealClosed crystal interrupted => Sys2Proof.Machine.execSealClosed crystal interrupted s
  | .kilnPowerOn enabled clockLost crystal => Sys2Proof.Machine.execKilnPowerOn enabled clockLost crystal s
  | .vbatLow => Sys2Proof.Machine.execVbatLow s
  | .submit crystal withdrawn => Sys2Proof.Machine.execSubmit crystal withdrawn s
  | .confirm crystal withdrawn => Sys2Proof.Machine.execConfirm crystal withdrawn s
  | .requestCopy withdrawn => Sys2Proof.Machine.execRequestCopy withdrawn s
  | .stage withdrawn => Sys2Proof.Machine.execStage withdrawn s
  | .result => Sys2Proof.Machine.execResult s
  | .recordCopy => Sys2Proof.Machine.execRecordCopy s
  | .stateReport crystal => Sys2Proof.Machine.execStateReport crystal s
  | .kilnNotResponding => Sys2Proof.Machine.execKilnNotResponding s
  | .kilnCutAgeExpiry => Sys2Proof.Machine.execKilnCutAgeExpiry s
  | .pinConfig w port pin value => Sys2Proof.Machine.execPinConfig w port pin value s
  | .eventConfig w line value => Sys2Proof.Machine.execEventConfig w line value s
  | .pinOut w d value => Sys2Proof.Machine.execPinOut w d value s
  | .devicePinOut w value => Sys2Proof.Machine.execDevicePinOut w value s
  | .eventAccepted line => Sys2Proof.Machine.execEventAccepted line s
  | .energyTick x => Sys2Proof.Machine.execEnergyTick x s
  | .energyWindow => Sys2Proof.Machine.execEnergyWindow s
  | .energyClear w value => Sys2Proof.Machine.execEnergyClear w value s
  | .watchdogExpiry block pages => Sys2Proof.Machine.execWatchdogExpiry block pages s
  | .blockRecoveryComplete us written tablesBad => Sys2Proof.Machine.execBlockRecoveryComplete us written tablesBad s
  | .cpWatchdog => Sys2Proof.Machine.execCpWatchdog s
  | .tableRebuildComplete slates => Sys2Proof.Machine.execTableRebuildComplete slates s
  | .laneFramePeriod p => Sys2Proof.Machine.execLaneFramePeriod p s
  | .encoderEdge r a b tick => Sys2Proof.Machine.execEncoderEdge r a b tick s
  | .pinLevelChange port pin level => Sys2Proof.Machine.execPinLevelChange port pin level s
  | .headUnloaded => Sys2Proof.Machine.execHeadUnloaded s
  | .exitP1Reached => Sys2Proof.Machine.execExitP1Reached s
  | .unsupportedProtocol m => Sys2Proof.Machine.execUnsupportedProtocol m s
  | .siiWrite word value => Sys2Proof.Machine.execSiiWrite word value s
  | .regrLowerWord p d reqId addr => Sys2Proof.Machine.execRegrLowerWord p d reqId addr s
  | .bankSupplyRises bank mv => Sys2Proof.Machine.execBankSupplyRises bank mv s

end Sys2Proof.Machine
end

