-- ==== Sys2Proof/Safety.lean ====
section
/-!
DEFINITION. What a safe run is, the terms in which statements say what a command may change, and the invariant of every step.
-/
namespace Sys2Proof

/-- Whether an outcome goes on. -/
def goesOn (o : Host.Outcome Machine.State Machine.Fault Machine.Refusal) : Bool :=
  match o with
  | .next _ => true
  | _ => false

/-- A run of `n` steps from a state neither faults nor is refused. -/
def safeFor : Nat → Machine.State → Bool
  | 0, _ => true
  | n + 1, s => match Machine.step s with
    | .next t => safeFor n t
    | _ => false

end Sys2Proof

namespace Sys2Proof.Machine

/-! ### Frames -/

/-- The parts of the state beside the queue. -/
inductive Part where
  | free | periods | dict | ev | ports | doms | ring | dram | boot | ecat | test
  | comp | cart | xport | power | kiln | recov | sched | jour | opLog | energy | savedEnergy | pins
deriving DecidableEq, Repr

/-- Two states agree in a part. -/
def Part.same : Part → State → State → Prop
  | .free, s, t => t.free = s.free
  | .periods, s, t => t.periods = s.periods
  | .dict, s, t => t.dict = s.dict
  | .ev, s, t => t.ev = s.ev
  | .ports, s, t => t.ports = s.ports
  | .doms, s, t => t.doms = s.doms
  | .ring, s, t => t.ring = s.ring
  | .dram, s, t => t.dram = s.dram
  | .boot, s, t => t.boot = s.boot
  | .ecat, s, t => t.ecat = s.ecat
  | .test, s, t => t.test = s.test
  | .comp, s, t => t.comp = s.comp
  | .cart, s, t => t.cart = s.cart
  | .xport, s, t => t.xport = s.xport
  | .power, s, t => t.power = s.power
  | .kiln, s, t => t.kiln = s.kiln
  | .recov, s, t => t.recov = s.recov
  | .sched, s, t => t.sched = s.sched
  | .jour, s, t => t.jour = s.jour
  | .opLog, s, t => t.opLog = s.opLog
  | .energy, s, t => t.energy = s.energy
  | .savedEnergy, s, t => t.savedEnergy = s.savedEnergy
  | .pins, s, t => t.pins = s.pins

/-- `t` differs from `s` in the parts of `m` at most, and the queue is the same. -/
def changesOnly (m : List Part) (s t : State) : Prop := t.pending = s.pending ∧ ∀ p, p ∉ m → p.same s t

/-- One lane of a port stands at a new value, and nothing else has changed. -/
def laneBecomes (p : PortId) (l : Lane) (x : LaneRt) (s t : State) : Prop :=
  laneOf t p l = x ∧ (∀ k, k ≠ l → laneOf t p k = laneOf s p k) ∧ { portOf t p with lanes := (portOf s p).lanes } = portOf s p ∧
  (∀ q, q ≠ p → portOf t q = portOf s q) ∧ changesOnly [.ports] s t

/-- The dictionary's objects agree but for the keys of `ks`. -/
def objectsBut (ks : List Nat) (s t : State) : Prop := ∀ k, k ∉ ks → obj t k = obj s k

/-- One event, and no other, has been posted between `s` and `t`: it is the newest entry of the event log (R470, R475). -/
def postedOne (code unit detail : Nat) (s t : State) : Prop :=
  t.ev.total = s.ev.total + 1 ∧
  t.ev.log = (⟨s.ev.total + 1, ⟨code, unit, (eventClass code).1, detail, nowUs s⟩⟩ :: s.ev.log).take 256

/-- The state in which a write request of `n` data bytes meets its checks once its message has arrived; none where it does
not arrive (the mailbox does not serve it, the port does not receive, an MGMT transfer is open). -/
def arrived (w : Writer) (i sub n : Nat) (s : State) : Option State :=
  match w with
  | .sdo => if coeServed s then some s else none
  | .rxpdo => if s.ecat.al == .op && mappedRx s i sub then some s else none
  | .regw p _ _ => if portReceives s p then some (returnAdmin p 1 (dropPair p s)) else none
  | .mgmt p _ tid =>
    let s1 := returnAdmin p (mgmtUnits n) s
    if portReceives s p && (portOf s1 p).transfer.isNone then
      some (modPort p (fun q => { q with transfer := some ⟨true, tid.toNat, i, sub, false, n, 0, []⟩ }) s1)
    else none

/-- A STATE_REQUEST arrives for the unit at an index and passes the checks of its access and of EXPECTED_GEN; `s1` is the
state that it meets (R33, R56, R540). -/
def requestPasses (w : Writer) (i : Nat) (gen : Half) (s s1 : State) : Prop :=
  released s = true ∧ arrived w i 3 (typeWidth i 3 / 8) s = some s1 ∧ firstReason (accessChecks s1 w i 3) = none ∧
  gen.toNat = obj s1 (Obj.unitGen i)

/-- The result of an accepted STATE_REQUEST with one transition: REQUEST_RESULT is 0 and GEN has counted one (R33, R56). -/
def requestDone (i : Nat) (gen : Half) (t : State) : Prop :=
  obj t (Obj.unitResult i) = 0 ∧ obj t (Obj.unitGen i) = (gen.toNat + 1) % 65536

/-- A write of a value `v` of its object's width passes every check once it has arrived; `s1` is the state that it meets
(R53, R540). -/
def writePasses (w : Writer) (i sub v : Nat) (s s1 : State) : Prop :=
  released s = true ∧ arrived w i sub (typeWidth i sub / 8) s = some s1 ∧
  firstReason (writeChecks s1 w i sub (typeBytes i sub) v) = none

/-- A write to the object stores its value and does nothing else: no state request, no push of an image, no release to Kiln,
no text, and none of the objects whose write acts on the part. -/
def storesOnly (i sub : Nat) : Bool :=
  !isUnitRequest i sub && !isText i sub && !(i == 0x2202 && sub == 3) &&
  (match canonIndex i, sub with
    | 0x2140, 2 | 0x2160, 0xB | 0x2200, 3 | 0x2201, 4 | 0x2480, 1 | 0x2C05, 4 | 0x2E03, 1 | 0x3000, 7 | 0x3010, 2
    | 0x3011, 4 | 0x3402, 2 | 0x3404, 1 | 0x3601, 5 | 0x3800, 3 | 0x4007, 1 | 0x3808, 1 | 0x3801, _ | 0x3806, _
    | 0x4001, 2 | 0x4001, 3 | 0x4001, 4 | 0x4001, 7 | 0x6004, _ => false
    | _, _ => true)

/-- The newest message that waits in a port's send queue. -/
def lastSent (s : State) (p : PortId) : Option TxMsg := (portOf s p).txWait.getLast?

/-! ### Host commands -/

/-- The host command that a row carries and the state that it meets (R132): a read meets the wrong lines and the bad cache bytes
of its operands first (R188, R199). -/
inductive HostRow : Instr → State → HostCmd → State → Prop where
  | append (h : CmdHead) (b : CmdBody) (s : State) : HostRow (.append h b) s ⟨opAppend, h, b, false⟩ s
  | readLog (h : CmdHead) (b : CmdBody) (hits : List EccHit) (s : State) :
      HostRow (.readLog h b hits) s ⟨opReadLog, h, b, false⟩ (meetLines hits s)
  | writeVol (h : CmdHead) (b : CmdBody) (s : State) : HostRow (.writeVol h b) s ⟨opWriteVol, h, b, false⟩ s
  | readVol (h : CmdHead) (b : CmdBody) (hits : List EccHit) (rot : List CacheRot) (s : State) :
      HostRow (.readVol h b hits rot) s ⟨opReadVol, h, b, dataLost hits⟩ (meetLines hits (rotCache rot s))
  | sync (h : CmdHead) (b : CmdBody) (s : State) : HostRow (.sync h b) s ⟨opSync, h, b, false⟩ s
  | trimLog (h : CmdHead) (b : CmdBody) (s : State) : HostRow (.trimLog h b) s ⟨opTrimLog, h, b, false⟩ s
  | identify (h : CmdHead) (b : CmdBody) (s : State) : HostRow (.identify h b) s ⟨opIdentify, h, b, false⟩ s
  | getLogPage (h : CmdHead) (b : CmdBody) (s : State) : HostRow (.getLogPage h b) s ⟨opGetLogPage, h, b, false⟩ s
  | selfTest (h : CmdHead) (b : CmdBody) (s : State) : HostRow (.selfTest h b) s ⟨opSelfTest, h, b, false⟩ s
  | resume (h : CmdHead) (b : CmdBody) (s : State) : HostRow (.resume h b) s ⟨opResume, h, b, false⟩ s
  | setPower (h : CmdHead) (b : CmdBody) (s : State) : HostRow (.setPower h b) s ⟨opSetPower, h, b, false⟩ s
  | abort (h : CmdHead) (b : CmdBody) (s : State) : HostRow (.abort h b) s ⟨opAbort, h, b, false⟩ s
  | meterRecord (h : CmdHead) (b : CmdBody) (s : State) : HostRow (.meterRecord h b) s ⟨opMeterRecord, h, b, false⟩ s
  | loadUnload (h : CmdHead) (b : CmdBody) (s : State) : HostRow (.loadUnload h b) s ⟨opLoadUnload, h, b, false⟩ s
  | undefinedOpcode (opcode : Byte) (h : CmdHead) (b : CmdBody) (s : State) : opcodeDefined opcode.toNat = false →
      HostRow (.undefinedOpcode opcode h b) s ⟨opcode.toNat, h, b, false⟩ s

/-- The command is judged at once: its port receives and takes commands, nothing of the port waits before it, its TAG is
free, and no power-fail sequence shuts it out (R109, R167, R184, R367). -/
def cmdReaches (c : HostCmd) (s : State) : Prop :=
  portReceives s c.head.port = true ∧ shutOut s c = false ∧ tagInUse s c.head = false ∧
  (portOf s c.head.port).backlog = [] ∧ takesCmds s c.head.port = true

/-- The command passes R135's checks and takes a slot (R135, R145, R165, R169). -/
def cmdTaken (c : HostCmd) (no : Nat) (s : State) : Prop :=
  cmdReaches c s ∧
  (let s1 := returnCmd c.head s
   judge s1 c = none ∧ slotFor s1 c = some no ∧ (lacksRoom s1 c && (s1.cart.state != .ready || !canMove s1)) = false)

/-- The slot goes on only by an event of its own: it is held, complete, or waits for DATA, room, Kiln, the cartridge or the
self-test, or for its turns to send. -/
def parkedSlot (x : Slot) : Bool :=
  x.held || (match x.phase with
    | .receiving | .ringWait | .kiln | .cartridge _ | .selfTest | .sending _ _ _ _ | .done => true
    | .ordering | .ready | .tape _ | .sync _ => false)

/-- No command of the domain can go on by itself. -/
def quiet (s : State) (d : Dom) : Prop := ∀ x ∈ (domOf s d).slots, parkedSlot x = true

/-- The slot a command takes when it is admitted (R164, R172). -/
def admittedSlot (c : HostCmd) (no : Nat) (s : State) : Slot :=
  let s1 := returnCmd c.head s
  let room := firstPhase s1 c == .receiving && isRingWrite c.opcode
  { no := no, cmd := c, phase := firstPhase s1 c, held := (domOf s c.head.dom).frozen && !isAdminOp c.opcode
    started := room && !(domOf s c.head.dom).frozen, order := nextOrder s c.head.dom, room := room, data := [], units := 0
    lastSeen := false, recovered := false, readCuts := [], failedCuts := [], badBlocks := [], moved := false, arrived := 0
    retried := false, misread := [] }

/-- Messages join a port's send queue. Behind them stand other messages only where the command has called off an entry to P2,
whose ports come back and may find a link lost (R184, R439). -/
def sends (p : PortId) (ms : List TxMsg) (s t : State) : Prop :=
  ∃ rest, (portOf t p).txWait = (portOf s p).txWait ++ ms ++ rest ∧ (powerToward s ≠ 2 → rest = [])

/-- A message waits in a port's send queue, as the newest one unless an entry to P2 has been called off (R184, R439). -/
def answersLast (p : PortId) (m : TxMsg) (s t : State) : Prop :=
  m ∈ (portOf t p).txWait ∧ (powerToward s ≠ 2 → lastSent t p = some m)

/-- Data and then the completion of a command join its port's messages (R17, R138, R139). -/
def answeredWith (c : HostCmd) (no : Nat) (bytes : List Byte) (status detail count value flags : Nat) (s t : State) : Prop :=
  let h := c.head
  sends h.port (dataMsgs true (bytes.length / 960 + 1) h.dom h.tag.toNat 0 bytes ++
    [.cpl h.dom h.tag.toNat (some no) ⟨c.opcode, status, flags + degradedFlag s, detail, count, value⟩]) s t

/-- `t` is a part held in reset out of `s`, its next RESET_CAUSE being `cause`: the link, the transport, the holdup bank and
the field network stand as after reset, and fuses, straps, NOR content, journal, ring, Kiln's records and state, the levels
at the pins and every object that R536 keeps are those of `s`; GEN of a port counts its transition to DISABLED (R56, R95, R371,
R422, R536). -/
def heldFrom (cause : Nat) (s t : State) : Prop :=
  t.pending = s.pending ∧ t.boot.phase = .held ∧ t.boot.cause = cause ∧ t.ports = State.reset.ports ∧
  t.xport.state = .off ∧ t.power = State.reset.power ∧ t.ecat = State.reset.ecat ∧
  t.boot.fuses = s.boot.fuses ∧ t.boot.straps = s.boot.straps ∧ t.boot.slots = s.boot.slots ∧
  t.boot.copies = s.boot.copies ∧ t.jour.openOps = s.jour.openOps ∧ t.jour.ringClose = s.jour.ringClose ∧
  t.jour.nextSerial = s.jour.nextSerial ∧ t.ring.items = s.ring.items ∧ t.ring.boot = s.ring.boot ∧
  t.kiln.records = s.kiln.records ∧ t.kiln.audit = s.kiln.audit ∧ t.kiln.state = s.kiln.state ∧
  t.kiln.params = s.kiln.params ∧ t.pins.external = s.pins.external ∧
  (∀ p, obj t (Obj.unitGen (portIndex p)) = (obj s (Obj.unitGen (portIndex p)) + 1) % 65536) ∧
  ∀ k, keptThroughReset k = true → (∀ p, k ≠ Obj.unitGen (portIndex p)) → obj t k = obj s k

/-- A transport fault has stopped all work on the tape (R325, R326): FAULTED with its cause, nothing written, sought or read,
and no cartridge that serves. -/
def tapeFaulted (cause : Nat) (t : State) : Prop :=
  t.xport.state = .faulted ∧ obj t Obj.faultCause = cause ∧ t.xport.servo.locate = none ∧ t.cart.openCut = none ∧
  t.cart.ladder = none ∧ t.sched.burst = false ∧ t.sched.mode = .idle ∧ t.sched.reading = none ∧
  t.cart.state ≠ .threading ∧ t.cart.state ≠ .searching ∧ t.cart.state ≠ .ready ∧ t.cart.state ≠ .draining ∧
  t.cart.state ≠ .formatting

/-- The transport is in a state that a fault ends (R326). -/
def canFault (s : State) : Prop := s.xport.state ≠ .off ∧ s.xport.state ≠ .braking ∧ s.xport.state ≠ .faulted

/-- A counter has counted `n` more, up to its width's highest value. -/
def counted (k n : Nat) (s t : State) : Prop := obj t k = min (obj s k + n) (2 ^ objWidth k - 1)

/-- Recovery has escalated for a unit: LAST_RECOVERY names it with OUTCOME 2 and time 0, and the sequence of a reset with cause
7 runs (R370, R482). -/
def escalated (unit : Nat) (t : State) : Prop :=
  obj t Obj.lastRecovery = 2 ^ 24 * unit + 2 ^ 16 * 2 ∧ t.power.failing = true ∧ t.power.forReset = true ∧
  t.boot.warmPending = true ∧ t.boot.cause = 7 ∧ t.cart.openCut = none

/-! ### The invariant -/

/-- The dictionary's values keep their canonical form, each within its object's width (R45), and the event log, the fault
log and the emergency queue their bounds (R70, R475). -/
def Inv (s : State) : Bool := dictWf s.dict && s.ev.wf

end Sys2Proof.Machine
end

