-- ==== Sys2Proof/Certificates/Slice0/Obligations.lean ====
section
/-!
DEFINITION. The statements for the provers, one definition each.
-/
open Sys2Proof Sys2Proof.Machine

/-- PORESET_N low resets a released part, and a ROOT unlock or a supply fault resets any part that is not held already; what
R422 and R536 keep stays (R371, R417, R420, R422, R536). -/
def Obligations.ResetsHoldThePart : Prop :=
  (∀ s : State, s.boot.phase = .released → s.power.failing = false →
    ∃ t, exec .poresetNLow s = .next t ∧ heldFrom 2 s t) ∧
  (∀ s : State, s.boot.phase ≠ .held → s.boot.phase ≠ .shelf → ∀ stopped,
    ∃ t, exec (.rootUnlock stopped) s = .next t ∧ heldFrom 6 s t ∧ t.boot.refRuns = (s.boot.refRuns && !stopped)) ∧
  (∀ s : State, s.boot.phase ≠ .held → s.boot.phase ≠ .shelf → ∃ t, exec .supplyFault s = .next t ∧ heldFrom 5 s t)

/-- The start (R364, R370, R422, R424, R433, R502, R512). -/
def Obligations.StartsRunToTheImageCheck : Prop :=
  (∀ (env : StartEnv) (s : State), s.boot.phase = .held → samplesStraps s.boot.cause = true → env.fuseOk = true →
    bitOf env.straps.toNat 11 = false → ∃ t, exec (.startReference env) s = .next t ∧ t.boot.phase = .started) ∧
  (∀ (env : StartEnv) (s : State), s.boot.phase = .held → samplesStraps s.boot.cause = true →
    (env.fuseOk = false ∨ bitOf env.straps.toNat 11 = true) →
    ∃ t, exec (.startReference env) s = .next t ∧ t.boot.phase = .stuck) ∧
  (∀ (env : StartEnv) (s : State), s.boot.phase = .stuck → bitOf s.boot.straps 11 = false → env.fuseOk = true →
    ∃ t, exec (.fuseLoadRetry env) s = .next t ∧ t.boot.phase = .started) ∧
  (∀ (env : StartEnv) (s : State), released s = true → s.boot.warmPending = true → s.boot.cause = 3 → resetReady s = true →
    bitOf s.boot.straps 11 = false → ∃ t, exec (.warmReset env) s = .next t ∧ t.boot.phase = .started ∧ t.boot.cause = 3) ∧
  (∀ (env : StartEnv) (s : State), released s = true → s.boot.thermalHold = true → resetReady s = true →
    objInt 16 s Obj.tjC ≤ 100 → bitOf s.boot.straps 11 = false → env.fuseOk = true →
    ∃ t, exec (.thermalRestart env) s = .next t ∧ t.boot.phase = .started ∧ t.boot.cause = 5) ∧
  (∀ (env : StartEnv) (s : State), s.boot.phase = .shelf → bitOf s.boot.straps 11 = false → env.fuseOk = true →
    ∃ t, exec (.powerFailRestart env) s = .next t ∧ t.boot.phase = .started ∧ t.boot.cause = 4)

/-- RELEASE and the bank modes (R75, R422, R433, R508). -/
def Obligations.ReleaseStartsTheFunctions : Prop :=
  (∀ (us : BitVec 25) (crystal : DWord) (s : State), s.boot.phase = .started →
    ∃ t, exec (.release us crystal) s = .next t ∧ released t = true ∧ t.boot.cause = resetCause s ∧ t.ecat.al = .preop ∧
      t.boot.releaseUs = us.toNat ∧ t.boot.fuses = s.boot.fuses ∧ t.boot.slots = s.boot.slots ∧
      t.kiln = s.kiln ∧ t.jour = s.jour ∧ t.ring.items = s.ring.items ∧ t.ring.boot = s.ring.boot ∧
      changesOnly [.free, .dict, .ev, .ports, .doms, .ring, .dram, .boot, .ecat, .cart, .xport, .power, .sched, .opLog, .energy,
        .savedEnergy, .pins] s t) ∧
  (∀ (bank : Fin 4) (mv : Half) (s : State), 900 < mv.toNat → mv.toNat < (if bank = 2 then 2900 else 2100) →
    ∃ t, exec (.bankSupplyRises bank mv) s = .next t ∧
      vget t.boot.bankMode bank = (if bank = 2 then 2500 else 1800) ∧
      (∀ b, b ≠ bank → vget t.boot.bankMode b = vget s.boot.bankMode b) ∧ changesOnly [.boot] s t) ∧
  (∀ (bank : Fin 4) (mv : Half) (s : State), (if bank = 2 then 2900 else 2100) < mv.toNat →
    ∃ t, exec (.bankSupplyRises bank mv) s = .next t ∧ vget t.boot.bankMode bank = 3300 ∧
      (∀ b, b ≠ bank → vget t.boot.bankMode b = vget s.boot.bankMode b) ∧ changesOnly [.boot] s t)

/-- The power-fail sequence (R364, R366, R369, R379, R512). -/
def Obligations.PowerFailSequenceRuns : Prop :=
  (∀ (sources : BitVec 2) (s : State), released s = true → s.power.failing = false →
    sources.toNat &&& obj s Obj.powerFailSource ≠ 0 →
    ∃ t, exec (.powerFailureDetected sources) s = .next t ∧ t.power.failing = true ∧ t.power.forReset = false ∧
      t.power.source = sources.toNat &&& obj s Obj.powerFailSource ∧ t.cart.openCut = none ∧ t.ring = s.ring ∧
      t.comp.blocks = [] ∧ t.recov.busy = [] ∧ t.jour.ringClose.isSome = true ∧
      changesOnly [.dict, .doms, .dram, .comp, .cart, .xport, .power, .recov, .sched, .jour, .opLog] s t) ∧
  (∀ s : State, released s = true → 120 ≤ objInt 16 s Obj.tjC → s.boot.thermalHold = false → s.power.failing = false →
    ∃ t, exec .thermalTrip s = .next t ∧ t.power.failing = true ∧ t.power.forReset = true ∧ t.boot.thermalHold = true ∧
      t.boot.cause = 5 ∧ t.cart.openCut = none ∧
      changesOnly [.dict, .doms, .dram, .boot, .comp, .cart, .xport, .power, .recov, .sched, .jour, .opLog] s t) ∧
  (∀ (mv : Half) (s : State), released s = true → s.power.failing = true → s.xport.atRest = false → mv.toNat < 9000 →
    s.jour.exhausted = none →
    ∃ t, exec (.holdupExhausted mv) s = .next t ∧ t.jour.exhausted.map (·.vholdMv) = some mv.toNat ∧
      t.xport.headLoaded = false ∧ t.xport.forceShort = true ∧ t.xport.servo.lowerValid = false ∧
      t.xport.servo.upperValid = false ∧ changesOnly [.dict, .xport, .jour, .opLog] s t) ∧
  (∀ (energyMj : Word) (s : State), released s = true → sequenceOver s = true → s.power.forReset = false →
    s.boot.sequenceEnded = false →
    ∃ t, exec (.sequenceEnd energyMj) s = .next t ∧ t.boot.phase = .shelf ∧ t.boot.sequenceEnded = true ∧
      t.jour.sequenceEnd.map (·.energyMj) = some energyMj.toNat ∧ t.savedEnergy = s.energy ∧
      obj t Obj.lastSequenceEnergyMj = energyMj.toNat ∧ t.kiln.powered = false ∧
      objectsBut [Obj.lastSequenceEnergyMj, Obj.lastSequenceTimeMs, Obj.powerFails] s t ∧
      changesOnly [.dict, .boot, .kiln, .jour, .opLog, .savedEnergy] s t)

/-- READY of the holdup bank and the device power states (R184, R185, R362, R372, R437, R438). -/
def Obligations.HoldupAndPowerStatesFollow : Prop :=
  (∀ s : State, released s = true → s.power.faulted = false →
    ∃ t, exec .holdupReady s = .next t ∧ t.power.ready = true ∧
      changesOnly [.free, .dict, .ev, .ports, .xport, .power, .sched, .opLog] s t) ∧
  (∀ s : State, released s = true → s.xport.state ≠ .moving →
    ∃ t, exec .holdupLow s = .next t ∧ t.power.ready = false ∧ (∀ k, obj t k = obj s k) ∧ changesOnly [.power] s t) ∧
  (∀ s : State, released s = true → s.xport.state = .moving → s.power.ready = true → s.cart.openCut = none →
    ∃ t, exec .holdupLow s = .next t ∧ t.power.ready = false ∧ t.xport.target = 0 ∧
      postedOne 0x0901 unitDevice 0 s t ∧ changesOnly [.free, .dict, .ev, .ports, .xport, .power] s t) ∧
  (∀ s : State, released s = true → powerNow s = 0 → powerToward s = 1 → flushed s = true → s.xport.state = .stopped →
    ∃ t, exec .p1Reached s = .next t ∧ powerNow t = 1 ∧ t.xport.state = .parked ∧ t.xport.headLoaded = false ∧
      t.xport.servo.lpos = (parkPlace s).1 ∧ t.xport.servo.wrap = (parkPlace s).2 ∧
      changesOnly [.free, .dict, .ev, .ports, .dram, .xport, .sched, .opLog] s t) ∧
  (∀ s : State, released s = true → powerNow s = 1 → powerToward s = 2 → portsIdle s = true →
    ∃ t, exec .p2Entry s = .next t ∧ powerNow t = 2 ∧ t.dram.phase = .selfRefresh ∧
      obj t Obj.p2Entries = min (obj s Obj.p2Entries + 1) (2 ^ objWidth Obj.p2Entries - 1) ∧
      changesOnly [.free, .dict, .ev, .ports, .dram, .xport, .sched, .opLog] s t) ∧
  (∀ s : State, released s = true → powerNow s = 1 → powerToward s = 2 →
    ∃ t, exec .idleEntryRetry s = .next t ∧ powerNow t = 1 ∧ changesOnly [.dict, .ports] s t) ∧
  (∀ s : State, released s = true → powerNow s = 1 → powerToward s = 0 → s.xport.state = .idle →
    (∀ d, (domOf s d).slots = []) →
    ∃ t, exec .p0Reached s = .next t ∧ powerNow t = 0 ∧ t.power = s.power ∧ t.boot = s.boot) ∧
  (∀ s : State, released s = true → powerNow s = 2 → powerToward s < 2 → (∀ p, (portOf s p).backlog = []) →
    ∃ t, exec .exitP1Reached s = .next t ∧ powerNow t = 1 ∧ t.dram.phase = .active ∧
      changesOnly [.free, .dict, .ev, .ports, .dram, .xport, .sched, .opLog] s t)

/-- The phases of a lane: each event gives its lane one new value and changes nothing else, but for the last retry of a phase, which
may end the port's training (R88, R89, R90, R93, R94, R97, R100). -/
def Obligations.LanePhasesAdvance : Prop :=
  ∀ (p : PortId) (l : Lane) (s : State), released s = true →
    let x := laneOf s p l
    (x.state = .lock →
      ∃ t, exec (.lockComplete p l) s = .next t ∧ laneBecomes p l { x with state := .align, lol := false, retries := 0 } s t) ∧
    (x.state = .loopback → x.loop = .lock →
      ∃ t, exec (.lockComplete p l) s = .next t ∧ laneBecomes p l { x with
        lol := false, loop := if (portOf s p).goal = .loopback .fe then .run else .align } s t) ∧
    (∀ (word : DWord) (hits : List SlipHit) (h : SlipHit) (w : LaneWord), x.state = .align →
      searchSlip (portOf s p) x hits = some h → LaneWord.decode word = some w → w.lane.toNat = l.val →
      let y := { x with slip := h.slip.toNat, rxInverted := h.inverted, missed := 0, word := some w, retries := 0,
                        partnerPre := w.curPre.toNat, partnerPost := w.curPost.toNat }
      ((x.alone = true ∨ (portOf s p).fullTraining = false) →
        ∃ t, exec (.alignComplete p l word hits) s = .next t ∧
          laneBecomes p l { y with state := .deskew, advertised := 0 } s t) ∧
      (x.alone = false → (portOf s p).fullTraining = true →
        ∃ t, exec (.alignComplete p l word hits) s = .next t ∧
          laneBecomes p l { y with state := .equalize, tapUnanswered := false, tapStatus := 0,
                                   requesting := bitOf (obj s (Obj.partnerTapRequest p l.val)) 15 } s t)) ∧
    (∀ h : SlipHit, 4 ≤ h.frames.toNat → searchSlip (portOf s p) x [h] = some h) ∧
    (x.alone = false → x.retries < 3 → x.state = .lock →
      ∃ t, exec (.phaseTimerExpiry p l) s = .next t ∧ laneBecomes p l { x with
        retries := x.retries + 1, bursts := x.bursts + 1, txLine := clapperBurst } s t) ∧
    (x.alone = false → x.retries < 3 → x.state ∈ [LaneState.align, .equalize, .deskew] →
      ∃ t, exec (.phaseTimerExpiry p l) s = .next t ∧ laneBecomes p l { x with retries := x.retries + 1 } s t) ∧
    (x.alone = true → x.state ∈ [LaneState.lock, .align, .equalize, .deskew] →
      ∃ t, exec (.phaseTimerExpiry p l) s = .next t ∧ laneBecomes p l { x with state := .retrainWait, alone := false } s t) ∧
    (x.alone = false → 3 ≤ x.retries → x.state ∈ [LaneState.lock, .align, .equalize, .deskew] →
      ((∃ k, k ≠ l ∧ k.val < (portOf s p).width ∧ (laneOf s p k).state ≠ .listen) →
        ∃ t, exec (.phaseTimerExpiry p l) s = .next t ∧ laneBecomes p l { x with state := .listen } s t) ∧
      ((portOf s p).state = .training → (∀ k, k ≠ l → k.val < (portOf s p).width → (laneOf s p k).state = .listen) →
        ∃ t, exec (.phaseTimerExpiry p l) s = .next t ∧ (laneOf t p l).state = .listen ∧ (portOf t p).state = .listen ∧
          postedOne 0x0203 (unitPort p) x.state.code s t ∧ changesOnly [.free, .dict, .ev, .ports] s t)) ∧
    (x.state = .listen →
      ∃ t, exec (.listenBurst p l) s = .next t ∧ laneBecomes p l { x with
        bursts := x.bursts + 1, txLine := clapperBurst, lockLeft := lockFrames (portOf s p).rate } s t) ∧
    (x.state = .retrainWait →
      ∃ t, exec (.loneRetrain p l) s = .next t ∧ laneBecomes p l { x with
        state := .lock, alone := true, retries := 0, advertised := 0 } s t) ∧
    (x.state = .equalize → x.requesting = true →
      (x.wordKind ≠ 4 → ∃ t, exec (.tapRequestTimeout p l) s = .next t ∧
        laneBecomes p l { x with requesting := false, tapUnanswered := true } s t) ∧
      (x.wordKind = 4 → ∃ t, exec (.tapRequestTimeout p l) s = .next t ∧ laneBecomes p l { x with
        requesting := false, tapUnanswered := true, state := .deskew, retries := 0, advertised := 0 } s t))

/-- R91. -/
def Obligations.MiswiredLaneTakesNoPart : Prop :=
  ∀ (p : PortId) (l : Lane) (word : DWord) (hits : List SlipHit) (h : SlipHit) (w : LaneWord) (s : State),
    released s = true → (laneOf s p l).state = .align → searchSlip (portOf s p) (laneOf s p l) hits = some h →
    LaneWord.decode word = some w → w.lane.toNat ≠ l.val →
    ∃ t, exec (.alignComplete p l word hits) s = .next t ∧
      postedOne 0x0207 (unitPort p) (l.val + 0x100 * w.lane.toNat) s t ∧
      (laneOf t p l).state = .retrainWait ∧ l ∉ commonLanes (portOf t p) ∧ changesOnly [.free, .dict, .ev, .ports] s t

/-- The events of a lane (R85, R86, R88, R93, R94, R95, R102). -/
def Obligations.LaneEventsActOnTheirLane : Prop :=
  ∀ (p : PortId) (l : Lane) (s : State), released s = true →
    let x := laneOf s p l
    (x.state = .listen → (portOf s p).state = .up →
      ∃ t, exec (.signalDetected p l) s = .next t ∧ (laneOf t p l).los = false ∧ (laneOf t p l).state = .lock ∧
        (laneOf t p l).alone = true ∧ (laneOf t p l).bursts = x.bursts + 1 ∧
        (∀ k, k ≠ l → laneOf t p k = laneOf s p k) ∧ changesOnly [.ports] s t) ∧
    (x.state = .listen → (portOf s p).state = .listen → l.val < obj s (Obj.configuredWidth p) →
      ∃ t, exec (.signalDetected p l) s = .next t ∧ (laneOf t p l).los = false ∧ (laneOf t p l).state = .lock ∧
        (portOf t p).state = .training ∧ (portOf t p).width = obj s (Obj.configuredWidth p) ∧
        changesOnly [.dict, .ports] s t) ∧
    (x.state ∈ [LaneState.lock, .align, .equalize, .deskew] →
      ∃ t, exec (.los p l) s = .next t ∧ (laneOf t p l).los = true ∧
        (laneOf t p l).losEvents = min (x.losEvents + 1) 0xFFFF ∧
        (laneOf t p l).state = (if x.alone then .retrainWait else .listen) ∧
        (∀ k, k ≠ l → laneOf t p k = laneOf s p k) ∧ changesOnly [.free, .dict, .ev, .ports] s t) ∧
    (x.state ≠ .active → x.state ≠ .standby →
      ∃ t, exec (.lol p l) s = .next t ∧ laneBecomes p l { x with
        lol := true, missed := 0, lolEvents := if x.lol then min x.lolEvents 0xFFFF else min (x.lolEvents + 1) 0xFFFF } s t) ∧
    (∀ line : List Bool, afterMarker x line = none → x.state ∈ [LaneState.equalize, .deskew, .active, .standby] →
      (x.missed = 0 → ∃ t, exec (.laneFrameReceived p l line) s = .next t ∧ laneBecomes p l { x with missed := 1 } s t) ∧
      (0 < x.missed → x.state ∈ [LaneState.equalize, .deskew] →
        ∃ t, exec (.laneFrameReceived p l line) s = .next t ∧ (laneOf t p l).lol = true ∧ (laneOf t p l).missed = 0 ∧
          (∀ k, k ≠ l → laneOf t p k = laneOf s p k) ∧ changesOnly [.ports] s t)) ∧
    (∀ (line rest : List Bool) (y : LaneRt) (w : LaneWord), afterMarker x line = some rest →
      takeLaneFrame x rest = (y, some w) → x.state = .equalize →
      ∃ t, exec (.laneFrameReceived p l line) s = .next t ∧ laneBecomes p l
        (equalizeWord (portOf s p).acceptTaps (obj s (Obj.partnerTapRequest p l.val)) w y) s t) ∧
    (∀ (line rest : List Bool) (y : LaneRt), afterMarker x line = some rest → takeLaneFrame x rest = (y, none) →
      x.state ∈ [LaneState.equalize, .deskew, .active, .standby] →
      y.missed = 0 ∧ y.word = x.word ∧
      ∃ t, exec (.laneFrameReceived p l line) s = .next t ∧ laneBecomes p l y s t)

/-- The states of a port (R92, R95-R100). -/
def Obligations.PortStatesFollowTheLink : Prop :=
  ∀ (p : PortId) (s : State), released s = true →
    (∀ skews : Vector (BitVec 8) 4, (portOf s p).state = .training → skewedLanes s p skews = [] →
      widthFor (commonLanes (portOf (modLanes p (fun l x => judgeSkew (vget skews l).toNat x) s) p)).length ≠ 0 →
      ∃ t, exec (.deskewComplete p skews) s = .next t ∧ (portOf t p).state = .up ∧
        (portOf t p).curWidth =
          widthFor (commonLanes (portOf (modLanes p (fun l x => judgeSkew (vget skews l).toNat x) s) p)).length ∧
        (portOf t p).keepTaps = false ∧ changesOnly [.free, .dict, .ev, .ports] s t) ∧
    (∀ skews : Vector (BitVec 8) 4, (portOf s p).state = .up → skewedLanes s p skews = [] →
      ∃ t, exec (.deskewComplete p skews) s = .next t ∧ (portOf t p).state = .up ∧
        (∀ l, (laneOf t p l).state = if (laneOf s p l).state = .deskew then .standby else (laneOf s p l).state) ∧
        changesOnly [.ports] s t) ∧
    ((portOf s p).state = .up → (portOf s p).narrowing = true →
      ∃ t, exec (.narrowingTimeout p) s = .next t ∧ (portOf t p).state = .training ∧ (portOf t p).fullTraining = true ∧
        postedOne 0x0202 (unitPort p) 0 s t ∧ changesOnly [.free, .dict, .ev, .ports] s t) ∧
    ((portOf s p).state = .idle →
      ∃ t, exec (.clapperBurst p) s = .next t ∧ (portOf t p).state = .training ∧ (portOf t p).fullTraining = false ∧
        (∀ l, (laneOf s p l).state = .idle → (laneOf t p l).state = .lock) ∧
        obj t (Obj.unitGen (portIndex p)) = (obj s (Obj.unitGen (portIndex p)) + 1) % 65536 ∧
        changesOnly [.dict, .ports] s t) ∧
    ((portOf s p).state = .up →
      ∃ t, exec (.endOfTransmission p) s = .next t ∧ (portOf t p).state = .draining ∧ (portOf t p).goal = .idle ∧
        (portOf t p).eotSeen = true ∧ changesOnly [.dict, .ports] s t) ∧
    ((portOf s p).state = .draining → (portOf s p).goal = .idle → (portOf s p).eotSeen = false →
      (∃ l, (laneOf s p l).locked = true) → (activeLanes (portOf s p)).length = (portOf s p).curWidth →
      ∃ t, exec (.idleEntryTimeout p) s = .next t ∧ (portOf t p).state = .up ∧ (portOf t p).goal = .none ∧
        changesOnly [.dict, .ports] s t) ∧
    ((portOf s p).state = .draining → (portOf s p).goal = .idle → (portOf s p).eotSeen = false →
      (∀ l, (laneOf s p l).locked = false) →
      ∃ t, exec (.idleEntryTimeout p) s = .next t ∧ (portOf t p).state ∈ [PortState.listen, .training] ∧
        postedOne 0x0202 (unitPort p) 0 s t ∧ changesOnly [.free, .dict, .ev, .ports] s t) ∧
    ((portOf s p).state = .draining → (portOf s p).retry = [] → (portOf s p).goal = .disabled →
      ∃ t, exec (.portQuiescent p) s = .next t ∧ (portOf t p).state = .disabled ∧
        (∀ l, (laneOf t p l).state = .off) ∧ changesOnly [.dict, .ports] s t) ∧
    (∀ m, (portOf s p).state = .draining → (portOf s p).retry = [] → (portOf s p).goal = .loopback m →
      ∃ t, exec (.portQuiescent p) s = .next t ∧ (portOf t p).state = .loopback ∧ (portOf t p).goal = .loopback m ∧
        changesOnly [.dict, .ports] s t) ∧
    ((portOf s p).state = .draining → (portOf s p).retry = [] → (portOf s p).goal = .idle → (portOf s p).eotSeen = true →
      ∃ t, exec (.portQuiescent p) s = .next t ∧ (portOf t p).state = .idle ∧
        postedOne 0x0206 (unitPort p) 0 s t ∧ changesOnly [.free, .dict, .ev, .ports] s t) ∧
    ((portOf s p).state = .draining → (portOf s p).retry = [] → (portOf s p).goal = .idle → (portOf s p).eotSeen = false →
      ∃ t, exec (.portQuiescent p) s = .next t ∧ (portOf t p).state = .draining ∧ (portOf t p).eotSent = true ∧
        changesOnly [.ports] s t)

/-- The requests of a port (R56, R95, R100). -/
def Obligations.PortRequestsTakeTheirTransition : Prop :=
  ∀ (p : PortId) (w : Writer) (gen : Half) (s s1 : State), requestPasses w (portIndex p) gen s s1 →
    let done : State → Prop := fun t =>
      requestDone (portIndex p) gen t ∧ changesOnly [.free, .dict, .ev, .ports, .ecat] s t
    ((portOf s1 p).state = .disabled →
      ∃ t, exec (.enable p w gen) s = .next t ∧ (portOf t p).state = .listen ∧ done t) ∧
    ((portOf s1 p).state = .up →
      ∃ t, exec (.disable p w gen) s = .next t ∧ (portOf t p).state = .draining ∧ (portOf t p).goal = .disabled ∧ done t) ∧
    ((portOf s1 p).state ∈ [PortState.listen, .training, .idle] →
      ∃ t, exec (.disable p w gen) s = .next t ∧ (portOf t p).state = .disabled ∧ done t) ∧
    ((portOf s1 p).state ∈ [PortState.up, .listen, .idle] →
      ∃ t, exec (.retrain p w gen) s = .next t ∧ (portOf t p).state = .training ∧ (portOf t p).fullTraining = true ∧
        done t) ∧
    ((portOf s1 p).state = .up →
      ∃ t, exec (.enterIdle p w gen) s = .next t ∧ (portOf t p).state = .draining ∧ (portOf t p).goal = .idle ∧ done t) ∧
    (∀ m, (portOf s1 p).state = .disabled →
      ∃ t, exec (match m with | .nes => .loopbackNes p w gen | .nep => .loopbackNep p w gen | .fe => .loopbackFe p w gen) s
          = .next t ∧ (portOf t p).state = .loopback ∧ (portOf t p).goal = .loopback m ∧ done t) ∧
    (∀ m, (portOf s1 p).state = .up →
      ∃ t, exec (match m with | .nes => .loopbackNes p w gen | .nep => .loopbackNep p w gen | .fe => .loopbackFe p w gen) s
          = .next t ∧ (portOf t p).state = .draining ∧ (portOf t p).goal = .loopback m ∧ done t) ∧
    ((portOf s1 p).state = .loopback →
      ∃ t, exec (.endLoopback p w gen) s = .next t ∧ (portOf t p).state = .disabled ∧ done t)

/-- LINK_FRAME_RECEIVED (R96, R105, R110, R112, R114, R124, R125). -/
def Obligations.LinkFramesAreTakenInOrder : Prop :=
  ∀ (p : PortId) (s : State), released s = true → (portOf s p).state = .up →
    (receivedFrame (portOf s p) = none →
      ∃ t, exec (.linkFrameReceived p) s = .next t ∧ t.pending = s.pending ∧ changesOnly [] s t) ∧
    (∀ (h : FrameHeader) (msgs : List RxMsg), receivedFrame (portOf s p) = some (.good, h, msgs) →
      badFrame (portOf s p) .good h = false → h.kind = 1 →
      (h.fseq.toNat = (portOf s p).rxExpected → route s p h = .consume →
        ∃ t, exec (.linkFrameReceived p) s = .next t ∧
          (portOf t p).rxExpected = ((portOf s p).rxExpected + 1) % 65536 ∧
          (portOf t p).unacked = (portOf s p).unacked + 1 ∧ (portOf t p).nakSent = false ∧
          (portOf t p).rxConsumed = (portOf s p).rxConsumed.add (declared h) ∧
          (portOf t p).retry = (portOf s p).retry ∧ changesOnly [.free, .dict, .ev, .ports] s t) ∧
      (h.fseq.toNat ≠ (portOf s p).rxExpected → fseqBehind (portOf s p).rxExpected h.fseq.toNat = true →
        ∃ t, exec (.linkFrameReceived p) s = .next t ∧ portOf t p = { portOf s p with ackDue := true } ∧
          (∀ q, q ≠ p → portOf t q = portOf s q) ∧ changesOnly [.ports] s t) ∧
      (h.fseq.toNat ≠ (portOf s p).rxExpected → fseqBehind (portOf s p).rxExpected h.fseq.toNat = false →
        (portOf s p).nakSent = false →
        ∃ t, exec (.linkFrameReceived p) s = .next t ∧
          portOf t p = { portOf s p with nakSent := true, nakAge := 0, nakDue := some 2 } ∧ counted (Obj.naksSent p) 1 s t ∧
          objectsBut [Obj.naksSent p] s t ∧ (∀ q, q ≠ p → portOf t q = portOf s q) ∧ changesOnly [.dict, .ports] s t)) ∧
    (∀ (h : FrameHeader) (msgs : List RxMsg), receivedFrame (portOf s p) = some (.bad, h, msgs) →
      (portOf s p).nakSent = false →
      ∃ t, exec (.linkFrameReceived p) s = .next t ∧
        portOf t p = { portOf s p with nakSent := true, nakAge := 0, nakDue := some 1 } ∧ counted (Obj.naksSent p) 1 s t ∧
        counted (Obj.frameCrcErrors p) 1 s t ∧ objectsBut [Obj.naksSent p, Obj.frameCrcErrors p] s t ∧
        (cutsThrough s = false → ∀ q, q ≠ p → portOf t q = portOf s q) ∧ changesOnly [.dict, .ports] s t) ∧
    (∀ (h : FrameHeader) (msgs : List RxMsg), receivedFrame (portOf s p) = some (.stomped, h, msgs) →
      ∃ t, exec (.linkFrameReceived p) s = .next t ∧ portOf t p = portOf s p ∧ counted (Obj.stompedFrames p) 1 s t ∧
        objectsBut [Obj.stompedFrames p] s t ∧ (cutsThrough s = false → ∀ q, q ≠ p → portOf t q = portOf s q) ∧
        (cutsThrough s = true → h.kind = 1 → h.fseq.toNat = (portOf s p).rxExpected → route s p h = .forward →
          allowsFrame (portOf s p.other) (declared h) = true →
          portOf t p.other = { portOf s p.other with stomp := some (FrameHeader.route h, msgs) }) ∧
        changesOnly [.dict, .ports] s t)

/-- Acknowledgement, replay and credits (R110, R111, R114). -/
def Obligations.RetryAndCreditsFollowTheLink : Prop :=
  ∀ (p : PortId) (s : State), released s = true →
    (∀ seq : Half, ∃ t, exec (.ack p seq) s = .next t ∧
      (∀ f, f ∈ (portOf t p).retry ↔
        f ∈ (portOf s p).retry ∧ 32768 ≤ (seq.toNat + 65536 - f.fseq) % 65536) ∧
      (portOf t p).txNext = (portOf s p).txNext ∧ (∀ q, q ≠ p → portOf t q = portOf s q) ∧ changesOnly [.ports] s t) ∧
    (∀ (seq : Half) (reason : Byte) (before again : List RetryFrame) (f : RetryFrame),
      (portOf s p).retry = before ++ f :: again → f.fseq = seq.toNat → (∀ g ∈ before, g.fseq ≠ seq.toNat) →
      ∃ t, exec (.nak p seq reason) s = .next t ∧ (portOf t p).retry = before ∧ (portOf t p).txNext = seq.toNat ∧
        (portOf t p).replaying = (f :: again).flatMap (·.msgs) ++ (portOf s p).replaying ∧
        changesOnly [.free, .dict, .ev, .ports] s t) ∧
    (∀ (f : RetryFrame) (rest : List RetryFrame), (portOf s p).retry = f :: rest →
      ∃ t, exec (.replayTimeout p) s = .next t ∧ (portOf t p).retry = [] ∧ (portOf t p).txNext = f.fseq ∧
        (portOf t p).replaying = (f :: rest).flatMap (·.msgs) ++ (portOf s p).replaying ∧
        changesOnly [.free, .dict, .ev, .ports] s t) ∧
    (∀ cmd admin data resp : Half, ∃ t, exec (.credit p cmd admin data resp) s = .next t ∧
      (let ahead := fun (old : Nat) (new : Half) => (new.toNat + 65536 - old) % 65536 < 32768
       (portOf t p).txLimit.cmd = (if ahead (portOf s p).txLimit.cmd cmd then cmd.toNat else (portOf s p).txLimit.cmd) ∧
       (portOf t p).txLimit.admin =
         (if ahead (portOf s p).txLimit.admin admin then admin.toNat else (portOf s p).txLimit.admin) ∧
       (portOf t p).txLimit.data = (if ahead (portOf s p).txLimit.data data then data.toNat else (portOf s p).txLimit.data) ∧
       (portOf t p).txLimit.resp =
         (if ahead (portOf s p).txLimit.resp resp then resp.toNat else (portOf s p).txLimit.resp)) ∧
      (portOf t p).txUsed = (portOf s p).txUsed ∧ (∀ q, q ≠ p → portOf t q = portOf s q) ∧ changesOnly [.ports] s t) ∧
    (∃ t, exec (.creditRefresh p) s = .next t ∧ (portOf t p).creditDue = true ∧
      (portOf t p).rxConsumed = (portOf s p).rxConsumed ∧ (∀ q, q ≠ p → portOf t q = portOf s q) ∧ changesOnly [.ports] s t)

/-- LANE_FRAME_PERIOD and ENUMERATION_FRAME (R84, R104, R110, R121, R122). -/
def Obligations.LaneFramePeriodsSendWhatIsDue : Prop :=
  (∀ (p : PortId) (s : State), released s = true → (portOf s p).state = .training → s.power.failing = false →
    (∀ d, turnSlot s p d = none) →
    ∃ t, exec (.laneFramePeriod p) s = .next t ∧ (portOf t p).sent = .nothing ∧
      (portOf t p).frameSeq = ((portOf s p).frameSeq + 1) % 256 ∧ changesOnly [.ports] s t) ∧
  (∀ (p : PortId) (s : State), released s = true → (portOf s p).state = .up → (portOf s p).eotSent = false →
    s.power.failing = false → (portOf s p).replaying = [] → (portOf s p).txWait = [] → (portOf s p).backlog = [] →
    (portOf s p).evtLost = 0 → (portOf s p).nakDue = none → (portOf s p).creditDue = false → (portOf s p).stomp = none →
    activeLanes (portOf s p) ≠ [] → (∀ d, turnSlot s p d = none) →
    ∃ t, exec (.laneFramePeriod p) s = .next t ∧
      (portOf t p).sent = (if 0 < (portOf s p).unacked ∨ (portOf s p).ackDue = true
        then .control (some (((portOf s p).rxExpected + 65535) % 65536)) none none else .fill) ∧
      (portOf t p).unacked = 0 ∧ (portOf t p).ackDue = false ∧ (portOf t p).retry = (portOf s p).retry ∧
      (portOf t p).frameSeq = ((portOf s p).frameSeq + 1) % 256 ∧ changesOnly [.ports] s t) ∧
  (∀ (d : Dom) (dest reqId : Byte) (value : Word) (s : State), released s = true → (portOf s .a).state = .up →
    numbered s = false → value.toNat = dest.toNat →
    ∃ t, exec (.enumerationFrame d dest (BitVec.ofNat 32 (windowAddr 0x2480 1)) value reqId) s = .next t ∧
      obj t Obj.nodeId = dest.toNat ∧ obj t Obj.nodeIdValid = 1 ∧ objectsBut [Obj.nodeId, Obj.nodeIdValid] s t ∧
      changesOnly [.dict, .ports] s t)

/-- OBJECT_WRITE (R45, R53, R58, R59, R60, R540, R541). -/
def Obligations.ObjectWritesStoreTheirValue : Prop :=
  (∀ (i : Half) (sub : Byte) (bytes : List Byte) (s : State), released s = true → coeServed s = true →
    storesOnly i.toNat sub.toNat = true →
    firstReason (writeChecks s .sdo i.toNat sub.toNat bytes.length (ofLeBytes bytes)) = none →
    ∃ t, exec (.objectWrite (.sdo i sub bytes)) s = .next t ∧ obj t (objKey i.toNat sub.toNat) = ofLeBytes bytes ∧
      objectsBut [objKey i.toNat sub.toNat] s t ∧ t.ecat = { s.ecat with sdo := none, reply := .sdoDone [] } ∧
      changesOnly [.dict, .ecat] s t) ∧
  (∀ (i : Half) (sub : Byte) (bytes : List Byte) (s : State), released s = true → coeServed s = true →
    (let l := splitEntries i.toNat (subsFrom i.toNat sub.toNat) bytes
     (∀ e ∈ l, fixedEntry i.toNat e.1 = false → storesOnly i.toNat e.1 = true) →
     firstReason (completeChecks s .sdo i.toNat sub.toNat bytes.length ++
       byStep (l.map (entryChecks s (putAll i.toNat l s) .sdo i.toNat))) = none →
     ∃ t, exec (.objectWrite (.sdoComplete i sub bytes)) s = .next t ∧
      (∀ k, obj t k = obj (putAll i.toNat l s) k) ∧ t.ecat = { s.ecat with sdo := none, reply := .sdoDone [] } ∧
      changesOnly [.dict, .ecat] s t)) ∧
  (∀ (p : PortId) (d : Dom) (reqId : Byte) (addr value : Word) (i sub : Nat) (s : State), released s = true →
    portReceives s p = true → addr.toNat % 4 = 0 → windowTarget addr.toNat = some (i, sub, false) →
    isWide i sub = false → storesOnly i sub = true →
    (let v := regwValue i sub value.toNat
     let s1 := returnAdmin p 1 (dropPair p s)
     firstReason (writeChecks s1 (.regw p d reqId) i sub (typeBytes i sub) v) = none →
     ∃ t, exec (.objectWrite (.regw p d reqId addr value)) s = .next t ∧ obj t (objKey i sub) = v ∧
      lastSent t p = some (.regd d addr.toNat reqId.toNat 0 (windowWord (setObj (objKey i sub) v s1) i sub false)) ∧
      objectsBut [objKey i sub] s t ∧ changesOnly [.dict, .ports] s t)) ∧
  (∀ (i : Half) (sub : Byte) (v : DWord) (s s1 : State), writePasses .rxpdo i.toNat sub.toNat v.toNat s s1 →
    storesOnly i.toNat sub.toNat = true →
    ∃ t, exec (.objectWrite (.rxpdo i sub v)) s = .next t ∧ obj t (objKey i.toNat sub.toNat) = v.toNat ∧
      objectsBut [objKey i.toNat sub.toNat] s t ∧ changesOnly [.dict] s t) ∧
  (∀ (i : Half) (sub : Byte) (bytes : List Byte) (r : Reason) (s : State), released s = true → coeServed s = true →
    storesOnly i.toNat sub.toNat = true →
    firstReason (writeChecks s .sdo i.toNat sub.toNat bytes.length (ofLeBytes bytes)) = some r →
    ∃ t, exec (.objectWrite (.sdo i sub bytes)) s = .next t ∧ t.ecat = { s.ecat with sdo := none, reply := .sdoAbort r.abort } ∧
      obj t Obj.refusalDetailField % 256 = min (obj s Obj.refusalDetailField % 256 + 1) 255 ∧
      (r.link ≠ 0x18 → r.link ≠ 0x19 →
        obj t Obj.refusalDetailField / 2 ^ 32 = 2 ^ 16 * i.toNat + 2 ^ 8 * sub.toNat + r.link) ∧
      objectsBut [Obj.refusalDetailField] s t ∧ changesOnly [.dict, .ecat] s t) ∧
  (∀ (complete : Bool) (i : Half) (sub : Byte) (total : Word) (bytes : List Byte) (s : State), released s = true →
    coeServed s = true →
    ∃ t, exec (.objectWrite (.sdoBegin complete i sub total bytes)) s = .next t ∧
      t.ecat = { s.ecat with sdo := some ⟨true, complete, i.toNat, sub.toNat, total.toNat, false, bytes⟩, reply := .sdoDone [] } ∧
      changesOnly [.ecat] s t) ∧
  (∀ (x : SdoTransfer) (bytes : List Byte) (s : State), released s = true → coeServed s = true → s.ecat.sdo = some x →
    x.write = true →
    (∃ t, exec (.objectWrite (.sdoSegment x.toggle false bytes)) s = .next t ∧
      t.ecat = { s.ecat with sdo := some { x with toggle := !x.toggle, bytes := x.bytes ++ bytes }, reply := .sdoSegment x.toggle } ∧
      changesOnly [.ecat] s t) ∧
    (x.complete = false → x.bytes.length + bytes.length = x.total → storesOnly x.index x.sub = true →
      firstReason (writeChecks s .sdo x.index x.sub x.total (ofLeBytes (x.bytes ++ bytes))) = none →
      ∃ t, exec (.objectWrite (.sdoSegment x.toggle true bytes)) s = .next t ∧
        obj t (objKey x.index x.sub) = ofLeBytes (x.bytes ++ bytes) ∧ objectsBut [objKey x.index x.sub] s t ∧
        t.ecat = { s.ecat with sdo := none, reply := .sdoDone [] } ∧ changesOnly [.dict, .ecat] s t))

/-- The register window's pairs of words (R61, R62). -/
def Obligations.WideObjectsTakeTwoWords : Prop :=
  (∀ (p : PortId) (d : Dom) (reqId : Byte) (addr value : Word) (i sub : Nat) (s : State), released s = true →
    portReceives s p = true → addr.toNat % 4 = 0 → windowTarget addr.toNat = some (i, sub, false) → isWide i sub = true →
    (let s1 := returnAdmin p 1 (dropPair p s)
     firstReason (accessChecks s1 (.regw p d reqId) i sub) = none →
     ∃ t, exec (.regwLowerWord p d reqId addr value) s = .next t ∧ (portOf t p).held = some (objKey i sub, value.toNat) ∧
      lastSent t p = some (.regd d addr.toNat reqId.toNat 0 (windowWord s1 i sub false)) ∧ changesOnly [.ports] s t)) ∧
  (∀ (p : PortId) (d : Dom) (reqId : Byte) (addr value : Word) (i sub low : Nat) (s : State), released s = true →
    portReceives s p = true → addr.toNat % 4 = 0 → windowTarget addr.toNat = some (i, sub, true) → isWide i sub = true →
    ((i = 0x3800 ∧ sub = 3) ∨ (∃ e : Dom, i = 0x4007 + 0x100 * e.val ∧ sub = 1)) →
    (portOf s p).held = some (objKey i sub, low) → low < 2 ^ 32 →
    (let v := 2 ^ 32 * value.toNat + low
     let s1 := returnAdmin p 1 (dropPair p s)
     firstReason (writeChecks s1 (.regw p d reqId) i sub 8 v) = none →
     ∃ t, exec (.objectWrite (.regw p d reqId addr value)) s = .next t ∧ obj t (objKey i sub) = v ∧
      (portOf t p).held = none ∧ t.pins.external = s.pins.external ∧
      changesOnly [.dict, .ev, .free, .pins, .ports] s t)) ∧
  (∀ (p : PortId) (d : Dom) (reqId : Byte) (addr : Word) (i sub : Nat) (s : State), released s = true →
    portReceives s p = true → addr.toNat % 4 = 0 → windowTarget addr.toNat = some (i, sub, false) → isWide i sub = true →
    (∀ r, findObj i sub = some r → r.access ≠ .wo) →
    (let s1 := returnAdmin p 1 (dropPair p s)
     mayRead s1 p d i = true →
     ∃ t, exec (.regrLowerWord p d reqId addr) s = .next t ∧
      (portOf t p).capture = some (objKey i sub, windowWord s1 i sub true) ∧
      lastSent t p = some (.regd d addr.toNat reqId.toNat 0 (windowWord s1 i sub false)) ∧ changesOnly [.ports] s t))

/-- MGMT_READ, MGMT_WRITE, GET_DESCRIPTION, ABORT_TRANSFER, UNDEFINED_MGMT_OPCODE and MGMT_TRANSFER_TIMEOUT
(R58, R63, R64). -/
def Obligations.MgmtRequestsAreAnswered : Prop :=
  (∀ (p : PortId) (d : Dom) (m : MgmtReq) (s : State), released s = true → portReceives s p = true → m.complete = false →
    (portOf s p).transfer = none →
    (let s1 := returnAdmin p (mgmtUnits 0) s
     let b := objBytes s1 m.index.toNat m.sub.toNat
     firstReason (readChecks s1 p d m ++ segmentChecks (portOf s1 p) false m) = none →
     ∃ t, exec (.mgmtRead p d m) s = .next t ∧
      lastSent t p = some (.mgmt d 0x81 0 m.index.toNat m.sub.toNat m.transferId.toNat 0 b.length 0 (b.take 240)) ∧
      (b.length ≤ 240 → (portOf t p).transfer = none) ∧
      (240 < b.length → (portOf t p).transfer =
        some ⟨false, m.transferId.toNat, m.index.toNat, m.sub.toNat, false, b.length, 1, b.drop 240⟩) ∧
      changesOnly [.ports] s t)) ∧
  (∀ (p : PortId) (d : Dom) (m : MgmtReq) (bytes : List Byte) (s : State), released s = true → portReceives s p = true →
    (portOf s p).transfer = none → m.last = false → bytes.length = 240 →
    (let s1 := returnAdmin p (mgmtUnits 240) s
     firstReason (mgmtWriteChecks s1 (.mgmt p d m.transferId) m ++ segmentChecks (portOf s1 p) true m) = none →
     ∃ t, exec (.mgmtWrite p d m bytes) s = .next t ∧
      (portOf t p).transfer = some ⟨true, m.transferId.toNat, m.index.toNat, m.sub.toNat, m.complete, m.total.toNat, 1, bytes⟩ ∧
      lastSent t p = some (.mgmt d 0x82 0 m.index.toNat m.sub.toNat m.transferId.toNat 0 m.total.toNat 0 []) ∧
      changesOnly [.ports] s t)) ∧
  (∀ (p : PortId) (d : Dom) (m : MgmtReq) (bytes : List Byte) (s : State), released s = true → portReceives s p = true →
    (portOf s p).transfer = none → m.last = true → m.complete = false → m.segment = 0 → bytes.length = m.total.toNat →
    m.total.toNat ≤ 65536 → storesOnly m.index.toNat m.sub.toNat = true →
    (∀ s1, arrived (.mgmt p d m.transferId) m.index.toNat m.sub.toNat bytes.length s = some s1 →
      firstReason (writeChecks s1 (.mgmt p d m.transferId) m.index.toNat m.sub.toNat bytes.length (ofLeBytes bytes)) = none →
      ∃ t, exec (.mgmtWrite p d m bytes) s = .next t ∧ obj t (objKey m.index.toNat m.sub.toNat) = ofLeBytes bytes ∧
        (portOf t p).transfer = none ∧
        lastSent t p = some (.mgmt d 0x82 0 m.index.toNat m.sub.toNat m.transferId.toNat 0 m.total.toNat 0 []) ∧
        objectsBut [objKey m.index.toNat m.sub.toNat] s t ∧ changesOnly [.dict, .ports] s t)) ∧
  (∀ (p : PortId) (d : Dom) (m : MgmtReq) (s : State), released s = true → portReceives s p = true →
    indexPresent m.index.toNat = true → (findObj m.index.toNat m.sub.toNat).isSome = true → mgmtAllowed s p d = true →
    (∀ x, (portOf s p).transfer = some x → x.transferId = m.transferId.toNat) →
    ∃ t, exec (.getDescription p d m) s = .next t ∧
      lastSent t p = some (.mgmt d 0x83 0 m.index.toNat m.sub.toNat m.transferId.toNat m.segment.toNat
        (describe m.index.toNat m.sub.toNat).length 0 (describe m.index.toNat m.sub.toNat)) ∧
      (portOf t p).transfer = (portOf s p).transfer ∧ changesOnly [.ports] s t) ∧
  (∀ (p : PortId) (d : Dom) (m : MgmtReq) (s : State), released s = true → portReceives s p = true →
    mgmtAllowed s p d = true → (∀ x, (portOf s p).transfer = some x → x.transferId = m.transferId.toNat) →
    ∃ t, exec (.abortTransfer p d m) s = .next t ∧ (portOf t p).transfer = none ∧
      lastSent t p = some (.mgmt d 0x84 0 m.index.toNat m.sub.toNat m.transferId.toNat m.segment.toNat m.total.toNat 0 []) ∧
      changesOnly [.ports] s t) ∧
  (∀ (p : PortId) (d : Dom) (opcode : Byte) (m : MgmtReq) (s : State), released s = true → portReceives s p = true →
    (opcode.toNat = 0 ∨ 4 < opcode.toNat) →
    ∃ t, exec (.undefinedMgmtOpcode p d opcode m) s = .next t ∧
      lastSent t p = some (.mgmt d (opcode.toNat % 128 + 128) 0x11 m.index.toNat m.sub.toNat m.transferId.toNat
        m.segment.toNat m.total.toNat 0x05040001 []) ∧
      obj t Obj.refusalDetailLink / 2 ^ 32 % 256 = 0x11 ∧ objectsBut [Obj.refusalDetailLink] s t ∧
      changesOnly [.dict, .ports] s t) ∧
  (∀ (p : PortId) (s : State), released s = true →
    ∃ t, exec (.mgmtTransferTimeout p) s = .next t ∧ (portOf t p).transfer = none ∧ (∀ q, q ≠ p → portOf t q = portOf s q) ∧
      changesOnly [.ports] s t)

/-- APPLY, INJECT_WAVEFORM, CAPTURE_ARM, CAPTURE_STOP, CALIBRATE, HOLDUP_CONTROL, ENERGY_CLEAR and RESET_REQUEST
(R305, R311, R323, R324, R370, R374, R423, R446). -/
def Obligations.ControlObjectsAct : Prop :=
  (∀ (w : Writer) (n : Fin 16) (control : Byte) (s s1 : State),
    writePasses w (0x3000 + n.val) 7 (control.toNat ||| 4) s s1 →
    ∃ t, exec (.apply w n control) s = .next t ∧ obj t (Obj.slotControl n) = control.toNat % 4 ∧
      loopOf t n = { loopOf s n with apply := true } ∧ (∀ m, m ≠ n → loopOf t m = loopOf s m) ∧
      objectsBut [Obj.slotControl n] s t ∧ changesOnly [.dict, .ecat, .ports, .xport] s t) ∧
  (∀ (w : Writer) (value : Byte) (s s1 : State), writePasses w 0x3010 2 value.toNat s s1 →
    ∃ t, exec (.injectWaveform w value) s = .next t ∧ obj t (objKey 0x3010 2) = value.toNat ∧
      t.xport = { s.xport with inject := ⟨0, 0x7FF⟩ } ∧ objectsBut [objKey 0x3010 2] s t ∧
      changesOnly [.dict, .ecat, .ports, .xport] s t) ∧
  (∀ (w : Writer) (s s1 : State), writePasses w 0x3011 4 1 s s1 →
    ∃ t, exec (.captureArm w) s = .next t ∧ t.xport = { s.xport with capture := ⟨.armed, [], 0⟩ } ∧
      objectsBut [Obj.captureStatus] s t ∧ changesOnly [.dict, .ecat, .ports, .xport] s t) ∧
  (∀ (w : Writer) (s s1 : State), writePasses w 0x3011 4 2 s s1 →
    ∃ t, exec (.captureStop w) s = .next t ∧ t.xport.capture.samples = s.xport.capture.samples ∧
      ((s.xport.capture.state = .armed ∨ s.xport.capture.state = .running) → t.xport.capture.state = .idle) ∧
      objectsBut [Obj.captureStatus] s t ∧ changesOnly [.dict, .ecat, .ports, .xport] s t) ∧
  (∀ (w : Writer) (value : Byte) (s s1 : State), writePasses w 0x2E03 1 value.toNat s s1 →
    ∃ t, exec (.calibrate w value) s = .next t ∧ t.cart = { s.cart with calibration := true } ∧
      changesOnly [.free, .dict, .ev, .ports, .ecat, .cart, .sched, .opLog] s t) ∧
  (∀ (w : Writer) (value : Byte) (s s1 : State), writePasses w 0x3601 5 value.toNat s s1 →
    ∃ t, exec (.holdupControl w value) s = .next t ∧ t.power = { s.power with slotFaults := [], faulted := false } ∧
      (∀ n ∈ s.power.slotFaults, (loopOf t (Fin.ofNat 16 n)).fault = false) ∧
      changesOnly [.dict, .ecat, .ports, .power, .xport] s t) ∧
  (∀ (w : Writer) (value : Byte) (s s1 : State), writePasses w 0x2160 0xB value.toNat s s1 →
    ∃ t, exec (.energyClear w value) s = .next t ∧ t.energy = { s.energy with clearDue := true } ∧
      changesOnly [.ecat, .energy, .ports] s t) ∧
  (∀ (w : Writer) (value : Half) (s s1 : State), writePasses w 0x2200 3 value.toNat s s1 → s.power.failing = false →
    ∃ t, exec (.resetRequest w value) s = .next t ∧ t.power.failing = true ∧ t.power.forReset = true ∧
      t.boot = { s.boot with warmPending := true, cause := 3 } ∧ t.cart.openCut = none ∧ t.comp.blocks = [] ∧
      t.ring = s.ring ∧
      changesOnly [.boot, .cart, .comp, .dict, .doms, .dram, .ecat, .jour, .opLog, .ports, .power, .recov, .sched, .xport] s t)

/-- PIN_CONFIG, EVENT_CONFIG, PIN_OUT and DEVICE_PIN_OUT (R453, R456, R457, R461). -/
def Obligations.PinObjectsTakeEffect : Prop :=
  (∀ (w : Writer) (port : Fin 5) (pin : Fin 8) (value : Word) (s s1 : State),
    writePasses w (0x3801 + port.val) (pin.val + 1) value.toNat s s1 →
    (let q := 8 * port.val + pin.val
     let new := fieldOf value.toNat 20 4
     ∃ t, exec (.pinConfig w port pin value) s = .next t ∧ obj t (Obj.pinConfig port.val pin.val) = value.toNat ∧
      (∀ k, pinOwner s1 q ≠ new → ownerKey new = some k → bitOf (obj t k) q = pinValue s1 q) ∧
      (∀ k, pinOwner s1 q ≠ new → ownerKey (pinOwner s1 q) = some k → ownerKey new ≠ some k → bitOf (obj t k) q = false) ∧
      t.pins.external = s.pins.external ∧ changesOnly [.dict, .ecat, .ev, .free, .pins, .ports] s t)) ∧
  (∀ (w : Writer) (line : Fin 8) (value : Word) (s s1 : State), writePasses w 0x3806 (line.val + 1) value.toNat s s1 →
    (let s2 := setObj (Obj.eventConfig line.val) value.toNat s1
     let level := linePort s2 line.val < 5 && pinValue s2 (linePin s2 line)
     ∃ t, exec (.eventConfig w line value) s = .next t ∧ obj t (Obj.eventConfig line.val) = value.toNat ∧
      lineOf t line = ⟨level, false, level⟩ ∧ (∀ m, m ≠ line → lineOf t m = lineOf s m) ∧
      (∀ p, ∀ m ∈ (portOf t p).txWait, isLineEvent line m = false) ∧ t.pins.external = s.pins.external ∧
      objectsBut [Obj.eventConfig line.val] s t ∧ changesOnly [.dict, .ecat, .pins, .ports] s t)) ∧
  (∀ (w : Writer) (d : Dom) (value : DWord) (s s1 : State), writePasses w (0x4007 + 0x100 * d.val) 1 value.toNat s s1 →
    ∃ t, exec (.pinOut w d value) s = .next t ∧ obj t (Obj.pinOut d) = value.toNat ∧ t.pins.external = s.pins.external ∧
      changesOnly [.dict, .ecat, .ev, .free, .pins, .ports] s t) ∧
  (∀ (w : Writer) (value : DWord) (s s1 : State), writePasses w 0x3800 3 value.toNat s s1 →
    ∃ t, exec (.devicePinOut w value) s = .next t ∧ obj t Obj.devicePinOut = value.toNat ∧
      t.pins.external = s.pins.external ∧ changesOnly [.dict, .ecat, .ev, .free, .pins, .ports] s t)

/-- IMAGE_PUSH_DATA, IMAGE_PUSH_COMMIT and IMAGE_ACTIVATE (R428-R431). -/
def Obligations.ImagesArePushedAndActivated : Prop :=
  (∀ (w : Writer) (bytes : List Byte) (s s1 : State), released s = true → w ≠ .rxpdo → (∀ p d r, w ≠ .regw p d r) →
    arrived w 0x2202 2 bytes.length s = some s1 → firstReason (accessChecks s1 w 0x2202 2) = none →
    bytes ≠ [] → bytes.length ≤ 65536 → obj s Obj.imagePushOffset + bytes.length ≤ slotSize → pushAllowed s = true →
    ∃ t x, exec (.imagePushData w bytes) s = .next t ∧ t.boot = { s.boot with download := some x } ∧
      (x.bytes.drop (obj s Obj.imagePushOffset)).take bytes.length = bytes ∧
      (∀ y, s.boot.download = some y → obj s Obj.imagePushOffset ≤ y.bytes.length →
        x.bytes.take (obj s Obj.imagePushOffset) = y.bytes.take (obj s Obj.imagePushOffset)) ∧
      obj t Obj.imagePushOffset = obj s Obj.imagePushOffset + bytes.length ∧ objectsBut [Obj.imagePushOffset] s t ∧
      changesOnly [.boot, .dict, .ecat, .free, .ports] s t) ∧
  (∀ (w : Writer) (length : Word) (x : Download) (s s1 : State), writePasses w 0x2202 3 length.toNat s s1 →
    s.boot.download = some x →
    (∀ c, checkImage s1 length.toNat (x.bytes.take length.toNat) = .ok c →
      ∃ t, exec (.imagePushCommit w length) s = .next t ∧ t.boot.download = none ∧
        vget t.boot.slots (inactiveSlot s) = ⟨x.bytes.take length.toNat, 1, 0, c.version⟩ ∧
        (∀ n, n ≠ inactiveSlot s → vget t.boot.slots n = vget s.boot.slots n) ∧ t.boot.copies = s.boot.copies ∧
        changesOnly [.boot, .ecat, .ports] s t) ∧
    (∀ r, checkImage s1 length.toNat (x.bytes.take length.toNat) = .error r →
      ∃ t, exec (.imagePushCommit w length) s = .next t ∧ t.boot = { s.boot with download := none } ∧
        obj t Obj.lastRefusal = r % 2 ^ objWidth Obj.lastRefusal ∧ changesOnly [.boot, .dict, .ecat, .ports] s t)) ∧
  (∀ (w : Writer) (value : Byte) (s s1 : State), writePasses w 0x2201 4 value.toNat s s1 →
    ∃ t, exec (.imageActivate w value) s = .next t ∧
      vget t.boot.copies (olderCopy s) = some ⟨copyCounter s + 1, inactiveSlot s⟩ ∧
      (∀ n, n ≠ olderCopy s → vget t.boot.copies n = vget s.boot.copies n) ∧ t.boot.slots = s.boot.slots ∧
      (∀ o ∈ t.jour.openOps, o.kind ≠ 3) ∧ changesOnly [.boot, .ecat, .jour, .opLog, .ports] s t)

/-- The AL state requests and the SM2 watchdog (R69, R72, R75, R462). What R75 leaves to the standard is the model's choice
(log entry 24). -/
def Obligations.AlStatesFollowTheMaster : Prop :=
  (∀ s : State, released s = true → ∃ t, exec .masterRequestsInit s = .next t ∧
    t.ecat = { s.ecat with al := .init, errorFlag := false, outputs := none, reply := .nothing, sdo := none } ∧
    t.ev.emergencies = [] ∧ obj t Obj.ecatAlStatusCode = 0 ∧
    (s.ecat.al = .op → dictWf s.dict = true → obj t Obj.pdoOutputs = obj s Obj.pdoSafeOutputs) ∧
    changesOnly [.boot, .dict, .ecat, .ev, .free, .pins, .ports] s t) ∧
  (∀ s : State, released s = true → s.ecat.al ≠ .boot → ∃ t, exec .masterRequestsPreop s = .next t ∧
    t.ecat = { s.ecat with al := .preop, errorFlag := false, outputs := none } ∧ obj t Obj.ecatAlStatusCode = 0 ∧
    (s.ecat.al = .op → dictWf s.dict = true → obj t Obj.pdoOutputs = obj s Obj.pdoSafeOutputs) ∧
    changesOnly [.dict, .ecat, .ev, .free, .pins, .ports] s t) ∧
  (∀ (x : SlaveSettings) (s : State), released s = true →
    (s.ecat.al = .preop → safeopError x s = none →
      ∃ t, exec (.masterRequestsSafeop x) s = .next t ∧
        t.ecat = { s.ecat with al := .safeop, errorFlag := false, outputs := none, settings := x } ∧
        objectsBut [Obj.ecatAlStatusCode] s t ∧ obj t Obj.ecatAlStatusCode = 0 ∧ changesOnly [.dict, .ecat] s t) ∧
    (∀ code, s.ecat.al = .preop → safeopError x s = some code →
      ∃ t, exec (.masterRequestsSafeop x) s = .next t ∧ t.ecat = { s.ecat with errorFlag := true, settings := x } ∧
        objectsBut [Obj.ecatAlStatusCode] s t ∧ obj t Obj.ecatAlStatusCode = code ∧ changesOnly [.dict, .ecat] s t) ∧
    (s.ecat.al = .init ∨ s.ecat.al = .boot →
      ∃ t, exec (.masterRequestsSafeop x) s = .next t ∧ t.ecat = { s.ecat with errorFlag := true, settings := x } ∧
        objectsBut [Obj.ecatAlStatusCode] s t ∧ obj t Obj.ecatAlStatusCode = 0x11 ∧ changesOnly [.dict, .ecat] s t) ∧
    (s.ecat.al = .op → ∃ t, exec (.masterRequestsSafeop x) s = .next t ∧
        t.ecat = { s.ecat with al := .safeop, errorFlag := false, outputs := none, settings := x } ∧
        (dictWf s.dict = true → obj t Obj.pdoOutputs = obj s Obj.pdoSafeOutputs) ∧
        changesOnly [.dict, .ecat, .ev, .free, .pins, .ports] s t)) ∧
  (∀ s : State, released s = true →
    (s.ecat.al = .safeop → s.ecat.outputs = none → assignedPdos s 0x1C12 = [] →
      ∃ t, exec .masterRequestsOp s = .next t ∧ t.ecat = { s.ecat with al := .op, errorFlag := false } ∧
        obj t Obj.ecatAlStatusCode = 0 ∧ objectsBut [Obj.ecatAlStatusCode] s t ∧ changesOnly [.dict, .ecat] s t) ∧
    (∀ image, s.ecat.al = .safeop → s.ecat.outputs = some image →
      exec .masterRequestsOp s = .next (applyOutputs image (enterAl .op s))) ∧
    (s.ecat.al = .init ∨ s.ecat.al = .preop ∨ s.ecat.al = .boot →
      ∃ t, exec .masterRequestsOp s = .next t ∧ t.ecat = { s.ecat with errorFlag := true } ∧
        obj t Obj.ecatAlStatusCode = 0x11 ∧ objectsBut [Obj.ecatAlStatusCode] s t ∧ changesOnly [.dict, .ecat] s t)) ∧
  (∀ s : State, released s = true → ∃ t, exec .masterRequestsBoot s = .next t ∧
    t.ecat = (if s.ecat.al = .init ∨ s.ecat.al = .boot then { s.ecat with al := .boot, errorFlag := false }
      else { s.ecat with errorFlag := true }) ∧
    obj t Obj.ecatAlStatusCode = (if s.ecat.al = .init ∨ s.ecat.al = .boot then 0 else 0x11) ∧
    objectsBut [Obj.ecatAlStatusCode] s t ∧ changesOnly [.dict, .ecat] s t) ∧
  (∀ s : State, released s = true → s.ecat.al = .op → ∃ t, exec .sm2WatchdogExpiry s = .next t ∧
    t.ecat = { s.ecat with al := .safeop, errorFlag := true, outputs := none } ∧ obj t Obj.ecatAlStatusCode = 0x1B ∧
    (dictWf s.dict = true → obj t Obj.pdoOutputs = obj s Obj.pdoSafeOutputs) ∧
    changesOnly [.dict, .ecat, .ev, .free, .pins, .ports] s t)

/-- NEW_OUTPUT_BUFFER (R66, R67, R68, R75). -/
def Obligations.OutputBuffersReachTheirObjects : Prop :=
  ∀ (image : List Byte) (s : State), released s = true →
    (s.ecat.al = .safeop →
      exec (.newOutputBuffer image) s = .next { s with ecat := { s.ecat with outputs := some image } }) ∧
    (s.ecat.al = .op →
      (let s1 := { s with ecat := { s.ecat with outputs := some image } }
       exec (.newOutputBuffer image) s = .next (applyOutputs image s1) ∧
       ((assignedRx s).flatMap (rxEntries s) = [(0x3808, 1)] →
        (let v := bitsAt image 0 (imageBits (0x3808, 1))
         firstReason (writeChecks s1 .rxpdo 0x3808 1 (typeBytes 0x3808 1) v) = none →
         ∃ t, exec (.newOutputBuffer image) s = .next t ∧ obj t Obj.pdoOutputs = v ∧ t.ecat = s1.ecat ∧
          t.pins.external = s.pins.external ∧ changesOnly [.dict, .ecat, .ev, .free, .pins, .ports] s t)))) ∧
    (s.ecat.al = .init ∨ s.ecat.al = .preop ∨ s.ecat.al = .boot → exec (.newOutputBuffer image) s = .next s)

/-- FOE_WRITE, FOE_READ, FOE_PACKET, DOWNLOAD_TIMEOUT, SDO_TRANSFER_TIMEOUT, UNSUPPORTED_PROTOCOL and SII_WRITE
(R65, R71, R72, R74, R430, R469). -/
def Obligations.MailboxDownloadsAndRefuses : Prop :=
  (∀ s : State, released s = true → s.ecat.al = .boot → pushOpen s = false →
    ∃ t, exec (.foeWrite (asciiBytes "miomen.img")) s = .next t ∧ t.boot = { s.boot with download := some ⟨.foe, [], 1⟩ } ∧
      t.ecat = { s.ecat with reply := .foeAck 0 } ∧ changesOnly [.boot, .ecat] s t) ∧
  (∀ (number : Word) (last : Bool) (bytes : List Byte) (x : Download) (s : State), released s = true → s.ecat.al = .boot →
    s.boot.download = some x → x.source = .foe → number.toNat = x.nextPacket → x.bytes.length + bytes.length ≤ slotSize →
    (let all := x.bytes ++ bytes
     let s1 := { s with boot := { s.boot with download := some { x with bytes := all, nextPacket := x.nextPacket + 1 } } }
     (last = false → exec (.foePacket number last bytes) s =
        .next { s1 with ecat := { s.ecat with reply := .foeAck number.toNat } }) ∧
     (∀ c, last = true → checkImage s1 all.length all = .ok c →
       ∃ t, exec (.foePacket number last bytes) s = .next t ∧ t.ecat = { s.ecat with reply := .foeAck number.toNat } ∧
        t.boot.download = none ∧ vget t.boot.slots (inactiveSlot s) = ⟨all, 1, 0, c.version⟩ ∧
        (∀ n, n ≠ inactiveSlot s → vget t.boot.slots n = vget s.boot.slots n) ∧ t.boot.copies = s.boot.copies ∧
        changesOnly [.boot, .ecat] s t) ∧
     (∀ r, last = true → checkImage s1 all.length all = .error r →
       ∃ t, exec (.foePacket number last bytes) s = .next t ∧ t.ecat = { s.ecat with reply := .foeError 0x8004 } ∧
        t.boot = { s.boot with download := none } ∧ changesOnly [.boot, .dict, .ecat] s t))) ∧
  (∀ s : State, released s = true → s.ecat.al = .boot →
    exec .foeRead s = .next { s with ecat := { s.ecat with reply := .foeError 0x8001 } }) ∧
  (∀ (number : Word) (last : Bool) (bytes : List Byte) (s : State), released s = true → s.ecat.al ≠ .boot → s.ecat.al ≠ .init →
    (let u := { s with ecat := { s.ecat with reply := .mailboxError } }
     exec (.foeWrite bytes) s = .next u ∧ exec .foeRead s = .next u ∧ exec (.foePacket number last bytes) s = .next u)) ∧
  (∀ s : State, released s = true → exec .downloadTimeout s = .next { s with boot := { s.boot with download := none } }) ∧
  (∀ (index : Half) (sub : Byte) (s : State), released s = true → coeServed s = true →
    ∃ t, exec (.sdoTransferTimeout index sub) s = .next t ∧ t.ecat = { s.ecat with sdo := none, reply := .sdoAbort 0x05040000 } ∧
      obj t Obj.refusalDetailField / 2 ^ 32 = 2 ^ 16 * index.toNat + 2 ^ 8 * sub.toNat + 0x10 ∧
      objectsBut [Obj.refusalDetailField] s t ∧ changesOnly [.dict, .ecat] s t) ∧
  (∀ (m : MailboxRequest) (s : State), released s = true → s.ecat.al ≠ .init →
    (s.ecat.al = .boot ∨ m ∈ [MailboxRequest.eoe, .soe, .aoe, .voe]) →
    ∃ t, exec (.unsupportedProtocol m) s = .next t ∧ t.ecat = { s.ecat with reply := .mailboxError } ∧ changesOnly [.ecat] s t) ∧
  (∀ (i : Half) (sub : Byte) (s : State), released s = true → coeServed s = true →
    (firstReason (uploadChecks false i.toNat sub.toNat) = none → (objBytes s i.toNat sub.toNat).length ≤ 496 →
      ∃ t, exec (.unsupportedProtocol (.coe (.upload false i sub))) s = .next t ∧
        t.ecat = { s.ecat with
          sdo := none, reply := .sdoUpload (objBytes s i.toNat sub.toNat).length (objBytes s i.toNat sub.toNat) true } ∧
        changesOnly [.ecat] s t) ∧
    (∀ r, firstReason (uploadChecks false i.toNat sub.toNat) = some r →
      ∃ t, exec (.unsupportedProtocol (.coe (.upload false i sub))) s = .next t ∧
        t.ecat = { s.ecat with sdo := none, reply := .sdoAbort r.abort } ∧ objectsBut [Obj.refusalDetailField] s t ∧
        changesOnly [.dict, .ecat] s t)) ∧
  (∀ (word value : Half) (s : State), released s = true →
    ∃ t, exec (.siiWrite word value) s = .next t ∧ t.ecat = { s.ecat with reply := .eepromError } ∧ siiData t = siiData s ∧
      changesOnly [.ecat] s t)

/-- CONFIGURE, GO_ONLINE, GO_OFFLINE, RESET and UNCONFIGURE (R28, R31, R33, R35, R56). -/
def Obligations.DomainRequestsTakeTheirTransition : Prop :=
  ∀ (d : Dom) (w : Writer) (gen : Half) (s s1 : State), requestPasses w (domIndex d) gen s s1 →
    ((domOf s d).state = .unconfigured → resourcesWithin s1 (confWith s1 d) = true → demandsWithin s1 (confWith s1 d) = true →
      ∃ t, exec (.configure d w gen) s = .next t ∧ (domOf t d).state = .offline ∧ requestDone (domIndex d) gen t ∧
        (∀ e, e ≠ d → domOf t e = domOf s e) ∧ objectsBut [Obj.unitResult (domIndex d), Obj.unitGen (domIndex d)] s t ∧
        (∀ e, e ≠ d → shareUnits t e = shareUnits s e) ∧ t.ring.items = s.ring.items ∧
        changesOnly [.dict, .doms, .ring, .ecat, .ports] s t) ∧
    ((domOf s d).state = .offline →
      ∃ t, exec (.goOnline d w gen) s = .next t ∧ (domOf t d).state = .starting ∧ (domOf t d).bootChecked = false ∧
        (domOf t d).slots = (domOf s d).slots ∧ requestDone (domIndex d) gen t ∧ (∀ e, e ≠ d → domOf t e = domOf s e) ∧
        changesOnly [.free, .dict, .ev, .ports, .doms, .ecat, .sched, .opLog] s t) ∧
    (((domOf s d).state = .online ∨ (domOf s d).state = .starting ∨ (domOf s d).state = .draining) →
      ∃ t, exec (.goOffline d w gen) s = .next t ∧ (domOf t d).state = .draining ∧ (domOf t d).slots = (domOf s d).slots ∧
        requestDone (domIndex d) gen t ∧ (∀ e, e ≠ d → domOf t e = domOf s e) ∧
        changesOnly [.free, .dict, .ev, .ports, .doms, .ecat, .sched, .opLog] s t) ∧
    (((domOf s d).state = .online ∨ (domOf s d).state = .starting ∨ (domOf s d).state = .draining) →
      s.power.failing = false → ((domOf s d).slots.map (·.no)).Nodup →
      (∀ r, s.test.run = some r → r.dom = d ∨ isAdmin s d = false) →
      ∃ t, exec (.reset d w gen) s = .next t ∧ (domOf t d).state = .resetting ∧ (domOf t d).frozen = false ∧
        (∀ x ∈ (domOf t d).slots, x.phase = .done) ∧ bitOf (obj t Obj.onlineMask) d.val = false ∧
        t.kiln = { s.kiln with toKiln := s.kiln.toKiln.filter (fun m => (meterTag d m).isNone) } ∧
        requestDone (domIndex d) gen t ∧ t.ring = s.ring ∧ (∀ e, e ≠ d → domOf t e = domOf s e) ∧
        changesOnly [.dict, .doms, .ecat, .energy, .ev, .free, .kiln, .opLog, .pins, .ports, .sched, .test] s t) ∧
    ((domOf s d).state = .offline → isAdmin s d = false → itemsOf s d = [] →
      ∃ t, exec (.unconfigure d w gen) s = .next t ∧ (domOf t d).state = .unconfigured ∧ (domOf t d).pages = 0 ∧
        (domOf t d).slots = [] ∧ (domOf t d).resident = [] ∧ requestDone (domIndex d) gen t ∧ shareUnits t d = [] ∧
        (∀ e, e ≠ d → domOf t e = { domOf s e with pages := (domOf t e).pages, resident := (domOf t e).resident }) ∧
        (∀ e ∈ t.dram.taken, e.2 ≠ .domain d) ∧ (t.dram.commonWait ≠ [] → commonFree t = 0) ∧
        ((∀ x ∈ s.dram.commonWait ++ s.dram.ceilingWait, x.holder = .domain d) → (∀ e ∈ s.dram.marked, e.2 ≠ .domain d) →
          (∀ e, e ≠ d → domOf t e = domOf s e) ∧
          objectsBut [Obj.unitResult (domIndex d), Obj.unitGen (domIndex d)] s t ∧
          changesOnly [.dict, .doms, .ring, .dram, .ecat, .ports] s t) ∧
        changesOnly [.free, .dict, .ev, .ports, .doms, .ring, .dram, .ecat, .comp, .opLog] s t)

/-- DOMAIN_QUIESCENT, DOMAIN_ONLINE and DOMAIN_RESET (R28, R31, R32, R35, R168). -/
def Obligations.DomainEventsEndTheirStates : Prop :=
  ∀ (d : Dom) (s : State), released s = true →
    (let gen := (obj s (Obj.unitGen (domIndex d)) + 1) % 65536
     ((domOf s d).state = .draining → outstanding s d = 0 →
       ∃ t, exec (.domainQuiescent d) s = .next t ∧ (domOf t d).state = .offline ∧ (domOf t d).slots = (domOf s d).slots ∧
        bitOf (obj t Obj.onlineMask) d.val = false ∧ obj t (Obj.unitGen (domIndex d)) = gen ∧
        (powerToward s ≠ 2 → postedOne 0x0102 d.val gen s t) ∧
        (∀ e, e ≠ d → domOf t e = domOf s e) ∧ changesOnly [.free, .dict, .ev, .ports, .doms, .sched, .opLog] s t) ∧
     (∀ rot, (domOf s d).state = .starting → s.cart.state = .ready → s.dram.failed = false →
       ∃ t, exec (.domainOnline d rot) s = .next t ∧ (domOf t d).state = .online ∧ (domOf t d).bootChecked = true ∧
        (domOf t d).tokens = ⟨(80 * obj s (Obj.effectiveWrite d) : Nat), (80 * obj s (Obj.effectiveTapeRead d) : Nat),
          (80 * obj s (Obj.effectiveBufferRead d) : Nat)⟩ ∧
        (domOf t d).slots = (domOf s d).slots ∧ bitOf (obj t Obj.onlineMask) d.val = true ∧ t.ring.items = s.ring.items ∧
        obj t (Obj.unitGen (domIndex d)) = gen ∧ (powerToward s ≠ 2 → postedOne 0x0101 d.val gen s t) ∧
        (∀ e, e ≠ d → domOf t e = domOf s e) ∧
        changesOnly [.free, .dict, .ev, .ports, .doms, .ring, .sched, .opLog] s t) ∧
     ((domOf s d).state = .resetting →
       ∃ t, exec (.domainReset d) s = .next t ∧ (domOf t d).state = .starting ∧ (domOf t d).pages = 0 ∧
        (domOf t d).slots = (domOf s d).slots ∧
        (∀ e ∈ t.dram.taken, e.2 ≠ .domain d) ∧
        (itemsOf s d = [] → ∀ x ∈ t.dram.commonWait ++ t.dram.ceilingWait, x.holder ≠ .domain d) ∧
        obj t (Obj.unitGen (domIndex d)) = gen ∧
        (powerToward s ≠ 2 → (∀ e ∈ s.dram.marked, e.2 ≠ .domain d) → postedOne 0x0103 d.val gen s t) ∧
        ((∀ x ∈ s.dram.commonWait ++ s.dram.ceilingWait, x.holder = .domain d) → ∀ e, e ≠ d → domOf t e = domOf s e) ∧
        (∀ e, e ≠ d → domOf t e = { domOf s e with pages := (domOf t e).pages, resident := (domOf t e).resident }) ∧
        (t.dram.commonWait ≠ [] → commonFree t = 0) ∧
        changesOnly [.free, .dict, .ev, .ports, .doms, .ring, .dram, .comp, .sched, .opLog] s t))

/-- GUARANTEE_RECOMPUTE (R42). -/
def Obligations.GuaranteesScaleWithTheBudgets : Prop :=
  ∀ s : State, released s = true → dictWf s.dict = true →
    (let r := scaleOf (currentBudgets s)
     ∃ t, exec .guaranteeRecompute s = .next t ∧ obj t Obj.guaranteeScale = r.1 ∧ obj t Obj.limitingBudget = r.2 ∧
      (∀ d, obj t (Obj.effectiveWrite d) = obj s (Obj.writeGuarantee d) * r.1 / 1024 ∧
        obj t (Obj.effectiveTapeRead d) = obj s (Obj.tapeReadGuarantee d) * r.1 / 1024 ∧
        obj t (Obj.effectiveBufferRead d) = obj s (Obj.bufferReadGuarantee d) * r.1 / 1024) ∧
      (r.1 < 1024 → (r.1 ≠ obj s Obj.guaranteeScale ∨ r.2 ≠ obj s Obj.limitingBudget) →
        postedOne 0x0106 unitDevice (r.1 + 4096 * r.2) s t) ∧
      (r.1 = 1024 → obj s Obj.guaranteeScale < 1024 → postedOne 0x0107 unitDevice 0 s t) ∧
      (r.1 = obj s Obj.guaranteeScale → r.2 = obj s Obj.limitingBudget → t.ev = s.ev) ∧
      changesOnly [.dict, .ev, .free, .ports] s t)

/-- MR4_READ, PAGE_REQUEST and PAGE_RELEASE (R189, R190, R191, R192, R193, R194, R207, R477). -/
def Obligations.PagesFollowFloorsAndCeilings : Prop :=
  (∀ (hot cool : Vector Bool 2) (s : State), released s = true →
    (let ranks : List (Fin 2) := if obj s Obj.dramRanks = 2 then [0, 1] else [0]
     ∃ t, exec (.mr4Read hot cool) s = .next t ∧
      ((∃ r ∈ ranks, vget hot r = true) → obj t Obj.refreshDoubled = 1) ∧
      ((∀ r ∈ ranks, vget hot r = false ∧ vget cool r = true) → obj t Obj.refreshDoubled = 0) ∧
      ((∀ r ∈ ranks, vget hot r = false) → (∃ r ∈ ranks, vget cool r = false) → t = s) ∧
      objectsBut [Obj.refreshDoubled] s t ∧ changesOnly [.dict] s t)) ∧
  (∀ (h : PageHolder) (block : BitVec 4) (s : State), released s = true → (∀ u, h ≠ .device u) →
    (heldPages s h < pageFloorOf s h ∨ (atCeiling s h = false ∧ 0 < commonFree s) →
      ∃ t, exec (.pageRequest [(h, block)]) s = .next t ∧ heldPages t h = heldPages s h + 1 ∧
        (∀ k, k ≠ h → heldPages t k = heldPages s k) ∧ t.dram.taken = s.dram.taken ++ [(block.toNat, h)] ∧
        t.dram.commonWait = s.dram.commonWait ∧ t.dram.ceilingWait = s.dram.ceilingWait ∧ changesOnly [.doms, .dram] s t) ∧
    (pageFloorOf s h ≤ heldPages s h → atCeiling s h = true →
      ∃ t, exec (.pageRequest [(h, block)]) s = .next t ∧
        t.dram.ceilingWait = s.dram.ceilingWait ++ [⟨h, block.toNat, false⟩] ∧
        t.dram.commonWait = s.dram.commonWait ∧ (∀ k, heldPages t k = heldPages s k) ∧ changesOnly [.dict, .dram] s t) ∧
    (pageFloorOf s h ≤ heldPages s h → atCeiling s h = false → commonFree s = 0 →
      ∃ t, exec (.pageRequest [(h, block)]) s = .next t ∧
        t.dram.commonWait = s.dram.commonWait ++ [⟨h, block.toNat, false⟩] ∧
        t.dram.ceilingWait = s.dram.ceilingWait ∧ (∀ k, heldPages t k = heldPages s k) ∧ changesOnly [.dict, .dram] s t)) ∧
  (∀ (u : ReserveUse) (block : BitVec 4) (s : State), released s = true → u ≠ .spares →
    heldPages s (.device u) < vget reservePages (ReserveUse.no u) →
    ∃ t, exec (.pageRequest [(.device u, block)]) s = .next t ∧ heldPages t (.device u) = heldPages s (.device u) + 1 ∧
      (∀ k, k ≠ .device u → heldPages t k = heldPages s k) ∧ commonFree t = commonFree s ∧ changesOnly [.dram] s t) ∧
  (∀ (reqs : List (PageHolder × BitVec 4)) (s : State), released s = true →
    exec (.pageRequest reqs) s = .next ((sortBy (fun r => blockRank r.2.toNat) reqs).foldl
      (fun t r => requestPage ⟨r.1, r.2.toNat, false⟩ t) s)) ∧
  (∀ (h : PageHolder) (block : BitVec 4) (page : Half) (s : State), released s = true →
    ((block.toNat, h) ∉ s.dram.taken → exec (.pageRelease h block page) s = .next s) ∧
    ((block.toNat, h) ∈ s.dram.taken → 0 < grantedPages s h → s.dram.commonWait = [] →
      (∀ w ∈ s.dram.ceilingWait, w.holder ≠ h ∧ atCeiling s w.holder = true) →
      ((∀ e ∈ s.dram.marked, e.1 ≠ page.toNat) →
        ∃ t, exec (.pageRelease h block page) s = .next t ∧ heldPages t h = heldPages s h - 1 ∧
          (∀ k, k ≠ h → heldPages t k = heldPages s k) ∧ t.dram.taken = s.dram.taken.erase (block.toNat, h) ∧
          t.dram.ceilingWait = s.dram.ceilingWait ∧ changesOnly [.doms, .dram] s t) ∧
      ((∃ e ∈ s.dram.marked, e.1 = page.toNat) → obj s Obj.retiredPages < 64 → h ≠ .device .spares →
        ∃ t, exec (.pageRelease h block page) s = .next t ∧ heldPages t h = heldPages s h - 1 ∧
          heldPages t (.device .spares) = heldPages s (.device .spares) + 1 ∧
          (∀ k, k ≠ h → k ≠ .device .spares → heldPages t k = heldPages s k) ∧
          t.dram.marked = s.dram.marked.filter (fun e => e.1 != page.toNat) ∧
          obj t Obj.retiredPages = obj s Obj.retiredPages + 1 ∧ objectsBut [Obj.retiredPages] s t ∧
          changesOnly [.dict, .doms, .dram] s t)) ∧
    (∀ (w : PageWait) (d : Dom), (block.toNat, h) ∈ s.dram.taken → h = .domain d → 0 < (domOf s d).pages →
      (∀ e ∈ s.dram.marked, e.1 ≠ page.toNat) → s.dram.commonWait = [w] → s.dram.ceilingWait = [] → w.pager = false →
      w.holder = .service → commonFree (modDom d (fun x => { x with pages := x.pages - 1 }) s) ≠ 0 →
      ∃ t, exec (.pageRelease h block page) s = .next t ∧ heldPages t .service = heldPages s .service + 1 ∧
        pagesHeld t d = pagesHeld s d - 1 ∧ t.dram.commonWait = [] ∧ changesOnly [.doms, .dram] s t))

/-- ARBITER_REQUEST, ARBITER_WITHDRAW and ARBITER_STARVATION (R188, R201-R205). -/
def Obligations.ArbiterGrantsByRank : Prop :=
  (∀ (rank : BitVec 4) (wait : Word) (line : BitVec 26) (lines : BitVec 5) (s : State), released s = true →
    rank.toNat < 12 → rank.toNat ∉ maskedRanks s →
    (∀ q ∈ s.dram.requests, q.rank ∉ maskedRanks s → rank.toNat < q.rank) →
    (s.dram.current = none → ∃ t, exec (.arbiterRequest rank wait line lines false false) s = .next t ∧
      t.dram.owner = rank.toNat ∧ t.dram.current = some ⟨rank.toNat, line.toNat, lines.toNat⟩ ∧ t.dram.parked = false ∧
      (∀ q ∈ t.dram.requests, q.rank ≠ rank.toNat) ∧ t.dram.restarts = s.dram.restarts ∧
      objectsBut [Obj.arbiterMaxWait rank.toNat] s t ∧ changesOnly [.dict, .dram] s t) ∧
    (∀ c, s.dram.current = some c → rank.toNat < c.rank →
      ∃ t, exec (.arbiterRequest rank wait line lines false false) s = .next t ∧
        t.dram.owner = rank.toNat ∧ t.dram.current = some ⟨rank.toNat, line.toNat, lines.toNat⟩ ∧ t.dram.parked = false ∧
        c ∈ t.dram.requests ∧ t.dram.restarts = s.dram.restarts + 1 ∧ t.dram.deadCycles = s.dram.deadCycles ∧
        objectsBut [Obj.arbiterMaxWait rank.toNat] s t ∧ changesOnly [.dict, .dram] s t)) ∧
  (∀ (rank : BitVec 4) (wait : Word) (line : BitVec 26) (lines : BitVec 5) (c : Transfer) (s : State), released s = true →
    rank.toNat < 12 → rank.toNat ∉ maskedRanks s → s.dram.current = some c →
    (c.rank < rank.toNat → ∃ t, exec (.arbiterRequest rank wait line lines false false) s = .next t ∧
      t.dram.owner = s.dram.owner ∧ t.dram.current = some c ∧ ⟨rank.toNat, line.toNat, lines.toNat⟩ ∈ t.dram.requests ∧
      (∀ q ∈ s.dram.requests, q.rank ≠ rank.toNat → q ∈ t.dram.requests) ∧
      objectsBut [Obj.arbiterMaxWait rank.toNat] s t ∧ changesOnly [.dict, .dram] s t) ∧
    ((∀ q ∈ s.dram.requests, q.rank ∈ maskedRanks s) →
      ∃ t, exec (.arbiterRequest rank wait line lines true false) s = .next t ∧
        t.dram.owner = rank.toNat ∧ t.dram.current = some ⟨rank.toNat, line.toNat, lines.toNat⟩ ∧
        t.dram.restarts = s.dram.restarts ∧ t.dram.deadCycles = s.dram.deadCycles ∧
        (c.rank = 11 → ∀ l, l ∈ t.dram.rewrites ↔ l ∈ s.dram.rewrites ∧ ¬ (c.line ≤ l ∧ l < c.line + c.lines)) ∧
        (c.rank ≠ 11 → t.dram.rewrites = s.dram.rewrites) ∧
        objectsBut [Obj.arbiterMaxWait rank.toNat] s t ∧ changesOnly [.dict, .dram] s t)) ∧
  (∀ (rank : BitVec 4) (wait : Word) (line : BitVec 26) (lines : BitVec 5) (s : State), released s = true →
    rank.toNat < 12 → rank.toNat ∉ maskedRanks s →
    ∃ t, exec (.arbiterRequest rank wait line lines false true) s = .next t ∧ t.dram.current = none ∧
      t.dram.parked = true ∧ (∀ q ∈ t.dram.requests, q.rank ∈ maskedRanks s) ∧
      objectsBut [Obj.arbiterMaxWait rank.toNat] s t ∧ changesOnly [.dict, .dram] s t) ∧
  (∀ (rank : BitVec 4) (s : State), released s = true →
    ((∀ c, s.dram.current = some c → c.rank ≠ rank.toNat) → ∃ t, exec (.arbiterWithdraw rank) s = .next t ∧
      (∀ q ∈ t.dram.requests, q.rank ≠ rank.toNat) ∧ t.dram.owner = s.dram.owner ∧ t.dram.current = s.dram.current ∧
      t.dram.parked = s.dram.parked ∧ t.dram.deadCycles = s.dram.deadCycles ∧ changesOnly [.dram] s t) ∧
    (∀ c, s.dram.current = some c → c.rank = rank.toNat → ∃ t, exec (.arbiterWithdraw rank) s = .next t ∧
      t.dram.deadCycles = s.dram.deadCycles + 1 ∧ t.dram.restarts = s.dram.restarts ∧
      ((∀ q ∈ s.dram.requests, q.rank ∈ maskedRanks s) → t.dram.parked = true ∧ t.dram.current = none ∧
        t.dram.owner = s.dram.owner) ∧
      (∀ q ∈ s.dram.requests, q.rank ∉ maskedRanks s →
        (∀ r ∈ s.dram.requests, r.rank ∉ maskedRanks s → q.rank ≤ r.rank) →
        t.dram.owner = q.rank ∧ t.dram.parked = false ∧ (∀ r ∈ t.dram.requests, r.rank ≠ q.rank)) ∧
      changesOnly [.dram] s t)) ∧
  (∀ (rank : BitVec 4) (wait : Word) (s : State), released s = true → 8 ≤ rank.toNat → rank.toNat ≤ 11 →
    (∃ q ∈ s.dram.requests, q.rank = rank.toNat) → 1000 * obj s Obj.starvationReportUs < wait.toNat →
    (rank.toNat ∉ s.dram.starving → ∃ t, exec (.arbiterStarvation rank wait) s = .next t ∧
      t.dram.starving = s.dram.starving ++ [rank.toNat] ∧ postedOne 0x0304 unitDevice rank.toNat s t ∧
      changesOnly [.dict, .dram, .ev, .free, .ports] s t) ∧
    (rank.toNat ∈ s.dram.starving → exec (.arbiterStarvation rank wait) s = .next s))

/-- A refusal (R135, R140, R166, R167). -/
def Obligations.RefusedCommandsHaveNoSideEffect : Prop :=
  (∀ (i : Instr) (c : HostCmd) (status detail : Nat) (s u : State), HostRow i s c u → released s = true →
    cmdReaches c u →
    (judge (returnCmd c.head u) c = some (status, detail) →
      ∃ t, exec i s = .next t ∧
        sends c.head.port [.cpl c.head.dom c.head.tag.toNat none ⟨c.opcode, status, degradedFlag u, detail, 0, 0⟩] u t ∧
        (∀ d, (domOf t d).slots = (domOf u d).slots ∧ (domOf t d).frozen = (domOf u d).frozen ∧
          (domOf t d).logs = (domOf u d).logs ∧ (domOf t d).state = (domOf u d).state) ∧
        changesOnly [.dict, .doms, .ev, .free, .ports, .sched] u t) ∧
    (opcodeDefined c.opcode = false → judge (returnCmd c.head u) c = some (0x11, 0))) ∧
  (∀ (opcode : Byte) (h : CmdHead) (b : CmdBody) (s : State), released s = true → opcodeDefined opcode.toNat = false →
    cmdReaches ⟨opcode.toNat, h, b, false⟩ s →
    ∃ t, exec (.undefinedOpcode opcode h b) s = .next t ∧
      sends h.port [.cpl h.dom h.tag.toNat none ⟨opcode.toNat, 0x11, degradedFlag s, 0, 0, 0⟩] s t ∧
      (∀ d, (domOf t d).slots = (domOf s d).slots ∧ (domOf t d).frozen = (domOf s d).frozen ∧
        (domOf t d).logs = (domOf s d).logs ∧ (domOf t d).state = (domOf s d).state) ∧
      changesOnly [.dict, .doms, .ev, .free, .ports, .sched] s t)

/-- LINK_BINDING (R26). -/
def Obligations.UnboundPortsAreNotAuthorized : Prop :=
  ∀ (i : Instr) (c : HostCmd) (s u : State), HostRow i s c u → released s = true → cmdReaches c u →
    (opcodeDefined c.opcode = true → configured u c.head.dom = true → bound u c.head.dom c.head.port = false →
      ∃ t detail, exec i s = .next t ∧
        sends c.head.port [.cpl c.head.dom c.head.tag.toNat none ⟨c.opcode, 0x1A, degradedFlag u, detail, 0, 0⟩] u t ∧
        (∀ d, (domOf t d).slots = (domOf u d).slots ∧ (domOf t d).frozen = (domOf u d).frozen ∧
          (domOf t d).logs = (domOf u d).logs ∧ (domOf t d).state = (domOf u d).state) ∧
        changesOnly [.dict, .doms, .ev, .free, .ports, .sched] u t) ∧
    (judge (returnCmd c.head u) c = none → bound u c.head.dom c.head.port = true)

/-- IDENTIFY, GET_LOG_PAGE, SET_POWER, ABORT, SELF_TEST and RESUME (R152-R157, R173, R177, R182). -/
def Obligations.AdministrativeCommandsComplete : Prop :=
  ∀ (h : CmdHead) (b : CmdBody) (no : Nat) (s : State), released s = true →
    (cmdTaken ⟨opIdentify, h, b, false⟩ no s →
      ∃ t, exec (.identify h b) s = .next t ∧
        answeredWith ⟨opIdentify, h, b, false⟩ no (identify s h.dom (arg8 b.argA)) 0 0 4096 0 0 s t ∧
        changesOnly [.dict, .doms, .energy, .ev, .free, .ports, .sched] s t) ∧
    (cmdTaken ⟨opGetLogPage, h, b, false⟩ no s →
      ∃ t page, logPage s h.dom (arg8 b.argA) = some page ∧ exec (.getLogPage h b) s = .next t ∧
        (let bytes := (page.drop b.argB.toNat).take b.count.toNat
         answeredWith ⟨opGetLogPage, h, b, false⟩ no bytes 0 0 bytes.length page.length 0 s t) ∧
        changesOnly [.dict, .doms, .energy, .ev, .free, .ports, .sched] s t) ∧
    (cmdTaken ⟨opSetPower, h, b, false⟩ no s → (domOf s h.dom).frozen = false →
      ∃ t, exec (.setPower h b) s = .next t ∧
        (b.flags.getLsbD 0 = true → obj t Obj.deviceVote = arg8 b.argA ∧
          (domOf t h.dom).requestedVote = (domOf s h.dom).requestedVote) ∧
        (b.flags.getLsbD 0 = false → (domOf t h.dom).requestedVote = arg8 b.argA ∧ obj t Obj.deviceVote = obj s Obj.deviceVote) ∧
        answeredWith ⟨opSetPower, h, b, false⟩ no [] 0 0 0 0 0 s t ∧
        changesOnly [.dict, .doms, .energy, .ev, .free, .ports, .sched] s t) ∧
    (cmdTaken ⟨opAbort, h, b, false⟩ no s → ((domOf s h.dom).slots.map (·.no)).Nodup →
      (let ended := (domOf s h.dom).slots.filter (fun y => y.cmd.head.port == h.port && abortable s h.dom y
          && (b.flags.getLsbD 0 || y.cmd.head.tag.toNat == arg8 b.argA))
       (∀ y ∈ (domOf s h.dom).slots, y ∉ ended → parkedSlot y = true) → ∃ t, exec (.abort h b) s = .next t ∧
        answersLast h.port (.cpl h.dom h.tag.toNat (some no) ⟨opAbort, 0, degradedFlag s, 0, 0, ended.length⟩) s t ∧
        (∀ y ∈ ended, ∃ z ∈ (domOf t h.dom).slots, z.no = y.no ∧ z.phase = .done) ∧
        (∀ y ∈ (domOf s h.dom).slots, y ∉ ended → y ∈ (domOf t h.dom).slots) ∧
        t.kiln = { s.kiln with toKiln := s.kiln.toKiln.filter (fun m =>
          !ended.any (fun y => y.phase == .kiln && meterTag h.dom m == some y.order)) } ∧
        (∀ e, e ≠ h.dom → domOf t e = domOf s e) ∧ t.ring = s.ring ∧
        changesOnly [.dict, .doms, .energy, .ev, .free, .kiln, .ports, .sched, .test] s t)) ∧
    (cmdTaken ⟨opSelfTest, h, b, false⟩ no s → (domOf s h.dom).frozen = false → arg8 b.argA ≠ 0x0F →
      ∃ t, exec (.selfTest h b) s = .next t ∧
        t.test = { s.test with run := some ⟨arg8 b.argA, 1, 0, false, 0, nowUs s, h.dom, no, []⟩ } ∧
        (∃ z ∈ (domOf t h.dom).slots, z.no = no ∧ z.phase = .selfTest) ∧
        sends h.port [] s t ∧ changesOnly [.dict, .doms, .ev, .free, .ports, .sched, .test] s t) ∧
    (cmdTaken ⟨opSelfTest, h, b, false⟩ no s → (domOf s h.dom).frozen = false → arg8 b.argA = 0x0F →
      (∀ r, s.test.run = some r → (slotOf s r.dom r.slot).isSome = true) →
      ∃ t, exec (.selfTest h b) s = .next t ∧ t.test.run = none ∧
        answersLast h.port (.cpl h.dom h.tag.toNat (some no) ⟨opSelfTest, 0, degradedFlag s, 0, 0, 0⟩) s t ∧
        changesOnly [.dict, .doms, .energy, .ev, .free, .ports, .sched, .test] s t) ∧
    (cmdTaken ⟨opResume, h, b, false⟩ no s → arg8 b.argA = 1 → ((domOf s h.dom).slots.map (·.no)).Nodup →
      (∀ y ∈ (domOf s h.dom).slots, y.held = true ∨ y.phase = .done) →
      (let n := ((domOf s h.dom).slots.filter (·.held)).length
       ∃ t, exec (.resume h b) s = .next t ∧ (domOf t h.dom).frozen = false ∧
        (∀ y ∈ (domOf t h.dom).slots, y.phase = .done) ∧ (powerToward s ≠ 2 → postedOne 0x0105 h.dom.val (1 + 256 * n) s t) ∧
        answersLast h.port (.cpl h.dom h.tag.toNat (some no) ⟨opResume, 0, degradedFlag s, 0, n, 0⟩) s t ∧
        t.ring = s.ring ∧ changesOnly [.dict, .doms, .energy, .ev, .free, .ports, .sched] s t)) ∧
    (cmdTaken ⟨opResume, h, b, false⟩ no s → quiet s h.dom → (∀ y ∈ (domOf s h.dom).slots, y.held = false) →
      ∃ t, exec (.resume h b) s = .next t ∧ (domOf t h.dom).frozen = false ∧
        (powerToward s ≠ 2 → postedOne 0x0105 h.dom.val (arg8 b.argA) s t) ∧
        answersLast h.port (.cpl h.dom h.tag.toNat (some no) ⟨opResume, 0, degradedFlag s, 0, 0, 0⟩) s t ∧
        t.ring = s.ring ∧ changesOnly [.dict, .doms, .energy, .ev, .free, .ports, .sched] s t)

/-- APPEND, WRITE_VOL, METER_RECORD, SYNC, TRIM_LOG and LOAD_UNLOAD (R144, R147, R150, R151, R158, R159, R162, R169,
R172). -/
def Obligations.WritesAndWaitsAreAdmitted : Prop :=
  ∀ (h : CmdHead) (b : CmdBody) (no : Nat) (s : State), released s = true → quiet s h.dom →
    (∀ i c, (i, c) ∈ [(Instr.append h b, (⟨opAppend, h, b, false⟩ : HostCmd)), (.writeVol h b, ⟨opWriteVol, h, b, false⟩),
        (.meterRecord h b, ⟨opMeterRecord, h, b, false⟩)] → cmdTaken c no s →
      ∃ t, exec i s = .next t ∧ (domOf t h.dom).slots = (domOf s h.dom).slots ++ [admittedSlot c no s] ∧
        sends h.port [] s t ∧ (∀ e, e ≠ h.dom → domOf t e = domOf s e) ∧
        changesOnly [.dict, .doms, .ev, .free, .ports, .sched, .test] s t) ∧
    (cmdTaken ⟨opSync, h, b, false⟩ no s → (domOf s h.dom).frozen = false →
      (taped s h.dom s.ring.nextIdx = true →
        ∃ t, exec (.sync h b) s = .next t ∧ answeredWith ⟨opSync, h, b, false⟩ no [] 0 0 0 0 0 s t ∧
          changesOnly [.dict, .doms, .energy, .ev, .free, .ports, .sched, .test] s t) ∧
      (taped s h.dom s.ring.nextIdx = false →
        ∃ t, exec (.sync h b) s = .next t ∧ (∃ z ∈ (domOf t h.dom).slots, z.no = no ∧ z.phase = .sync s.ring.nextIdx) ∧
          sends h.port [] s t ∧ changesOnly [.dict, .doms, .ev, .free, .ports, .sched, .test] s t)) ∧
    (cmdTaken ⟨opTrimLog, h, b, false⟩ no s → (domOf s h.dom).frozen = false →
      (∀ e ∈ (domOf s h.dom).slots, e.phase ≠ .done → e.cmd.opcode ≠ opReadLog) →
      (let log : LogNo := Fin.ofNat 16 b.target.toNat
       let new := max (vget (domOf s h.dom).logs log).firstRetained (b.argA.toNat + 1)
       ∃ t, exec (.trimLog h b) s = .next t ∧ (vget (domOf t h.dom).logs log).firstRetained = new ∧
        (∀ l, l ≠ log → vget (domOf t h.dom).logs l = vget (domOf s h.dom).logs l) ∧
        answeredWith ⟨opTrimLog, h, b, false⟩ no [] 0 0 0 new 0 s t ∧ t.ring = s.ring ∧
        changesOnly [.dict, .doms, .energy, .ev, .free, .ports, .sched] s t)) ∧
    (cmdTaken ⟨opLoadUnload, h, b, false⟩ no s → (domOf s h.dom).frozen = false →
      (arg8 b.argA = 1 → s.cart.state = .present →
        ∃ t, exec (.loadUnload h b) s = .next t ∧ t.cart.state = .threading ∧
          (∃ z ∈ (domOf t h.dom).slots, z.no = no ∧ z.phase = .cartridge 1) ∧
          changesOnly [.cart, .dict, .doms, .energy, .ev, .free, .ports, .sched, .test, .xport] s t) ∧
      (arg8 b.argA = 2 → s.cart.state = .ready →
        ∃ t, exec (.loadUnload h b) s = .next t ∧ t.cart.state = .draining ∧ t.cart.goal = .unload ∧
          (∃ z ∈ (domOf t h.dom).slots, z.no = no ∧ z.phase = .cartridge 2) ∧
          ((∀ e, ((domOf s e).slots.map (·.no)).Nodup) → ∀ e, ∀ z ∈ (domOf t e).slots, z.phase = .ringWait → z.held = true) ∧
          changesOnly [.cart, .dict, .doms, .energy, .ev, .free, .ports, .sched, .test] s t))

/-- READ_LOG and READ_VOL (R18, R19, R139, R146, R149, R168). -/
def Obligations.ReadsAnswerOrWaitForTheirCuts : Prop :=
  ∀ (h : CmdHead) (b : CmdBody) (hits : List EccHit) (rot : List CacheRot) (no : Nat) (s : State), released s = true →
    (let u := meetLines hits s
     let c : HostCmd := ⟨opReadLog, h, b, false⟩
     let x := admittedSlot c no u
     let r := logRead u x
     let flags := readFlags x (r.cuts == []) + (if r.more then 2 else 0)
     quiet u h.dom → (domOf u h.dom).frozen = false → cmdTaken c no u →
     (cutsNeeded u x ≠ [] → ∃ t, exec (.readLog h b hits) s = .next t ∧
       (∃ z ∈ (domOf t h.dom).slots, z.no = no ∧ z.phase = .tape (cutsNeeded u x)) ∧ sends h.port [] u t ∧
       (∀ e, e ≠ h.dom → domOf t e = domOf u e) ∧ changesOnly [.dict, .doms, .ev, .free, .ports, .sched, .test] u t) ∧
     (∀ tape bytes rest, cutsNeeded u x = [] → r.failed = none → r.badCrc = none → r.badLine = none → r.badBlock = none →
       r.missing = none → r.size ≠ 0 → r.runs.filter (fun e => e.2 != []) = (tape, bytes) :: rest →
       (let turn := turnBytes 65536 tape ((tape, bytes) :: rest)
        ∃ t, exec (.readLog h b hits) s = .next t ∧ (∀ e, e ≠ h.dom → domOf t e = domOf u e) ∧
          changesOnly [.dict, .doms, .energy, .ev, .free, .ports, .sched, .test] u t ∧
          (dataWaits (portOf u h.port) = true → sends h.port [] u t ∧
            ∃ z ∈ (domOf t h.dom).slots, z.no = no ∧
              z.phase = .sending [] ((tape, bytes) :: rest) 0 ⟨0, 0, r.size, r.last, flags⟩) ∧
          (dataWaits (portOf u h.port) = false → (∀ e, turnSlot u h.port e = none) →
            (turn.2 = [] → answeredWith c no turn.1 0 0 r.size r.last flags u t) ∧
            (turn.2 ≠ [] → sends h.port (dataMsgs false (turn.1.length / 960 + 1) h.dom h.tag.toNat 0 turn.1) u t ∧
              ∃ z ∈ (domOf t h.dom).slots, z.no = no ∧
                z.phase = .sending [(tape, turn.1)] turn.2 turn.1.length ⟨0, 0, r.size, r.last, flags⟩))))) ∧
    (let u := meetLines hits (rotCache rot s)
     let c : HostCmd := ⟨opReadVol, h, b, dataLost hits⟩
     let x := admittedSlot c no u
     let flags := readFlags x ((readSectors c).all (fun n => sectorBuffered u h.dom b.target.toNat n))
     quiet u h.dom → (domOf u h.dom).frozen = false → cmdTaken c no u →
     (∀ e ∈ (domOf u h.dom).slots, e.phase ≠ .done → e.cmd.opcode ≠ opWriteVol) → waitsForIndex u x = false →
     (cutsNeeded u x ≠ [] → ∃ t, exec (.readVol h b hits rot) s = .next t ∧
       (∃ z ∈ (domOf t h.dom).slots, z.no = no ∧ z.phase = .tape (cutsNeeded u x)) ∧ sends h.port [] u t ∧
       (∀ e, e ≠ h.dom → domOf t e = domOf u e) ∧ changesOnly [.dict, .doms, .ev, .free, .ports, .sched, .test] u t) ∧
     (∀ tape bytes rest, cutsNeeded u x = [] → (volRead u x).2 = none →
       (volRead u x).1.filter (fun e => e.2 != []) = (tape, bytes) :: rest →
       (let turn := turnBytes 65536 tape ((tape, bytes) :: rest)
        ∃ t, exec (.readVol h b hits rot) s = .next t ∧ (∀ e, e ≠ h.dom → domOf t e = domOf u e) ∧
          changesOnly [.dict, .doms, .energy, .ev, .free, .ports, .sched, .test] u t ∧
          (dataWaits (portOf u h.port) = true → sends h.port [] u t ∧
            ∃ z ∈ (domOf t h.dom).slots, z.no = no ∧
              z.phase = .sending [] ((tape, bytes) :: rest) 0 ⟨0, 0, b.count.toNat, 0, flags⟩) ∧
          (dataWaits (portOf u h.port) = false → (∀ e, turnSlot u h.port e = none) →
            (turn.2 = [] → answeredWith c no turn.1 0 0 b.count.toNat 0 flags u t) ∧
            (turn.2 ≠ [] → sends h.port (dataMsgs false (turn.1.length / 960 + 1) h.dom h.tag.toNat 0 turn.1) u t ∧
              ∃ z ∈ (domOf t h.dom).slots, z.no = no ∧
                z.phase = .sending [(tape, turn.1)] turn.2 turn.1.length ⟨0, 0, b.count.toNat, 0, flags⟩)))))

/-- DATA and the commit point (R12, R16, R21, R109, R120, R136, R137, R141, R142, R144, R148, R197). -/
def Obligations.DataCommitsTheWrite : Prop :=
  ∀ (h : CmdHead) (off : Word) (bytes : List Byte) (last : Bool) (s : State), released s = true →
    portReceives s h.port = true → s.power.failing = false → bytes ≠ [] → bytes.length ≤ 960 →
    (waitsInBacklog (portOf s h.port) h = true →
      ∃ t, exec (.data h off bytes last 0) s = .next t ∧
        (portOf t h.port).backlog = (portOf s h.port).backlog ++ [.data h off.toNat bytes last 0] ∧ changesOnly [.ports] s t) ∧
    (∀ x : Slot, waitsInBacklog (portOf s h.port) h = false → slotOfTag s h.dom h.port h.tag.toNat = some x →
      slotOf s h.dom x.no = some x → x.cmd.head = h →
      isWriteCmd x.cmd.opcode = true → x.lastSeen = false → x.phase = .receiving → x.held = false → quiet s h.dom →
      receivedBytes x ≠ writeLength x.cmd → dataBreaks x off.toNat bytes.length = false →
      (let whole := receivedBytes x + bytes.length = writeLength x.cmd
       let y := { x with
         data := x.data ++ [(off.toNat, bytes)], lastSeen := last
         units := if x.cmd.opcode = opMeterRecord then x.units + dataUnits bytes.length else x.units
         arrived := if whole then ((domOf s h.dom).slots.map (·.arrived)).foldl max 0 + 1 else 0 }
       (¬ whole → last = false →
         ∃ t, exec (.data h off bytes last 0) s = .next t ∧ slotOf t h.dom x.no = some y ∧
          (∀ e, e ≠ h.dom → domOf t e = domOf s e) ∧ changesOnly [.doms, .ports] s t) ∧
       (¬ whole → last = true →
         ∃ t, exec (.data h off bytes last 0) s = .next t ∧
          lastSent t h.port = some (.cpl h.dom h.tag.toNat (some x.no) ⟨x.cmd.opcode, 0x12, degradedFlag s, 5, 0, 0⟩) ∧
          t.ring = s.ring ∧ changesOnly [.doms, .energy, .ports, .sched] s t) ∧
       (whole → isRingWrite x.cmd.opcode = true → s.ring.closed = false → blocked s h.dom y = false →
         ∃ t, exec (.data h off bytes last 0) s = .next t ∧
          t.ring.items.map (·.item) = s.ring.items.map (·.item) ++ [itemOf s y] ∧ (itemOf s y).bytes = slotBytes y ∧
          (x.cmd.opcode = opAppend →
            (vget (domOf t h.dom).logs (Fin.ofNat 16 x.cmd.body.target.toNat)).lastCommitted = (itemOf s y).seq) ∧
          lastSent t h.port = some (.cpl h.dom h.tag.toNat (some x.no) ⟨x.cmd.opcode, 0, degradedFlag s, 0,
            x.cmd.body.count.toNat, if x.cmd.opcode = opAppend then (itemOf s y).seq else 0⟩) ∧
          (∀ e, e ≠ h.dom → domOf t e = { domOf s e with resident := (domOf t e).resident }) ∧
          (∀ k, (∀ e, k ≠ Obj.pageWaits e) → obj t k = obj s k) ∧
          changesOnly [.comp, .dict, .doms, .dram, .energy, .ports, .ring, .sched] s t) ∧
       (whole → x.cmd.opcode = opMeterRecord → s.kiln.bridgeOk = true →
         ∃ t, exec (.data h off bytes last 0) s = .next t ∧
          t.kiln.toKiln = s.kiln.toKiln ++ [.submit 2 h.dom.val 0 false x.order (slotBytes y)] ∧
          (∃ z ∈ (domOf t h.dom).slots, z.no = x.no ∧ z.phase = .kiln) ∧ changesOnly [.doms, .kiln, .ports] s t))) ∧
    (waitsInBacklog (portOf s h.port) h = false → slotOfTag s h.dom h.port h.tag.toNat = none →
      ((h.port, h.tag.toNat) ∉ (domOf s h.dom).openTags →
        ∃ t, exec (.data h off bytes last 0) s = .next t ∧ postedOne 0x0209 (unitPort h.port) 0x303 s t ∧
          t.doms = s.doms ∧ t.ring = s.ring ∧ changesOnly [.dict, .ev, .free, .ports] s t) ∧
      ((h.port, h.tag.toNat) ∈ (domOf s h.dom).openTags →
        ∃ t, exec (.data h off bytes last 0) s = .next t ∧
          (last = true → (h.port, h.tag.toNat) ∉ (domOf t h.dom).openTags) ∧
          (last = false → t.doms = s.doms) ∧ (domOf t h.dom).slots = (domOf s h.dom).slots ∧ t.ring = s.ring ∧
          changesOnly [.doms, .ports] s t))

/-- DATA_STALL_TIMEOUT, TAG_CLOSE_TIMEOUT, RING_ROOM_GRANTED, RING_WAIT_LIMIT_EXPIRY, IDLE_TIMEOUT, SELF_TEST_RESUME and
SELF_TEST_STEP_COMPLETE (R136, R137, R154, R169, R176, R178, R179, R182). -/
def Obligations.QueueTimersAndTestSteps : Prop :=
  (∀ (h : CmdHead) (x : Slot) (s : State), released s = true → s.power.failing = false →
    slotOfTag s h.dom h.port h.tag.toNat = some x → slotOf s h.dom x.no = some x → x.cmd.head = h → quiet s h.dom →
    portReceives s h.port = true →
    (isWriteCmd x.cmd.opcode = true → x.phase ≠ .done → receivedBytes x ≠ writeLength x.cmd →
      ∃ t, exec (.dataStallTimeout h) s = .next t ∧
        lastSent t h.port = some (.cpl h.dom h.tag.toNat (some x.no) ⟨x.cmd.opcode, 0x12, degradedFlag s, 6, 0, 0⟩) ∧
        t.ring = s.ring ∧ (∀ e, e ≠ h.dom → domOf t e = domOf s e) ∧ changesOnly [.doms, .energy, .ports, .sched] s t) ∧
    (x.phase = .ringWait →
      ∃ t, exec (.ringWaitLimitExpiry h) s = .next t ∧
        lastSent t h.port = some (.cpl h.dom h.tag.toNat (some x.no) ⟨x.cmd.opcode, 0x21, degradedFlag s, 4, 0, 0⟩) ∧
        objectsBut [Obj.ringWaitsExpired h.dom] s t ∧ t.ring = s.ring ∧ (∀ e, e ≠ h.dom → domOf t e = domOf s e) ∧
        changesOnly [.dict, .doms, .energy, .ports, .sched] s t)) ∧
  (∀ (h : CmdHead) (s : State), released s = true →
    ∃ t, exec (.tagCloseTimeout h) s = .next t ∧ (h.port, h.tag.toNat) ∉ (domOf t h.dom).openTags ∧
      (∀ g ∈ (domOf s h.dom).openTags, g ≠ (h.port, h.tag.toNat) → g ∈ (domOf t h.dom).openTags) ∧
      (∀ x, slotOfTag s h.dom h.port h.tag.toNat = some x → slotOf s h.dom x.no = some x → isWriteCmd x.cmd.opcode = true →
        x.phase ≠ .done → receivedBytes x = writeLength x.cmd → slotOf t h.dom x.no = some { x with lastSeen := true }) ∧
      ((∀ x, slotOfTag s h.dom h.port h.tag.toNat = some x →
        isWriteCmd x.cmd.opcode = false ∨ x.phase = .done ∨ receivedBytes x ≠ writeLength x.cmd) →
        (domOf t h.dom).slots = (domOf s h.dom).slots) ∧ (∀ e, e ≠ h.dom → domOf t e = domOf s e) ∧
      changesOnly [.doms] s t) ∧
  (∀ (d : Dom) (x : Slot) (s : State), released s = true → quiet s d →
    (domOf s d).slots.filter (fun y => y.phase == .ringWait) = [x] → slotOf s d x.no = some x →
    hasRoom s d (writeLength x.cmd) = true → receivedBytes x ≠ writeLength x.cmd →
    ∃ t, exec (.ringRoomGranted d) s = .next t ∧
      slotOf t d x.no = some { x with room := true, units := 0, started := !x.held, phase := .receiving } ∧
      (∀ e, e ≠ d → domOf t e = domOf s e) ∧ changesOnly [.doms, .ports] s t) ∧
  (∀ (d : Dom) (s : State), released s = true →
    ∃ t, exec (.idleTimeout d) s = .next t ∧
      (domOf t d).idle = !((domOf s d).slots.any (fun y => !y.held && y.phase != .done)) ∧
      (domOf t d).slots = (domOf s d).slots ∧ (∀ e, e ≠ d → domOf t e = domOf s e) ∧
      changesOnly [.dict, .doms, .ev, .free, .ports, .sched] s t) ∧
  (∀ (r : SelfTestRun) (s : State), released s = true → s.test.run = some r →
    (r.suspended = true → ∃ t, exec .selfTestResume s = .next t ∧
      t.test = { s.test with run := some { r with suspended := false, since := nowUs s } } ∧ changesOnly [.test] s t) ∧
    (r.suspended = false → exec .selfTestResume s = .next s)) ∧
  (∀ (pass : Bool) (progress : Byte) (r : SelfTestRun) (x : Slot) (s : State), released s = true → s.test.run = some r →
    (r.suspended = true ∨ testWaitsForPages s = true ∨ (pass = true ∧ r.step = 9 ∧ r.cuts ≠ []) →
      exec (.selfTestStepComplete pass progress) s = .next s) ∧
    (r.suspended = false → testWaitsForPages s = false → (pass = true → r.step = 9 → r.cuts = []) →
    (pass = true → r.step ≠ (if r.code = 2 then 9 else 8) →
      ∃ t, exec (.selfTestStepComplete pass progress) s = .next t ∧
        t.test = { s.test with run := some { r with
          step := r.step + 1, progress := min progress.toNat 100, cuts := if r.step = 8 then testCuts s else [] } } ∧
        changesOnly [.test] s t) ∧
    (s.power.failing = false → slotOf s r.dom r.slot = some x → x.phase = .selfTest → x.cmd.opcode = opSelfTest →
      (pass = true → r.step = (if r.code = 2 then 9 else 8) →
        ∃ t, exec (.selfTestStepComplete pass progress) s = .next t ∧ t.test.run = none ∧
          lastSent t x.cmd.head.port = some (.cpl r.dom x.cmd.head.tag.toNat (some x.no) ⟨opSelfTest, 0, degradedFlag s, 0, 0, 0⟩) ∧
          changesOnly [.dict, .doms, .energy, .ports, .sched, .test] s t) ∧
      (pass = false →
        ∃ t, exec (.selfTestStepComplete pass progress) s = .next t ∧ t.test.run = none ∧
          lastSent t x.cmd.head.port =
            some (.cpl r.dom x.cmd.head.tag.toNat (some x.no) ⟨opSelfTest, 0x70, degradedFlag s, r.step, 0, 0⟩) ∧
          changesOnly [.dict, .doms, .energy, .ports, .sched, .test] s t))))

/-- BLOCK_GATHER_EXPIRY and BLOCK_START (R209, R211, R221, R222, R227). -/
def Obligations.BlocksAreGatheredAndStarted : Prop :=
  (∀ (d : Dom) (log : LogNo) (ps : List Piece) (s : State), released s = true → gatherOf s d log.val = ps → ps ≠ [] →
    ∃ t, exec (.blockGatherExpiry d log) s = .next t ∧
      t.comp.blocks = s.comp.blocks ++ [logBlock d log.val false ps] ∧ gatherOf t d log.val = [] ∧
      (∀ (e : Dom) (n : Nat), ¬(e = d ∧ n = log.val) → gatherOf t e n = gatherOf s e n) ∧ changesOnly [.comp] s t) ∧
  (∀ (s : State) (pre post : List CompBlock) (b : CompBlock), released s = true → blockBusy s 3 = false →
    s.comp.blocks = pre ++ b :: post → b.stage = .waiting → (∀ x ∈ pre, x.stage ≠ .waiting) →
    (∀ r ∈ s.ring.items, (crc32c r.item.bytes).toNat = r.item.crc) →
    ((b.raw = true ∨ b.store = true ∨ compressing s = false) →
      ∃ t, exec (.blockStart [] [] 0) s = .next t ∧
        t.comp.blocks = pre ++ { b with stage := .ready, block := storedForm b.block } :: post ∧
        t.comp.failures = s.comp.failures ∧ t.comp.out = s.comp.out ∧
        obj t Obj.bytesIn = min (obj s Obj.bytesIn + (blockInput b.block).length) (2 ^ 64 - 1) ∧
        obj t Obj.bytesOut = min (obj s Obj.bytesOut + (storedForm b.block).length) (2 ^ 64 - 1) ∧
        objectsBut [Obj.bytesIn, Obj.bytesOut, Obj.storedBlocks] s t ∧ changesOnly [.comp, .dict, .sched] s t) ∧
    (b.raw = false → b.store = false → compressing s = true →
      (engineFree s 0 = true → exec (.blockStart [] [] 0) s =
        .next { s with comp := { s.comp with blocks := pre ++ { b with stage := .engine 0 } :: post } }) ∧
      (engineFree s 0 = false → engineFree s 1 = true → exec (.blockStart [] [] 0) s =
        .next { s with comp := { s.comp with blocks := pre ++ { b with stage := .engine 1 } :: post } }) ∧
      (engineFree s 0 = false → engineFree s 1 = false → exec (.blockStart [] [] 0) s = .next s)))

/-- BLOCK_COMPRESSED (R219, R220, R222). -/
def Obligations.CompressedBlocksAreChecked : Prop :=
  ∀ (n : Fin 2) (lengths : List (BitVec 4)) (wrong : List (Nat × Byte)) (s : State) (pre post : List CompBlock)
    (b : CompBlock), released s = true → blockBusy s (6 + n.val) = false → s.comp.blocks = pre ++ b :: post →
    b.stage = .engine n → (∀ x ∈ pre, x.stage ≠ .engine n) →
    (let r := makeBlock b.block.kind (lengths.map (·.toNat)) (blockInput b.block)
     let made : Block := { b.block with kind := r.1, length := r.2.1.length, lengths := if r.2.2 then lengths else [] }
     let ready (x : Block) : List CompBlock := pre ++ { b with stage := .ready, block := x } :: post
     (r.1 = .rawSector → ∃ t, exec (.blockCompressed n lengths wrong) s = .next t ∧ t.comp.blocks = ready made ∧
        t.comp.failures = s.comp.failures ∧
        obj t Obj.notSmallerSectors = min (obj s Obj.notSmallerSectors + 1) (2 ^ 32 - 1) ∧
        objectsBut [Obj.bytesIn, Obj.bytesOut, Obj.notSmallerSectors] s t ∧ changesOnly [.comp, .dict, .sched] s t) ∧
     (∀ out, r.1 ≠ .rawSector → siltDecode 65536 (spoil wrong r.2.1) = .inr out →
        ∃ t, exec (.blockCompressed n lengths wrong) s = .next t ∧ t.comp.blocks = ready made ∧
          t.comp.failures = s.comp.failures ∧ t.comp.out = s.comp.out ∧
          objectsBut [Obj.bytesIn, Obj.bytesOut, Obj.storedBlocks] s t ∧ changesOnly [.comp, .dict, .sched] s t) ∧
     (∀ reason, r.1 ≠ .rawSector → siltDecode 65536 (spoil wrong r.2.1) = .inl reason →
        ∃ t, exec (.blockCompressed n lengths wrong) s = .next t ∧ t.comp.blocks = ready (storedForm b.block) ∧
          vget t.comp.failures n = vget s.comp.failures n + 1 ∧
          (∀ m, m ≠ n → vget t.comp.failures m = vget s.comp.failures m ∧ vget t.comp.out m = vget s.comp.out m) ∧
          (vget s.comp.failures n ≠ 2 → t.comp.out = s.comp.out ∧ postedOne 0x0401 unitDevice n.val s t) ∧
          (vget s.comp.failures n = 2 → vget t.comp.out n = true ∧ t.ev.total = s.ev.total + 2 ∧
            (t.ev.log.take 2).map (·.event.code) = [0x0402, 0x0401]) ∧
          (vget s.comp.failures n ≠ 2 → t.opLog = s.opLog) ∧
          changesOnly [.comp, .dict, .ev, .free, .opLog, .ports, .sched] s t))

/-- FRAME_SET_DECISION and SPLICE_GAP_END (R250, R251, R268-R276). -/
def Obligations.FrameSetsPassOrCostTheCut : Prop :=
  (∀ (fs : BitVec 5) (clock : DWord) (frames : List FrameRead) (window : Half) (written : BitVec 6) (s : State) (o : OpenCut),
    released s = true → blockBusy s 1 = false → s.cart.openCut = some o → o.phase = .writing → s.power.failing = false →
    (let need := o.rewrites.length + (if window = 0 then 1 else 2)
     let miss := missReason s ((tapeId s).getD 0) o.cut fs.toNat (judgedCopy o.cut fs.toNat) clock frames
     let counted := min (obj s Obj.c1FailedCodewords + verifyFailures s frames) (2 ^ objWidth Obj.c1FailedCodewords - 1)
     (clock = 0 → frames = [] → miss = 0) ∧
     (miss = 0 → ∃ t, exec (.frameSetDecision fs clock frames window written) s = .next t ∧
       obj t Obj.c1FailedCodewords = counted ∧ objectsBut [Obj.frameSetsWritten, Obj.c1FailedCodewords] s t ∧
       t.cart = { s.cart with openCut := some { o with
         passed := if o.passed.contains fs.toNat then o.passed else o.passed ++ [fs.toNat] } } ∧
       t.xport.servo.clockLocked = true ∧ obj t Obj.lastMissReason = obj s Obj.lastMissReason ∧
       changesOnly [.cart, .dict, .energy, .xport] s t) ∧
     (miss ≠ 0 → need ≤ 4 → ∃ t, exec (.frameSetDecision fs clock frames window written) s = .next t ∧
       obj t Obj.c1FailedCodewords = counted ∧
       t.cart = { s.cart with openCut := some { o with
         rewrites := o.rewrites ++ (if window = 0 then [] else [(0xFE, 0)]) ++ [(fs.toNat, miss)]
         cut := { o.cut with length := o.cut.length + window.toNat
                             rewrites := o.cut.rewrites ++ [(fs.toNat, window.toNat)] } } } ∧
       obj t Obj.lastMissReason = miss ∧ changesOnly [.cart, .dict, .energy, .xport] s t) ∧
     (miss ≠ 0 → 4 < need → (s.cart.recent.filter id).length < 7 →
       ∃ t, exec (.frameSetDecision fs clock frames window written) s = .next t ∧
         t.cart.openCut = some { o with phase := .gap } ∧
         obj t Obj.lastMissReason = miss ∧
         changesOnly [.cart, .dict, .energy, .ev, .free, .ports, .xport] s t ∧
         (let length := written.toNat * frameSetBits + o.cut.length + window.toNat
          let stop := o.cut.start + length
          let c := o.cut.chain
          ((tape s).isSome = true → (chainAt s c).abandons < 2 →
            stop + gapBits + cutRoom ≤ areaLast c (chainAt s c).wrap →
            (∃ x ∈ tapeCuts t, x.serial = o.cut.serial ∧ x.retired = true ∧ x.complete = false ∧ x.length = length) ∧
            (chainAt t c).bits = stop + gapBits ∧ (chainAt t c).abandons = (chainAt s c).abandons + 1) ∧
          (2 ≤ (chainAt s c).abandons → (chainAt t c).abandons = 0))))) ∧
  (∀ (s : State) (o : OpenCut), released s = true → s.cart.openCut = some o → o.phase = .gap → s.power.failing = false →
    s.xport.state = .moving →
    (let s1 : State := { s with cart := { s.cart with openCut := none } }
     ((findRoom o.cut.chain s1).isSome = true → o.cut.serial ≠ 0 →
       ∃ t x, exec .spliceGapEnd s = .next t ∧ t.cart.openCut = some x ∧ x.phase = .writing ∧ x.passed = [] ∧
         x.rewrites = [] ∧ x.source = o.source ∧ x.cut.serial = s.jour.nextSerial ∧ x.cut.replacement = true ∧
         x.cut.retires = o.cut.serial ∧ x.cut.kind = o.cut.kind ∧ x.cut.dom = o.cut.dom ∧ x.cut.chain = o.cut.chain ∧
         x.cut.blocks = o.cut.blocks ∧ t.jour.nextSerial = s.jour.nextSerial + 1 ∧
         changesOnly [.cart, .dict, .ev, .free, .jour, .ports, .xport] s t) ∧
     (findRoom o.cut.chain s1 = none →
       ∃ t, exec .spliceGapEnd s = .next t ∧ t.cart.openCut = none ∧ t.comp.blocks = o.source ++ s.comp.blocks ∧
         (o.cut.kind = .map → t.cart.mapDue = true) ∧ (o.cut.kind = .kiln → t.kiln.cutDue = true) ∧
         changesOnly [.cart, .comp, .kiln] s t)))

/-- CUT_VERIFIED (R14, R246, R249, R252, R272, R301, R377, R410). -/
def Obligations.VerifiedCutsReleaseTheirContent : Prop :=
  ∀ (s : State) (o : OpenCut), released s = true → s.cart.openCut = some o → o.phase = .writing →
    s.power.failing = false →
    ((∃ n, n < 32 ∧ n ∉ o.passed) → exec .cutVerified s = .next s) ∧
    ((∀ n, n < 32 → n ∈ o.passed) → (tape s).isSome = true → (∀ d, quiet s d) →
      ∃ t, exec .cutVerified s = .next t ∧ t.cart.openCut = none ∧
        (∃ x ∈ tapeCuts t, x.serial = o.cut.serial ∧ x.complete = true ∧ x.length = openLength o ∧
          x.blocks = o.cut.blocks) ∧
        (chainAt t o.cut.chain).bits = o.cut.start + openLength o ∧ (chainAt t o.cut.chain).serial = o.cut.serial ∧
        (chainAt t o.cut.chain).abandons = 0 ∧
        (∀ d, o.cut.kind = .data → o.cut.dom = some d → o.cut.reallocated = false →
          t.ring.items.map (·.item) = (stayingItems (itemHere s) [] (s.ring.items.map (fun r =>
            if itemHere s r then o.cut.blocks.foldl (fun r b => itemTaped d b r) r else r))).map (·.item)) ∧
        ((o.cut.kind ≠ .data ∨ o.cut.dom = none ∨ o.cut.reallocated = true) → t.ring = s.ring ∧ t.comp = s.comp) ∧
        (o.cut.kind = .data → o.cut.dom.isSome = true → o.cut.reallocated = true →
          ∀ x ∈ tapeCuts t, x.serial = sourceOf s o.cut → x.retired = true) ∧
        (o.cut.kind = .kiln → t.kiln.toKiln = s.kiln.toKiln ++
          [.confirm (((o.cut.blocks.flatMap (·.pieces)).map (·.seq)).foldl max 0) o.cut.serial]) ∧
        (o.cut.kind = .map → o.cut.last = true → t.cart.mapDue = false) ∧
        changesOnly [.cart, .comp, .dict, .doms, .dram, .ev, .free, .jour, .kiln, .opLog, .ports, .ring, .sched] s t)

/-- CUT_BOUNDARY and STREAM_GAP_EXPIRY (R341, R352, R356, R357, R359, R372). -/
def Obligations.BoundariesBuildCutsOrEndBursts : Prop :=
  (∀ s : State, released s = true → blockBusy s 0x0D = false → atBoundary s = true →
    (s.power.ready = false → ∃ t, exec .cutBoundary s = .next t ∧ t.sched.burst = false ∧ t.sched.mode = .idle ∧
      t.sched.step = s.sched.step ∧ t.xport.target = 0 ∧ changesOnly [.dict, .ev, .free, .ports, .sched, .xport] s t) ∧
    (s.power.ready = true →
      (let s1 := reclaimCheck (closeForCut s)
       (boundaryStep s1 = none → ∃ t, exec .cutBoundary s = .next t ∧ t.sched.burst = false ∧ t.xport.target = 0 ∧
         t.sched.step = (if s.sched.step < wantedStep s1 then s.sched.step + 1 else s.sched.step - 1) ∧
         t.cart = s.cart ∧ t.comp = s1.comp ∧ changesOnly [.comp, .dict, .ev, .free, .jour, .opLog, .ports, .sched, .xport] s t) ∧
       (∀ n, boundaryStep s1 = some n →
         (let s2 := runAtStep (setStep n s1)
          (chooseWork s2 = none → ∃ t, exec .cutBoundary s = .next t ∧ t.sched.step = n ∧ t.cart = s.cart ∧
            (s.sched.pooled = false → t.sched.burst = true ∧
              t.xport.target = (if s.xport.forward then stepTarget n else -stepTarget n)) ∧
            (s.sched.pooled = true → t.sched.burst = false ∧ t.xport.target = 0) ∧
            changesOnly [.comp, .dict, .ev, .free, .jour, .opLog, .ports, .sched, .xport] s t) ∧
          (∀ d u, chooseWork s2 = some (.domain d) → findRoom .data s2 = some u →
            seedCut u (chainAt u .data).wrap = none → tapeAt u .data = true →
            ∃ t o, exec .cutBoundary s = .next t ∧ t.cart.openCut = some o ∧ o.phase = .writing ∧
              o.source = (domainFill s2 d).1 ∧ o.cut.dom = some d ∧ o.cut.kind = .data ∧ o.cut.chain = .data ∧
              o.cut.blocks = o.source.map (·.block) ∧ o.cut.serial = s.jour.nextSerial ∧
              o.cut.padded = cutShort o.cut.blocks ∧ t.jour.nextSerial = s.jour.nextSerial + 1 ∧
              (∃ more, (domainBlocks t d).filter (·.isLog) =
                ((domainBlocks s2 d).drop o.source.length).filter (·.isLog) ++ more) ∧
              (∀ e, e ≠ d → ∃ more, (domainBlocks t e).filter (·.isLog) = (domainBlocks s2 e).filter (·.isLog) ++ more) ∧
              changesOnly [.cart, .comp, .dict, .doms, .dram, .ev, .free, .jour, .opLog, .ports, .ring, .sched, .xport] s t)))))) ∧
  (∀ s : State, released s = true → atBoundary s = true → s.sched.pooled = false →
    (chooseWork s = none → ∃ t, exec .streamGapExpiry s = .next t ∧ t.sched.burst = false ∧ t.sched.mode = .idle ∧
      t.sched.step = s.sched.step - 1 ∧ t.xport.target = 0 ∧
      changesOnly [.dict, .ev, .free, .ports, .sched, .xport] s t) ∧
    (∀ w, chooseWork s = some w → exec .streamGapExpiry s = .next s))

/-- BURST_START, BACKHITCH_COMPLETE, SPEED_EVALUATION, POOL_MAX_AGE_EXPIRY and DERATE_RECOVERY (R342, R355-R360). -/
def Obligations.BurstsAndSpeedFollowDemand : Prop :=
  (∀ s : State, released s = true → blockBusy s 0x0D = false → s.xport.state = .stopped → tapeFree s = true →
    s.xport.servo.lowerValid = true → s.xport.servo.upperValid = true → powerNow s = 0 →
    burstDue (reclaimCheck (closeForCut s)) = true →
    ∃ t, exec .burstStart s = .next t ∧ t.sched.burst = true ∧ t.xport.state = .moving ∧
      t.sched.mode = (if s.sched.pooled then .pooled else .streaming) ∧
      t.sched.step = (if s.sched.pooled then 0 else s.sched.step) ∧
      t.xport.forward = ((chainAt s .data).wrap % 2 == 0) ∧
      t.xport.target = (if t.xport.forward then stepTarget t.sched.step else -stepTarget t.sched.step) ∧
      changesOnly [.comp, .dict, .ev, .free, .jour, .opLog, .ports, .sched, .xport] s t) ∧
  (∀ s : State, released s = true → s.sched.burst = false → s.sched.mode = .idle → s.xport.state = .stopped →
    ∃ t, exec .backhitchComplete s = .next t ∧ t.sched.claim = burstNear s ∧
      changesOnly [.dict, .ev, .free, .ports, .sched] s t) ∧
  (∀ s : State, released s = true → blockBusy s 0x0D = false →
    (let wait := (allDoms.map (waitingBytes s)).sum
     let target := targetFor s (11000 * s.sched.inflow + wait * obj s Obj.speedEvalMs)
     ∃ t, exec .speedEvaluation s = .next t ∧ t.sched.target = target ∧ t.sched.inflow = 0 ∧
       t.sched.step = s.sched.step ∧
       (∀ n, target = some n → s.sched.step ≤ n → t.sched.lower = []) ∧
       (target = none → t.sched.lower = (none :: s.sched.lower).take 3) ∧
       (∀ n, target = some n → t.sched.pooled = false) ∧
       (s.sched.pooled = true → t.sched.pooled = target.isNone) ∧
       (s.sched.pooled = false → (t.sched.pooled = true ↔ t.sched.lower = [none, none, none])) ∧
       obj t Obj.inflowKbps =
         (openDiv s.sched.inflow (obj s Obj.speedEvalMs)).toNat % 2 ^ objWidth Obj.inflowKbps ∧
       obj t Obj.backlogKb = (openDiv wait 1000).toNat % 2 ^ objWidth Obj.backlogKb ∧
       changesOnly [.dict, .ev, .free, .ports, .sched] s t)) ∧
  (∀ (d : Dom) (s : State), released s = true →
    (waitingBytes s d ≠ 0 → d ∉ s.sched.aged → ∃ t, exec (.poolMaxAgeExpiry d) s = .next t ∧
      t.sched.aged = s.sched.aged ++ [d] ∧ changesOnly [.dict, .ev, .free, .ports, .sched] s t) ∧
    ((waitingBytes s d = 0 ∨ d ∈ s.sched.aged) → exec (.poolMaxAgeExpiry d) s = .next s)) ∧
  (∀ s : State, released s = true → ∃ t, exec .derateRecovery s = .next t ∧
    t.sched.derate = min 15 (s.sched.derate + 1) ∧ t.sched.step = s.sched.step ∧
    changesOnly [.dict, .ev, .free, .ports, .sched] s t)

/-- CARTRIDGE_INSERTED, CARTRIDGE_REMOVED, LOAD, UNLOAD, EJECT, FORMAT, FORMAT_FORCE and DISCARD_RING (R33, R56, R162,
R258, R280). -/
def Obligations.CartridgeStatesFollowRequests : Prop :=
  (∀ (c : Cartridge) (s : State),
    (released s = false → s.cart.medium = none →
      exec (.cartridgeInserted c) s = .next { s with cart := { s.cart with medium := some c } }) ∧
    (released s = true → s.cart.state = .absent →
      (obj s Obj.autoLoad = 0 → ∃ t, exec (.cartridgeInserted c) s = .next t ∧ t.cart.state = .present ∧
        t.cart.medium = some c ∧ t.cart.ejected = false ∧ (powerToward s ≠ 2 → postedOne 0x0501 unitCartridge 0 s t) ∧
        changesOnly [.cart, .dict, .ev, .free, .ports, .sched] s t) ∧
      (obj s Obj.autoLoad ≠ 0 → ((stateBlockOf c).getD blankStateBlock).loadCount < 20000 →
        ∃ t, exec (.cartridgeInserted c) s = .next t ∧ t.cart.state = .threading ∧ t.cart.medium = some c ∧
          (powerToward s ≠ 2 → postedOne 0x0501 unitCartridge 0 s t) ∧
          changesOnly [.cart, .dict, .ev, .free, .ports, .sched, .xport] s t)) ∧
    (released s = true → s.cart.state ≠ .absent → exec (.cartridgeInserted c) s = .next s)) ∧
  (∀ s : State, released s = true →
    (s.cart.state = .present → ∃ t, exec .cartridgeRemoved s = .next t ∧ t.cart.state = .absent ∧ t.cart.medium = none ∧
      objectsBut [Obj.unitGen 0x2C00] s t ∧ changesOnly [.cart, .dict] s t) ∧
    (s.cart.state ≠ .present → exec .cartridgeRemoved s = .next s)) ∧
  (∀ (w : Writer) (gen : Half) (s s1 : State), requestPasses w 0x2C00 gen s s1 →
    (let few := (s.cart.medium.map (fun c => ((stateBlockOf c).getD blankStateBlock).loadCount)).getD 0 < 20500
     let busy : List Part := [.cart, .dict, .doms, .ecat, .energy, .ev, .free, .ports, .sched, .xport]
     ((s.cart.state = .present ∨ (s.cart.state = .faulted ∧ canMove s1 = true)) → few →
       ∃ t, exec (.load w gen) s = .next t ∧ t.cart.state = .threading ∧ t.cart.medium = s.cart.medium ∧
         requestDone 0x2C00 gen t ∧ changesOnly busy s t) ∧
     (s.cart.state = .ready →
       (∃ t, exec (.unload w gen) s = .next t ∧ t.cart.state = .draining ∧ t.cart.goal = .unload ∧
         t.cart.mapDue = true ∧ requestDone 0x2C00 gen t ∧ changesOnly busy s t) ∧
       (∃ t, exec (.eject w gen) s = .next t ∧ t.cart.state = .draining ∧ t.cart.goal = .eject ∧ t.cart.mapDue = true ∧
         requestDone 0x2C00 gen t ∧ changesOnly busy s t) ∧
       (∃ t, exec (.formatForce w gen) s = .next t ∧ t.cart.state = .draining ∧ t.cart.goal = .format ∧
         requestDone 0x2C00 gen t ∧ changesOnly busy s t)) ∧
     ((s.cart.state = .unformatted ∨ s.cart.state = .mismatch ∨ (s.cart.state = .faulted ∧ canMove s1 = true)) →
       (∃ t, exec (.unload w gen) s = .next t ∧ t.cart.state = .unloading ∧ t.cart.pushOut = false ∧
         requestDone 0x2C00 gen t ∧ changesOnly busy s t) ∧
       (∃ t, exec (.eject w gen) s = .next t ∧ t.cart.state = .unloading ∧ t.cart.pushOut = true ∧
         requestDone 0x2C00 gen t ∧ changesOnly busy s t)) ∧
     (s.cart.state = .unformatted → ∀ c ∈ [Instr.format w gen, Instr.formatForce w gen],
       ∃ t, exec c s = .next t ∧ t.cart.state = .formatting ∧ t.cart.index.status = 0 ∧ t.cart.index.entries = [] ∧
         (opOf t 1).map (·.step) = some 1 ∧ obj t Obj.formatProgress = 0 ∧ requestDone 0x2C00 gen t ∧
         changesOnly (.jour :: .opLog :: busy) s t) ∧
     (s.cart.state = .mismatch → ∃ t, exec (.discardRing w gen) s = .next t ∧ t.cart.state = .searching ∧
       t.ring.items = s.ring.items.filter (itemHere s) ∧ t.comp.blocks = [] ∧ t.comp.gathers = [] ∧
       (∀ r ∈ s.ring.items, itemHere s r = false → r.done = false → r.item.kind = .take → ∀ l : LogNo, l.val = r.item.target →
         r.item.seq ∈ (vget (domOf t r.item.dom).logs l).discarded) ∧
       requestDone 0x2C00 gen t ∧ changesOnly (.comp :: .ring :: busy) s t)))

/-- THREADED, POWER_LOSS_REPLAY, EOD_FOUND, CARTRIDGE_QUIESCENT and UNTHREADED (R31, R161, R162, R253-R257, R278, R288,
R325, R381-R384). -/
def Obligations.CartridgesAreReadAndLeft : Prop :=
  (∀ (arm : BitVec 12) (c : Cartridge) (s : State), released s = true → s.cart.state = .threading →
    s.xport.state = .threading → s.cart.medium = some c →
    (let b := (stateBlockOf c).getD blankStateBlock
     let foreign := ∃ r ∈ s.ring.items, r.done = false ∧ r.cartridge.isSome = true ∧ r.cartridge ≠ some c.id
     let ends (p : State → Prop) : Prop := ∃ t m, exec (.threaded arm) s = .next t ∧ t.cart.threaded = true ∧
       vget t.xport.zero 13 = arm.toNat ∧ t.cart.medium = some m ∧ m.cuts = c.cuts ∧
       (stateBlockOf m).map (·.loadCount) = some (b.loadCount + 1) ∧ p t
     (c.manufacturer = false → ∃ t, exec (.threaded arm) s = .next t ∧ t.cart.state = .faulted ∧
       t.cart.medium = some c) ∧
     (c.manufacturer = true → b.formatState = 2 → ¬foreign → ends (fun t => t.cart.state = .searching ∧
       t.cart.calibration = (s.jour.headChanged || !s.jour.trimsValid))) ∧
     (c.manufacturer = true → b.formatState = 2 → foreign → ends (fun t => t.cart.state = .mismatch)) ∧
     (c.manufacturer = true → b.formatState ≠ 2 → opOf s 1 = none → ends (fun t => t.cart.state = .unformatted)) ∧
     (∀ o, c.manufacturer = true → b.formatState = 1 → opOf s 1 = some o → o.cartridge = some c.id →
       ends (fun t => t.cart.state = .formatting ∧ obj t Obj.formatProgress = min 96 (o.step - 1))))) ∧
  (∀ s : State, released s = true → replayDue s = true →
    ∃ t, exec .powerLossReplay s = .next t ∧ t.cart.replayed = true ∧ t.cart.state = .searching ∧
      t.jour.ringClose = none ∧ (openCuts s ≠ [] → t.cart.replay = ((openCuts s).map (·.serial)).min?) ∧
      (∀ x ∈ tapeCuts t, x.chain = .data → x.complete = false → x.retired = true) ∧
      changesOnly [.cart, .dict, .ev, .free, .jour, .ports] s t) ∧
  (∀ s : State, released s = true → s.cart.state = .searching →
    (replayDue s = true → ∀ rot, exec (.eodFound rot) s = .next s) ∧
    (replayDue s = false → ∀ rot, ∃ t, exec (.eodFound rot) s = .next t ∧ t.cart.state = .ready ∧
      (∀ c, chainAt t c = chainEnd s c) ∧ t.cart.index.cartridge = tapeId s ∧
      (∀ x ∈ tapeCuts s, x.serial < t.jour.nextSerial) ∧
      (∀ x ∈ tapeCuts t, x.chain = .data → x.complete = false → x.retired = true) ∧ t.xport = s.xport ∧
      changesOnly [.cart, .comp, .dict, .doms, .dram, .energy, .ev, .free, .jour, .kiln, .opLog, .ports, .ring, .sched] s t)) ∧
  (∀ s : State, released s = true → cartQuiescent s = true →
    ∃ t, exec .cartridgeQuiescent s = .next t ∧
      t.cart.state = (if s.cart.goal = .format then .formatting else .unloading) ∧
      (s.cart.goal ≠ .format → t.cart.pushOut = (s.cart.goal == .eject)) ∧ t.cart.goal = .none ∧
      (∀ d, (domOf s d).state = .online → (domOf t d).state = .starting) ∧
      changesOnly [.cart, .comp, .dict, .doms, .dram, .energy, .ev, .free, .jour, .kiln, .opLog, .ports, .ring, .sched, .test,
        .xport] s t) ∧
  (∀ s : State, released s = true → s.cart.state = .unloading → s.xport.state = .threading →
    ∃ t, exec .unthreaded s = .next t ∧ t.cart.state = .present ∧ t.cart.threaded = false ∧
      t.cart.ejected = s.cart.pushOut ∧ t.cart.pushOut = false ∧ t.cart.openCut = none ∧ t.cart.ladder = none ∧
      t.cart.reallocs = [] ∧ t.cart.medium.map (·.cuts) = s.cart.medium.map (·.cuts) ∧ t.xport.state = .idle ∧
      obj t Obj.formatGen = 0 ∧ obj t Obj.loadCount = 0 ∧ obj t Obj.nextSerial = 0 ∧
      changesOnly [.cart, .comp, .dict, .doms, .dram, .energy, .ev, .free, .jour, .kiln, .opLog, .ports, .ring, .sched,
        .xport] s t)

/-- FORMAT_WRAP_DONE, FORMAT_COMPLETE and INDEX_REBUILD_COMPLETE (R162, R199, R248, R258, R346, R376). -/
def Obligations.FormatsAndRebuildsComplete : Prop :=
  (∀ (s : State) (o : OpRecord), released s = true → (tape s).isSome = true → s.cart.state = .formatting →
    opOf s 1 = some o →
    (let w := o.step - 1
     (w < 96 → ∃ t, exec .formatWrapDone s = .next t ∧ (opOf t 1).map (·.step) = some (w + 2) ∧
       obj t Obj.formatProgress = w + 1 ∧ (cartState t).wrapsFormatted = w + 1 ∧ t.cart.state = .formatting ∧
       (∀ x ∈ tapeCuts t, x.wrap = w → x.chain = .kiln ∧ keepsKiln s = true) ∧
       (∀ x ∈ tapeCuts s, x.wrap ≠ w → x ∈ tapeCuts t) ∧ changesOnly [.cart, .dict, .ev, .free, .jour, .opLog, .ports] s t) ∧
     (96 ≤ w → exec .formatWrapDone s = .next s) ∧
     (96 ≤ w → (∀ d, quiet s d) → ∃ t, exec .formatComplete s = .next t ∧ t.cart.state = .searching ∧ opOf t 1 = none ∧
       (cartState t).formatState = 2 ∧ t.cart.index.status = 0x80 ∧ t.cart.index.entries = [] ∧
       t.ring.items = s.ring.items.filter (fun r => !itemHere s r) ∧ t.comp.blocks = [] ∧ t.comp.gathers = [] ∧ (∀ x ∈ tapeCuts s, x ∈ tapeCuts t) ∧
       ((tapeCuts t).filter (fun x => x.kind == .calibration)).length =
         ((tapeCuts s).filter (fun x => x.kind == .calibration)).length + 8 ∧
       changesOnly [.cart, .comp, .dict, .doms, .ev, .free, .jour, .opLog, .ports, .ring, .sched] s t) ∧
     (w < 96 → exec .formatComplete s = .next s))) ∧
  (∀ s : State, released s = true → s.cart.threaded = true → s.cart.index.cartridge = tapeId s →
    s.cart.index.status ≠ 0x80 →
    (s.cart.index.todo = [] → ∃ t, exec .indexRebuildComplete s = .next t ∧ indexValid t = true ∧
      t.cart.index = { s.cart.index with status := 0x80 } ∧ opOf t 8 = none ∧ t.xport = s.xport ∧
      changesOnly [.cart, .comp, .dict, .doms, .dram, .energy, .ev, .free, .jour, .kiln, .opLog, .ports, .ring, .sched] s t) ∧
    (s.cart.index.todo ≠ [] → exec .indexRebuildComplete s = .next s))

/-- LOCATE_COMPLETE, WRAP_CHECK, HOLDOVER, HOLDOVER_OVERRUN, CLOCK_RELOCK, ZONE_EXIT and HEAD_CALIBRATION_COMPLETE (R287,
R289, R291, R293, R297, R305). -/
def Obligations.LocatesAndClockFollowTheTape : Prop :=
  (∀ (s : State) (lpos wrap : Nat), released s = true → s.xport.servo.locate = some (lpos, wrap) →
    (∀ wedge : DWord, wedgeConfirms lpos wrap wedge = none → exec (.locateComplete wedge) s = .next s) ∧
    (∀ (wedge : DWord) (found : Nat), wedgeConfirms lpos wrap wedge = some found →
      ∃ t, exec (.locateComplete wedge) s = .next t ∧ t.xport.servo.locate = none ∧ t.xport.servo.lpos = found ∧
      t.xport.servo.wrap = wrap ∧ t.xport.servo.corrections = 0 ∧ t.xport.forward = (wrap % 2 == 0) ∧
      t.xport.servo.afe = Vector.ofFn (fun e => afeSeed s (obj s (Obj.zone wrap (zoneAt found))) 0 0 e.val) ∧
      t.xport.target = (if wrap % 2 = 0 then 1 else -1) *
        stepTarget (if s.sched.mode = .excursion then readStep s else s.sched.step) ∧
      (s.sched.mode = .excursion → t.xport.servo.clockLocked = true) ∧ changesOnly [.xport] s t) ∧
    (∀ (track : Fin 16) (wedges : Vector DWord 4),
      (let shifted (n : Nat) : Prop := ((n : Int) - wrap).natAbs = 12 ∨ ((n : Int) - wrap).natAbs = 24
       (wrapFound track.val wedges.toList = some wrap → ∃ t, exec (.wrapCheck track wedges) s = .next t ∧
         t.xport.servo = { s.xport.servo with corrections := 0 } ∧ changesOnly [.xport] s t) ∧
       (∀ n, wrapFound track.val wedges.toList = some n → shifted n → s.xport.servo.corrections < 2 →
         ∃ t, exec (.wrapCheck track wedges) s = .next t ∧
         t.xport.servo = { s.xport.servo with corrections := s.xport.servo.corrections + 1 } ∧
         postedOne 0x0606 unitTransport (wrap + 256 * n) s t ∧ changesOnly [.dict, .ev, .free, .ports, .xport] s t) ∧
       ((∀ n, wrapFound track.val wedges.toList = some n → n ≠ wrap ∧ (shifted n → 2 ≤ s.xport.servo.corrections)) →
         canFault s → ∃ t, exec (.wrapCheck track wedges) s = .next t ∧ tapeFaulted 0x50 t ∧
           changesOnly [.cart, .comp, .dict, .doms, .dram, .energy, .ev, .free, .kiln, .opLog, .ports, .ring, .sched, .test,
             .xport] s t)))) ∧
  (∀ s : State, released s = true →
    (s.xport.servo.clockLocked = true → s.xport.servo.holdover = false → ∃ t, exec .holdover s = .next t ∧
      t.xport.servo = { s.xport.servo with clockLocked := false, holdover := true, overrun := false } ∧
      changesOnly [.xport] s t) ∧
    (s.xport.servo.holdover = true → s.xport.servo.overrun = false →
      (∃ t, exec .holdoverOverrun s = .next t ∧ t.xport.servo = { s.xport.servo with overrun := true } ∧
        counted Obj.holdoverOverruns 1 s t ∧ objectsBut [Obj.holdoverOverruns] s t ∧ changesOnly [.dict, .xport] s t) ∧
      (∃ t, exec .clockRelock s = .next t ∧ counted Obj.holdovers 1 s t ∧ objectsBut [Obj.holdovers] s t ∧
        t.xport.servo = { s.xport.servo with clockLocked := true, holdover := false, overrun := false } ∧
        changesOnly [.dict, .xport] s t)) ∧
    (s.xport.servo.holdover = true → s.xport.servo.overrun = true → ∃ t, exec .clockRelock s = .next t ∧
      t.xport.servo = { s.xport.servo with clockLocked := true, holdover := false, overrun := false } ∧
      changesOnly [.xport] s t)) ∧
  (∀ (w : BitVec 7) (z : Fin 8) (adapted : Vector AfeRead 17) (lateral : Half) (s : State), released s = true →
    s.cart.threaded = true → w.toNat < 96 →
    (let k := Obj.zone w.toNat z.val
     let s1 := adaptChannel adapted s
     let new := adaptedEntry s1 (obj s k) lateral.toInt
     ∃ t, exec (.zoneExit w z adapted lateral) s = .next t ∧ obj t k = new ∧ objectsBut [k] s t ∧ t.xport = s1.xport ∧
       (∀ e : Fin 17, let a := vget t.xport.servo.afe e
         a.seed = (vget s.xport.servo.afe e).seed ∧ 0 ≤ a.gain ∧ a.gain ≤ 240 ∧
         (0 ≤ a.seed → a.seed ≤ 240 → a.seed - 48 ≤ a.gain ∧ a.gain ≤ a.seed + 48) ∧
         -32 ≤ a.offset ∧ a.offset ≤ 32 ∧ -16 ≤ a.asym ∧ a.asym ≤ 15) ∧
       (new ≠ obj s k → w.toNat ∈ t.cart.zonesChanged) ∧ (new = obj s k → t = s1) ∧ changesOnly [.cart, .dict, .xport] s t)) ∧
  (∀ (decoded : Bool) (trims : Vector Word 17) (s : State), released s = true → s.cart.calibration = true →
    s.cart.threaded = true → ∃ t, exec (.headCalibrationComplete decoded trims) s = .next t ∧
      t.cart.calibration = false ∧ t.jour.headChanged = false ∧
      (decoded = true → t.jour.trimsValid = true ∧ (powerToward s ≠ 2 → t.ev = s.ev) ∧
        (∀ i : Fin 17, obj t (Obj.elementTrim i.val) = trimOf i.val (vget trims i)) ∧
        (∀ i : Fin 17, 0 < i.val → i.val < 16 → (vget trims i).toNat < 241 * 2 ^ 24 →
          obj t (Obj.elementTrim i.val) = (vget trims i).toNat / 256 * 256)) ∧
      (decoded = false → t.jour.trimsValid = s.jour.trimsValid ∧
        (powerToward s ≠ 2 → postedOne 0x0605 unitCartridge 0 s t) ∧
        ∀ i : Fin 17, obj t (Obj.elementTrim i.val) = obj s (Obj.elementTrim i.val)) ∧
      changesOnly [.cart, .dict, .doms, .ev, .free, .jour, .ports, .sched, .xport] s t)

/-- CUT_READ_COMPLETE, LADDER_STEP_COMPLETE and BLOCK_DECOMPRESSED (R212, R223, R224, R264-R266, R294, R299-R303, R308). -/
def Obligations.CutsAreReadAndRecovered : Prop :=
  (∀ (frames : List CopyRead) (seed : BitVec 24) (serial : Nat) (c : Cut) (s : State), released s = true →
    blockBusy s 2 = false → s.sched.reading = some serial → s.sched.mode = .excursion → s.xport.state = .moving →
    s.xport.servo.locate = none → s.cart.ladder = none → findCut s serial = some c →
    (let y := c1Decode ((tapeId s).getD 0) c (readLimit s) frames
     let s1 := weighRead c.serial (countDecoding y
       (bumpBy Obj.c1FailedCodewords (c1Failures ((tapeId s).getD 0) c (readLimit s) frames) s))
     (readComplete s1 c y = false →
       ∃ t l, exec (.cutReadComplete frames seed) s = .next t ∧ t.cart.ladder = some l ∧ l.serial = serial ∧ l.step = 1 ∧
         l.reread = 0 ∧ l.symbols = y ∧ l.failedCodewords = y.failed.length ∧ l.captured = captureSets y ∧
         (l.source = .reread ↔ ∃ e ∈ s.comp.rereads, e.1 = serial) ∧
         t.xport.target = 0 ∧ t.sched.reading = some serial ∧ counted Obj.ladderEntries 1 s t ∧
         changesOnly [.cart, .dict, .energy, .ev, .free, .ports, .sched, .xport] s t) ∧
     (readComplete s1 c y = true → siltBlocks s1 c ≠ [] → ∃ t, exec (.cutReadComplete frames seed) s = .next t ∧
       t.comp.captured = s.comp.captured ++ (siltBlocks s1 c).map (fun n =>
         ⟨serial, n, s.comp.rereads.contains (serial, n), blockWrong c (payloadWrong y) n⟩) ∧ t.cart.ladder = none ∧
       (∀ rest, s.sched.dailies = some (serial :: rest) → t.sched.dailies = (if rest = [] then none else some rest)) ∧
       changesOnly [.cart, .comp, .dict, .doms, .dram, .energy, .ev, .free, .jour, .opLog, .ports, .ring, .sched, .test,
         .xport] s t) ∧
     (readComplete s1 c y = true → (∀ d, quiet s d) → ∃ t, exec (.cutReadComplete frames seed) s = .next t ∧
       t.comp.captured = s.comp.captured ∧ (∀ d, (domOf t d).slots = (domOf s d).slots) ∧ t.cart.ladder = none ∧
       (∀ rest, s.sched.dailies = some (serial :: rest) → t.sched.dailies = (if rest = [] then none else some rest)) ∧
       (∀ rest, s.cart.index.todo = serial :: rest → t.cart.index.todo = rest)))) ∧
  (∀ (frames : List CopyRead) (l0 : Ladder) (c : Cut) (s : State), released s = true → blockBusy s 2 = false →
    s.cart.ladder = some l0 → findCut s l0.serial = some c →
    (let l := stepDecoded l0 c frames s
     let s1 := countDecoding l.symbols (bumpBy Obj.c1FailedCodewords
       ((stepScope l0).filter (fun w => l.symbols.failed.contains w)).length (modCart (fun x => { x with ladder := some l }) s))
     (∀ w ∈ l.symbols.failed, w ∈ l0.symbols.failed) ∧
     (readComplete s1 c l.symbols = false →
       (l0.step ≠ 3 → l0.reread < obj s Obj.rereadLimit → ∃ t, exec (.ladderStepComplete frames) s = .next t ∧
         t.cart.ladder = some { l with step := 2, reread := l0.reread + 1 } ∧
         t.xport.servo.offset = rereadOffset (l0.reread + 1) ∧ (s.xport.state = .stopped → t.xport.state = .moving) ∧
         changesOnly [.cart, .dict, .ev, .free, .ports, .sched, .xport] s t) ∧
       (l0.step ≠ 3 → obj s Obj.rereadLimit ≤ l0.reread → ∃ t, exec (.ladderStepComplete frames) s = .next t ∧
         t.cart.ladder = some { l with step := 3 } ∧ t.xport.servo.offset = 0 ∧ t.xport.target = 0 ∧
         changesOnly [.cart, .dict, .ev, .free, .ports, .sched, .xport] s t) ∧
       (l0.step = 3 → ∃ t, exec (.ladderStepComplete frames) s = .next t ∧ t.cart.ladder = none ∧
         t.xport.servo.offset = 0 ∧ (∀ x ∈ tapeCuts t, x.serial = l0.serial → x.bad = true) ∧
         (t.cart.recoveryLog.head?.map (fun e => (e.serial, e.outcome, e.c3Failed))) =
           some (l0.serial, 0x10, (c3Counts l.symbols).2))) ∧
     (readComplete s1 c l.symbols = true → ∃ t, exec (.ladderStepComplete frames) s = .next t ∧ t.cart.ladder = none ∧
       t.xport.servo.offset = 0 ∧ (∀ x ∈ tapeCuts t, x.serial = l0.serial → x.bad = false) ∧
       (t.cart.recoveryLog.head?.map (fun e => (e.serial, e.outcome))) = some (l0.serial, l0.step) ∧
       ((c.kind = .data ∨ c.kind = .kiln) → s.cart.reallocs = [] → 0 < commonFree s →
         ⟨l0.serial, none⟩ ∈ t.cart.reallocs) ∧ (c.kind = .map → t.cart.mapDue = true)))) ∧
  (∀ (wrong : List (Nat × Byte)) (c : Captured) (rest : List Captured) (cut : Cut) (b : Block) (s : State),
    released s = true → blockBusy s 8 = false → s.comp.captured = c :: rest → findCut s c.serial = some cut →
    cut.blocks[c.blockNo]? = some b →
    (let r := siltDecode (if b.kind = .sector then 4096 else 65536) (spoil (c.wrong ++ wrong) (blockBytes b))
     let u (reason : Nat) : State :=
       setObj Obj.lastFailure reason (bump Obj.decompressFailures { s with comp := { s.comp with captured := rest } })
     (∀ out, r = .inr out → c.second = false → ((∃ e ∈ rest, e.serial = c.serial) ∨ ∀ d, quiet s d) →
       exec (.blockDecompressed wrong []) s = .next { s with comp := { s.comp with captured := rest } }) ∧
     (∀ reason, r = .inl reason → (∀ d, quiet s d) → ∃ t, exec (.blockDecompressed wrong []) s = .next t ∧
       t.comp.captured = rest ∧ t.comp.rereads = s.comp.rereads.filter (· != (c.serial, c.blockNo)) ∧
       counted Obj.decompressFailures 1 s t ∧ obj t Obj.lastFailure = reason % 256 ∧
       objectsBut [Obj.decompressFailures, Obj.lastFailure] s t ∧ changesOnly [.comp, .dict] s t) ∧
     (∀ reason, r = .inl reason → blockNeeded (u reason) cut b = true → c.second = false →
       ∃ t, exec (.blockDecompressed wrong []) s = .next t ∧ t.comp.captured = rest ∧
         t.comp.rereads = s.comp.rereads ++ [(c.serial, c.blockNo)] ∧ counted Obj.decompressFailures 1 s t ∧
         obj t Obj.lastFailure = reason % 256 ∧ objectsBut [Obj.decompressFailures, Obj.lastFailure] s t ∧
         changesOnly [.comp, .dict] s t) ∧
     (∀ reason, r = .inl reason → c.second = true → (∃ e ∈ rest, e.serial = c.serial) → blockNeeded (u reason) cut b = true →
       ∃ t, exec (.blockDecompressed wrong []) s = .next t ∧ t.comp.captured = rest ∧
         t.comp.rereads = s.comp.rereads.filter (· != (c.serial, c.blockNo)) ∧
         (∀ d, ∀ x ∈ (domOf s d).slots, needsBlock (u reason) cut b x = true →
           { x with badBlocks := x.badBlocks ++ [(c.serial, c.blockNo)] } ∈ (domOf t d).slots) ∧
         counted Obj.decompressFailures 1 s t ∧ obj t Obj.lastFailure = reason % 256 ∧
         objectsBut [Obj.decompressFailures, Obj.lastFailure] s t ∧ changesOnly [.comp, .dict, .doms] s t)))

/-- READ_EXCURSION_LIMIT, READ_WAIT_PRIORITY, DAILIES_DUE, DAILIES_RESUME and BEDROCK_DELAY_EXPIRY (R347, R352-R354). -/
def Obligations.ExcursionsDailiesAndGenerations : Prop :=
  (∀ s : State, released s = true →
    (s.sched.mode = .excursion → writesWait s = true → ∃ t, exec .readExcursionLimit s = .next t ∧
      t.sched = { s.sched with owed := 4 } ∧ readsMay t = false ∧ changesOnly [.sched] s t) ∧
    ((s.sched.mode ≠ .excursion ∨ writesWait s = false) → exec .readExcursionLimit s = .next s)) ∧
  (∀ (h : CmdHead) (x : Slot) (s : State), released s = true → slotOfTag s h.dom h.port h.tag.toNat = some x →
    (readsTape x = true → ∃ t, exec (.readWaitPriority h) s = .next t ∧ (h.dom, x.no) ∈ t.sched.urgent ∧
      (∀ e, e ≠ (h.dom, x.no) → (e ∈ t.sched.urgent ↔ e ∈ s.sched.urgent)) ∧
      ((h.dom, x.no) ∈ s.sched.urgent → t = s) ∧ changesOnly [.sched] s t) ∧
    (readsTape x = false → exec (.readWaitPriority h) s = .next s)) ∧
  (∀ s : State, released s = true → s.cart.threaded = true →
    (obj s Obj.dailiesEnable ≠ 0 → s.sched.dailies = none → dailiesCuts s ≠ [] →
      ∃ t, exec .dailiesDue s = .next t ∧ t.sched.dailies = some (dailiesCuts s) ∧
        t.sched.dailiesTotal = (dailiesCuts s).length ∧ t.sched.dailiesStopped = false ∧
        changesOnly [.dict, .ev, .free, .ports, .sched] s t) ∧
    ((obj s Obj.dailiesEnable = 0 ∨ s.sched.dailies.isSome = true) → exec .dailiesDue s = .next s) ∧
    (indexValid s = true → bootNewer s = true → ∃ t, exec .bedrockDelayExpiry s = .next t ∧ t.sched.bedrockDue = true ∧
      changesOnly [.dict, .ev, .free, .ports, .sched] s t) ∧
    (bootNewer s = false → exec .bedrockDelayExpiry s = .next s)) ∧
  (∀ s : State, released s = true → s.sched.dailiesStopped = true →
    (otherWork s = false → ∃ t, exec .dailiesResume s = .next t ∧ t.sched.dailiesStopped = false ∧
      changesOnly [.sched] s t) ∧
    (otherWork s = true → exec .dailiesResume s = .next s))

/-- PWM_PERIOD (R168, R309, R310, R312, R316, R320). -/
def Obligations.PeriodsLatchRunAndRefill : Prop :=
  (∀ (x : PeriodInputs) (s : State), released s = true →
    ∃ t, exec (.pwmPeriod x) s = .next t ∧ t.periods = s.periods + 1 ∧ t.xport.bridge = bridgeFor s ∧
      (∀ n, (loopOf t n).out = (loopOf s n).next) ∧ t.xport.coil = (loopOf s 9).next ∧
      t.xport.charger = (loopOf s 10).next ∧
      (blockBusy s 0x0E = false → ∀ n, slotEnabled s n = false →
        (loopOf t n).next = 0 ∧ (loopOf t n).integ = 0 ∧ (loopOf t n).ePrev = 0) ∧
      (s.xport.state = .moving → slotDue s 4 = true → t.xport.speedRamp =
        rampTo s.xport.speedRamp s.xport.target (openDiv (objQ16 s Obj.rampAccel) 10000)) ∧
      ((∀ d, quiet s d) → ∀ d, (domOf t d).tokens =
        ⟨refill (obj s (Obj.effectiveWrite d)) (domOf s d).tokens.write,
         refill (obj s (Obj.effectiveTapeRead d)) (domOf s d).tokens.tapeRead,
         refill (obj s (Obj.effectiveBufferRead d)) (domOf s d).tokens.bufRead⟩) ∧
      changesOnly [.cart, .comp, .dict, .doms, .dram, .energy, .ev, .free, .kiln, .opLog, .periods, .ports, .power, .ring,
        .sched, .test, .xport] s t) ∧
  (∀ (c : Coeffs) (track lost : Bool) (integ ePrev r0 y sel lo hi injRef injOut : Int), lo ≤ hi →
    (let o := law c track lost integ ePrev r0 y sel lo hi injRef injOut
     lo ≤ o.u ∧ o.u ≤ hi ∧ (lo ≤ integ → integ ≤ hi → lo ≤ o.integ ∧ o.integ ≤ hi)))

/-- TENSION_FAULT, REELS_AT_REST, HEAD_LOADED, HEAD_UNLOADED, CLEAR_FAULT, ENTER_TEST, END_TEST and CAPTURE_FULL (R281,
R323-R326, R334, R338, R366). -/
def Obligations.TransportStatesFollowHeadAndRequests : Prop :=
  (∀ s : State, released s = true →
    (tensionJudged s = true → tensionOut s = true → ∃ t, exec .tensionFault s = .next t ∧ tapeFaulted 0x20 t ∧
      changesOnly [.cart, .comp, .dict, .doms, .dram, .energy, .ev, .free, .kiln, .opLog, .ports, .ring, .sched, .test, .xport] s t) ∧
    ((tensionJudged s = false ∨ tensionOut s = false) → exec .tensionFault s = .next s) ∧
    (∃ t, exec .reelsAtRest s = .next t ∧ t.xport.atRest = true ∧
      t.xport.state = (if s.xport.state = .draining then s.xport.before
        else if s.xport.headLoaded = false ∧
          (s.xport.state = .braking ∨ (s.xport.state = .faulted ∧ s.power.failing = true)) then .off
        else s.xport.state) ∧ changesOnly [.dict, .ev, .free, .ports, .sched, .xport] s t) ∧
    (∃ t, exec .headUnloaded s = .next t ∧ t.xport.headLoaded = false ∧ t.xport.servo.lowerValid = false ∧
      t.xport.servo.upperValid = false ∧
      t.xport.state = (if s.xport.atRest = true ∧
          (s.xport.state = .braking ∨ (s.xport.state = .faulted ∧ s.power.failing = true)) then .off
        else s.xport.state) ∧ changesOnly [.dict, .xport] s t) ∧
    (s.xport.capture.state = .running → 4096 ≤ s.xport.capture.samples.length →
      ∃ t, exec .captureFull s = .next t ∧ t.xport.capture = { s.xport.capture with state := .full } ∧
        objectsBut [Obj.captureStatus] s t ∧ changesOnly [.dict, .xport] s t) ∧
    (s.xport.capture.samples.length < 4096 → exec .captureFull s = .next s)) ∧
  (∀ (wCart wMach : Half) (s : State), released s = true →
    (s.xport.state = .threading ∧ s.cart.threaded = true ∧ s.cart.state ≠ .unloading ∧ s.xport.headLoaded = false ∨
      s.xport.state = .parked ∧ powerToward s = 0) →
    ∃ t, exec (.headLoaded wCart wMach) s = .next t ∧ t.xport.state = .stopped ∧ t.xport.headLoaded = true ∧
      t.xport.servo.lowerValid = true ∧ t.xport.servo.upperValid = true ∧ counted Obj.headLoads 1 s t ∧
      (obj s Obj.headLoads = 49999 → postedOne 0x0707 unitTransport 0 s t) ∧
      (obj s Obj.headLoads ≠ 49999 → t.ev = s.ev) ∧ changesOnly [.dict, .ev, .free, .ports, .xport] s t) ∧
  (∀ (w : Writer) (gen : Half) (s s1 : State), requestPasses w 0x3400 gen s s1 →
    (s.xport.state = .faulted → s.xport.atRest = true → causePresent s1 = false →
      ∃ t, exec (.clearFault w gen) s = .next t ∧ t.xport.state = (if s.cart.threaded then .parked else .idle) ∧
        t.xport.forceShort = false ∧ (∀ r, (encOf t r).fault = false ∧ obj t (Obj.encUncertainty r) = 0) ∧
        (∀ n : SlotNo, n.val ∉ s.power.slotFaults → (loopOf t n).fault = false) ∧ requestDone 0x3400 gen t ∧
        changesOnly [.dict, .ecat, .ev, .free, .ports, .sched, .xport] s t) ∧
    ((s.xport.state = .idle ∨ s.xport.state = .stopped) → cartBusy s.cart.state = false →
      ∃ t, exec (.enterTest w gen) s = .next t ∧ t.xport.state = .test ∧ t.xport.before = s.xport.state ∧
        requestDone 0x3400 gen t ∧ changesOnly [.dict, .ecat, .ports, .xport] s t) ∧
    (s.xport.state = .test → ∃ t, exec (.endTest w gen) s = .next t ∧ t.xport.state = .draining ∧
      obj t Obj.injectWaveform = 0 ∧ requestDone 0x3400 gen t ∧ changesOnly [.dict, .ecat, .ports, .xport] s t))

/-- ENCODER_EDGE, ENCODER_FAULT, STANDSTILL, RADIUS_MEASURED, SPEED_MISMATCH, SPEED_AGREEMENT, TENSION_ARM_MISMATCH,
WRITE_INHIBIT, SERVO_READER_LOST, SERVO_READER_FAULT, LPOS_WORD and LPOS_WORD_LOSS (R296, R298, R330-R339). -/
def Obligations.EncodersAndServoAreWatched : Prop :=
  (∀ (r : Fin 2) (linesA linesB : BitVec 15) (tick : BitVec 12) (s : State), released s = true →
    (let e := encOf s r
     let a := majority (obj s Obj.filterLength) linesA e.a
     let b := majority (obj s Obj.filterLength) linesB e.b
     (a = e.a → b = e.b → exec (.encoderEdge r linesA linesB tick) s = .next s) ∧
     (a ≠ e.a → b ≠ e.b → ∃ t, exec (.encoderEdge r linesA linesB tick) s = .next t ∧ (encOf t r).count = e.count ∧
       (encOf t r).a = a ∧ (encOf t r).b = b ∧ (encOf t r).doubles = (edgeTime s tick.toNat :: e.doubles).take 4 ∧
       counted (Obj.encIllegalTransitions r) 1 s t ∧ counted (Obj.encUncertainty r) 2 s t ∧
       objectsBut [Obj.encIllegalTransitions r, Obj.encUncertainty r] s t ∧ (∀ q, q ≠ r → encOf t q = encOf s q) ∧
       changesOnly [.dict, .xport] s t) ∧
     ((a = e.a ∧ b ≠ e.b ∨ a ≠ e.a ∧ b = e.b) → ∃ t, exec (.encoderEdge r linesA linesB tick) s = .next t ∧
       (encOf t r).count = ofBits 32 (toBits 32 (e.count + (if countsUp e.a e.b a b then 1 else -1))) ∧
       (encOf t r).a = a ∧ (encOf t r).b = b ∧ (encOf t r).down = !countsUp e.a e.b a b ∧
       (encOf t r).edges.head? = some (edgeTime s tick.toNat) ∧ (encOf t r).standstill = false ∧
       (∀ q, q ≠ r → encOf t q = encOf s q) ∧ changesOnly [.xport] s t) ∧
     (e.fault = false → fourDoubles e = true → canFault s → ∃ t, exec (.encoderFault r) s = .next t ∧
       tapeFaulted 0x30 t ∧ (encOf t r).fault = true ∧
       changesOnly [.cart, .comp, .dict, .doms, .dram, .energy, .ev, .free, .kiln, .opLog, .ports, .ring, .sched, .test, .xport] s t) ∧
     (∃ t, exec (.standstill r) s = .next t ∧ encOf t r = { e with standstill := true, edges := [], speedValid := false } ∧
       (∀ q, q ≠ r → encOf t q = encOf s q) ∧ changesOnly [.xport] s t) ∧
     (∀ o, o ≠ r → e.revValid = true → s.xport.servo.fromEncoders = false → 8192 ≤ (e.count - e.revCount).natAbs →
       ∃ t, exec (.radiusMeasured r) s = .next t ∧
         (let q := (openDiv ((s.xport.servo.lpos - e.revLpos).natAbs * 65536 * 10 ^ 18) (10000 * 2 * piE18)).toNat
          obj t (Obj.encRadius r) = q % 2 ^ 32 ∧ obj t (Obj.encRadius o) = otherRadius q % 2 ^ 32) ∧
         (encOf t r).radiusMeasured = true ∧ (encOf t r).revCount = e.count ∧
         objectsBut [Obj.encRadius r, Obj.encRadius o] s t ∧ changesOnly [.dict, .xport] s t))) ∧
  (∀ s : State, released s = true →
    (encodersHealthy s = true → servoSpeedValid s = true → s.xport.useServo = false → speedsDiffer s = true →
      ∃ t, exec .speedMismatch s = .next t ∧ t.xport.useServo = true ∧ postedOne 0x0705 unitTransport 0 s t ∧
        changesOnly [.dict, .ev, .free, .ports, .xport] s t) ∧
    (s.xport.useServo = true → speedsDiffer s = false → ∃ t, exec .speedAgreement s = .next t ∧
      t.xport.useServo = false ∧ changesOnly [.xport] s t) ∧
    (s.xport.state = .moving → s.xport.speedRamp = s.xport.target →
      objQ16 s Obj.tensionCheckTolerance < (torqueTension s - objQ16 s Obj.tension).natAbs →
      ∃ t, exec .tensionArmMismatch s = .next t ∧ postedOne 0x0706 unitTransport 0 s t ∧
        changesOnly [.dict, .ev, .free, .ports] s t)) ∧
  (∀ s : State, released s = true → s.xport.headLoaded = true →
    (∀ pos : Half, onTrack s (ofBits 16 pos.toNat) = false → ∃ t, exec (.writeInhibit pos) s = .next t ∧
      t.xport.servo.inhibited = true ∧ t.xport.servo.good = 0 ∧ t.xport.servo.pos = ofBits 16 pos.toNat ∧
      objectsBut [Obj.writeInhibits] s t ∧ changesOnly [.dict, .xport] s t) ∧
    (∀ upper : Bool, ∃ t, exec (.servoReaderLost upper) s = .next t ∧ t.xport.servo.inhibited = true ∧
      t.xport.servo.lowerValid = (s.xport.servo.lowerValid && upper) ∧
      t.xport.servo.upperValid = (s.xport.servo.upperValid && !upper) ∧ objectsBut [Obj.writeInhibits] s t ∧
      changesOnly [.dict, .xport] s t) ∧
    (s.xport.servo.lowerValid ≠ s.xport.servo.upperValid → ∃ t, exec .servoReaderFault s = .next t ∧
      postedOne 0x0607 unitTransport (b2n s.xport.servo.lowerValid) s t ∧
      changesOnly [.dict, .ev, .free, .opLog, .ports] s t) ∧
    (s.xport.servo.lowerValid = false → s.xport.servo.upperValid = false → canFault s →
      ∃ t, exec .servoReaderFault s = .next t ∧ tapeFaulted 0x40 t) ∧
    (∀ (word : BitVec 40) (lpos : BitVec 24), lposOf word = some lpos → ∃ t, exec (.lposWord word) s = .next t ∧
      t.xport.servo = { s.xport.servo with lpos := lpos.toNat, lposSub := 0, fromEncoders := false } ∧
      (∀ r, encOf t r = if (encOf s r).revValid then encOf s r else
        { encOf s r with revCount := (encOf s r).count, revLpos := lpos.toNat, revValid := true }) ∧
      changesOnly [.xport] s t) ∧
    (∀ word : BitVec 40, lposOf word = none → exec (.lposWord word) s = .next s) ∧
    (∃ t, exec .lposWordLoss s = .next t ∧ t.xport.servo = { s.xport.servo with fromEncoders := true } ∧
      (∀ r, (encOf t r).revValid = false) ∧ changesOnly [.xport] s t))

/-- SEAL_OPEN, SEAL_CLOSED, KILN_POWER_ON and VBAT_LOW (R401-R408, R412, R503, R510); what a commit that the supplies end finds
is the operand of log entry 17. -/
def Obligations.SealAndPowerDecideKilnsState : Prop :=
  (∀ (crystal : DWord) (s : State), s.kiln.enabled = true → s.kiln.sealOpen = false →
    (s.kiln.powered = true → ∃ t, exec (.sealOpen crystal) s = .next t ∧ t.kiln.sealOpen = true ∧
      t.kiln.state = (if s.kiln.state = .sealed then .broken else s.kiln.state) ∧
      t.kiln.gen = (s.kiln.gen + 1) % 65536 ∧
      t.kiln.audit.map (·.event) = s.kiln.audit.map (·.event) ++ (if s.kiln.audit.length < 1024 then [1] else []) ∧
      changesOnly [.dict, .ev, .free, .kiln, .ports] s t) ∧
    (s.kiln.powered = false → ∃ t, exec (.sealOpen crystal) s = .next t ∧ t.kiln.sealOpen = true ∧
      t.kiln.latched = some (s.kiln.latched.getD (kilnTimeAt s crystal.toNat)) ∧ t.kiln.state = s.kiln.state ∧
      t.kiln.audit = s.kiln.audit ∧ changesOnly [.kiln] s t)) ∧
  (∀ (crystal : DWord) (interrupted : Bool) (s : State), s.kiln.enabled = true → s.kiln.sealOpen = true →
    (let now := kilnTimeAt s crystal.toNat
     let n := (stagedChanges s.kiln now).length
     let timed := s.kiln.timeValid = true ∨ s.kiln.staged.setTime.isSome = true
     (sealedProcedure s.kiln = false → ∃ t, exec (.sealClosed crystal interrupted) s = .next t ∧
       t.kiln = { s.kiln with sealOpen := false } ∧ changesOnly [.kiln] s t) ∧
     (sealedProcedure s.kiln = true → (¬timed ∨ 1024 ≤ s.kiln.audit.length + n + 1) →
       ∃ t, exec (.sealClosed crystal interrupted) s = .next t ∧ t.kiln.sealOpen = false ∧
         t.kiln.state = s.kiln.state ∧ t.kiln.params = s.kiln.params ∧ t.kiln.staged = .none ∧
         t.kiln.audit = s.kiln.audit ∧ t.kiln.gen = (s.kiln.gen + 1) % 65536 ∧
         changesOnly [.dict, .ev, .free, .kiln, .ports] s t) ∧
     (sealedProcedure s.kiln = true → timed → s.kiln.audit.length + n + 1 < 1024 →
       (interrupted = true → ∃ t, exec (.sealClosed crystal interrupted) s = .next t ∧
         t.kiln = { s.kiln with sealOpen := false, committing := true, powered := false } ∧ changesOnly [.kiln] s t) ∧
       (interrupted = false → ∃ t, exec (.sealClosed crystal interrupted) s = .next t ∧ t.kiln.sealOpen = false ∧
         t.kiln.state = .sealed ∧ t.kiln.params = paramsAfter s.kiln ∧ t.kiln.staged = .none ∧
         t.kiln.timeValid = true ∧ t.kiln.eventCounter = s.kiln.eventCounter + n ∧
         t.kiln.gen = (s.kiln.gen + 1) % 65536 ∧
         t.kiln.audit.map (·.event) = s.kiln.audit.map (·.event) ++ List.replicate n 2 ++ [3] ∧
         changesOnly [.dict, .ev, .free, .kiln, .ports] s t)))) ∧
  (∀ (clockLost : Bool) (crystal : DWord) (s : State), s.kiln.powered = false →
    (∃ t, exec (.kilnPowerOn true clockLost crystal) s = .next t ∧ t.kiln.powered = true ∧ t.kiln.enabled = true ∧
      t.kiln.committing = false ∧ t.kiln.latched = none ∧ t.kiln.timeValid = (s.kiln.timeValid && !clockLost) ∧
      t.kiln.state = (if s.kiln.state = .sealed ∧
          (s.kiln.timeValid = false ∨ clockLost = true ∨ s.kiln.latched.isSome = true) then .broken else s.kiln.state) ∧
      (s.kiln.committing = true → t.kiln.staged = .none) ∧ t.kiln.params = s.kiln.params ∧
      changesOnly [.dict, .ev, .free, .kiln, .ports] s t) ∧
    exec (.kilnPowerOn false clockLost crystal) s =
      .next { s with kiln := { s.kiln with enabled := false, latched := none, sealOpen := false } } ∧
    exec .vbatLow s = .next { s with kiln := { s.kiln with timeValid := false, latched := none, sealOpen := false } }) ∧
  (∀ s : State, s.kiln.powered = true → exec .vbatLow s = .next s)

/-- SUBMIT, CONFIRM, REQUEST_COPY and STAGE (R392, R394-R400, R405, R409, R410). -/
def Obligations.KilnTakesWhatReachesIt : Prop :=
  ∀ (crystal : DWord) (withdrawn : Bool) (s : State) (pre post : List BridgeMsg) (m : BridgeMsg), bridgeRuns s = true →
    s.kiln.toKiln = pre ++ m :: post →
    (let reaches (c : Instr) (p : State → Prop) : Prop := ∃ t, exec c s = .next t ∧ t.kiln.toKiln = pre ++ post ∧
       (withdrawn = true → counted Obj.bridgeCollisions 1 s t) ∧ objectsBut [Obj.bridgeCollisions] s t ∧
       (withdrawn = false → t.dict = s.dict) ∧ p t ∧ changesOnly [.dict, .doms, .kiln, .ports] s t
     let taken (c : Instr) (p : State → Prop) : Prop := reaches c (fun t => p t ∧ t.doms = s.doms ∧ t.ports = s.ports)
     (∀ (source sourceId count tag : Nat) (replaced : Bool) (data : List Byte),
       m = .submit source sourceId count replaced tag data → (∀ x ∈ pre, isSubmit x = false) →
       (let submitted (p : State → Prop) : Prop := reaches (.submit crystal withdrawn) (fun t => p t ∧
         ((source = 2 → meterSlot s (Fin.ofNat 8 sourceId) tag = none) → t.doms = s.doms ∧ t.ports = s.ports) ∧
         (∀ x, source = 2 → meterSlot s (Fin.ofNat 8 sourceId) tag = some x →
           slotOf s (Fin.ofNat 8 sourceId) x.no = some x →
           slotOf t (Fin.ofNat 8 sourceId) x.no = some { x with units := 0 } ∧
           t.ports = (returnUnits x.cmd.head.port .data x.units s).ports))
        let why := submitRefusal s.kiln source sourceId
        let gap := recordGap s.kiln source sourceId count replaced
        let r := nextRecord source sourceId (b2n gap) crystal.toNat data s
        (why ≠ 0 → submitted (fun t => t.kiln.lastSeq = s.kiln.lastSeq ∧
          t.kiln.records = s.kiln.records ∧ t.kiln.toMain = s.kiln.toMain ++
            (if source = 2 then [.result source sourceId tag none why] else []))) ∧
        (why = 0 → submitted (fun t => t.kiln.lastSeq = s.kiln.lastSeq + 1 ∧
          t.kiln.records = (s.kiln.records ++ [r]).drop (s.kiln.records.length + 1 - 16384) ∧
          t.kiln.chainTag = hashTag r.signed ∧ t.kiln.gaps = s.kiln.gaps + b2n gap ∧ t.kiln.toMain = s.kiln.toMain ++
            (if source = 2 then [.result source sourceId tag (some (s.kiln.lastSeq + 1)) 0] else []) ++
            [.recordCopy r])))) ∧
     (∀ seq serial, m = .confirm seq serial → (∀ x ∈ pre, isConfirm x = false) →
       taken (.confirm crystal withdrawn) (fun t =>
         t.kiln.confirmed = max s.kiln.confirmed (min seq s.kiln.lastSeq))) ∧
     (∀ first count, m = .requestCopy first count → (∀ x ∈ pre, isRequestCopy x = false) →
       taken (.requestCopy withdrawn) (fun t => t.kiln.records = s.kiln.records ∧ t.kiln.toMain = s.kiln.toMain ++
         (s.kiln.records.filter (fun r => decide (first ≤ r.seq) && decide (r.seq < first + count))).map .recordCopy)) ∧
     (∀ w sub values, m = .stage w sub values → (∀ x ∈ pre, isStage x = false) →
       (stageOutcome s.kiln values = none → taken (.stage withdrawn) (fun t =>
         t.kiln.staged = values.foldl stageValue s.kiln.staged ∧
         t.kiln.toMain = s.kiln.toMain ++ [.stageResult w sub 0])) ∧
       (∀ reason, stageOutcome s.kiln values = some reason → taken (.stage withdrawn) (fun t =>
         t.kiln.staged = s.kiln.staged ∧ ∃ code, code ≠ 0 ∧
         t.kiln.toMain = s.kiln.toMain ++ [.stageResult w sub code]))))

/-- RESULT, RECORD_COPY, STATE_REPORT, KILN_NOT_RESPONDING and KILN_CUT_AGE_EXPIRY (R158, R391, R393, R405, R409, R413). -/
def Obligations.MainSideHearsKiln : Prop :=
  (∀ (s : State) (pre post : List BridgeMsg) (m : BridgeMsg), bridgeRuns s = true → s.kiln.toMain = pre ++ m :: post →
    (∀ (sourceId tag detail : Nat) (seq : Option Nat) (x : Slot), m = .result 2 sourceId tag seq detail →
      (∀ y ∈ pre, isResult y = false) → s.power.failing = false →
      meterSlot s (Fin.ofNat 8 sourceId) tag = some x → slotOf s (Fin.ofNat 8 sourceId) x.no = some x →
      x.cmd.head.dom = Fin.ofNat 8 sourceId →
      ∃ t, exec .result s = .next t ∧ t.kiln = { s.kiln with toMain := pre ++ post } ∧
        (∀ n, seq = some n → answeredWith x.cmd x.no [] 0 0 64 n 0 s t) ∧
        (seq = none → answeredWith x.cmd x.no [] 0x60 detail 0 0 0 s t) ∧
        changesOnly [.dict, .doms, .energy, .ev, .free, .kiln, .ports, .sched] s t) ∧
    (∀ (sub code : Nat), m = .stageResult .sdo sub code → (∀ y ∈ pre, isResult y = false) →
      ∃ t, exec .result s = .next t ∧ t.kiln = { s.kiln with toMain := pre ++ post } ∧
        (code = 0 → t.ecat.reply = .sdoDone []) ∧ (code ≠ 0 → ∃ abort, t.ecat.reply = .sdoAbort abort) ∧
        changesOnly [.dict, .ecat, .kiln, .ports] s t) ∧
    (∀ r, m = .recordCopy r → (∀ y ∈ pre, isCopy y = false) →
      (s.kiln.confirmed < r.seq → (∀ c ∈ s.kiln.copies, c.seq ≠ r.seq) → s.kiln.copies.length < 6553 →
        ∃ t, exec .recordCopy s = .next t ∧ t.kiln = { s.kiln with
          toMain := pre ++ post, copies := s.kiln.copies ++ [r]
          cutDue := s.kiln.cutDue || decide (6144 ≤ s.kiln.copies.length + 1) } ∧
          t.sched = { s.sched with inflow := s.sched.inflow + 160 } ∧ changesOnly [.kiln, .sched] s t) ∧
      ((r.seq ≤ s.kiln.confirmed ∨ (∃ c ∈ s.kiln.copies, c.seq = r.seq) ∨ 6553 ≤ s.kiln.copies.length) →
        ∃ t, exec .recordCopy s = .next t ∧ t.kiln = { s.kiln with toMain := pre ++ post } ∧
          changesOnly [.kiln] s t))) ∧
  (∀ (crystal : DWord) (s : State), bridgeRuns s = true → s.kiln.news = [] →
    ∃ t, exec (.stateReport crystal) s = .next t ∧ t.kiln.bridgeOk = true ∧
      obj t (Obj.unitState 0x6000) = s.kiln.state.code ∧ obj t (Obj.unitGen 0x6000) = s.kiln.gen % 65536 ∧
      obj t Obj.lastSeq = s.kiln.lastSeq % 2 ^ objWidth Obj.lastSeq ∧
      obj t Obj.unconfirmed = unconfirmed s.kiln % 2 ^ objWidth Obj.unconfirmed ∧
      obj t Obj.auditUsed = s.kiln.audit.length % 2 ^ objWidth Obj.auditUsed ∧
      obj t Obj.rxpdoSources = s.kiln.params.sources % 256 ∧ obj t Obj.authorizedDomains = s.kiln.params.domains % 256 ∧
      (missingCopies s.kiln = [] → t.kiln.toKiln = s.kiln.toKiln) ∧ changesOnly [.dict, .kiln] s t) ∧
  (∀ s : State, released s = true → kilnEnabled s = true →
    ∃ t, exec .kilnNotResponding s = .next t ∧ t.kiln.bridgeOk = false ∧
      (∀ m ∈ t.kiln.toKiln, isStage m = false ∧ ∀ i c r g d, m ≠ .submit 2 i c r g d) ∧
      ((∀ m ∈ s.kiln.toKiln, isSubmit m = false ∧ isStage m = false) → t.kiln.toKiln = s.kiln.toKiln ∧
        postedOne 0x0A05 unitKiln 0 s t ∧ bitOf (obj t Obj.kilnStatus) 27 = false ∧
        changesOnly [.dict, .ev, .free, .kiln, .opLog, .ports] s t)) ∧
  (∀ s : State, released s = true →
    (s.kiln.copies ≠ [] → exec .kilnCutAgeExpiry s = .next { s with kiln := { s.kiln with cutDue := true } }) ∧
    (s.kiln.copies = [] → exec .kilnCutAgeExpiry s = .next s))

/-- PIN_LEVEL_CHANGE, EVENT_ACCEPTED, ENERGY_TICK and ENERGY_WINDOW (R441-R446, R458-R460, R512); that what stays below 1 nJ of the
bridges' energy is carried to the next tick is the model's choice (log entry 172). -/
def Obligations.PinsAndEnergyAreFollowed : Prop :=
  (∀ (port : Fin 5) (pin : Fin 8) (level : Bool) (s : State),
    (let q := 8 * port.val + pin.val
     ∃ t, exec (.pinLevelChange port pin level) s = .next t ∧ bitOf t.pins.external q = level ∧
       (∀ r, r ≠ q → bitOf t.pins.external r = bitOf s.pins.external r) ∧
       ((released s = false ∨ linePort s pin.val ≠ port.val) → t.pins.lines = s.pins.lines ∧ changesOnly [.pins] s t) ∧
       (released s = true → linePort s pin.val = port.val →
         (pinValue t q = (lineOf s pin).filtered → t.pins.lines = s.pins.lines ∧ changesOnly [.pins] s t) ∧
         (pinValue t q ≠ (lineOf s pin).filtered → fieldOf (obj s (Obj.eventConfig pin.val)) 0 16 ≠ 0 →
           lineOf t pin = { lineOf s pin with filtered := pinValue t q, counting := true } ∧ changesOnly [.pins] s t)) ∧
       changesOnly [.dict, .ev, .free, .pins, .ports] s t)) ∧
  (∀ (line : Fin 8) (s : State), released s = true → linePort s line.val < 5 → (lineOf s line).counting = true →
    (let l := lineOf s line
     let edge := fieldOf (obj s (Obj.eventConfig line.val)) 27 2
     let chosen := (l.filtered && bitOf edge 0) || (!l.filtered && bitOf edge 1)
     (l.filtered = l.accepted → ∃ t, exec (.eventAccepted line) s = .next t ∧
       lineOf t line = { l with counting := false } ∧ changesOnly [.pins] s t) ∧
     (l.filtered ≠ l.accepted → ∃ t, exec (.eventAccepted line) s = .next t ∧
       lineOf t line = { l with counting := false, accepted := l.filtered } ∧
       (chosen = false → t.ev = s.ev ∧ obj t (Obj.eventCounts line.val) / 65536 =
         min (obj s (Obj.eventCounts line.val) / 65536 + 1) 0xFFFF) ∧
       (chosen = true → linePending s line = false →
         postedOne 0x0C01 (ownerUnit (pinOwner s (linePin s line)))
           (line.val + 16 * linePort s line.val + 256 * b2n l.filtered) s t) ∧
       changesOnly [.dict, .ev, .free, .pins, .ports] s t))) ∧
  (∀ (x : TickInputs) (s : State), released s = true →
    ∃ t, exec (.energyTick x) s = .next t ∧ obj t Obj.tjC = x.tj.toNat ∧ obj t Obj.vcoreMv = x.vcoreMv.toNat ∧
      obj t Obj.vmramMv = x.vmramMv.toNat ∧ objInt 16 t Obj.tjMaxC = max (objInt 16 s Obj.tjMaxC) x.tj.toInt ∧
      t.energy.ticks = s.energy.ticks + 1 ∧ t.energy.clearDue = false ∧
      (let transport := openDiv s.energy.motor (2 ^ 33)
       t.energy.motor = s.energy.motor - transport * 2 ^ 33 ∧
       (s.energy.clearDue = false →
         ((t.energy.accounts.toList.sum + t.energy.pool : Nat) : Int) + t.energy.carry =
           ((s.energy.accounts.toList.sum + s.energy.pool : Nat) : Int) + s.energy.carry + x.converter.toNat + transport ∧
         t.energy.converter = s.energy.converter + x.converter.toNat ∧
         t.energy.transport = s.energy.transport + transport ∧ changesOnly [.dict, .energy] s t)) ∧
      (s.energy.clearDue = true → t.energy.accounts = Vector.replicate 9 0 ∧ t.energy.pool = 0 ∧
        t.energy.converter = 0 ∧ t.energy.transport = 0 ∧ t.energy.times = Vector.replicate 3 0 ∧
        t.savedEnergy = clearEnergy s.savedEnergy) ∧
      changesOnly [.dict, .energy, .savedEnergy] s t) ∧
  (∀ s : State, released s = true →
    (s.energy.ticks < 1000 → exec .energyWindow s = .next s) ∧
    (1000 ≤ s.energy.ticks → ∃ t, exec .energyWindow s = .next t ∧ t.energy.pool = 0 ∧ t.energy.ticks = 0 ∧
      t.energy.window = Vector.replicate 9 0 ∧
      t.energy.accounts.toList.sum = s.energy.accounts.toList.sum + s.energy.pool ∧
      (∀ a, vget s.energy.accounts a ≤ vget t.energy.accounts a) ∧ t.savedEnergy = t.energy ∧
      changesOnly [.energy, .savedEnergy] s t))

/-- WATCHDOG_EXPIRY, BLOCK_RECOVERY_COMPLETE, CP_WATCHDOG and TABLE_REBUILD_COMPLETE (R478, R479, R481, R482, R484, R485). -/
def Obligations.StuckBlocksRecoverOrEscalate : Prop :=
  (∀ (block : Byte) (pages : List Half) (s : State), released s = true →
    (let b := block.toNat
     (blockBusy s b = true → exec (.watchdogExpiry block pages) s = .next s) ∧
     (s.power.failing = true → b ≠ 0x0E → exec (.watchdogExpiry block pages) s = .next s) ∧
     (blockBusy s b = false → s.power.failing = false → recoverable b = true →
       (recentFaults s b < obj s Obj.recoveryLimit → ∃ t, exec (.watchdogExpiry block pages) s = .next t ∧
         t.recov.busy = s.recov.busy ++ [(b, s.periods)] ∧ (b, s.periods) ∈ t.recov.history ∧
         (b = 0x0E → canFault s → tapeFaulted 0x70 t ∧ t.xport.forceShort = true) ∧
         (b = 0x0D → t.xport.target = 0 ∧ t.xport.servo.locate = none) ∧
         (b = 0x02 → ∀ l, s.cart.ladder = some l → t.cart.ladder = some { l with step := 1, reread := 0, captured := [] }) ∧
         ((∀ e ∈ s.dram.taken, e.1 ≠ b) → b ∉ [0x06, 0x07, 0x0E] →
           changesOnly [.cart, .doms, .dram, .ports, .recov, .sched, .test, .xport] s t)) ∧
       (obj s Obj.recoveryLimit ≤ recentFaults s b → ∃ t, exec (.watchdogExpiry block pages) s = .next t ∧
         escalated b t ∧ postedOne 0x0B03 unitDevice b s t)) ∧
     (blockBusy s b = false → s.power.failing = false → escalatesAtOnce b = true →
       ∃ t, exec (.watchdogExpiry block pages) s = .next t ∧ escalated b t ∧ postedOne 0x0B03 unitDevice b s t ∧
         changesOnly [.boot, .cart, .comp, .dict, .doms, .dram, .ev, .free, .jour, .opLog, .ports, .power, .recov, .sched,
           .xport] s t) ∧
     (recoverable b = false → escalatesAtOnce b = false → exec (.watchdogExpiry block pages) s = .next s))) ∧
  (∀ (us : Half) (written : BitVec 6) (tablesBad : Bool) (b : Nat) (s : State), released s = true →
    nextRecovery s = some b →
    (us.toNat ≤ 10000 → ∃ t, exec (.blockRecoveryComplete us written tablesBad) s = .next t ∧ blockBusy t b = false ∧
      obj t Obj.lastRecovery = (2 ^ 24 * b + 2 ^ 16 + us.toNat) % 2 ^ 32 ∧
      ((∀ d, quiet s d) → b ∉ [0x01, 0x02, 0x0A, 0x0D, 0x0E] → counted Obj.recoveries 1 s t ∧
        postedOne 0x0B02 unitDevice b s t ∧ changesOnly [.dict, .dram, .ev, .free, .ports, .recov] s t)) ∧
    (10000 < us.toNat → s.power.failing = false → b < 256 →
      ∃ t, exec (.blockRecoveryComplete us written tablesBad) s = .next t ∧ escalated b t ∧
        postedOne 0x0B03 unitDevice b s t)) ∧
  (∀ s : State, released s = true → nextRecovery s = none →
    ∀ us written tablesBad, exec (.blockRecoveryComplete us written tablesBad) s = .next s) ∧
  (∀ s : State, released s = true →
    ((∀ n, s.recov.cpRestart = some n → n + 2400000 ≤ s.periods) → ∃ t, exec .cpWatchdog s = .next t ∧
      t.recov.cpRestart = some s.periods ∧ counted Obj.cpRestarts 1 s t ∧ postedOne 0x0B04 unitDevice 0 s t ∧
      t.power = s.power ∧ changesOnly [.dict, .ev, .free, .opLog, .ports, .recov] s t) ∧
    (∀ n, s.recov.cpRestart = some n → s.periods < n + 2400000 → s.power.failing = false →
      ∃ t, exec .cpWatchdog s = .next t ∧ escalated 0x20 t ∧ counted Obj.cpRestarts 1 s t ∧
        (t.ev.log.take 2).map (·.event.code) = [0x0B03, 0x0B04])) ∧
  (∀ (slates : Half) (s : State), released s = true →
    (s.recov.rebuilding = true → ∃ t, exec (.tableRebuildComplete slates) s = .next t ∧
      t.recov = { s.recov with rebuilding := false, rebuilds := 0 } ∧
      ((∀ d, quiet s d) → postedOne 0x0307 unitDevice slates.toNat s t ∧
        changesOnly [.dict, .ev, .free, .ports, .recov] s t)) ∧
    (s.recov.rebuilding = false → exec (.tableRebuildComplete slates) s = .next s))

/-- R33 and R56: a request with a stale EXPECTED_GEN has no side effect. -/
def Obligations.StaleRequestsHaveNoSideEffect : Prop :=
  ∀ (w : Writer) (gen : Half) (s : State), released s = true →
    (let stale (i : Nat) (c : Instr) : Prop := ∀ s1, arrived w i 3 (typeWidth i 3 / 8) s = some s1 →
       firstReason (accessChecks s1 w i 3) = none → gen.toNat ≠ obj s1 (Obj.unitGen i) →
       ∃ t, exec c s = .next t ∧ obj t (Obj.unitResult i) = 0x19 ∧ obj t (Obj.unitGen i) = obj s (Obj.unitGen i) ∧
         objectsBut [Obj.unitResult i, Obj.refusalDetailField, Obj.refusalDetailLink] s t ∧
         changesOnly [.dict, .ecat, .ports] s t
     (∀ d : Dom, ∀ c ∈ [Instr.configure d w gen, .goOnline d w gen, .goOffline d w gen, .reset d w gen,
       .unconfigure d w gen], stale (domIndex d) c) ∧
     (∀ p : PortId, ∀ c ∈ [Instr.enable p w gen, .disable p w gen, .retrain p w gen, .enterIdle p w gen,
       .loopbackNes p w gen, .loopbackNep p w gen, .loopbackFe p w gen, .endLoopback p w gen], stale (portIndex p) c) ∧
     (∀ c ∈ [Instr.load w gen, .unload w gen, .eject w gen, .format w gen, .formatForce w gen, .discardRing w gen],
       stale 0x2C00 c) ∧
     (∀ c ∈ [Instr.clearFault w gen, .enterTest w gen, .endTest w gen], stale 0x3400 c))

/-- One step of the block; the queue and its idling are the model's (log entry 1). -/
def Obligations.StepsRunTheFrontCommand : Prop :=
  (∀ (c : Instr) (rest : List Instr) (s : State),
    step { s with pending := c :: rest } = exec c { s with pending := rest }) ∧
  (∀ s : State, s.pending = [] → step s = .next s)

/-- No command ends in a fault or a refusal, in any state. -/
def Obligations.CommandsCompleteAndKeepTheQueue : Prop :=
  ∀ (c : Instr) (s : State), ∃ t, exec c s = .next t ∧ t.pending = s.pending

/-- R45's widths, R70's emergency queue and R475's logs, kept by every step from every state; the list form of the dictionary
is the model's (log entry 18). -/
def Obligations.StepsKeepTheInvariant : Prop :=
  ∀ s t : State, Inv s = true → step s = .next t → Inv t = true

/-- What a delivered part holds before its first start (R31, R48, R75, R95, R325, R402, R404). -/
def Obligations.ResetHoldsTheDefaults : Prop :=
  Inv State.reset = true ∧ State.reset.pending = [] ∧ released State.reset = false ∧
  (∀ k, obj State.reset k = objDefault k) ∧ State.reset.ev.log = [] ∧ State.reset.ecat.al = .init ∧
  (∀ p, (portOf State.reset p).state = .disabled) ∧ (∀ d, (domOf State.reset d).state = .unconfigured) ∧
  State.reset.xport.state = .off ∧ State.reset.cart.state = .absent ∧ State.reset.cart.medium = none ∧
  State.reset.kiln.state = .unsealed ∧ State.reset.kiln.records = [] ∧ State.reset.kiln.eventCounter = 0

/-- R402, over every command. -/
def Obligations.EventCounterCountsParameterChanges : Prop :=
  (let changes (s : State) : Nat := (s.kiln.audit.filter (fun e => e.event == 2)).length
   State.reset.kiln.eventCounter = 0 ∧ ∀ (c : Instr) (s t : State), exec c s = .next t →
     ∃ n, t.kiln.eventCounter = s.kiln.eventCounter + n ∧ changes t = changes s + n)
end

