-- ==== Sys2Proof/Laws/Dict.lean ====
section
/-!
SUPPORT. Laws of the dictionary's values: a read after a write, and the canonical form.
-/
namespace Sys2Proof.Machine

theorem dictGet_drop (t : Dict) (k k' dflt : Nat) :
    dictGet (dictDrop t k) k' dflt = if k' = k then dflt else dictGet t k' dflt := by
  induction t with
  | nil => simp [dictDrop, dictGet]
  | cons e rest ih =>
    obtain ⟨a, v⟩ := e
    by_cases ha : a = k
    · subst ha
      by_cases hk : k' = a
      · subst hk
        simpa [dictDrop] using ih
      · simp [dictDrop, ih, hk, dictGet, Ne.symm hk]
    · by_cases hk : a = k'
      · subst hk
        simp [dictDrop, dictGet, ha]
      · simp [dictDrop, dictGet, ha, hk, ih]

theorem dictGet_insert (t : Dict) (k v k' dflt : Nat) :
    dictGet (dictInsert t k v) k' dflt = if k' = k then v else dictGet t k' dflt := by
  induction t with
  | nil => simp [dictInsert, dictGet, eq_comm]
  | cons e rest ih =>
    obtain ⟨a, w⟩ := e
    simp only [dictInsert]
    split
    · simp only [dictGet, eq_comm]
    · split
      · rename_i _ h
        subst h
        by_cases hk : k' = k
        · simp [dictGet, hk]
        · simp [dictGet, hk, Ne.symm hk]
      · rename_i _ h
        by_cases hk : a = k'
        · subst hk
          simp [dictGet, Ne.symm h]
        · simp [dictGet, hk, ih]

/-- What a write leaves under every key. -/
theorem dictGet_put (t : Dict) (k v k' d : Nat) (hd : k' = k → d = objDefault k) :
    dictGet (dictPut t k v (objDefault k)) k' d = if k' = k then v else dictGet t k' d := by
  unfold dictPut
  split
  · rw [dictGet_drop]
    split
    · rename_i hv hk; rw [hd hk, hv]
    · rfl
  · exact dictGet_insert ..

/-- A read after a write: the stored object holds the value cut to its width, every other object what it held. -/
theorem obj_setObj (k v k' : Nat) (s : State) :
    obj (setObj k v s) k' = if k' = k then v % 2 ^ objWidth k else obj s k' := by
  unfold obj setObj
  exact dictGet_put _ _ _ _ _ (fun h => by rw [h])

@[simp] theorem obj_setObj_same (k v : Nat) (s : State) : obj (setObj k v s) k = v % 2 ^ objWidth k := by
  simp [obj_setObj]

theorem obj_setObj_other {k k' : Nat} (v : Nat) (s : State) (h : k' ≠ k) : obj (setObj k v s) k' = obj s k' := by
  simp [obj_setObj, h]

theorem dictWfFrom_mono {lo lo' : Nat} (h : lo' ≤ lo) : ∀ {t : Dict}, dictWfFrom lo t = true → dictWfFrom lo' t = true
  | [], _ => rfl
  | (k, v) :: rest, w => by
    simp only [dictWfFrom, Bool.and_eq_true, decide_eq_true_eq] at w ⊢
    exact ⟨⟨⟨h.trans w.1.1.1, w.1.1.2⟩, w.1.2⟩, w.2⟩

theorem dictWfFrom_drop (k : Nat) : ∀ {lo : Nat} {t : Dict}, dictWfFrom lo t = true → dictWfFrom lo (dictDrop t k) = true
  | _, [], _ => rfl
  | lo, (a, v) :: rest, w => by
    simp only [dictWfFrom, Bool.and_eq_true, decide_eq_true_eq] at w
    have ih := dictWfFrom_drop k w.2
    unfold dictDrop
    split
    · exact dictWfFrom_mono (by omega) ih
    · simp only [dictWfFrom, Bool.and_eq_true, decide_eq_true_eq]
      exact ⟨w.1, ih⟩

theorem dictWfFrom_insert {k v : Nat} (hv : v ≠ objDefault k) (hw : v < 2 ^ objWidth k) :
    ∀ {lo : Nat} {t : Dict}, lo ≤ k → dictWfFrom lo t = true → dictWfFrom lo (dictInsert t k v) = true
  | lo, [], hl, _ => by simp [dictInsert, dictWfFrom, hv, hw, hl]
  | lo, (a, u) :: rest, hl, w => by
    simp only [dictWfFrom, Bool.and_eq_true, decide_eq_true_eq] at w
    unfold dictInsert
    split
    · rename_i h
      have h' : k + 1 ≤ a := h
      have h2 : u ≠ objDefault a := by simpa using w.1.1.2
      simp [dictWfFrom, hv, hw, hl, h', h2, w.1.2, w.2]
    · split
      · rename_i h
        subst h
        simp [dictWfFrom, hv, hw, hl, w.2]
      · rename_i h1 h2
        have ih := dictWfFrom_insert hv hw (lo := a + 1) (by omega) w.2
        simp only [dictWfFrom, Bool.and_eq_true, decide_eq_true_eq]
        exact ⟨w.1, ih⟩

theorem dictWfFrom_filter (f : Nat × Nat → Bool) :
    ∀ {lo : Nat} {t : Dict}, dictWfFrom lo t = true → dictWfFrom lo (t.filter f) = true
  | _, [], _ => rfl
  | lo, (a, v) :: rest, w => by
    simp only [dictWfFrom, Bool.and_eq_true, decide_eq_true_eq] at w
    have ih := dictWfFrom_filter f w.2
    rw [List.filter_cons]
    split
    · simp only [dictWfFrom, Bool.and_eq_true, decide_eq_true_eq]
      exact ⟨w.1, ih⟩
    · exact dictWfFrom_mono (by omega) ih

/-- Storing a value that fits keeps the canonical form. -/
theorem dictWf_put {t : Dict} (k v : Nat) (hw : v < 2 ^ objWidth k) (h : dictWf t = true) :
    dictWf (dictPut t k v (objDefault k)) = true := by
  unfold dictPut
  split
  · exact dictWfFrom_drop k h
  · exact dictWfFrom_insert ‹_› hw (Nat.zero_le _) h

theorem dictWf_filter {t : Dict} (f : Nat × Nat → Bool) (h : dictWf t = true) : dictWf (t.filter f) = true :=
  dictWfFrom_filter f h

theorem dictGet_lt {k : Nat} (hd : objDefault k < 2 ^ objWidth k) :
    ∀ {lo : Nat} {t : Dict}, dictWfFrom lo t = true → dictGet t k (objDefault k) < 2 ^ objWidth k
  | _, [], _ => hd
  | lo, (a, v) :: rest, w => by
    simp only [dictWfFrom, Bool.and_eq_true, decide_eq_true_eq] at w
    unfold dictGet
    split
    · rename_i h; rw [← h]; exact w.1.2
    · exact dictGet_lt hd w.2

end Sys2Proof.Machine
end

