-- ==== Sys2Proof/Laws/Kept.lean ====
section
/-!
SUPPORT. What a step may touch and what it keeps: the relation that every operation's own rule (the other Kept files) is
stated in. `Kept m s t` says that `t` differs from `s` in the parts of `m` only, that the queue is the same, and that the
canonical forms of `Inv` carry from one to the other.
-/
namespace Sys2Proof.Machine

/-- `t` differs from `s` in the parts of `m` at most, with the same queue and the same canonical forms. -/
structure Kept (m : List Part) (s t : State) : Prop where
  queue : t.pending = s.pending
  frame : ∀ p, p ∉ m → p.same s t
  dict : dictWf s.dict = true → dictWf t.dict = true
  ev : s.ev.wf = true → t.ev.wf = true

theorem Kept.refl (m : List Part) (s : State) : Kept m s s :=
  ⟨rfl, fun p _ => by cases p <;> rfl, id, id⟩

theorem Kept.same_of {m : List Part} {s t : State} (h : Kept m s t) (p : Part) (hp : m.contains p = false) : p.same s t :=
  h.frame p (by simpa using hp)

theorem Kept.only {m : List Part} {s t : State} (h : Kept m s t) : changesOnly m s t := ⟨h.queue, h.frame⟩

theorem sub_trans {l1 l2 m : List Part} (h : l1.all (fun p => l2.contains p) = true) (hm : l2 ⊆ m) : l1 ⊆ m := by
  intro p hp
  rw [List.all_eq_true] at h
  exact hm (by simpa using h p hp)

theorem mem_of {l2 m : List Part} {p : Part} (h : l2.contains p = true) (hm : l2 ⊆ m) : p ∈ m := hm (by simpa using h)

theorem kept_mk {m : List Part} {s t : State} (h : Kept m s t)
    {free : _} (h_free : .free ∈ m ∨ free = t.free)
    {periods : _} (h_periods : .periods ∈ m ∨ periods = t.periods)
    {ports : _} (h_ports : .ports ∈ m ∨ ports = t.ports)
    {doms : _} (h_doms : .doms ∈ m ∨ doms = t.doms)
    {ring : _} (h_ring : .ring ∈ m ∨ ring = t.ring)
    {dram : _} (h_dram : .dram ∈ m ∨ dram = t.dram)
    {boot : _} (h_boot : .boot ∈ m ∨ boot = t.boot)
    {ecat : _} (h_ecat : .ecat ∈ m ∨ ecat = t.ecat)
    {test : _} (h_test : .test ∈ m ∨ test = t.test)
    {comp : _} (h_comp : .comp ∈ m ∨ comp = t.comp)
    {cart : _} (h_cart : .cart ∈ m ∨ cart = t.cart)
    {xport : _} (h_xport : .xport ∈ m ∨ xport = t.xport)
    {power : _} (h_power : .power ∈ m ∨ power = t.power)
    {kiln : _} (h_kiln : .kiln ∈ m ∨ kiln = t.kiln)
    {recov : _} (h_recov : .recov ∈ m ∨ recov = t.recov)
    {sched : _} (h_sched : .sched ∈ m ∨ sched = t.sched)
    {jour : _} (h_jour : .jour ∈ m ∨ jour = t.jour)
    {opLog : _} (h_opLog : .opLog ∈ m ∨ opLog = t.opLog)
    {energy : _} (h_energy : .energy ∈ m ∨ energy = t.energy)
    {savedEnergy : _} (h_savedEnergy : .savedEnergy ∈ m ∨ savedEnergy = t.savedEnergy)
    {pins : _} (h_pins : .pins ∈ m ∨ pins = t.pins)
    : Kept m s ⟨t.pending, free, periods, t.dict, t.ev, ports, doms, ring, dram, boot, ecat, test, comp, cart, xport, power, kiln, recov, sched, jour, opLog, energy, savedEnergy, pins⟩ := by
  refine ⟨h.queue, fun p hp => ?_, h.dict, h.ev⟩
  cases p
  · exact (h_free.resolve_left hp).trans (h.frame .free hp)
  · exact (h_periods.resolve_left hp).trans (h.frame .periods hp)
  · exact h.frame .dict hp
  · exact h.frame .ev hp
  · exact (h_ports.resolve_left hp).trans (h.frame .ports hp)
  · exact (h_doms.resolve_left hp).trans (h.frame .doms hp)
  · exact (h_ring.resolve_left hp).trans (h.frame .ring hp)
  · exact (h_dram.resolve_left hp).trans (h.frame .dram hp)
  · exact (h_boot.resolve_left hp).trans (h.frame .boot hp)
  · exact (h_ecat.resolve_left hp).trans (h.frame .ecat hp)
  · exact (h_test.resolve_left hp).trans (h.frame .test hp)
  · exact (h_comp.resolve_left hp).trans (h.frame .comp hp)
  · exact (h_cart.resolve_left hp).trans (h.frame .cart hp)
  · exact (h_xport.resolve_left hp).trans (h.frame .xport hp)
  · exact (h_power.resolve_left hp).trans (h.frame .power hp)
  · exact (h_kiln.resolve_left hp).trans (h.frame .kiln hp)
  · exact (h_recov.resolve_left hp).trans (h.frame .recov hp)
  · exact (h_sched.resolve_left hp).trans (h.frame .sched hp)
  · exact (h_jour.resolve_left hp).trans (h.frame .jour hp)
  · exact (h_opLog.resolve_left hp).trans (h.frame .opLog hp)
  · exact (h_energy.resolve_left hp).trans (h.frame .energy hp)
  · exact (h_savedEnergy.resolve_left hp).trans (h.frame .savedEnergy hp)
  · exact (h_pins.resolve_left hp).trans (h.frame .pins hp)

theorem kept_dict {m : List Part} {s t : State} (h : Kept m s t) (hm : .dict ∈ m) {d : Dict}
    (hd : dictWf t.dict = true → dictWf d = true) : Kept m s { t with dict := d } := by
  refine ⟨h.queue, fun p hp => ?_, fun w => hd (h.dict w), h.ev⟩
  cases p
  case dict => exact absurd hm hp
  all_goals exact h.frame _ hp

theorem kept_ev {m : List Part} {s t : State} (h : Kept m s t) (hm : .ev ∈ m) {e : EventState}
    (he : t.ev.wf = true → e.wf = true) : Kept m s { t with ev := e } := by
  refine ⟨h.queue, fun p hp => ?_, h.dict, fun w => he (h.ev w)⟩
  cases p
  case ev => exact absurd hm hp
  all_goals exact h.frame _ hp

theorem kept_ite {m : List Part} {s a b : State} {c : Prop} [Decidable c] (ha : Kept m s a) (hb : Kept m s b) :
    Kept m s (if c then a else b) := by
  split <;> assumption

theorem kept_foldl {m : List Part} {s : State} {α : Type} {f : State → α → State} {t : State} (l : List α)
    (h : Kept m s t) (hf : ∀ t a, Kept m s t → Kept m s (f t a)) : Kept m s (l.foldl f t) := by
  induction l generalizing t with
  | nil => exact h
  | cons a l ih => exact ih (hf t a h)

theorem kept_id {m : List Part} {s t : State} (h : Kept m s t) : Kept m s (id t) := h

theorem live_kept {m : List Part} {s0 s t : State} (hs : Kept m s0 s) (ht : Kept m s0 t) : Kept m s0 (live s t) := by
  unfold live
  split <;> assumption

end Sys2Proof.Machine
end

