-- ==== Sys2Proof/Laws/KeptOps.lean ====
section
/-!
SUPPORT. What the operations of Machine/Ops.lean may touch, and that they keep the canonical forms.
-/
set_option linter.unusedTactic false
set_option linter.unreachableTactic false
set_option linter.unusedVariables false

namespace Sys2Proof.Machine

theorem setObj_kept {m : List Part} {s0 s : State} (k v : Nat) (h : Kept m s0 s) (hm : [.dict] ⊆ m) :
    Kept m s0 (setObj k v s) :=
  kept_dict h (hm (by simp)) (dictWf_put k _ (Nat.mod_lt _ (Nat.two_pow_pos _)))

theorem setObjInt_kept {mask : List Part} {s0 s : State} (k : Nat) (v : Int) (hk : Kept mask s0 s)
    (hsub : [.dict] ⊆ mask) : Kept mask s0 (setObjInt k v s) := by
  unfold setObjInt
  try extract_lets -underBinder
  repeat' first
   | with_reducible assumption
   | exact sub_trans rfl hsub
   | intro _
   | with_reducible apply kept_ite
   | with_reducible apply setObj_kept
   | split
   | extract_lets -underBinder
   | (dsimp +zetaDelta only; split)

theorem bumpBy_kept {mask : List Part} {s0 s : State} (k : Nat) (n : Nat) (hk : Kept mask s0 s)
    (hsub : [.dict] ⊆ mask) : Kept mask s0 (bumpBy k n s) := by
  unfold bumpBy
  try extract_lets -underBinder
  repeat' first
   | with_reducible assumption
   | exact sub_trans rfl hsub
   | intro _
   | with_reducible apply kept_ite
   | with_reducible apply setObj_kept
   | split
   | extract_lets -underBinder
   | (dsimp +zetaDelta only; split)

theorem bump_kept {mask : List Part} {s0 s : State} (k : Nat) (hk : Kept mask s0 s)
    (hsub : [.dict] ⊆ mask) : Kept mask s0 (bump k s) := by
  unfold bump
  try extract_lets -underBinder
  repeat' first
   | with_reducible assumption
   | exact sub_trans rfl hsub
   | intro _
   | with_reducible apply kept_ite
   | with_reducible apply bumpBy_kept
   | split
   | extract_lets -underBinder
   | (dsimp +zetaDelta only; split)

theorem bumpGen_kept {mask : List Part} {s0 s : State} (i : Nat) (hk : Kept mask s0 s)
    (hsub : [.dict] ⊆ mask) : Kept mask s0 (bumpGen i s) := by
  unfold bumpGen
  try extract_lets -underBinder
  repeat' first
   | with_reducible assumption
   | exact sub_trans rfl hsub
   | intro _
   | with_reducible apply kept_ite
   | with_reducible apply setObj_kept
   | split
   | extract_lets -underBinder
   | (dsimp +zetaDelta only; split)

theorem setPort_kept {mask : List Part} {s0 s : State} (p : PortId) (x : Port) (hk : Kept mask s0 s)
    (hsub : [.ports] ⊆ mask) : Kept mask s0 (setPort p x s) := by
  unfold setPort
  try extract_lets -underBinder
  repeat' first
   | with_reducible assumption
   | exact sub_trans rfl hsub
   | intro _
   | with_reducible apply kept_ite
   | exact Or.inl (mem_of rfl hsub)
   | with_reducible exact Or.inr rfl
   | split
   | extract_lets -underBinder
   | (dsimp +zetaDelta only; split)
   | with_reducible apply kept_mk

theorem modPort_kept {mask : List Part} {s0 s : State} (p : PortId) (f : Port → Port) (hk : Kept mask s0 s)
    (hsub : [.ports] ⊆ mask) : Kept mask s0 (modPort p f s) := by
  unfold modPort
  try extract_lets -underBinder
  repeat' first
   | with_reducible assumption
   | exact sub_trans rfl hsub
   | intro _
   | with_reducible apply kept_ite
   | with_reducible apply setPort_kept
   | split
   | extract_lets -underBinder
   | (dsimp +zetaDelta only; split)

theorem setLane_kept {mask : List Part} {s0 s : State} (p : PortId) (l : Lane) (x : LaneRt) (hk : Kept mask s0 s)
    (hsub : [.ports] ⊆ mask) : Kept mask s0 (setLane p l x s) := by
  unfold setLane
  try extract_lets -underBinder
  repeat' first
   | with_reducible assumption
   | exact sub_trans rfl hsub
   | intro _
   | with_reducible apply kept_ite
   | with_reducible apply modPort_kept
   | split
   | extract_lets -underBinder
   | (dsimp +zetaDelta only; split)

theorem modLane_kept {mask : List Part} {s0 s : State} (p : PortId) (l : Lane) (f : LaneRt → LaneRt) (hk : Kept mask s0 s)
    (hsub : [.ports] ⊆ mask) : Kept mask s0 (modLane p l f s) := by
  unfold modLane
  try extract_lets -underBinder
  repeat' first
   | with_reducible assumption
   | exact sub_trans rfl hsub
   | intro _
   | with_reducible apply kept_ite
   | with_reducible apply setLane_kept
   | split
   | extract_lets -underBinder
   | (dsimp +zetaDelta only; split)

theorem modLanes_kept {mask : List Part} {s0 s : State} (p : PortId) (f : Lane → LaneRt → LaneRt) (hk : Kept mask s0 s)
    (hsub : [.ports] ⊆ mask) : Kept mask s0 (modLanes p f s) := by
  unfold modLanes
  try extract_lets -underBinder
  repeat' first
   | with_reducible assumption
   | exact sub_trans rfl hsub
   | intro _
   | with_reducible apply kept_ite
   | with_reducible apply modPort_kept
   | split
   | extract_lets -underBinder
   | (dsimp +zetaDelta only; split)

theorem setDom_kept {mask : List Part} {s0 s : State} (d : Dom) (x : DomainRt) (hk : Kept mask s0 s)
    (hsub : [.doms] ⊆ mask) : Kept mask s0 (setDom d x s) := by
  unfold setDom
  try extract_lets -underBinder
  repeat' first
   | with_reducible assumption
   | exact sub_trans rfl hsub
   | intro _
   | with_reducible apply kept_ite
   | exact Or.inl (mem_of rfl hsub)
   | with_reducible exact Or.inr rfl
   | split
   | extract_lets -underBinder
   | (dsimp +zetaDelta only; split)
   | with_reducible apply kept_mk

theorem modDom_kept {mask : List Part} {s0 s : State} (d : Dom) (f : DomainRt → DomainRt) (hk : Kept mask s0 s)
    (hsub : [.doms] ⊆ mask) : Kept mask s0 (modDom d f s) := by
  unfold modDom
  try extract_lets -underBinder
  repeat' first
   | with_reducible assumption
   | exact sub_trans rfl hsub
   | intro _
   | with_reducible apply kept_ite
   | with_reducible apply setDom_kept
   | split
   | extract_lets -underBinder
   | (dsimp +zetaDelta only; split)

theorem working_kept {mask : List Part} {s0 s t : State} (b : Nat) (hk : Kept mask s0 s) (hk1 : Kept mask s0 t) :
    Kept mask s0 (working b s t) := by
  unfold working
  exact live_kept hk (kept_ite hk hk1)

theorem draw_kept {mask : List Part} {s0 s : State} (hk : Kept mask s0 s)
    (hsub : [.free] ⊆ mask) : Kept mask s0 (draw s) := by
  unfold draw
  try extract_lets -underBinder
  repeat' first
   | with_reducible assumption
   | exact sub_trans rfl hsub
   | intro _
   | with_reducible apply kept_ite
   | exact Or.inl (mem_of rfl hsub)
   | with_reducible exact Or.inr rfl
   | split
   | extract_lets -underBinder
   | (dsimp +zetaDelta only; split)
   | with_reducible apply kept_mk

theorem addWeight_kept {mask : List Part} {s0 s : State} (a : Fin 9) (n : Nat) (hk : Kept mask s0 s)
    (hsub : [.energy] ⊆ mask) : Kept mask s0 (addWeight a n s) := by
  unfold addWeight
  try extract_lets -underBinder
  repeat' first
   | with_reducible assumption
   | exact sub_trans rfl hsub
   | intro _
   | with_reducible apply kept_ite
   | exact Or.inl (mem_of rfl hsub)
   | with_reducible exact Or.inr rfl
   | split
   | extract_lets -underBinder
   | (dsimp +zetaDelta only; split)
   | with_reducible apply kept_mk

theorem enterPort_kept {mask : List Part} {s0 s : State} (p : PortId) (st : PortState) (hk : Kept mask s0 s)
    (hsub : [.dict, .ports] ⊆ mask) : Kept mask s0 (enterPort p st s) := by
  unfold enterPort
  try extract_lets -underBinder
  repeat' first
   | with_reducible assumption
   | exact sub_trans rfl hsub
   | intro _
   | with_reducible apply kept_ite
   | with_reducible apply modPort_kept
   | with_reducible apply bumpGen_kept
   | with_reducible apply kept_id
   | split
   | extract_lets -underBinder
   | (dsimp +zetaDelta only; split)

theorem idleExit_kept {mask : List Part} {s0 s : State} (p : PortId) (hk : Kept mask s0 s)
    (hsub : [.dict, .ports] ⊆ mask) : Kept mask s0 (idleExit p s) := by
  unfold idleExit
  try extract_lets -underBinder
  repeat' first
   | with_reducible assumption
   | exact sub_trans rfl hsub
   | intro _
   | with_reducible apply kept_ite
   | with_reducible apply modLanes_kept
   | with_reducible apply modPort_kept
   | with_reducible apply enterPort_kept
   | with_reducible apply kept_id
   | split
   | extract_lets -underBinder
   | (dsimp +zetaDelta only; split)

theorem sendMsg_kept {mask : List Part} {s0 s : State} (p : PortId) (m : TxMsg) (hk : Kept mask s0 s)
    (hsub : [.dict, .ports] ⊆ mask) : Kept mask s0 (sendMsg p m s) := by
  unfold sendMsg
  try extract_lets -underBinder
  repeat' first
   | with_reducible assumption
   | exact sub_trans rfl hsub
   | intro _
   | with_reducible apply kept_ite
   | with_reducible apply modPort_kept
   | with_reducible apply idleExit_kept
   | with_reducible apply kept_id
   | split
   | extract_lets -underBinder
   | (dsimp +zetaDelta only; split)

theorem payLost_kept {mask : List Part} {s0 s : State} (p : PortId) (hk : Kept mask s0 s)
    (hsub : [.ports] ⊆ mask) : Kept mask s0 (payLost p s) := by
  unfold payLost
  try extract_lets -underBinder
  repeat' first
   | with_reducible assumption
   | exact sub_trans rfl hsub
   | intro _
   | with_reducible apply kept_ite
   | with_reducible apply setPort_kept
   | split
   | extract_lets -underBinder
   | (dsimp +zetaDelta only; split)

theorem dropEvent_kept {mask : List Part} {s0 s : State} (p : PortId) (hk : Kept mask s0 s)
    (hsub : [.dict, .ports] ⊆ mask) : Kept mask s0 (dropEvent p s) := by
  unfold dropEvent
  try extract_lets -underBinder
  repeat' first
   | with_reducible assumption
   | exact sub_trans rfl hsub
   | intro _
   | with_reducible apply kept_ite
   | with_reducible apply modPort_kept
   | with_reducible apply bump_kept
   | with_reducible apply kept_id
   | split
   | extract_lets -underBinder
   | (dsimp +zetaDelta only; split)

theorem queueEvent_kept {mask : List Part} {s0 s : State} (dom : Dom) (e : EventRec) (p : PortId) (hk : Kept mask s0 s)
    (hsub : [.dict, .ports] ⊆ mask) : Kept mask s0 (queueEvent dom e p s) := by
  unfold queueEvent
  try extract_lets -underBinder
  repeat' first
   | with_reducible assumption
   | exact sub_trans rfl hsub
   | intro _
   | with_reducible apply kept_ite
   | with_reducible apply dropEvent_kept
   | with_reducible apply payLost_kept
   | with_reducible apply sendMsg_kept
   | with_reducible apply kept_id
   | split
   | extract_lets -underBinder
   | (dsimp +zetaDelta only; split)

theorem offerEvent_kept {mask : List Part} {s0 s : State} (dom : Dom) (e : EventRec) (p : PortId) (hk : Kept mask s0 s)
    (hsub : [.dict, .ports] ⊆ mask) : Kept mask s0 (offerEvent dom e p s) := by
  unfold offerEvent
  try extract_lets -underBinder
  repeat' first
   | with_reducible assumption
   | exact sub_trans rfl hsub
   | intro _
   | with_reducible apply kept_ite
   | with_reducible apply dropEvent_kept
   | with_reducible apply queueEvent_kept
   | split
   | extract_lets -underBinder
   | (dsimp +zetaDelta only; split)

theorem queueEmergency_kept {m : List Part} {s0 s : State} (e : EventRec) (error : Nat) (h : Kept m s0 s)
    (hm : [.dict, .ev] ⊆ m) : Kept m s0 (queueEmergency e error s) := by
  unfold queueEmergency
  split
  · exact h
  · exact h
  · extract_lets q drops q1 d1
    have hq : s.ev.wf = true → q1.length ≤ 8 := by
      intro w
      simp only [EventState.wf, Bool.and_eq_true, decide_eq_true_eq] at w
      have hq : q.length ≤ 8 := by simp only [q, List.length_drop]; omega
      simp only [q1]
      split
      · simp only [List.length_append, List.length_cons, List.length_nil]; omega
      · exact hq
    split
    · refine kept_ev h (hm (by simp)) (fun w => ?_)
      simp only [EventState.wf, Bool.and_eq_true, decide_eq_true_eq] at w ⊢
      exact ⟨w.1, by simp only [List.length_append, List.length_cons, List.length_nil]; omega⟩
    · refine bump_kept _ (kept_ev h (hm (by simp)) (fun w => ?_)) (sub_trans rfl hm)
      have h8 := hq w
      simp only [EventState.wf, Bool.and_eq_true, decide_eq_true_eq] at w ⊢
      exact ⟨w.1, h8⟩

theorem enterPages_kept {m : List Part} {s0 s : State} (e : EventRec) (h : Kept m s0 s) (hm : [.ev] ⊆ m) :
    Kept m s0 (enterPages e s) := by
  unfold enterPages
  refine kept_ev h (hm (by simp)) (fun w => ?_)
  simp only [EventState.wf, Bool.and_eq_true, decide_eq_true_eq] at w ⊢
  refine ⟨⟨by simp [List.length_take], ?_⟩, w.2⟩
  split
  · simp [List.length_take]
  · exact w.1.2

theorem logEvent_kept {mask : List Part} {s0 s : State} (e : EventRec) (hk : Kept mask s0 s)
    (hsub : [.ev, .opLog] ⊆ mask) : Kept mask s0 (logEvent e s) := by
  unfold logEvent
  try extract_lets -underBinder
  repeat' first
   | with_reducible assumption
   | exact sub_trans rfl hsub
   | intro _
   | with_reducible apply kept_ite
   | with_reducible apply enterPages_kept
   | exact Or.inl (mem_of rfl hsub)
   | with_reducible exact Or.inr rfl
   | split
   | extract_lets -underBinder
   | (dsimp +zetaDelta only; split)
   | with_reducible apply kept_mk

theorem recordEvent_kept {mask : List Part} {s0 s : State} (e : EventRec) (hk : Kept mask s0 s)
    (hsub : [.dict, .ev, .opLog] ⊆ mask) : Kept mask s0 (recordEvent e s) := by
  unfold recordEvent
  try extract_lets -underBinder
  repeat' first
   | with_reducible assumption
   | exact sub_trans rfl hsub
   | intro _
   | with_reducible apply kept_ite
   | with_reducible apply logEvent_kept
   | with_reducible apply bump_kept
   | with_reducible apply kept_id
   | split
   | extract_lets -underBinder
   | (dsimp +zetaDelta only; split)

theorem settleEvent_kept {mask : List Part} {s0 s : State} (e : EventRec) (hk : Kept mask s0 s)
    (hsub : [.free, .dict, .ev] ⊆ mask) : Kept mask s0 (settleEvent e s) := by
  unfold settleEvent
  try extract_lets -underBinder
  repeat' first
   | with_reducible assumption
   | exact sub_trans rfl hsub
   | intro _
   | with_reducible apply kept_ite
   | with_reducible apply draw_kept
   | with_reducible apply queueEmergency_kept
   | split
   | extract_lets -underBinder
   | (dsimp +zetaDelta only; split)

theorem publish_kept {mask : List Part} {s0 s : State} (e : EventRec) (hk : Kept mask s0 s)
    (hsub : [.free, .dict, .ev, .ports, .opLog] ⊆ mask) : Kept mask s0 (publish e s) := by
  unfold publish
  try extract_lets -underBinder
  repeat' first
   | with_reducible assumption
   | exact sub_trans rfl hsub
   | intro _
   | with_reducible apply kept_ite
   | with_reducible apply kept_foldl
   | with_reducible apply recordEvent_kept
   | with_reducible apply settleEvent_kept
   | with_reducible apply offerEvent_kept
   | split
   | extract_lets -underBinder
   | (dsimp +zetaDelta only; split)

theorem postEvent_kept {m : List Part} {s0 s : State} (code unit detail : Nat) (h : Kept m s0 s) (hm : [.free, .dict, .ev, .ports, .opLog] ⊆ m) :
    Kept m s0 (postEvent code unit detail s) := by
  unfold postEvent
  extract_lets e
  split
  · exact publish_kept e h (sub_trans rfl hm)
  · exact kept_ev h (hm (by simp)) id

end Sys2Proof.Machine
end

