-- ==== Sys2Proof/Laws/State.lean ====
section
/-!
SUPPORT. One rule per field and update: what the shortest operations leave in every field of the state.
-/
namespace Sys2Proof.Machine

@[simp] theorem setObj_pending (k : Nat) (v : Nat) (s : State) : (setObj k v s).pending = s.pending := rfl
@[simp] theorem setObj_free (k : Nat) (v : Nat) (s : State) : (setObj k v s).free = s.free := rfl
@[simp] theorem setObj_periods (k : Nat) (v : Nat) (s : State) : (setObj k v s).periods = s.periods := rfl
@[simp] theorem setObj_ev (k : Nat) (v : Nat) (s : State) : (setObj k v s).ev = s.ev := rfl
@[simp] theorem setObj_ports (k : Nat) (v : Nat) (s : State) : (setObj k v s).ports = s.ports := rfl
@[simp] theorem setObj_doms (k : Nat) (v : Nat) (s : State) : (setObj k v s).doms = s.doms := rfl
@[simp] theorem setObj_ring (k : Nat) (v : Nat) (s : State) : (setObj k v s).ring = s.ring := rfl
@[simp] theorem setObj_dram (k : Nat) (v : Nat) (s : State) : (setObj k v s).dram = s.dram := rfl
@[simp] theorem setObj_boot (k : Nat) (v : Nat) (s : State) : (setObj k v s).boot = s.boot := rfl
@[simp] theorem setObj_ecat (k : Nat) (v : Nat) (s : State) : (setObj k v s).ecat = s.ecat := rfl
@[simp] theorem setObj_test (k : Nat) (v : Nat) (s : State) : (setObj k v s).test = s.test := rfl
@[simp] theorem setObj_comp (k : Nat) (v : Nat) (s : State) : (setObj k v s).comp = s.comp := rfl
@[simp] theorem setObj_cart (k : Nat) (v : Nat) (s : State) : (setObj k v s).cart = s.cart := rfl
@[simp] theorem setObj_xport (k : Nat) (v : Nat) (s : State) : (setObj k v s).xport = s.xport := rfl
@[simp] theorem setObj_power (k : Nat) (v : Nat) (s : State) : (setObj k v s).power = s.power := rfl
@[simp] theorem setObj_kiln (k : Nat) (v : Nat) (s : State) : (setObj k v s).kiln = s.kiln := rfl
@[simp] theorem setObj_recov (k : Nat) (v : Nat) (s : State) : (setObj k v s).recov = s.recov := rfl
@[simp] theorem setObj_sched (k : Nat) (v : Nat) (s : State) : (setObj k v s).sched = s.sched := rfl
@[simp] theorem setObj_jour (k : Nat) (v : Nat) (s : State) : (setObj k v s).jour = s.jour := rfl
@[simp] theorem setObj_opLog (k : Nat) (v : Nat) (s : State) : (setObj k v s).opLog = s.opLog := rfl
@[simp] theorem setObj_energy (k : Nat) (v : Nat) (s : State) : (setObj k v s).energy = s.energy := rfl
@[simp] theorem setObj_savedEnergy (k : Nat) (v : Nat) (s : State) : (setObj k v s).savedEnergy = s.savedEnergy := rfl
@[simp] theorem setObj_pins (k : Nat) (v : Nat) (s : State) : (setObj k v s).pins = s.pins := rfl

@[simp] theorem setPort_pending (p : PortId) (x : Port) (s : State) : (setPort p x s).pending = s.pending := rfl
@[simp] theorem setPort_free (p : PortId) (x : Port) (s : State) : (setPort p x s).free = s.free := rfl
@[simp] theorem setPort_periods (p : PortId) (x : Port) (s : State) : (setPort p x s).periods = s.periods := rfl
@[simp] theorem setPort_dict (p : PortId) (x : Port) (s : State) : (setPort p x s).dict = s.dict := rfl
@[simp] theorem setPort_ev (p : PortId) (x : Port) (s : State) : (setPort p x s).ev = s.ev := rfl
@[simp] theorem setPort_ports (p : PortId) (x : Port) (s : State) : (setPort p x s).ports = vset s.ports p.fin x := rfl
@[simp] theorem setPort_doms (p : PortId) (x : Port) (s : State) : (setPort p x s).doms = s.doms := rfl
@[simp] theorem setPort_ring (p : PortId) (x : Port) (s : State) : (setPort p x s).ring = s.ring := rfl
@[simp] theorem setPort_dram (p : PortId) (x : Port) (s : State) : (setPort p x s).dram = s.dram := rfl
@[simp] theorem setPort_boot (p : PortId) (x : Port) (s : State) : (setPort p x s).boot = s.boot := rfl
@[simp] theorem setPort_ecat (p : PortId) (x : Port) (s : State) : (setPort p x s).ecat = s.ecat := rfl
@[simp] theorem setPort_test (p : PortId) (x : Port) (s : State) : (setPort p x s).test = s.test := rfl
@[simp] theorem setPort_comp (p : PortId) (x : Port) (s : State) : (setPort p x s).comp = s.comp := rfl
@[simp] theorem setPort_cart (p : PortId) (x : Port) (s : State) : (setPort p x s).cart = s.cart := rfl
@[simp] theorem setPort_xport (p : PortId) (x : Port) (s : State) : (setPort p x s).xport = s.xport := rfl
@[simp] theorem setPort_power (p : PortId) (x : Port) (s : State) : (setPort p x s).power = s.power := rfl
@[simp] theorem setPort_kiln (p : PortId) (x : Port) (s : State) : (setPort p x s).kiln = s.kiln := rfl
@[simp] theorem setPort_recov (p : PortId) (x : Port) (s : State) : (setPort p x s).recov = s.recov := rfl
@[simp] theorem setPort_sched (p : PortId) (x : Port) (s : State) : (setPort p x s).sched = s.sched := rfl
@[simp] theorem setPort_jour (p : PortId) (x : Port) (s : State) : (setPort p x s).jour = s.jour := rfl
@[simp] theorem setPort_opLog (p : PortId) (x : Port) (s : State) : (setPort p x s).opLog = s.opLog := rfl
@[simp] theorem setPort_energy (p : PortId) (x : Port) (s : State) : (setPort p x s).energy = s.energy := rfl
@[simp] theorem setPort_savedEnergy (p : PortId) (x : Port) (s : State) : (setPort p x s).savedEnergy = s.savedEnergy := rfl
@[simp] theorem setPort_pins (p : PortId) (x : Port) (s : State) : (setPort p x s).pins = s.pins := rfl

@[simp] theorem setDom_pending (d : Dom) (x : DomainRt) (s : State) : (setDom d x s).pending = s.pending := rfl
@[simp] theorem setDom_free (d : Dom) (x : DomainRt) (s : State) : (setDom d x s).free = s.free := rfl
@[simp] theorem setDom_periods (d : Dom) (x : DomainRt) (s : State) : (setDom d x s).periods = s.periods := rfl
@[simp] theorem setDom_dict (d : Dom) (x : DomainRt) (s : State) : (setDom d x s).dict = s.dict := rfl
@[simp] theorem setDom_ev (d : Dom) (x : DomainRt) (s : State) : (setDom d x s).ev = s.ev := rfl
@[simp] theorem setDom_ports (d : Dom) (x : DomainRt) (s : State) : (setDom d x s).ports = s.ports := rfl
@[simp] theorem setDom_doms (d : Dom) (x : DomainRt) (s : State) : (setDom d x s).doms = vset s.doms d x := rfl
@[simp] theorem setDom_ring (d : Dom) (x : DomainRt) (s : State) : (setDom d x s).ring = s.ring := rfl
@[simp] theorem setDom_dram (d : Dom) (x : DomainRt) (s : State) : (setDom d x s).dram = s.dram := rfl
@[simp] theorem setDom_boot (d : Dom) (x : DomainRt) (s : State) : (setDom d x s).boot = s.boot := rfl
@[simp] theorem setDom_ecat (d : Dom) (x : DomainRt) (s : State) : (setDom d x s).ecat = s.ecat := rfl
@[simp] theorem setDom_test (d : Dom) (x : DomainRt) (s : State) : (setDom d x s).test = s.test := rfl
@[simp] theorem setDom_comp (d : Dom) (x : DomainRt) (s : State) : (setDom d x s).comp = s.comp := rfl
@[simp] theorem setDom_cart (d : Dom) (x : DomainRt) (s : State) : (setDom d x s).cart = s.cart := rfl
@[simp] theorem setDom_xport (d : Dom) (x : DomainRt) (s : State) : (setDom d x s).xport = s.xport := rfl
@[simp] theorem setDom_power (d : Dom) (x : DomainRt) (s : State) : (setDom d x s).power = s.power := rfl
@[simp] theorem setDom_kiln (d : Dom) (x : DomainRt) (s : State) : (setDom d x s).kiln = s.kiln := rfl
@[simp] theorem setDom_recov (d : Dom) (x : DomainRt) (s : State) : (setDom d x s).recov = s.recov := rfl
@[simp] theorem setDom_sched (d : Dom) (x : DomainRt) (s : State) : (setDom d x s).sched = s.sched := rfl
@[simp] theorem setDom_jour (d : Dom) (x : DomainRt) (s : State) : (setDom d x s).jour = s.jour := rfl
@[simp] theorem setDom_opLog (d : Dom) (x : DomainRt) (s : State) : (setDom d x s).opLog = s.opLog := rfl
@[simp] theorem setDom_energy (d : Dom) (x : DomainRt) (s : State) : (setDom d x s).energy = s.energy := rfl
@[simp] theorem setDom_savedEnergy (d : Dom) (x : DomainRt) (s : State) : (setDom d x s).savedEnergy = s.savedEnergy := rfl
@[simp] theorem setDom_pins (d : Dom) (x : DomainRt) (s : State) : (setDom d x s).pins = s.pins := rfl

@[simp] theorem draw_pending (s : State) : (draw s).pending = s.pending := rfl
@[simp] theorem draw_free (s : State) : (draw s).free = s.free + 1 := rfl
@[simp] theorem draw_periods (s : State) : (draw s).periods = s.periods := rfl
@[simp] theorem draw_dict (s : State) : (draw s).dict = s.dict := rfl
@[simp] theorem draw_ev (s : State) : (draw s).ev = s.ev := rfl
@[simp] theorem draw_ports (s : State) : (draw s).ports = s.ports := rfl
@[simp] theorem draw_doms (s : State) : (draw s).doms = s.doms := rfl
@[simp] theorem draw_ring (s : State) : (draw s).ring = s.ring := rfl
@[simp] theorem draw_dram (s : State) : (draw s).dram = s.dram := rfl
@[simp] theorem draw_boot (s : State) : (draw s).boot = s.boot := rfl
@[simp] theorem draw_ecat (s : State) : (draw s).ecat = s.ecat := rfl
@[simp] theorem draw_test (s : State) : (draw s).test = s.test := rfl
@[simp] theorem draw_comp (s : State) : (draw s).comp = s.comp := rfl
@[simp] theorem draw_cart (s : State) : (draw s).cart = s.cart := rfl
@[simp] theorem draw_xport (s : State) : (draw s).xport = s.xport := rfl
@[simp] theorem draw_power (s : State) : (draw s).power = s.power := rfl
@[simp] theorem draw_kiln (s : State) : (draw s).kiln = s.kiln := rfl
@[simp] theorem draw_recov (s : State) : (draw s).recov = s.recov := rfl
@[simp] theorem draw_sched (s : State) : (draw s).sched = s.sched := rfl
@[simp] theorem draw_jour (s : State) : (draw s).jour = s.jour := rfl
@[simp] theorem draw_opLog (s : State) : (draw s).opLog = s.opLog := rfl
@[simp] theorem draw_energy (s : State) : (draw s).energy = s.energy := rfl
@[simp] theorem draw_savedEnergy (s : State) : (draw s).savedEnergy = s.savedEnergy := rfl
@[simp] theorem draw_pins (s : State) : (draw s).pins = s.pins := rfl

@[simp] theorem addWeight_pending (a : Fin 9) (n : Nat) (s : State) : (addWeight a n s).pending = s.pending := rfl
@[simp] theorem addWeight_free (a : Fin 9) (n : Nat) (s : State) : (addWeight a n s).free = s.free := rfl
@[simp] theorem addWeight_periods (a : Fin 9) (n : Nat) (s : State) : (addWeight a n s).periods = s.periods := rfl
@[simp] theorem addWeight_dict (a : Fin 9) (n : Nat) (s : State) : (addWeight a n s).dict = s.dict := rfl
@[simp] theorem addWeight_ev (a : Fin 9) (n : Nat) (s : State) : (addWeight a n s).ev = s.ev := rfl
@[simp] theorem addWeight_ports (a : Fin 9) (n : Nat) (s : State) : (addWeight a n s).ports = s.ports := rfl
@[simp] theorem addWeight_doms (a : Fin 9) (n : Nat) (s : State) : (addWeight a n s).doms = s.doms := rfl
@[simp] theorem addWeight_ring (a : Fin 9) (n : Nat) (s : State) : (addWeight a n s).ring = s.ring := rfl
@[simp] theorem addWeight_dram (a : Fin 9) (n : Nat) (s : State) : (addWeight a n s).dram = s.dram := rfl
@[simp] theorem addWeight_boot (a : Fin 9) (n : Nat) (s : State) : (addWeight a n s).boot = s.boot := rfl
@[simp] theorem addWeight_ecat (a : Fin 9) (n : Nat) (s : State) : (addWeight a n s).ecat = s.ecat := rfl
@[simp] theorem addWeight_test (a : Fin 9) (n : Nat) (s : State) : (addWeight a n s).test = s.test := rfl
@[simp] theorem addWeight_comp (a : Fin 9) (n : Nat) (s : State) : (addWeight a n s).comp = s.comp := rfl
@[simp] theorem addWeight_cart (a : Fin 9) (n : Nat) (s : State) : (addWeight a n s).cart = s.cart := rfl
@[simp] theorem addWeight_xport (a : Fin 9) (n : Nat) (s : State) : (addWeight a n s).xport = s.xport := rfl
@[simp] theorem addWeight_power (a : Fin 9) (n : Nat) (s : State) : (addWeight a n s).power = s.power := rfl
@[simp] theorem addWeight_kiln (a : Fin 9) (n : Nat) (s : State) : (addWeight a n s).kiln = s.kiln := rfl
@[simp] theorem addWeight_recov (a : Fin 9) (n : Nat) (s : State) : (addWeight a n s).recov = s.recov := rfl
@[simp] theorem addWeight_sched (a : Fin 9) (n : Nat) (s : State) : (addWeight a n s).sched = s.sched := rfl
@[simp] theorem addWeight_jour (a : Fin 9) (n : Nat) (s : State) : (addWeight a n s).jour = s.jour := rfl
@[simp] theorem addWeight_opLog (a : Fin 9) (n : Nat) (s : State) : (addWeight a n s).opLog = s.opLog := rfl
@[simp] theorem addWeight_savedEnergy (a : Fin 9) (n : Nat) (s : State) : (addWeight a n s).savedEnergy = s.savedEnergy := rfl
@[simp] theorem addWeight_pins (a : Fin 9) (n : Nat) (s : State) : (addWeight a n s).pins = s.pins := rfl

@[simp] theorem modXport_pending (f : Xport → Xport) (s : State) : (modXport f s).pending = s.pending := rfl
@[simp] theorem modXport_free (f : Xport → Xport) (s : State) : (modXport f s).free = s.free := rfl
@[simp] theorem modXport_periods (f : Xport → Xport) (s : State) : (modXport f s).periods = s.periods := rfl
@[simp] theorem modXport_dict (f : Xport → Xport) (s : State) : (modXport f s).dict = s.dict := rfl
@[simp] theorem modXport_ev (f : Xport → Xport) (s : State) : (modXport f s).ev = s.ev := rfl
@[simp] theorem modXport_ports (f : Xport → Xport) (s : State) : (modXport f s).ports = s.ports := rfl
@[simp] theorem modXport_doms (f : Xport → Xport) (s : State) : (modXport f s).doms = s.doms := rfl
@[simp] theorem modXport_ring (f : Xport → Xport) (s : State) : (modXport f s).ring = s.ring := rfl
@[simp] theorem modXport_dram (f : Xport → Xport) (s : State) : (modXport f s).dram = s.dram := rfl
@[simp] theorem modXport_boot (f : Xport → Xport) (s : State) : (modXport f s).boot = s.boot := rfl
@[simp] theorem modXport_ecat (f : Xport → Xport) (s : State) : (modXport f s).ecat = s.ecat := rfl
@[simp] theorem modXport_test (f : Xport → Xport) (s : State) : (modXport f s).test = s.test := rfl
@[simp] theorem modXport_comp (f : Xport → Xport) (s : State) : (modXport f s).comp = s.comp := rfl
@[simp] theorem modXport_cart (f : Xport → Xport) (s : State) : (modXport f s).cart = s.cart := rfl
@[simp] theorem modXport_xport (f : Xport → Xport) (s : State) : (modXport f s).xport = f s.xport := rfl
@[simp] theorem modXport_power (f : Xport → Xport) (s : State) : (modXport f s).power = s.power := rfl
@[simp] theorem modXport_kiln (f : Xport → Xport) (s : State) : (modXport f s).kiln = s.kiln := rfl
@[simp] theorem modXport_recov (f : Xport → Xport) (s : State) : (modXport f s).recov = s.recov := rfl
@[simp] theorem modXport_sched (f : Xport → Xport) (s : State) : (modXport f s).sched = s.sched := rfl
@[simp] theorem modXport_jour (f : Xport → Xport) (s : State) : (modXport f s).jour = s.jour := rfl
@[simp] theorem modXport_opLog (f : Xport → Xport) (s : State) : (modXport f s).opLog = s.opLog := rfl
@[simp] theorem modXport_energy (f : Xport → Xport) (s : State) : (modXport f s).energy = s.energy := rfl
@[simp] theorem modXport_savedEnergy (f : Xport → Xport) (s : State) : (modXport f s).savedEnergy = s.savedEnergy := rfl
@[simp] theorem modXport_pins (f : Xport → Xport) (s : State) : (modXport f s).pins = s.pins := rfl

@[simp] theorem modDram_pending (f : Dram → Dram) (s : State) : (modDram f s).pending = s.pending := rfl
@[simp] theorem modDram_free (f : Dram → Dram) (s : State) : (modDram f s).free = s.free := rfl
@[simp] theorem modDram_periods (f : Dram → Dram) (s : State) : (modDram f s).periods = s.periods := rfl
@[simp] theorem modDram_dict (f : Dram → Dram) (s : State) : (modDram f s).dict = s.dict := rfl
@[simp] theorem modDram_ev (f : Dram → Dram) (s : State) : (modDram f s).ev = s.ev := rfl
@[simp] theorem modDram_ports (f : Dram → Dram) (s : State) : (modDram f s).ports = s.ports := rfl
@[simp] theorem modDram_doms (f : Dram → Dram) (s : State) : (modDram f s).doms = s.doms := rfl
@[simp] theorem modDram_ring (f : Dram → Dram) (s : State) : (modDram f s).ring = s.ring := rfl
@[simp] theorem modDram_dram (f : Dram → Dram) (s : State) : (modDram f s).dram = f s.dram := rfl
@[simp] theorem modDram_boot (f : Dram → Dram) (s : State) : (modDram f s).boot = s.boot := rfl
@[simp] theorem modDram_ecat (f : Dram → Dram) (s : State) : (modDram f s).ecat = s.ecat := rfl
@[simp] theorem modDram_test (f : Dram → Dram) (s : State) : (modDram f s).test = s.test := rfl
@[simp] theorem modDram_comp (f : Dram → Dram) (s : State) : (modDram f s).comp = s.comp := rfl
@[simp] theorem modDram_cart (f : Dram → Dram) (s : State) : (modDram f s).cart = s.cart := rfl
@[simp] theorem modDram_xport (f : Dram → Dram) (s : State) : (modDram f s).xport = s.xport := rfl
@[simp] theorem modDram_power (f : Dram → Dram) (s : State) : (modDram f s).power = s.power := rfl
@[simp] theorem modDram_kiln (f : Dram → Dram) (s : State) : (modDram f s).kiln = s.kiln := rfl
@[simp] theorem modDram_recov (f : Dram → Dram) (s : State) : (modDram f s).recov = s.recov := rfl
@[simp] theorem modDram_sched (f : Dram → Dram) (s : State) : (modDram f s).sched = s.sched := rfl
@[simp] theorem modDram_jour (f : Dram → Dram) (s : State) : (modDram f s).jour = s.jour := rfl
@[simp] theorem modDram_opLog (f : Dram → Dram) (s : State) : (modDram f s).opLog = s.opLog := rfl
@[simp] theorem modDram_energy (f : Dram → Dram) (s : State) : (modDram f s).energy = s.energy := rfl
@[simp] theorem modDram_savedEnergy (f : Dram → Dram) (s : State) : (modDram f s).savedEnergy = s.savedEnergy := rfl
@[simp] theorem modDram_pins (f : Dram → Dram) (s : State) : (modDram f s).pins = s.pins := rfl

@[simp] theorem modComp_pending (f : Comp → Comp) (s : State) : (modComp f s).pending = s.pending := rfl
@[simp] theorem modComp_free (f : Comp → Comp) (s : State) : (modComp f s).free = s.free := rfl
@[simp] theorem modComp_periods (f : Comp → Comp) (s : State) : (modComp f s).periods = s.periods := rfl
@[simp] theorem modComp_dict (f : Comp → Comp) (s : State) : (modComp f s).dict = s.dict := rfl
@[simp] theorem modComp_ev (f : Comp → Comp) (s : State) : (modComp f s).ev = s.ev := rfl
@[simp] theorem modComp_ports (f : Comp → Comp) (s : State) : (modComp f s).ports = s.ports := rfl
@[simp] theorem modComp_doms (f : Comp → Comp) (s : State) : (modComp f s).doms = s.doms := rfl
@[simp] theorem modComp_ring (f : Comp → Comp) (s : State) : (modComp f s).ring = s.ring := rfl
@[simp] theorem modComp_dram (f : Comp → Comp) (s : State) : (modComp f s).dram = s.dram := rfl
@[simp] theorem modComp_boot (f : Comp → Comp) (s : State) : (modComp f s).boot = s.boot := rfl
@[simp] theorem modComp_ecat (f : Comp → Comp) (s : State) : (modComp f s).ecat = s.ecat := rfl
@[simp] theorem modComp_test (f : Comp → Comp) (s : State) : (modComp f s).test = s.test := rfl
@[simp] theorem modComp_comp (f : Comp → Comp) (s : State) : (modComp f s).comp = f s.comp := rfl
@[simp] theorem modComp_cart (f : Comp → Comp) (s : State) : (modComp f s).cart = s.cart := rfl
@[simp] theorem modComp_xport (f : Comp → Comp) (s : State) : (modComp f s).xport = s.xport := rfl
@[simp] theorem modComp_power (f : Comp → Comp) (s : State) : (modComp f s).power = s.power := rfl
@[simp] theorem modComp_kiln (f : Comp → Comp) (s : State) : (modComp f s).kiln = s.kiln := rfl
@[simp] theorem modComp_recov (f : Comp → Comp) (s : State) : (modComp f s).recov = s.recov := rfl
@[simp] theorem modComp_sched (f : Comp → Comp) (s : State) : (modComp f s).sched = s.sched := rfl
@[simp] theorem modComp_jour (f : Comp → Comp) (s : State) : (modComp f s).jour = s.jour := rfl
@[simp] theorem modComp_opLog (f : Comp → Comp) (s : State) : (modComp f s).opLog = s.opLog := rfl
@[simp] theorem modComp_energy (f : Comp → Comp) (s : State) : (modComp f s).energy = s.energy := rfl
@[simp] theorem modComp_savedEnergy (f : Comp → Comp) (s : State) : (modComp f s).savedEnergy = s.savedEnergy := rfl
@[simp] theorem modComp_pins (f : Comp → Comp) (s : State) : (modComp f s).pins = s.pins := rfl

@[simp] theorem modCart_pending (f : Cart → Cart) (s : State) : (modCart f s).pending = s.pending := rfl
@[simp] theorem modCart_free (f : Cart → Cart) (s : State) : (modCart f s).free = s.free := rfl
@[simp] theorem modCart_periods (f : Cart → Cart) (s : State) : (modCart f s).periods = s.periods := rfl
@[simp] theorem modCart_dict (f : Cart → Cart) (s : State) : (modCart f s).dict = s.dict := rfl
@[simp] theorem modCart_ev (f : Cart → Cart) (s : State) : (modCart f s).ev = s.ev := rfl
@[simp] theorem modCart_ports (f : Cart → Cart) (s : State) : (modCart f s).ports = s.ports := rfl
@[simp] theorem modCart_doms (f : Cart → Cart) (s : State) : (modCart f s).doms = s.doms := rfl
@[simp] theorem modCart_ring (f : Cart → Cart) (s : State) : (modCart f s).ring = s.ring := rfl
@[simp] theorem modCart_dram (f : Cart → Cart) (s : State) : (modCart f s).dram = s.dram := rfl
@[simp] theorem modCart_boot (f : Cart → Cart) (s : State) : (modCart f s).boot = s.boot := rfl
@[simp] theorem modCart_ecat (f : Cart → Cart) (s : State) : (modCart f s).ecat = s.ecat := rfl
@[simp] theorem modCart_test (f : Cart → Cart) (s : State) : (modCart f s).test = s.test := rfl
@[simp] theorem modCart_comp (f : Cart → Cart) (s : State) : (modCart f s).comp = s.comp := rfl
@[simp] theorem modCart_cart (f : Cart → Cart) (s : State) : (modCart f s).cart = f s.cart := rfl
@[simp] theorem modCart_xport (f : Cart → Cart) (s : State) : (modCart f s).xport = s.xport := rfl
@[simp] theorem modCart_power (f : Cart → Cart) (s : State) : (modCart f s).power = s.power := rfl
@[simp] theorem modCart_kiln (f : Cart → Cart) (s : State) : (modCart f s).kiln = s.kiln := rfl
@[simp] theorem modCart_recov (f : Cart → Cart) (s : State) : (modCart f s).recov = s.recov := rfl
@[simp] theorem modCart_sched (f : Cart → Cart) (s : State) : (modCart f s).sched = s.sched := rfl
@[simp] theorem modCart_jour (f : Cart → Cart) (s : State) : (modCart f s).jour = s.jour := rfl
@[simp] theorem modCart_opLog (f : Cart → Cart) (s : State) : (modCart f s).opLog = s.opLog := rfl
@[simp] theorem modCart_energy (f : Cart → Cart) (s : State) : (modCart f s).energy = s.energy := rfl
@[simp] theorem modCart_savedEnergy (f : Cart → Cart) (s : State) : (modCart f s).savedEnergy = s.savedEnergy := rfl
@[simp] theorem modCart_pins (f : Cart → Cart) (s : State) : (modCart f s).pins = s.pins := rfl

@[simp] theorem modKiln_pending (f : Kiln → Kiln) (s : State) : (modKiln f s).pending = s.pending := rfl
@[simp] theorem modKiln_free (f : Kiln → Kiln) (s : State) : (modKiln f s).free = s.free := rfl
@[simp] theorem modKiln_periods (f : Kiln → Kiln) (s : State) : (modKiln f s).periods = s.periods := rfl
@[simp] theorem modKiln_dict (f : Kiln → Kiln) (s : State) : (modKiln f s).dict = s.dict := rfl
@[simp] theorem modKiln_ev (f : Kiln → Kiln) (s : State) : (modKiln f s).ev = s.ev := rfl
@[simp] theorem modKiln_ports (f : Kiln → Kiln) (s : State) : (modKiln f s).ports = s.ports := rfl
@[simp] theorem modKiln_doms (f : Kiln → Kiln) (s : State) : (modKiln f s).doms = s.doms := rfl
@[simp] theorem modKiln_ring (f : Kiln → Kiln) (s : State) : (modKiln f s).ring = s.ring := rfl
@[simp] theorem modKiln_dram (f : Kiln → Kiln) (s : State) : (modKiln f s).dram = s.dram := rfl
@[simp] theorem modKiln_boot (f : Kiln → Kiln) (s : State) : (modKiln f s).boot = s.boot := rfl
@[simp] theorem modKiln_ecat (f : Kiln → Kiln) (s : State) : (modKiln f s).ecat = s.ecat := rfl
@[simp] theorem modKiln_test (f : Kiln → Kiln) (s : State) : (modKiln f s).test = s.test := rfl
@[simp] theorem modKiln_comp (f : Kiln → Kiln) (s : State) : (modKiln f s).comp = s.comp := rfl
@[simp] theorem modKiln_cart (f : Kiln → Kiln) (s : State) : (modKiln f s).cart = s.cart := rfl
@[simp] theorem modKiln_xport (f : Kiln → Kiln) (s : State) : (modKiln f s).xport = s.xport := rfl
@[simp] theorem modKiln_power (f : Kiln → Kiln) (s : State) : (modKiln f s).power = s.power := rfl
@[simp] theorem modKiln_kiln (f : Kiln → Kiln) (s : State) : (modKiln f s).kiln = f s.kiln := rfl
@[simp] theorem modKiln_recov (f : Kiln → Kiln) (s : State) : (modKiln f s).recov = s.recov := rfl
@[simp] theorem modKiln_sched (f : Kiln → Kiln) (s : State) : (modKiln f s).sched = s.sched := rfl
@[simp] theorem modKiln_jour (f : Kiln → Kiln) (s : State) : (modKiln f s).jour = s.jour := rfl
@[simp] theorem modKiln_opLog (f : Kiln → Kiln) (s : State) : (modKiln f s).opLog = s.opLog := rfl
@[simp] theorem modKiln_energy (f : Kiln → Kiln) (s : State) : (modKiln f s).energy = s.energy := rfl
@[simp] theorem modKiln_savedEnergy (f : Kiln → Kiln) (s : State) : (modKiln f s).savedEnergy = s.savedEnergy := rfl
@[simp] theorem modKiln_pins (f : Kiln → Kiln) (s : State) : (modKiln f s).pins = s.pins := rfl

@[simp] theorem modEcat_pending (f : Ecat → Ecat) (s : State) : (modEcat f s).pending = s.pending := rfl
@[simp] theorem modEcat_free (f : Ecat → Ecat) (s : State) : (modEcat f s).free = s.free := rfl
@[simp] theorem modEcat_periods (f : Ecat → Ecat) (s : State) : (modEcat f s).periods = s.periods := rfl
@[simp] theorem modEcat_dict (f : Ecat → Ecat) (s : State) : (modEcat f s).dict = s.dict := rfl
@[simp] theorem modEcat_ev (f : Ecat → Ecat) (s : State) : (modEcat f s).ev = s.ev := rfl
@[simp] theorem modEcat_ports (f : Ecat → Ecat) (s : State) : (modEcat f s).ports = s.ports := rfl
@[simp] theorem modEcat_doms (f : Ecat → Ecat) (s : State) : (modEcat f s).doms = s.doms := rfl
@[simp] theorem modEcat_ring (f : Ecat → Ecat) (s : State) : (modEcat f s).ring = s.ring := rfl
@[simp] theorem modEcat_dram (f : Ecat → Ecat) (s : State) : (modEcat f s).dram = s.dram := rfl
@[simp] theorem modEcat_boot (f : Ecat → Ecat) (s : State) : (modEcat f s).boot = s.boot := rfl
@[simp] theorem modEcat_ecat (f : Ecat → Ecat) (s : State) : (modEcat f s).ecat = f s.ecat := rfl
@[simp] theorem modEcat_test (f : Ecat → Ecat) (s : State) : (modEcat f s).test = s.test := rfl
@[simp] theorem modEcat_comp (f : Ecat → Ecat) (s : State) : (modEcat f s).comp = s.comp := rfl
@[simp] theorem modEcat_cart (f : Ecat → Ecat) (s : State) : (modEcat f s).cart = s.cart := rfl
@[simp] theorem modEcat_xport (f : Ecat → Ecat) (s : State) : (modEcat f s).xport = s.xport := rfl
@[simp] theorem modEcat_power (f : Ecat → Ecat) (s : State) : (modEcat f s).power = s.power := rfl
@[simp] theorem modEcat_kiln (f : Ecat → Ecat) (s : State) : (modEcat f s).kiln = s.kiln := rfl
@[simp] theorem modEcat_recov (f : Ecat → Ecat) (s : State) : (modEcat f s).recov = s.recov := rfl
@[simp] theorem modEcat_sched (f : Ecat → Ecat) (s : State) : (modEcat f s).sched = s.sched := rfl
@[simp] theorem modEcat_jour (f : Ecat → Ecat) (s : State) : (modEcat f s).jour = s.jour := rfl
@[simp] theorem modEcat_opLog (f : Ecat → Ecat) (s : State) : (modEcat f s).opLog = s.opLog := rfl
@[simp] theorem modEcat_energy (f : Ecat → Ecat) (s : State) : (modEcat f s).energy = s.energy := rfl
@[simp] theorem modEcat_savedEnergy (f : Ecat → Ecat) (s : State) : (modEcat f s).savedEnergy = s.savedEnergy := rfl
@[simp] theorem modEcat_pins (f : Ecat → Ecat) (s : State) : (modEcat f s).pins = s.pins := rfl

@[simp] theorem modLine_pending (n : Fin 8) (f : EventLine → EventLine) (s : State) : (modLine n f s).pending = s.pending := rfl
@[simp] theorem modLine_free (n : Fin 8) (f : EventLine → EventLine) (s : State) : (modLine n f s).free = s.free := rfl
@[simp] theorem modLine_periods (n : Fin 8) (f : EventLine → EventLine) (s : State) : (modLine n f s).periods = s.periods := rfl
@[simp] theorem modLine_dict (n : Fin 8) (f : EventLine → EventLine) (s : State) : (modLine n f s).dict = s.dict := rfl
@[simp] theorem modLine_ev (n : Fin 8) (f : EventLine → EventLine) (s : State) : (modLine n f s).ev = s.ev := rfl
@[simp] theorem modLine_ports (n : Fin 8) (f : EventLine → EventLine) (s : State) : (modLine n f s).ports = s.ports := rfl
@[simp] theorem modLine_doms (n : Fin 8) (f : EventLine → EventLine) (s : State) : (modLine n f s).doms = s.doms := rfl
@[simp] theorem modLine_ring (n : Fin 8) (f : EventLine → EventLine) (s : State) : (modLine n f s).ring = s.ring := rfl
@[simp] theorem modLine_dram (n : Fin 8) (f : EventLine → EventLine) (s : State) : (modLine n f s).dram = s.dram := rfl
@[simp] theorem modLine_boot (n : Fin 8) (f : EventLine → EventLine) (s : State) : (modLine n f s).boot = s.boot := rfl
@[simp] theorem modLine_ecat (n : Fin 8) (f : EventLine → EventLine) (s : State) : (modLine n f s).ecat = s.ecat := rfl
@[simp] theorem modLine_test (n : Fin 8) (f : EventLine → EventLine) (s : State) : (modLine n f s).test = s.test := rfl
@[simp] theorem modLine_comp (n : Fin 8) (f : EventLine → EventLine) (s : State) : (modLine n f s).comp = s.comp := rfl
@[simp] theorem modLine_cart (n : Fin 8) (f : EventLine → EventLine) (s : State) : (modLine n f s).cart = s.cart := rfl
@[simp] theorem modLine_xport (n : Fin 8) (f : EventLine → EventLine) (s : State) : (modLine n f s).xport = s.xport := rfl
@[simp] theorem modLine_power (n : Fin 8) (f : EventLine → EventLine) (s : State) : (modLine n f s).power = s.power := rfl
@[simp] theorem modLine_kiln (n : Fin 8) (f : EventLine → EventLine) (s : State) : (modLine n f s).kiln = s.kiln := rfl
@[simp] theorem modLine_recov (n : Fin 8) (f : EventLine → EventLine) (s : State) : (modLine n f s).recov = s.recov := rfl
@[simp] theorem modLine_sched (n : Fin 8) (f : EventLine → EventLine) (s : State) : (modLine n f s).sched = s.sched := rfl
@[simp] theorem modLine_jour (n : Fin 8) (f : EventLine → EventLine) (s : State) : (modLine n f s).jour = s.jour := rfl
@[simp] theorem modLine_opLog (n : Fin 8) (f : EventLine → EventLine) (s : State) : (modLine n f s).opLog = s.opLog := rfl
@[simp] theorem modLine_energy (n : Fin 8) (f : EventLine → EventLine) (s : State) : (modLine n f s).energy = s.energy := rfl
@[simp] theorem modLine_savedEnergy (n : Fin 8) (f : EventLine → EventLine) (s : State) : (modLine n f s).savedEnergy = s.savedEnergy := rfl

/-! ### Ports, domains and objects read back -/

@[simp] theorem vget_vset_same {α : Type} {n : Nat} (v : Vector α n) (i : Fin n) (x : α) : vget (vset v i x) i = x := by
  simp [vget, vset]

theorem vget_vset {α : Type} {n : Nat} (v : Vector α n) (i j : Fin n) (x : α) :
    vget (vset v i x) j = if i = j then x else vget v j := by
  simp [vget, vset, Vector.getElem_set, Fin.ext_iff]

theorem fin_inj {p q : PortId} : p.fin = q.fin ↔ p = q := by cases p <;> cases q <;> decide

@[simp] theorem portOf_setPort_same (p : PortId) (x : Port) (s : State) : portOf (setPort p x s) p = x := by
  simp [portOf]

theorem portOf_setPort_other {p q : PortId} (x : Port) (s : State) (h : p ≠ q) : portOf (setPort p x s) q = portOf s q := by
  simp [portOf, vget_vset, fin_inj, h]

@[simp] theorem portOf_modPort_same (p : PortId) (f : Port → Port) (s : State) :
    portOf (modPort p f s) p = f (portOf s p) := by simp [modPort]

theorem portOf_modPort_other {p q : PortId} (f : Port → Port) (s : State) (h : p ≠ q) :
    portOf (modPort p f s) q = portOf s q := portOf_setPort_other _ s h

@[simp] theorem laneOf_setLane_same (p : PortId) (l : Lane) (x : LaneRt) (s : State) :
    laneOf (setLane p l x s) p l = x := by simp [laneOf, setLane]

theorem laneOf_setLane_other {l k : Lane} (p : PortId) (x : LaneRt) (s : State) (h : l ≠ k) :
    laneOf (setLane p l x s) p k = laneOf s p k := by simp [laneOf, setLane, vget_vset, h]

@[simp] theorem laneOf_modLane_same (p : PortId) (l : Lane) (f : LaneRt → LaneRt) (s : State) :
    laneOf (modLane p l f s) p l = f (laneOf s p l) := by simp [modLane]

@[simp] theorem domOf_setDom_same (d : Dom) (x : DomainRt) (s : State) : domOf (setDom d x s) d = x := by simp [domOf]

theorem domOf_setDom_other {d e : Dom} (x : DomainRt) (s : State) (h : d ≠ e) : domOf (setDom d x s) e = domOf s e := by
  simp [domOf, vget_vset, h]

@[simp] theorem domOf_modDom_same (d : Dom) (f : DomainRt → DomainRt) (s : State) :
    domOf (modDom d f s) d = f (domOf s d) := by simp [modDom]

/-- An object reads the same in two states with the same dictionary. -/
theorem obj_congr {s t : State} (h : t.dict = s.dict) (k : Nat) : obj t k = obj s k := by simp [obj, h]

@[simp] theorem obj_setPort (p : PortId) (x : Port) (s : State) (k : Nat) : obj (setPort p x s) k = obj s k := rfl
@[simp] theorem obj_modPort (p : PortId) (f : Port → Port) (s : State) (k : Nat) : obj (modPort p f s) k = obj s k := rfl
@[simp] theorem obj_setDom (d : Dom) (x : DomainRt) (s : State) (k : Nat) : obj (setDom d x s) k = obj s k := rfl
@[simp] theorem obj_modDom (d : Dom) (f : DomainRt → DomainRt) (s : State) (k : Nat) : obj (modDom d f s) k = obj s k := rfl
@[simp] theorem obj_draw (s : State) (k : Nat) : obj (draw s) k = obj s k := rfl
@[simp] theorem obj_modXport (f : Xport → Xport) (s : State) (k : Nat) : obj (modXport f s) k = obj s k := rfl
@[simp] theorem obj_modCart (f : Cart → Cart) (s : State) (k : Nat) : obj (modCart f s) k = obj s k := rfl
@[simp] theorem portOf_setObj (k v : Nat) (s : State) (p : PortId) : portOf (setObj k v s) p = portOf s p := rfl
@[simp] theorem domOf_setObj (k v : Nat) (s : State) (d : Dom) : domOf (setObj k v s) d = domOf s d := rfl
@[simp] theorem released_setObj (k v : Nat) (s : State) : released (setObj k v s) = released s := rfl
@[simp] theorem released_setPort (p : PortId) (x : Port) (s : State) : released (setPort p x s) = released s := rfl

/-! ### The gates -/

theorem live_eq {s : State} (t : State) (h : released s = true) : live s t = t := by simp [live, h]

theorem working_eq {b : Nat} {s : State} (t : State) (h : released s = true) (hb : blockBusy s b = false) :
    working b s t = t := by simp [working, live, h, hb]

/-- A saturating counter counts one, but for its highest value. -/
theorem obj_bump_same (k : Nat) (s : State) (h : obj s k < 2 ^ objWidth k) :
    obj (bump k s) k = min (obj s k + 1) (2 ^ objWidth k - 1) := by
  simp only [bump, bumpBy, obj_setObj_same]
  exact Nat.mod_eq_of_lt (by omega)

theorem obj_bump_other {k k' : Nat} (s : State) (h : k' ≠ k) : obj (bump k s) k' = obj s k' := obj_setObj_other _ _ h

end Sys2Proof.Machine
end

