-- ==== Sys2Proof/Laws/Events.lean ====
section
/-!
SUPPORT. What posting an event leaves: one entry more in the event log, and the log only there.
-/
namespace Sys2Proof.Machine

theorem offerEvent_ev (dom : Dom) (e : EventRec) (p : PortId) (s : State) : (offerEvent dom e p s).ev = s.ev :=
  (offerEvent_kept (mask := [.dict, .ports]) dom e p (Kept.refl _ s) (fun _ h => h)).same_of .ev rfl

theorem offerEvents_ev (dom : Dom) (e : EventRec) (l : List PortId) (s : State) :
    (l.foldl (fun t p => offerEvent dom e p t) s).ev = s.ev := by
  induction l generalizing s with
  | nil => rfl
  | cons p l ih => rw [List.foldl_cons, ih, offerEvent_ev]

theorem queueEmergency_log (e : EventRec) (error : Nat) (s : State) :
    (queueEmergency e error s).ev.log = s.ev.log ∧ (queueEmergency e error s).ev.total = s.ev.total := by
  unfold queueEmergency
  split
  · exact ⟨rfl, rfl⟩
  · exact ⟨rfl, rfl⟩
  · extract_lets
    split <;> exact ⟨rfl, rfl⟩

theorem publish_log (e : EventRec) (s : State) :
    (publish e s).ev.total = s.ev.total + 1 ∧ (publish e s).ev.log = (⟨s.ev.total + 1, e⟩ :: s.ev.log).take 256 := by
  unfold publish
  extract_lets s1
  have h2 : s1.ev = (enterPages e s).ev := rfl
  simp only [settleEvent, draw_ev]
  split
  · rw [offerEvents_ev, h2]; exact ⟨rfl, rfl⟩
  · rw [(queueEmergency_log ..).1, (queueEmergency_log ..).2, offerEvents_ev, h2]; exact ⟨rfl, rfl⟩

/-- Posting an event after release posts that one. -/
theorem postEvent_postedOne {s u : State} (code unit detail : Nat) (h : released s = true) (hu : u.ev = s.ev)
    (hb : u.boot = s.boot) (hp : u.periods = s.periods) (hf : u.free = s.free) :
    postedOne code unit detail s (postEvent code unit detail u) := by
  have hr : released u = true := by simpa [released, hb] using h
  have hn : nowUs u = nowUs s := by simp [nowUs, released, hb, hp, hf]
  unfold postEvent postedOne
  simp only [hr, if_true]
  rw [← hu, ← hn]
  exact publish_log _ _

end Sys2Proof.Machine
end

