-- ==== Sys2Proof/Laws/KeptCredits.lean ====
section
/-!
SUPPORT. What the operations of Machine/Credits.lean may touch, and that they keep the canonical forms.
-/
set_option linter.unusedTactic false
set_option linter.unreachableTactic false
set_option linter.unusedVariables false

namespace Sys2Proof.Machine

theorem raiseLimits_kept {mask : List Part} {s0 s : State} (p : PortId) (hk : Kept mask s0 s)
    (hsub : [.ports] ⊆ mask) : Kept mask s0 (raiseLimits p s) := by
  unfold raiseLimits
  try extract_lets -underBinder
  repeat' first
   | with_reducible assumption
   | exact sub_trans rfl hsub
   | intro _
   | with_reducible apply kept_ite
   | with_reducible apply setPort_kept
   | split
   | extract_lets -underBinder
   | (dsimp +zetaDelta only; split)

theorem returnUnits_kept {mask : List Part} {s0 s : State} (p : PortId) (k : CreditClass) (n : Nat) (hk : Kept mask s0 s)
    (hsub : [.ports] ⊆ mask) : Kept mask s0 (returnUnits p k n s) := by
  unfold returnUnits
  try extract_lets -underBinder
  repeat' first
   | with_reducible assumption
   | exact sub_trans rfl hsub
   | intro _
   | with_reducible apply kept_ite
   | with_reducible apply modPort_kept
   | with_reducible apply raiseLimits_kept
   | with_reducible apply kept_id
   | split
   | extract_lets -underBinder
   | (dsimp +zetaDelta only; split)

theorem returnAdmin_kept {mask : List Part} {s0 s : State} (p : PortId) (n : Nat) (hk : Kept mask s0 s)
    (hsub : [.ports] ⊆ mask) : Kept mask s0 (returnAdmin p n s) := by
  unfold returnAdmin
  try extract_lets -underBinder
  repeat' first
   | with_reducible assumption
   | exact sub_trans rfl hsub
   | intro _
   | with_reducible apply kept_ite
   | with_reducible apply returnUnits_kept
   | split
   | extract_lets -underBinder
   | (dsimp +zetaDelta only; split)

end Sys2Proof.Machine
end

