-- ==== Sys2Proof/Laws/KeptAccess.lean ====
section
/-!
SUPPORT. What the operations of Machine/Access.lean may touch, and that they keep the canonical forms.
-/
set_option linter.unusedTactic false
set_option linter.unreachableTactic false
set_option linter.unusedVariables false

namespace Sys2Proof.Machine

theorem refusalDetail_kept {mask : List Part} {s0 s : State} (key : Nat) (i : Nat) (sub : Nat) (status : Nat) (hk : Kept mask s0 s)
    (hsub : [.dict] ⊆ mask) : Kept mask s0 (refusalDetail key i sub status s) := by
  unfold refusalDetail
  try extract_lets -underBinder
  repeat' first
   | with_reducible assumption
   | exact sub_trans rfl hsub
   | intro _
   | with_reducible apply kept_ite
   | with_reducible apply setObj_kept
   | split
   | extract_lets -underBinder
   | (dsimp +zetaDelta only; split)

theorem answer_kept {mask : List Part} {s0 s : State} (w : Writer) (i : Nat) (sub : Nat) (r : Option Reason) (hk : Kept mask s0 s)
    (hsub : [.dict, .ports, .ecat] ⊆ mask) : Kept mask s0 (answer w i sub r s) := by
  unfold answer
  try extract_lets -underBinder
  repeat' first
   | with_reducible assumption
   | exact sub_trans rfl hsub
   | intro _
   | with_reducible apply kept_ite
   | with_reducible apply sendMsg_kept
   | exact Or.inl (mem_of rfl hsub)
   | with_reducible exact Or.inr rfl
   | split
   | extract_lets -underBinder
   | (dsimp +zetaDelta only; split)
   | with_reducible apply kept_mk

theorem refuse_kept {mask : List Part} {s0 s : State} (w : Writer) (i : Nat) (sub : Nat) (r : Reason) (hk : Kept mask s0 s)
    (hsub : [.dict, .ports, .ecat] ⊆ mask) : Kept mask s0 (refuse w i sub r s) := by
  unfold refuse
  try extract_lets -underBinder
  repeat' first
   | with_reducible assumption
   | exact sub_trans rfl hsub
   | intro _
   | with_reducible apply kept_ite
   | with_reducible apply refusalDetail_kept
   | with_reducible apply answer_kept
   | with_reducible apply kept_id
   | split
   | extract_lets -underBinder
   | (dsimp +zetaDelta only; split)

theorem dropPair_kept {mask : List Part} {s0 s : State} (p : PortId) (hk : Kept mask s0 s)
    (hsub : [.ports] ⊆ mask) : Kept mask s0 (dropPair p s) := by
  unfold dropPair
  try extract_lets -underBinder
  repeat' first
   | with_reducible assumption
   | exact sub_trans rfl hsub
   | intro _
   | with_reducible apply kept_ite
   | with_reducible apply modPort_kept
   | split
   | extract_lets -underBinder
   | (dsimp +zetaDelta only; split)

theorem arrive_kept {mask : List Part} {s0 s : State} (w : Writer) (i : Nat) (sub : Nat) (n : Nat) (f : State → State) (hk : Kept mask s0 s)
    (hsub : [.dict, .ports, .ecat] ⊆ mask) (hff : ∀ t, Kept mask s0 t → Kept mask s0 (f t)) : Kept mask s0 (arrive w i sub n f s) := by
  unfold arrive
  try extract_lets -underBinder
  repeat' first
   | with_reducible assumption
   | exact sub_trans rfl hsub
   | intro _
   | with_reducible apply kept_ite
   | with_reducible apply hff
   | with_reducible apply dropPair_kept
   | with_reducible apply returnAdmin_kept
   | with_reducible apply refuse_kept
   | with_reducible apply modPort_kept
   | with_reducible apply kept_id
   | split
   | extract_lets -underBinder
   | (dsimp +zetaDelta only; split)

theorem arriveValue_kept {mask : List Part} {s0 s : State} (w : Writer) (i : Nat) (sub : Nat) (f : State → State) (hk : Kept mask s0 s)
    (hsub : [.dict, .ports, .ecat] ⊆ mask) (hff : ∀ t, Kept mask s0 t → Kept mask s0 (f t)) : Kept mask s0 (arriveValue w i sub f s) := by
  unfold arriveValue
  try extract_lets -underBinder
  repeat' first
   | with_reducible assumption
   | exact sub_trans rfl hsub
   | intro _
   | with_reducible apply kept_ite
   | with_reducible apply hff
   | with_reducible apply arrive_kept
   | split
   | extract_lets -underBinder
   | (dsimp +zetaDelta only; split)

theorem stateRequest_kept {mask : List Part} {s0 s : State} (w : Writer) (i : Nat) (action : Nat) (gen : Nat) (maxAction : Nat) (legal : Bool) (within : Bool) (f : State → State) (hk : Kept mask s0 s)
    (hsub : [.dict, .ports, .ecat] ⊆ mask) (hff : ∀ t, Kept mask s0 t → Kept mask s0 (f t)) : Kept mask s0 (stateRequest w i action gen maxAction legal within f s) := by
  unfold stateRequest
  try extract_lets -underBinder
  repeat' first
   | with_reducible assumption
   | exact sub_trans rfl hsub
   | intro _
   | with_reducible apply kept_ite
   | with_reducible apply hff
   | with_reducible apply refuse_kept
   | with_reducible apply setObj_kept
   | with_reducible apply answer_kept
   | with_reducible apply kept_id
   | split
   | extract_lets -underBinder
   | (dsimp +zetaDelta only; split)

end Sys2Proof.Machine
end

