-- ==== Sys2Proof/Laws/KeptPager.lean ====
section
/-!
SUPPORT. What the operations of Machine/Pager.lean may touch, and that they keep the canonical forms.
-/
set_option linter.unusedTactic false
set_option linter.unreachableTactic false
set_option linter.unusedVariables false

namespace Sys2Proof.Machine

theorem setGather_kept {mask : List Part} {s0 s : State} (d : Dom) (log : Nat) (ps : List Piece) (hk : Kept mask s0 s)
    (hsub : [.comp] ⊆ mask) : Kept mask s0 (setGather d log ps s) := by
  unfold setGather
  try extract_lets -underBinder
  repeat' first
   | with_reducible assumption
   | exact sub_trans rfl hsub
   | intro _
   | with_reducible apply kept_ite
   | exact Or.inl (mem_of rfl hsub)
   | with_reducible exact Or.inr rfl
   | split
   | extract_lets -underBinder
   | (dsimp +zetaDelta only; split)
   | with_reducible apply kept_mk

theorem addBlocks_kept {mask : List Part} {s0 s : State} (bs : List CompBlock) (hk : Kept mask s0 s)
    (hsub : [.comp] ⊆ mask) : Kept mask s0 (addBlocks bs s) := by
  unfold addBlocks
  try extract_lets -underBinder
  repeat' first
   | with_reducible assumption
   | exact sub_trans rfl hsub
   | intro _
   | with_reducible apply kept_ite
   | exact Or.inl (mem_of rfl hsub)
   | with_reducible exact Or.inr rfl
   | split
   | extract_lets -underBinder
   | (dsimp +zetaDelta only; split)
   | with_reducible apply kept_mk

theorem closeGather_kept {mask : List Part} {s0 s : State} (d : Dom) (log : Nat) (hk : Kept mask s0 s)
    (hsub : [.comp] ⊆ mask) : Kept mask s0 (closeGather d log s) := by
  unfold closeGather
  try extract_lets -underBinder
  repeat' first
   | with_reducible assumption
   | exact sub_trans rfl hsub
   | intro _
   | with_reducible apply kept_ite
   | with_reducible apply setGather_kept
   | with_reducible apply addBlocks_kept
   | with_reducible apply kept_id
   | split
   | extract_lets -underBinder
   | (dsimp +zetaDelta only; split)

theorem evictOne_kept {mask : List Part} {s0 s t : State} {d : Dom} (he : evictOne d s = some t) (hk : Kept mask s0 s)
    (hsub : [.doms] ⊆ mask) : Kept mask s0 t := by
  unfold evictOne at he
  rw [Option.map_eq_some_iff] at he
  obtain ⟨_, _, rfl⟩ := he
  exact modDom_kept _ _ hk (sub_trans rfl hsub)

theorem pageFor_kept {mask : List Part} {s0 s t : State} {d : Dom} (hp : pageFor d s = some t) (hk : Kept mask s0 s)
    (hsub : [.doms] ⊆ mask) : Kept mask s0 t := by
  unfold pageFor at hp
  split at hp
  · cases hp; exact hk
  · exact evictOne_kept hp hk hsub

theorem countWaitOf_kept {mask : List Part} {s0 s : State} (d : Dom) (hk : Kept mask s0 s)
    (hsub : [.dict] ⊆ mask) : Kept mask s0 (countWaitOf d s) := by
  unfold countWaitOf
  try extract_lets -underBinder
  repeat' first
   | with_reducible assumption
   | exact sub_trans rfl hsub
   | intro _
   | with_reducible apply kept_ite
   | with_reducible apply bump_kept
   | split
   | extract_lets -underBinder
   | (dsimp +zetaDelta only; split)

theorem pagerWaits_kept {mask : List Part} {s0 s : State} (d : Dom) (hk : Kept mask s0 s)
    (hsub : [.dict, .dram] ⊆ mask) : Kept mask s0 (pagerWaits d s) := by
  unfold pagerWaits
  try extract_lets -underBinder
  repeat' first
   | with_reducible assumption
   | exact sub_trans rfl hsub
   | intro _
   | with_reducible apply kept_ite
   | with_reducible apply countWaitOf_kept
   | exact Or.inl (mem_of rfl hsub)
   | with_reducible exact Or.inr rfl
   | split
   | extract_lets -underBinder
   | (dsimp +zetaDelta only; split)
   | with_reducible apply kept_mk

theorem modItem_kept {mask : List Part} {s0 s : State} (idx : Nat) (f : RingItem → RingItem) (hk : Kept mask s0 s)
    (hsub : [.ring] ⊆ mask) : Kept mask s0 (modItem idx f s) := by
  unfold modItem
  try extract_lets -underBinder
  repeat' first
   | with_reducible assumption
   | exact sub_trans rfl hsub
   | intro _
   | with_reducible apply kept_ite
   | exact Or.inl (mem_of rfl hsub)
   | with_reducible exact Or.inr rfl
   | split
   | extract_lets -underBinder
   | (dsimp +zetaDelta only; split)
   | with_reducible apply kept_mk

theorem copyChunk_kept {mask : List Part} {s0 s : State} (r : RingItem) (hk : Kept mask s0 s)
    (hsub : [.ring, .comp] ⊆ mask) : Kept mask s0 (copyChunk r s) := by
  unfold copyChunk
  try extract_lets -underBinder
  repeat' first
   | with_reducible assumption
   | exact sub_trans rfl hsub
   | intro _
   | with_reducible apply kept_ite
   | with_reducible apply modItem_kept
   | with_reducible apply closeGather_kept
   | with_reducible apply addBlocks_kept
   | with_reducible apply setGather_kept
   | with_reducible apply kept_id
   | split
   | extract_lets -underBinder
   | (dsimp +zetaDelta only; split)

theorem keepGroup_kept {mask : List Part} {s0 s : State} (d : Dom) (v : Nat) (g : Nat) (sectors : List (Nat × List Byte)) (hk : Kept mask s0 s)
    (hsub : [.doms] ⊆ mask) : Kept mask s0 (keepGroup d v g sectors s) := by
  unfold keepGroup
  try extract_lets -underBinder
  repeat' first
   | with_reducible assumption
   | exact sub_trans rfl hsub
   | intro _
   | with_reducible apply kept_ite
   | with_reducible apply modDom_kept
   | split
   | extract_lets -underBinder
   | (dsimp +zetaDelta only; split)

theorem pageGroup_kept {mask : List Part} {s0 s : State} (d : Dom) (v : Nat) (g : Nat) (hk : Kept mask s0 s)
    (hsub : [.doms, .comp] ⊆ mask) : Kept mask s0 (pageGroup d v g s) := by
  unfold pageGroup
  try extract_lets -underBinder
  repeat' first
   | with_reducible assumption
   | exact sub_trans rfl hsub
   | intro _
   | with_reducible apply kept_ite
   | with_reducible apply addBlocks_kept
   | with_reducible apply keepGroup_kept
   | with_reducible apply kept_id
   | exact Or.inl (mem_of rfl hsub)
   | with_reducible exact Or.inr rfl
   | split
   | extract_lets -underBinder
   | (dsimp +zetaDelta only; split)
   | with_reducible apply kept_mk

theorem pagerStep_kept {mask : List Part} {s0 s t : State} {r : RingItem} (hp : pagerStep r s = .go t) (hk : Kept mask s0 s)
    (hsub : [.doms, .ring, .comp] ⊆ mask) : Kept mask s0 t := by
  have hgo (u : State) (d : Dom) (v g : Nat) (hu : Kept mask s0 u) :
      Kept mask s0 (modItem r.item.idx (fun x => { x with paged := r.paged + 1 }) (pageGroup d v g u)) :=
    modItem_kept _ _ (pageGroup_kept _ _ _ hu (sub_trans rfl hsub)) (sub_trans rfl hsub)
  unfold pagerStep at hp
  extract_lets at hp
  split at hp
  · split at hp
    · cases hp
    · split at hp
      · split at hp
        · rename_i hf
          cases hp
          exact copyChunk_kept _ (pageFor_kept hf hk (sub_trans rfl hsub)) (sub_trans rfl hsub)
        · cases hp
      · cases hp
        exact copyChunk_kept _ hk (sub_trans rfl hsub)
  · split at hp
    · cases hp
    · extract_lets at hp
      split at hp
      · cases hp
      · split at hp
        · cases hp
          exact hgo _ _ _ _ hk
        · split at hp
          · rename_i hf
            cases hp
            exact hgo _ _ _ _ (pageFor_kept hf hk (sub_trans rfl hsub))
          · cases hp

theorem pageItem_kept {mask : List Part} {s0 s : State} (n idx : Nat) (hk : Kept mask s0 s)
    (hsub : [.doms, .ring, .comp] ⊆ mask) : Kept mask s0 (pageItem n idx s).1 := by
  induction n generalizing s with
  | zero => exact hk
  | succ n ih =>
    unfold pageItem
    split
    · exact hk
    · split
      · exact hk
      · exact hk
      · rename_i hp
        exact ih (pagerStep_kept hp hk hsub)

theorem pageItems_kept {mask : List Part} {s0 s : State} (d : Dom) (x0 : List RingItem) (hk : Kept mask s0 s)
    (hsub : [.dict, .doms, .ring, .dram, .comp] ⊆ mask) : Kept mask s0 (pageItems d x0 s) := by
  induction x0 generalizing s with
  | nil =>
    unfold pageItems
    try extract_lets -underBinder
    repeat' first
     | with_reducible assumption
     | exact sub_trans rfl hsub
     | intro _
     | with_reducible apply kept_ite
     | with_reducible apply ih
     | with_reducible apply pageItem_kept
     | with_reducible apply pagerWaits_kept
     | split
     | extract_lets -underBinder
     | (dsimp +zetaDelta only; split)
  | cons a rest ih =>
    unfold pageItems
    try extract_lets -underBinder
    repeat' first
     | with_reducible assumption
     | exact sub_trans rfl hsub
     | intro _
     | with_reducible apply kept_ite
     | with_reducible apply ih
     | with_reducible apply pageItem_kept
     | with_reducible apply pagerWaits_kept
     | split
     | extract_lets -underBinder
     | (dsimp +zetaDelta only; split)

theorem runPager_kept {mask : List Part} {s0 s : State} (d : Dom) (hk : Kept mask s0 s)
    (hsub : [.dict, .doms, .ring, .dram, .comp] ⊆ mask) : Kept mask s0 (runPager d s) := by
  unfold runPager
  try extract_lets -underBinder
  repeat' first
   | with_reducible assumption
   | exact sub_trans rfl hsub
   | intro _
   | with_reducible apply kept_ite
   | with_reducible apply pageItems_kept
   | split
   | extract_lets -underBinder
   | (dsimp +zetaDelta only; split)

theorem runPagers_kept {mask : List Part} {s0 s : State} (hk : Kept mask s0 s)
    (hsub : [.dict, .doms, .ring, .dram, .comp] ⊆ mask) : Kept mask s0 (runPagers s) := by
  unfold runPagers
  try extract_lets -underBinder
  repeat' first
   | with_reducible assumption
   | exact sub_trans rfl hsub
   | intro _
   | with_reducible apply kept_ite
   | with_reducible apply kept_foldl
   | with_reducible apply runPager_kept
   | split
   | extract_lets -underBinder
   | (dsimp +zetaDelta only; split)

theorem touchGroup_kept {mask : List Part} {s0 s : State} (d : Dom) (v : Nat) (g : Nat) (hk : Kept mask s0 s)
    (hsub : [.doms] ⊆ mask) : Kept mask s0 (touchGroup d v g s) := by
  unfold touchGroup
  try extract_lets -underBinder
  repeat' first
   | with_reducible assumption
   | exact sub_trans rfl hsub
   | intro _
   | with_reducible apply kept_ite
   | with_reducible apply modDom_kept
   | split
   | extract_lets -underBinder
   | (dsimp +zetaDelta only; split)

theorem captureGroup_kept {mask : List Part} {s0 s : State} (d : Dom) (v g : Nat) (cuts : List Nat)
    (wrong : List (Nat × Nat × Nat × Byte)) (hk : Kept mask s0 s) (hsub : [.doms] ⊆ mask) :
    Kept mask s0 (captureGroup d v g cuts wrong s) := by
  unfold captureGroup
  extract_lets sectors
  refine kept_ite hk (kept_ite (keepGroup_kept _ _ _ _ hk (sub_trans rfl hsub)) ?_)
  generalize hp : pageFor d s = x
  cases x with
  | none => exact hk
  | some t => exact keepGroup_kept _ _ _ _ (pageFor_kept hp hk (sub_trans rfl hsub)) (sub_trans rfl hsub)

theorem fetched_kept {mask : List Part} {s0 s : State} (serial : Nat) (wrong : List (Nat × Nat × Nat × Byte)) (hk : Kept mask s0 s)
    (hsub : [.dict, .doms, .ring, .dram, .comp] ⊆ mask) : Kept mask s0 (fetched serial wrong s) := by
  unfold fetched
  try extract_lets -underBinder
  repeat' first
   | with_reducible assumption
   | exact sub_trans rfl hsub
   | intro _
   | with_reducible apply kept_ite
   | with_reducible apply kept_foldl
   | with_reducible apply runPagers_kept
   | with_reducible apply captureGroup_kept
   | split
   | extract_lets -underBinder
   | (dsimp +zetaDelta only; split)

theorem cacheSectors_kept {mask : List Part} {s0 s : State} (i : Item) (hk : Kept mask s0 s)
    (hsub : [.ring, .sched] ⊆ mask) : Kept mask s0 (cacheSectors i s) := by
  unfold cacheSectors
  try extract_lets -underBinder
  repeat' first
   | with_reducible assumption
   | exact sub_trans rfl hsub
   | intro _
   | with_reducible apply kept_ite
   | exact Or.inl (mem_of rfl hsub)
   | with_reducible exact Or.inr rfl
   | split
   | extract_lets -underBinder
   | (dsimp +zetaDelta only; split)
   | with_reducible apply kept_mk

theorem rotCache_kept {mask : List Part} {s0 s : State} (rot : List CacheRot) (hk : Kept mask s0 s)
    (hsub : [.ring] ⊆ mask) : Kept mask s0 (rotCache rot s) := by
  unfold rotCache
  try extract_lets -underBinder
  repeat' first
   | with_reducible assumption
   | exact sub_trans rfl hsub
   | intro _
   | with_reducible apply kept_ite
   | with_reducible apply kept_foldl
   | exact Or.inl (mem_of rfl hsub)
   | with_reducible exact Or.inr rfl
   | split
   | extract_lets -underBinder
   | (dsimp +zetaDelta only; split)
   | with_reducible apply kept_mk

theorem fitUnits_kept {mask : List Part} {s0 s : State} (d : Dom) (hk : Kept mask s0 s)
    (hsub : [.doms, .ring] ⊆ mask) : Kept mask s0 (fitUnits d s) := by
  unfold fitUnits
  try extract_lets -underBinder
  repeat' first
   | with_reducible assumption
   | exact sub_trans rfl hsub
   | intro _
   | with_reducible apply kept_ite
   | with_reducible apply modDom_kept
   | with_reducible apply kept_id
   | exact Or.inl (mem_of rfl hsub)
   | with_reducible exact Or.inr rfl
   | split
   | extract_lets -underBinder
   | (dsimp +zetaDelta only; split)
   | with_reducible apply kept_mk

theorem fitAllUnits_kept {mask : List Part} {s0 s : State} (hk : Kept mask s0 s)
    (hsub : [.doms, .ring] ⊆ mask) : Kept mask s0 (fitAllUnits s) := by
  unfold fitAllUnits
  try extract_lets -underBinder
  repeat' first
   | with_reducible assumption
   | exact sub_trans rfl hsub
   | intro _
   | with_reducible apply kept_ite
   | with_reducible apply kept_foldl
   | with_reducible apply fitUnits_kept
   | split
   | extract_lets -underBinder
   | (dsimp +zetaDelta only; split)

end Sys2Proof.Machine
end

