-- ==== Sys2Proof/Laws/KeptBuffers.lean ====
section
/-!
SUPPORT. What the operations of Machine/Buffers.lean may touch, and that they keep the canonical forms.
-/
set_option linter.unusedTactic false
set_option linter.unreachableTactic false
set_option linter.unusedVariables false

namespace Sys2Proof.Machine

theorem modDram_kept {mask : List Part} {s0 s : State} (f : Dram → Dram) (hk : Kept mask s0 s)
    (hsub : [.dram] ⊆ mask) : Kept mask s0 (modDram f s) := by
  unfold modDram
  try extract_lets -underBinder
  repeat' first
   | with_reducible assumption
   | exact sub_trans rfl hsub
   | intro _
   | with_reducible apply kept_ite
   | exact Or.inl (mem_of rfl hsub)
   | with_reducible exact Or.inr rfl
   | split
   | extract_lets -underBinder
   | (dsimp +zetaDelta only; split)
   | with_reducible apply kept_mk

theorem execMr4Read_kept (hot : Vector Bool 2) (cool : Vector Bool 2) (s : State) :
    ∃ t, execMr4Read hot cool s = .next t ∧ Kept [.dict] s t := by
  unfold execMr4Read
  refine ⟨_, rfl, ?_⟩
  have hk := Kept.refl [.dict] s
  have hsub : ([.dict] : List Part) ⊆ [.dict] := fun _ y => y
  try extract_lets -underBinder
  repeat' first
   | with_reducible assumption
   | exact sub_trans rfl hsub
   | intro _
   | with_reducible apply kept_ite
   | with_reducible apply live_kept
   | with_reducible apply setObj_kept
   | split
   | extract_lets -underBinder
   | (dsimp +zetaDelta only; split)

theorem setPages_kept {mask : List Part} {s0 s : State} (h : PageHolder) (n : Nat) (hk : Kept mask s0 s)
    (hsub : [.doms, .dram] ⊆ mask) : Kept mask s0 (setPages h n s) := by
  unfold setPages
  try extract_lets -underBinder
  repeat' first
   | with_reducible assumption
   | exact sub_trans rfl hsub
   | intro _
   | with_reducible apply kept_ite
   | with_reducible apply modDom_kept
   | with_reducible apply modDram_kept
   | split
   | extract_lets -underBinder
   | (dsimp +zetaDelta only; split)

theorem grantPage_kept {mask : List Part} {s0 s : State} (h : PageHolder) (block : Nat) (hk : Kept mask s0 s)
    (hsub : [.doms, .dram] ⊆ mask) : Kept mask s0 (grantPage h block s) := by
  unfold grantPage
  try extract_lets -underBinder
  repeat' first
   | with_reducible assumption
   | exact sub_trans rfl hsub
   | intro _
   | with_reducible apply kept_ite
   | with_reducible apply setPages_kept
   | with_reducible apply modDram_kept
   | with_reducible apply kept_id
   | split
   | extract_lets -underBinder
   | (dsimp +zetaDelta only; split)

theorem joinCommon_kept {mask : List Part} {s0 s : State} (w : PageWait) (hk : Kept mask s0 s)
    (hsub : [.dram] ⊆ mask) : Kept mask s0 (joinCommon w s) := by
  unfold joinCommon
  try extract_lets -underBinder
  repeat' first
   | with_reducible assumption
   | exact sub_trans rfl hsub
   | intro _
   | with_reducible apply kept_ite
   | with_reducible apply modDram_kept
   | split
   | extract_lets -underBinder
   | (dsimp +zetaDelta only; split)

theorem joinCeiling_kept {mask : List Part} {s0 s : State} (w : PageWait) (hk : Kept mask s0 s)
    (hsub : [.dram] ⊆ mask) : Kept mask s0 (joinCeiling w s) := by
  unfold joinCeiling
  try extract_lets -underBinder
  repeat' first
   | with_reducible assumption
   | exact sub_trans rfl hsub
   | intro _
   | with_reducible apply kept_ite
   | with_reducible apply modDram_kept
   | split
   | extract_lets -underBinder
   | (dsimp +zetaDelta only; split)

theorem countWait_kept {mask : List Part} {s0 s : State} (h : PageHolder) (hk : Kept mask s0 s)
    (hsub : [.dict] ⊆ mask) : Kept mask s0 (countWait h s) := by
  unfold countWait
  try extract_lets -underBinder
  repeat' first
   | with_reducible assumption
   | exact sub_trans rfl hsub
   | intro _
   | with_reducible apply kept_ite
   | with_reducible apply countWaitOf_kept
   | split
   | extract_lets -underBinder
   | (dsimp +zetaDelta only; split)

theorem requestReserve_kept {mask : List Part} {s0 s : State} (u : ReserveUse) (block : Nat) (hk : Kept mask s0 s)
    (hsub : [.doms, .dram] ⊆ mask) : Kept mask s0 (requestReserve u block s) := by
  unfold requestReserve
  try extract_lets -underBinder
  repeat' first
   | with_reducible assumption
   | exact sub_trans rfl hsub
   | intro _
   | with_reducible apply kept_ite
   | with_reducible apply grantPage_kept
   | split
   | extract_lets -underBinder
   | (dsimp +zetaDelta only; split)

theorem requestPage_kept {mask : List Part} {s0 s : State} (w : PageWait) (hk : Kept mask s0 s)
    (hsub : [.dict, .doms, .dram] ⊆ mask) : Kept mask s0 (requestPage w s) := by
  unfold requestPage
  try extract_lets -underBinder
  repeat' first
   | with_reducible assumption
   | exact sub_trans rfl hsub
   | intro _
   | with_reducible apply kept_ite
   | with_reducible apply requestReserve_kept
   | with_reducible apply grantPage_kept
   | with_reducible apply joinCeiling_kept
   | with_reducible apply countWait_kept
   | with_reducible apply joinCommon_kept
   | with_reducible apply kept_id
   | split
   | extract_lets -underBinder
   | (dsimp +zetaDelta only; split)

theorem execPageRequest_kept (reqs : List (PageHolder × BitVec 4)) (s : State) :
    ∃ t, execPageRequest reqs s = .next t ∧ Kept [.dict, .doms, .dram] s t := by
  unfold execPageRequest
  refine ⟨_, rfl, ?_⟩
  have hk := Kept.refl [.dict, .doms, .dram] s
  have hsub : ([.dict, .doms, .dram] : List Part) ⊆ [.dict, .doms, .dram] := fun _ y => y
  try extract_lets -underBinder
  repeat' first
   | with_reducible assumption
   | exact sub_trans rfl hsub
   | intro _
   | with_reducible apply kept_ite
   | with_reducible apply kept_foldl
   | with_reducible apply live_kept
   | with_reducible apply requestPage_kept
   | split
   | extract_lets -underBinder
   | (dsimp +zetaDelta only; split)

theorem serveWaiter_kept {mask : List Part} {s0 s : State} (w : PageWait) (hk : Kept mask s0 s)
    (hsub : [.dict, .doms, .ring, .dram, .comp] ⊆ mask) : Kept mask s0 (serveWaiter w s) := by
  unfold serveWaiter
  try extract_lets -underBinder
  repeat' first
   | with_reducible assumption
   | exact sub_trans rfl hsub
   | intro _
   | with_reducible apply kept_ite
   | with_reducible apply runPager_kept
   | with_reducible apply grantPage_kept
   | split
   | extract_lets -underBinder
   | (dsimp +zetaDelta only; split)

theorem serveCommon_kept {mask : List Part} {s0 s : State} (x0 : Nat) (hk : Kept mask s0 s)
    (hsub : [.dict, .doms, .ring, .dram, .comp] ⊆ mask) : Kept mask s0 (serveCommon x0 s) := by
  induction x0 generalizing s with
  | zero =>
    unfold serveCommon
    try extract_lets -underBinder
    repeat' first
     | with_reducible assumption
     | exact sub_trans rfl hsub
     | intro _
     | with_reducible apply kept_ite
     | with_reducible apply ih
     | with_reducible apply modDram_kept
     | with_reducible apply joinCeiling_kept
     | with_reducible apply serveWaiter_kept
     | split
     | extract_lets -underBinder
     | (dsimp +zetaDelta only; split)
  | succ n ih =>
    unfold serveCommon
    try extract_lets -underBinder
    repeat' first
     | with_reducible assumption
     | exact sub_trans rfl hsub
     | intro _
     | with_reducible apply kept_ite
     | with_reducible apply ih
     | with_reducible apply modDram_kept
     | with_reducible apply joinCeiling_kept
     | with_reducible apply serveWaiter_kept
     | split
     | extract_lets -underBinder
     | (dsimp +zetaDelta only; split)

theorem serveCeiling_kept {mask : List Part} {s0 s : State} (h : PageHolder) (hk : Kept mask s0 s)
    (hsub : [.dict, .doms, .ring, .dram, .comp] ⊆ mask) : Kept mask s0 (serveCeiling h s) := by
  unfold serveCeiling
  try extract_lets -underBinder
  repeat' first
   | with_reducible assumption
   | exact sub_trans rfl hsub
   | intro _
   | with_reducible apply kept_ite
   | with_reducible apply modDram_kept
   | with_reducible apply serveWaiter_kept
   | with_reducible apply joinCommon_kept
   | split
   | extract_lets -underBinder
   | (dsimp +zetaDelta only; split)

theorem servePages_kept {mask : List Part} {s0 s : State} (hk : Kept mask s0 s)
    (hsub : [.dict, .doms, .ring, .dram, .comp] ⊆ mask) : Kept mask s0 (servePages s) := by
  unfold servePages
  try extract_lets -underBinder
  repeat' first
   | with_reducible assumption
   | exact sub_trans rfl hsub
   | intro _
   | with_reducible apply kept_ite
   | with_reducible apply kept_foldl
   | with_reducible apply serveCeiling_kept
   | with_reducible apply serveCommon_kept
   | split
   | extract_lets -underBinder
   | (dsimp +zetaDelta only; split)

theorem dropPage_kept {mask : List Part} {s0 s : State} (h : PageHolder) (block : Nat) (hk : Kept mask s0 s)
    (hsub : [.doms, .dram] ⊆ mask) : Kept mask s0 (dropPage h block s) := by
  unfold dropPage
  try extract_lets -underBinder
  repeat' first
   | with_reducible assumption
   | exact sub_trans rfl hsub
   | intro _
   | with_reducible apply kept_ite
   | with_reducible apply setPages_kept
   | with_reducible apply modDram_kept
   | with_reducible apply kept_id
   | split
   | extract_lets -underBinder
   | (dsimp +zetaDelta only; split)

theorem retirePage_kept {mask : List Part} {s0 s : State} (page : Nat) (hk : Kept mask s0 s)
    (hsub : [.free, .dict, .ev, .ports, .doms, .dram, .opLog] ⊆ mask) : Kept mask s0 (retirePage page s) := by
  unfold retirePage
  try extract_lets -underBinder
  repeat' first
   | with_reducible assumption
   | exact sub_trans rfl hsub
   | intro _
   | with_reducible apply kept_ite
   | with_reducible apply bump_kept
   | with_reducible apply modDram_kept
   | with_reducible apply grantPage_kept
   | with_reducible apply setObj_kept
   | with_reducible apply postEvent_kept
   | with_reducible apply kept_id
   | split
   | extract_lets -underBinder
   | (dsimp +zetaDelta only; split)

theorem retireIfMarked_kept {mask : List Part} {s0 s : State} (page : Nat) (hk : Kept mask s0 s)
    (hsub : [.free, .dict, .ev, .ports, .doms, .dram, .opLog] ⊆ mask) : Kept mask s0 (retireIfMarked page s) := by
  unfold retireIfMarked
  try extract_lets -underBinder
  repeat' first
   | with_reducible assumption
   | exact sub_trans rfl hsub
   | intro _
   | with_reducible apply kept_ite
   | with_reducible apply retirePage_kept
   | split
   | extract_lets -underBinder
   | (dsimp +zetaDelta only; split)

theorem retireOf_kept {mask : List Part} {s0 s : State} (h : PageHolder) (hk : Kept mask s0 s)
    (hsub : [.free, .dict, .ev, .ports, .doms, .dram, .opLog] ⊆ mask) : Kept mask s0 (retireOf h s) := by
  unfold retireOf
  try extract_lets -underBinder
  repeat' first
   | with_reducible assumption
   | exact sub_trans rfl hsub
   | intro _
   | with_reducible apply kept_ite
   | with_reducible apply kept_foldl
   | with_reducible apply retirePage_kept
   | split
   | extract_lets -underBinder
   | (dsimp +zetaDelta only; split)

theorem releasePage_kept {mask : List Part} {s0 s : State} (h : PageHolder) (block : Nat) (page : Nat) (hk : Kept mask s0 s)
    (hsub : [.free, .dict, .ev, .ports, .doms, .ring, .dram, .comp, .opLog] ⊆ mask) : Kept mask s0 (releasePage h block page s) := by
  unfold releasePage
  try extract_lets -underBinder
  repeat' first
   | with_reducible assumption
   | exact sub_trans rfl hsub
   | intro _
   | with_reducible apply kept_ite
   | with_reducible apply dropPage_kept
   | with_reducible apply retireIfMarked_kept
   | with_reducible apply servePages_kept
   | with_reducible apply kept_id
   | split
   | extract_lets -underBinder
   | (dsimp +zetaDelta only; split)

theorem execPageRelease_kept (h : PageHolder) (block : BitVec 4) (page : Half) (s : State) :
    ∃ t, execPageRelease h block page s = .next t ∧ Kept [.free, .dict, .ev, .ports, .doms, .ring, .dram, .comp, .opLog] s t := by
  unfold execPageRelease
  refine ⟨_, rfl, ?_⟩
  have hk := Kept.refl [.free, .dict, .ev, .ports, .doms, .ring, .dram, .comp, .opLog] s
  have hsub : ([.free, .dict, .ev, .ports, .doms, .ring, .dram, .comp, .opLog] : List Part) ⊆ [.free, .dict, .ev, .ports, .doms, .ring, .dram, .comp, .opLog] := fun _ y => y
  try extract_lets -underBinder
  repeat' first
   | with_reducible assumption
   | exact sub_trans rfl hsub
   | intro _
   | with_reducible apply kept_ite
   | with_reducible apply live_kept
   | with_reducible apply releasePage_kept
   | split
   | extract_lets -underBinder
   | (dsimp +zetaDelta only; split)

theorem markPage_kept {mask : List Part} {s0 s : State} (page : Nat) (h : PageHolder) (hk : Kept mask s0 s)
    (hsub : [.dram] ⊆ mask) : Kept mask s0 (markPage page h s) := by
  unfold markPage
  try extract_lets -underBinder
  repeat' first
   | with_reducible assumption
   | exact sub_trans rfl hsub
   | intro _
   | with_reducible apply kept_ite
   | with_reducible apply modDram_kept
   | split
   | extract_lets -underBinder
   | (dsimp +zetaDelta only; split)

theorem countPage_kept {mask : List Part} {s0 s : State} (page : Nat) (n : Nat) (h : PageHolder) (hk : Kept mask s0 s)
    (hsub : [.dram] ⊆ mask) : Kept mask s0 (countPage page n h s) := by
  unfold countPage
  try extract_lets -underBinder
  repeat' first
   | with_reducible assumption
   | exact sub_trans rfl hsub
   | intro _
   | with_reducible apply kept_ite
   | with_reducible apply modDram_kept
   | with_reducible apply markPage_kept
   | split
   | extract_lets -underBinder
   | (dsimp +zetaDelta only; split)

theorem correctedLine_kept {mask : List Part} {s0 s : State} (line : Nat) (h : PageHolder) (hk : Kept mask s0 s)
    (hsub : [.dict, .dram] ⊆ mask) : Kept mask s0 (correctedLine line h s) := by
  unfold correctedLine
  try extract_lets -underBinder
  repeat' first
   | with_reducible assumption
   | exact sub_trans rfl hsub
   | intro _
   | with_reducible apply kept_ite
   | with_reducible apply bump_kept
   | with_reducible apply modDram_kept
   | with_reducible apply countPage_kept
   | with_reducible apply kept_id
   | split
   | extract_lets -underBinder
   | (dsimp +zetaDelta only; split)

theorem uncorrectableLine_kept {mask : List Part} {s0 s : State} (line : Nat) (h : PageHolder) (hk : Kept mask s0 s)
    (hsub : [.free, .dict, .ev, .ports, .dram, .opLog] ⊆ mask) : Kept mask s0 (uncorrectableLine line h s) := by
  unfold uncorrectableLine
  try extract_lets -underBinder
  repeat' first
   | with_reducible assumption
   | exact sub_trans rfl hsub
   | intro _
   | with_reducible apply kept_ite
   | with_reducible apply bump_kept
   | with_reducible apply setObj_kept
   | with_reducible apply countPage_kept
   | with_reducible apply postEvent_kept
   | with_reducible apply kept_id
   | split
   | extract_lets -underBinder
   | (dsimp +zetaDelta only; split)

theorem noteWait_kept {mask : List Part} {s0 s : State} (rank : Nat) (ns : Nat) (hk : Kept mask s0 s)
    (hsub : [.dict] ⊆ mask) : Kept mask s0 (noteWait rank ns s) := by
  unfold noteWait
  try extract_lets -underBinder
  repeat' first
   | with_reducible assumption
   | exact sub_trans rfl hsub
   | intro _
   | with_reducible apply kept_ite
   | with_reducible apply setObj_kept
   | split
   | extract_lets -underBinder
   | (dsimp +zetaDelta only; split)

theorem reArbitrate_kept {mask : List Part} {s0 s : State} (hk : Kept mask s0 s)
    (hsub : [.dram] ⊆ mask) : Kept mask s0 (reArbitrate s) := by
  unfold reArbitrate
  try extract_lets -underBinder
  repeat' first
   | with_reducible assumption
   | exact sub_trans rfl hsub
   | intro _
   | with_reducible apply kept_ite
   | with_reducible apply modDram_kept
   | split
   | extract_lets -underBinder
   | (dsimp +zetaDelta only; split)

theorem endTransfer_kept {mask : List Part} {s0 s : State} (hk : Kept mask s0 s)
    (hsub : [.dram] ⊆ mask) : Kept mask s0 (endTransfer s) := by
  unfold endTransfer
  try extract_lets -underBinder
  repeat' first
   | with_reducible assumption
   | exact sub_trans rfl hsub
   | intro _
   | with_reducible apply kept_ite
   | with_reducible apply reArbitrate_kept
   | with_reducible apply modDram_kept
   | split
   | extract_lets -underBinder
   | (dsimp +zetaDelta only; split)

theorem drainRequests_kept {mask : List Part} {s0 s : State} (x0 : Nat) (hk : Kept mask s0 s)
    (hsub : [.dram] ⊆ mask) : Kept mask s0 (drainRequests x0 s) := by
  induction x0 generalizing s with
  | zero =>
    unfold drainRequests
    try extract_lets -underBinder
    repeat' first
     | with_reducible assumption
     | exact sub_trans rfl hsub
     | intro _
     | with_reducible apply kept_ite
     | with_reducible apply ih
     | with_reducible apply endTransfer_kept
     | split
     | extract_lets -underBinder
     | (dsimp +zetaDelta only; split)
  | succ n ih =>
    unfold drainRequests
    try extract_lets -underBinder
    repeat' first
     | with_reducible assumption
     | exact sub_trans rfl hsub
     | intro _
     | with_reducible apply kept_ite
     | with_reducible apply ih
     | with_reducible apply endTransfer_kept
     | split
     | extract_lets -underBinder
     | (dsimp +zetaDelta only; split)

theorem askGrant_kept {mask : List Part} {s0 s : State} (t : Transfer) (hk : Kept mask s0 s)
    (hsub : [.dram] ⊆ mask) : Kept mask s0 (askGrant t s) := by
  unfold askGrant
  try extract_lets -underBinder
  repeat' first
   | with_reducible assumption
   | exact sub_trans rfl hsub
   | intro _
   | with_reducible apply kept_ite
   | with_reducible apply modDram_kept
   | with_reducible apply reArbitrate_kept
   | split
   | extract_lets -underBinder
   | (dsimp +zetaDelta only; split)

theorem execArbiterRequest_kept (rank : BitVec 4) (wait : Word) (line : BitVec 26) (lines : BitVec 5) (ended : Bool) (drained : Bool) (s : State) :
    ∃ t, execArbiterRequest rank wait line lines ended drained s = .next t ∧ Kept [.dict, .dram] s t := by
  unfold execArbiterRequest
  refine ⟨_, rfl, ?_⟩
  have hk := Kept.refl [.dict, .dram] s
  have hsub : ([.dict, .dram] : List Part) ⊆ [.dict, .dram] := fun _ y => y
  try extract_lets -underBinder
  repeat' first
   | with_reducible assumption
   | exact sub_trans rfl hsub
   | intro _
   | with_reducible apply kept_ite
   | with_reducible apply live_kept
   | with_reducible apply endTransfer_kept
   | with_reducible apply askGrant_kept
   | with_reducible apply noteWait_kept
   | with_reducible apply drainRequests_kept
   | with_reducible apply kept_id
   | split
   | extract_lets -underBinder
   | (dsimp +zetaDelta only; split)

theorem endGrant_kept {mask : List Part} {s0 s : State} (hk : Kept mask s0 s)
    (hsub : [.dram] ⊆ mask) : Kept mask s0 (endGrant s) := by
  unfold endGrant
  try extract_lets -underBinder
  repeat' first
   | with_reducible assumption
   | exact sub_trans rfl hsub
   | intro _
   | with_reducible apply kept_ite
   | with_reducible apply reArbitrate_kept
   | with_reducible apply modDram_kept
   | split
   | extract_lets -underBinder
   | (dsimp +zetaDelta only; split)

theorem endMasked_kept {mask : List Part} {s0 s : State} (hk : Kept mask s0 s)
    (hsub : [.dram] ⊆ mask) : Kept mask s0 (endMasked s) := by
  unfold endMasked
  try extract_lets -underBinder
  repeat' first
   | with_reducible assumption
   | exact sub_trans rfl hsub
   | intro _
   | with_reducible apply kept_ite
   | with_reducible apply endGrant_kept
   | split
   | extract_lets -underBinder
   | (dsimp +zetaDelta only; split)

theorem execArbiterWithdraw_kept (rank : BitVec 4) (s : State) :
    ∃ t, execArbiterWithdraw rank s = .next t ∧ Kept [.dram] s t := by
  unfold execArbiterWithdraw
  refine ⟨_, rfl, ?_⟩
  have hk := Kept.refl [.dram] s
  have hsub : ([.dram] : List Part) ⊆ [.dram] := fun _ y => y
  try extract_lets -underBinder
  repeat' first
   | with_reducible assumption
   | exact sub_trans rfl hsub
   | intro _
   | with_reducible apply kept_ite
   | with_reducible apply live_kept
   | with_reducible apply endGrant_kept
   | with_reducible apply modDram_kept
   | split
   | extract_lets -underBinder
   | (dsimp +zetaDelta only; split)

theorem execArbiterStarvation_kept (rank : BitVec 4) (wait : Word) (s : State) :
    ∃ t, execArbiterStarvation rank wait s = .next t ∧ Kept [.free, .dict, .ev, .ports, .dram, .opLog] s t := by
  unfold execArbiterStarvation
  refine ⟨_, rfl, ?_⟩
  have hk := Kept.refl [.free, .dict, .ev, .ports, .dram, .opLog] s
  have hsub : ([.free, .dict, .ev, .ports, .dram, .opLog] : List Part) ⊆ [.free, .dict, .ev, .ports, .dram, .opLog] := fun _ y => y
  try extract_lets -underBinder
  repeat' first
   | with_reducible assumption
   | exact sub_trans rfl hsub
   | intro _
   | with_reducible apply kept_ite
   | with_reducible apply live_kept
   | with_reducible apply modDram_kept
   | with_reducible apply noteWait_kept
   | with_reducible apply postEvent_kept
   | with_reducible apply kept_id
   | split
   | extract_lets -underBinder
   | (dsimp +zetaDelta only; split)

end Sys2Proof.Machine
end

