-- ==== Sys2Proof/Laws/KeptTape.lean ====
section
/-!
SUPPORT. What the operations of Machine/Tape.lean may touch, and that they keep the canonical forms.
-/
set_option linter.unusedTactic false
set_option linter.unreachableTactic false
set_option linter.unusedVariables false

namespace Sys2Proof.Machine

theorem modTape_kept {mask : List Part} {s0 s : State} (f : Cartridge → Cartridge) (hk : Kept mask s0 s)
    (hsub : [.cart] ⊆ mask) : Kept mask s0 (modTape f s) := by
  unfold modTape
  try extract_lets -underBinder
  repeat' first
   | with_reducible assumption
   | exact sub_trans rfl hsub
   | intro _
   | with_reducible apply kept_ite
   | exact Or.inl (mem_of rfl hsub)
   | with_reducible exact Or.inr rfl
   | split
   | extract_lets -underBinder
   | (dsimp +zetaDelta only; split)
   | with_reducible apply kept_mk

theorem writeStateBlock_kept {mask : List Part} {s0 s : State} (f : StateBlock → StateBlock) (hk : Kept mask s0 s)
    (hsub : [.cart] ⊆ mask) : Kept mask s0 (writeStateBlock f s) := by
  unfold writeStateBlock
  try extract_lets -underBinder
  repeat' first
   | with_reducible assumption
   | exact sub_trans rfl hsub
   | intro _
   | with_reducible apply kept_ite
   | with_reducible apply modTape_kept
   | split
   | extract_lets -underBinder
   | (dsimp +zetaDelta only; split)

theorem modCut_kept {mask : List Part} {s0 s : State} (serial : Nat) (f : Cut → Cut) (hk : Kept mask s0 s)
    (hsub : [.cart] ⊆ mask) : Kept mask s0 (modCut serial f s) := by
  unfold modCut
  try extract_lets -underBinder
  repeat' first
   | with_reducible assumption
   | exact sub_trans rfl hsub
   | intro _
   | with_reducible apply kept_ite
   | with_reducible apply modTape_kept
   | split
   | extract_lets -underBinder
   | (dsimp +zetaDelta only; split)

theorem putIndex_kept {mask : List Part} {s0 s : State} (d : Dom) (v : Nat) (g : Nat) (newest : Nat) (older : Nat) (hk : Kept mask s0 s)
    (hsub : [.cart] ⊆ mask) : Kept mask s0 (putIndex d v g newest older s) := by
  unfold putIndex
  try extract_lets -underBinder
  repeat' first
   | with_reducible assumption
   | exact sub_trans rfl hsub
   | intro _
   | with_reducible apply kept_ite
   | exact Or.inl (mem_of rfl hsub)
   | with_reducible exact Or.inr rfl
   | split
   | extract_lets -underBinder
   | (dsimp +zetaDelta only; split)
   | with_reducible apply kept_mk

theorem refreshCuts_kept {mask : List Part} {s0 s : State} (hk : Kept mask s0 s)
    (hsub : [.dict] ⊆ mask) : Kept mask s0 (refreshCuts s) := by
  unfold refreshCuts
  try extract_lets -underBinder
  repeat' first
   | with_reducible assumption
   | exact sub_trans rfl hsub
   | intro _
   | with_reducible apply kept_ite
   | with_reducible apply kept_foldl
   | with_reducible apply setObj_kept
   | with_reducible apply kept_id
   | split
   | extract_lets -underBinder
   | (dsimp +zetaDelta only; split)

end Sys2Proof.Machine
end

