-- ==== Sys2Proof/Laws/KeptCartOps.lean ====
section
/-!
SUPPORT. What the operations of Machine/CartOps.lean may touch, and that they keep the canonical forms.
-/
set_option linter.unusedTactic false
set_option linter.unreachableTactic false
set_option linter.unusedVariables false

namespace Sys2Proof.Machine

theorem enterCart_kept {mask : List Part} {s0 s : State} (st : CartState) (hk : Kept mask s0 s)
    (hsub : [.dict, .cart] ⊆ mask) : Kept mask s0 (enterCart st s) := by
  unfold enterCart
  try extract_lets -underBinder
  repeat' first
   | with_reducible assumption
   | exact sub_trans rfl hsub
   | intro _
   | with_reducible apply kept_ite
   | with_reducible apply bumpGen_kept
   | with_reducible apply kept_id
   | exact Or.inl (mem_of rfl hsub)
   | with_reducible exact Or.inr rfl
   | split
   | extract_lets -underBinder
   | (dsimp +zetaDelta only; split)
   | with_reducible apply kept_mk

theorem enterXport_kept {mask : List Part} {s0 s : State} (st : XportState) (hk : Kept mask s0 s)
    (hsub : [.dict, .xport] ⊆ mask) : Kept mask s0 (enterXport st s) := by
  unfold enterXport
  try extract_lets -underBinder
  repeat' first
   | with_reducible assumption
   | exact sub_trans rfl hsub
   | intro _
   | with_reducible apply kept_ite
   | with_reducible apply setObj_kept
   | with_reducible apply bumpGen_kept
   | with_reducible apply kept_id
   | exact Or.inl (mem_of rfl hsub)
   | with_reducible exact Or.inr rfl
   | split
   | extract_lets -underBinder
   | (dsimp +zetaDelta only; split)
   | with_reducible apply kept_mk

theorem followCart_kept {mask : List Part} {s0 s : State} (hk : Kept mask s0 s)
    (hsub : [.dict, .xport] ⊆ mask) : Kept mask s0 (followCart s) := by
  unfold followCart
  try extract_lets -underBinder
  repeat' first
   | with_reducible assumption
   | exact sub_trans rfl hsub
   | intro _
   | with_reducible apply kept_ite
   | with_reducible apply enterXport_kept
   | exact Or.inl (mem_of rfl hsub)
   | with_reducible exact Or.inr rfl
   | split
   | extract_lets -underBinder
   | (dsimp +zetaDelta only; split)
   | with_reducible apply kept_mk

theorem startThreading_kept {mask : List Part} {s0 s : State} (explicit : Bool) (hk : Kept mask s0 s)
    (hsub : [.free, .dict, .ev, .ports, .cart, .xport, .opLog] ⊆ mask) : Kept mask s0 (startThreading explicit s) := by
  unfold startThreading
  try extract_lets -underBinder
  repeat' first
   | with_reducible assumption
   | exact sub_trans rfl hsub
   | intro _
   | with_reducible apply kept_ite
   | with_reducible apply postEvent_kept
   | with_reducible apply enterCart_kept
   | with_reducible apply followCart_kept
   | with_reducible apply kept_id
   | split
   | extract_lets -underBinder
   | (dsimp +zetaDelta only; split)

theorem startUnloading_kept {mask : List Part} {s0 s : State} (push : Bool) (hk : Kept mask s0 s)
    (hsub : [.dict, .cart, .xport] ⊆ mask) : Kept mask s0 (startUnloading push s) := by
  unfold startUnloading
  try extract_lets -underBinder
  repeat' first
   | with_reducible assumption
   | exact sub_trans rfl hsub
   | intro _
   | with_reducible apply kept_ite
   | with_reducible apply enterCart_kept
   | with_reducible apply followCart_kept
   | with_reducible apply kept_id
   | exact Or.inl (mem_of rfl hsub)
   | with_reducible exact Or.inr rfl
   | split
   | extract_lets -underBinder
   | (dsimp +zetaDelta only; split)
   | with_reducible apply kept_mk

theorem startDraining_kept {mask : List Part} {s0 s : State} (g : DrainGoal) (hk : Kept mask s0 s)
    (hsub : [.dict, .cart] ⊆ mask) : Kept mask s0 (startDraining g s) := by
  unfold startDraining
  try extract_lets -underBinder
  repeat' first
   | with_reducible assumption
   | exact sub_trans rfl hsub
   | intro _
   | with_reducible apply kept_ite
   | with_reducible apply enterCart_kept
   | with_reducible apply kept_id
   | exact Or.inl (mem_of rfl hsub)
   | with_reducible exact Or.inr rfl
   | split
   | extract_lets -underBinder
   | (dsimp +zetaDelta only; split)
   | with_reducible apply kept_mk

theorem discardRing_kept {mask : List Part} {s0 s : State} (hk : Kept mask s0 s)
    (hsub : [.free, .dict, .ev, .ports, .doms, .ring, .comp, .opLog] ⊆ mask) : Kept mask s0 (discardRing s) := by
  unfold discardRing
  try extract_lets -underBinder
  repeat' first
   | with_reducible assumption
   | exact sub_trans rfl hsub
   | intro _
   | with_reducible apply kept_ite
   | with_reducible apply kept_foldl
   | with_reducible apply modDom_kept
   | with_reducible apply postEvent_kept
   | with_reducible apply kept_id
   | exact Or.inl (mem_of rfl hsub)
   | with_reducible exact Or.inr rfl
   | split
   | extract_lets -underBinder
   | (dsimp +zetaDelta only; split)
   | with_reducible apply kept_mk

theorem openFormat_kept {mask : List Part} {s0 s : State} (hk : Kept mask s0 s)
    (hsub : [.dict, .cart, .jour, .opLog] ⊆ mask) : Kept mask s0 (openFormat s) := by
  unfold openFormat
  try extract_lets -underBinder
  repeat' first
   | with_reducible assumption
   | exact sub_trans rfl hsub
   | intro _
   | with_reducible apply kept_ite
   | with_reducible apply writeStateBlock_kept
   | with_reducible apply setObj_kept
   | with_reducible apply kept_id
   | exact Or.inl (mem_of rfl hsub)
   | with_reducible exact Or.inr rfl
   | split
   | extract_lets -underBinder
   | (dsimp +zetaDelta only; split)
   | with_reducible apply kept_mk

theorem startFormat_kept {mask : List Part} {s0 s : State} (resume : Bool) (hk : Kept mask s0 s)
    (hsub : [.dict, .cart, .jour, .opLog] ⊆ mask) : Kept mask s0 (startFormat resume s) := by
  unfold startFormat
  try extract_lets -underBinder
  repeat' first
   | with_reducible assumption
   | exact sub_trans rfl hsub
   | intro _
   | with_reducible apply kept_ite
   | with_reducible apply openFormat_kept
   | with_reducible apply enterCart_kept
   | with_reducible apply setObj_kept
   | with_reducible apply kept_id
   | exact Or.inl (mem_of rfl hsub)
   | with_reducible exact Or.inr rfl
   | split
   | extract_lets -underBinder
   | (dsimp +zetaDelta only; split)
   | with_reducible apply kept_mk

theorem cartAction_kept {mask : List Part} {s0 s : State} (a : CartAction) (hk : Kept mask s0 s)
    (hsub : [.free, .dict, .ev, .ports, .doms, .ring, .comp, .cart, .xport, .jour, .opLog] ⊆ mask) : Kept mask s0 (cartAction a s) := by
  unfold cartAction
  try extract_lets -underBinder
  repeat' first
   | with_reducible assumption
   | exact sub_trans rfl hsub
   | intro _
   | with_reducible apply kept_ite
   | with_reducible apply startThreading_kept
   | with_reducible apply startDraining_kept
   | with_reducible apply startUnloading_kept
   | with_reducible apply startFormat_kept
   | with_reducible apply discardRing_kept
   | with_reducible apply enterCart_kept
   | with_reducible apply kept_id
   | split
   | extract_lets -underBinder
   | (dsimp +zetaDelta only; split)

end Sys2Proof.Machine
end

