-- ==== Sys2Proof/Laws/KeptPortOps.lean ====
section
/-!
SUPPORT. What the operations of Machine/PortOps.lean may touch, and that they keep the canonical forms.
-/
set_option linter.unusedTactic false
set_option linter.unreachableTactic false
set_option linter.unusedVariables false

namespace Sys2Proof.Machine

theorem takeLaneConfig_kept {mask : List Part} {s0 s : State} (p : PortId) (hk : Kept mask s0 s)
    (hsub : [.ports] ⊆ mask) : Kept mask s0 (takeLaneConfig p s) := by
  unfold takeLaneConfig
  try extract_lets -underBinder
  repeat' first
   | with_reducible assumption
   | exact sub_trans rfl hsub
   | intro _
   | with_reducible apply kept_ite
   | with_reducible apply modPort_kept
   | split
   | extract_lets -underBinder
   | (dsimp +zetaDelta only; split)

theorem takeLinkConfig_kept {mask : List Part} {s0 s : State} (p : PortId) (hk : Kept mask s0 s)
    (hsub : [.ports] ⊆ mask) : Kept mask s0 (takeLinkConfig p s) := by
  unfold takeLinkConfig
  try extract_lets -underBinder
  repeat' first
   | with_reducible assumption
   | exact sub_trans rfl hsub
   | intro _
   | with_reducible apply kept_ite
   | with_reducible apply takeLaneConfig_kept
   | with_reducible apply modPort_kept
   | with_reducible apply kept_id
   | split
   | extract_lets -underBinder
   | (dsimp +zetaDelta only; split)

theorem fullTraining_kept {mask : List Part} {s0 s : State} (p : PortId) (keep : Bool) (force : Bool) (hk : Kept mask s0 s)
    (hsub : [.dict, .ports] ⊆ mask) : Kept mask s0 (fullTraining p keep force s) := by
  unfold fullTraining
  try extract_lets -underBinder
  repeat' first
   | with_reducible assumption
   | exact sub_trans rfl hsub
   | intro _
   | with_reducible apply kept_ite
   | with_reducible apply takeLinkConfig_kept
   | with_reducible apply modLanes_kept
   | with_reducible apply modPort_kept
   | with_reducible apply enterPort_kept
   | with_reducible apply kept_id
   | split
   | extract_lets -underBinder
   | (dsimp +zetaDelta only; split)

theorem linkDown_kept {mask : List Part} {s0 s : State} (p : PortId) (keep : Bool) (hk : Kept mask s0 s)
    (hsub : [.free, .dict, .ev, .ports, .opLog] ⊆ mask) : Kept mask s0 (linkDown p keep s) := by
  unfold linkDown
  try extract_lets -underBinder
  repeat' first
   | with_reducible assumption
   | exact sub_trans rfl hsub
   | intro _
   | with_reducible apply kept_ite
   | with_reducible apply modPort_kept
   | with_reducible apply fullTraining_kept
   | with_reducible apply postEvent_kept
   | with_reducible apply kept_id
   | split
   | extract_lets -underBinder
   | (dsimp +zetaDelta only; split)

theorem reportWidth_kept {mask : List Part} {s0 s : State} (p : PortId) (code : Nat) (w : Nat) (hk : Kept mask s0 s)
    (hsub : [.free, .dict, .ev, .ports, .opLog] ⊆ mask) : Kept mask s0 (reportWidth p code w s) := by
  unfold reportWidth
  try extract_lets -underBinder
  repeat' first
   | with_reducible assumption
   | exact sub_trans rfl hsub
   | intro _
   | with_reducible apply kept_ite
   | with_reducible apply modPort_kept
   | with_reducible apply postEvent_kept
   | with_reducible apply kept_id
   | split
   | extract_lets -underBinder
   | (dsimp +zetaDelta only; split)

theorem narrow_kept {mask : List Part} {s0 s : State} (p : PortId) (hk : Kept mask s0 s)
    (hsub : [.free, .dict, .ev, .ports, .opLog] ⊆ mask) : Kept mask s0 (narrow p s) := by
  unfold narrow
  try extract_lets -underBinder
  repeat' first
   | with_reducible assumption
   | exact sub_trans rfl hsub
   | intro _
   | with_reducible apply kept_ite
   | with_reducible apply linkDown_kept
   | with_reducible apply setPort_kept
   | with_reducible apply reportWidth_kept
   | split
   | extract_lets -underBinder
   | (dsimp +zetaDelta only; split)

theorem portLost_kept {mask : List Part} {s0 s : State} (p : PortId) (hk : Kept mask s0 s)
    (hsub : [.free, .dict, .ev, .ports, .opLog] ⊆ mask) : Kept mask s0 (portLost p s) := by
  unfold portLost
  try extract_lets -underBinder
  repeat' first
   | with_reducible assumption
   | exact sub_trans rfl hsub
   | intro _
   | with_reducible apply kept_ite
   | with_reducible apply modPort_kept
   | with_reducible apply modLanes_kept
   | with_reducible apply enterPort_kept
   | with_reducible apply postEvent_kept
   | with_reducible apply linkDown_kept
   | with_reducible apply kept_id
   | split
   | extract_lets -underBinder
   | (dsimp +zetaDelta only; split)

theorem laneLost_kept {mask : List Part} {s0 s : State} (p : PortId) (l : Lane) (hk : Kept mask s0 s)
    (hsub : [.free, .dict, .ev, .ports, .opLog] ⊆ mask) : Kept mask s0 (laneLost p l s) := by
  unfold laneLost
  try extract_lets -underBinder
  repeat' first
   | with_reducible assumption
   | exact sub_trans rfl hsub
   | intro _
   | with_reducible apply kept_ite
   | with_reducible apply modLane_kept
   | with_reducible apply narrow_kept
   | with_reducible apply portLost_kept
   | split
   | extract_lets -underBinder
   | (dsimp +zetaDelta only; split)

theorem settleUp_kept {mask : List Part} {s0 s : State} (p : PortId) (hk : Kept mask s0 s)
    (hsub : [.free, .dict, .ev, .ports, .opLog] ⊆ mask) : Kept mask s0 (settleUp p s) := by
  unfold settleUp
  try extract_lets -underBinder
  repeat' first
   | with_reducible assumption
   | exact sub_trans rfl hsub
   | intro _
   | with_reducible apply kept_ite
   | with_reducible apply portLost_kept
   | with_reducible apply narrow_kept
   | split
   | extract_lets -underBinder
   | (dsimp +zetaDelta only; split)

theorem trainFailed_kept {mask : List Part} {s0 s : State} (p : PortId) (phase : LaneState) (hk : Kept mask s0 s)
    (hsub : [.free, .dict, .ev, .ports, .opLog] ⊆ mask) : Kept mask s0 (trainFailed p phase s) := by
  unfold trainFailed
  try extract_lets -underBinder
  repeat' first
   | with_reducible assumption
   | exact sub_trans rfl hsub
   | intro _
   | with_reducible apply kept_ite
   | with_reducible apply modPort_kept
   | with_reducible apply enterPort_kept
   | with_reducible apply postEvent_kept
   | with_reducible apply kept_id
   | split
   | extract_lets -underBinder
   | (dsimp +zetaDelta only; split)

theorem laneFallback_kept {mask : List Part} {s0 s : State} (p : PortId) (l : Lane) (hk : Kept mask s0 s)
    (hsub : [.free, .dict, .ev, .ports, .opLog] ⊆ mask) : Kept mask s0 (laneFallback p l s) := by
  unfold laneFallback
  try extract_lets -underBinder
  repeat' first
   | with_reducible assumption
   | exact sub_trans rfl hsub
   | intro _
   | with_reducible apply kept_ite
   | with_reducible apply modLane_kept
   | with_reducible apply trainFailed_kept
   | with_reducible apply kept_id
   | split
   | extract_lets -underBinder
   | (dsimp +zetaDelta only; split)

theorem enablePort_kept {mask : List Part} {s0 s : State} (p : PortId) (hk : Kept mask s0 s)
    (hsub : [.dict, .ports] ⊆ mask) : Kept mask s0 (enablePort p s) := by
  unfold enablePort
  try extract_lets -underBinder
  repeat' first
   | with_reducible assumption
   | exact sub_trans rfl hsub
   | intro _
   | with_reducible apply kept_ite
   | with_reducible apply modPort_kept
   | with_reducible apply modLanes_kept
   | with_reducible apply enterPort_kept
   | with_reducible apply kept_id
   | split
   | extract_lets -underBinder
   | (dsimp +zetaDelta only; split)

theorem disablePort_kept {mask : List Part} {s0 s : State} (p : PortId) (hk : Kept mask s0 s)
    (hsub : [.dict, .ports] ⊆ mask) : Kept mask s0 (disablePort p s) := by
  unfold disablePort
  try extract_lets -underBinder
  repeat' first
   | with_reducible assumption
   | exact sub_trans rfl hsub
   | intro _
   | with_reducible apply kept_ite
   | with_reducible apply modLanes_kept
   | with_reducible apply modPort_kept
   | with_reducible apply enterPort_kept
   | with_reducible apply kept_id
   | split
   | extract_lets -underBinder
   | (dsimp +zetaDelta only; split)

theorem enterLoopback_kept {mask : List Part} {s0 s : State} (p : PortId) (m : LoopMode) (hk : Kept mask s0 s)
    (hsub : [.dict, .ports] ⊆ mask) : Kept mask s0 (enterLoopback p m s) := by
  unfold enterLoopback
  try extract_lets -underBinder
  repeat' first
   | with_reducible assumption
   | exact sub_trans rfl hsub
   | intro _
   | with_reducible apply kept_ite
   | with_reducible apply takeLaneConfig_kept
   | with_reducible apply modLanes_kept
   | with_reducible apply modPort_kept
   | with_reducible apply enterPort_kept
   | with_reducible apply kept_id
   | split
   | extract_lets -underBinder
   | (dsimp +zetaDelta only; split)

theorem enterIdle_kept {mask : List Part} {s0 s : State} (p : PortId) (hk : Kept mask s0 s)
    (hsub : [.free, .dict, .ev, .ports, .opLog] ⊆ mask) : Kept mask s0 (enterIdle p s) := by
  unfold enterIdle
  try extract_lets -underBinder
  repeat' first
   | with_reducible assumption
   | exact sub_trans rfl hsub
   | intro _
   | with_reducible apply kept_ite
   | with_reducible apply postEvent_kept
   | with_reducible apply modLanes_kept
   | with_reducible apply modPort_kept
   | with_reducible apply enterPort_kept
   | with_reducible apply kept_id
   | split
   | extract_lets -underBinder
   | (dsimp +zetaDelta only; split)

theorem startIdle_kept {mask : List Part} {s0 s : State} (p : PortId) (hk : Kept mask s0 s)
    (hsub : [.dict, .ports] ⊆ mask) : Kept mask s0 (startIdle p s) := by
  unfold startIdle
  try extract_lets -underBinder
  repeat' first
   | with_reducible assumption
   | exact sub_trans rfl hsub
   | intro _
   | with_reducible apply kept_ite
   | with_reducible apply modPort_kept
   | with_reducible apply enterPort_kept
   | with_reducible apply kept_id
   | split
   | extract_lets -underBinder
   | (dsimp +zetaDelta only; split)

theorem cancelIdle_kept {mask : List Part} {s0 s : State} (p : PortId) (hk : Kept mask s0 s)
    (hsub : [.free, .dict, .ev, .ports, .opLog] ⊆ mask) : Kept mask s0 (cancelIdle p s) := by
  unfold cancelIdle
  try extract_lets -underBinder
  repeat' first
   | with_reducible assumption
   | exact sub_trans rfl hsub
   | intro _
   | with_reducible apply kept_ite
   | with_reducible apply modPort_kept
   | with_reducible apply enterPort_kept
   | with_reducible apply raiseLimits_kept
   | with_reducible apply settleUp_kept
   | with_reducible apply kept_id
   | split
   | extract_lets -underBinder
   | (dsimp +zetaDelta only; split)

theorem leaveP2_kept {mask : List Part} {s0 s : State} (hk : Kept mask s0 s)
    (hsub : [.dict] ⊆ mask) : Kept mask s0 (leaveP2 s) := by
  unfold leaveP2
  try extract_lets -underBinder
  repeat' first
   | with_reducible assumption
   | exact sub_trans rfl hsub
   | intro _
   | with_reducible apply kept_ite
   | with_reducible apply setObj_kept
   | split
   | extract_lets -underBinder
   | (dsimp +zetaDelta only; split)

end Sys2Proof.Machine
end

