-- ==== Sys2Proof/Laws/KeptFrames.lean ====
section
/-!
SUPPORT. What the operations of Machine/Frames.lean may touch, and that they keep the canonical forms.
-/
set_option linter.unusedTactic false
set_option linter.unreachableTactic false
set_option linter.unusedVariables false

namespace Sys2Proof.Machine

theorem protocolError_kept {mask : List Part} {s0 s : State} (p : PortId) (type : Nat) (cause : Nat) (hk : Kept mask s0 s)
    (hsub : [.free, .dict, .ev, .ports, .opLog] ⊆ mask) : Kept mask s0 (protocolError p type cause s) := by
  unfold protocolError
  try extract_lets -underBinder
  repeat' first
   | with_reducible assumption
   | exact sub_trans rfl hsub
   | intro _
   | with_reducible apply kept_ite
   | with_reducible apply bump_kept
   | with_reducible apply postEvent_kept
   | with_reducible apply kept_id
   | split
   | extract_lets -underBinder
   | (dsimp +zetaDelta only; split)

theorem stompCopy_kept {mask : List Part} {s0 s : State} (p : PortId) (h : FrameHeader) (msgs : List RxMsg) (hk : Kept mask s0 s)
    (hsub : [.ports] ⊆ mask) : Kept mask s0 (stompCopy p h msgs s) := by
  unfold stompCopy
  try extract_lets -underBinder
  repeat' first
   | with_reducible assumption
   | exact sub_trans rfl hsub
   | intro _
   | with_reducible apply kept_ite
   | with_reducible apply modPort_kept
   | split
   | extract_lets -underBinder
   | (dsimp +zetaDelta only; split)

theorem nakOnce_kept {mask : List Part} {s0 s : State} (p : PortId) (reason : Nat) (hk : Kept mask s0 s)
    (hsub : [.dict, .ports] ⊆ mask) : Kept mask s0 (nakOnce p reason s) := by
  unfold nakOnce
  try extract_lets -underBinder
  repeat' first
   | with_reducible assumption
   | exact sub_trans rfl hsub
   | intro _
   | with_reducible apply kept_ite
   | with_reducible apply modPort_kept
   | with_reducible apply bump_kept
   | with_reducible apply kept_id
   | split
   | extract_lets -underBinder
   | (dsimp +zetaDelta only; split)

theorem bufferFrame_kept {mask : List Part} {s0 s : State} (p : PortId) (h : FrameHeader) (msgs : List RxMsg)
    (hk : Kept mask s0 s) (hsub : [.free, .dict, .ev, .ports, .opLog] ⊆ mask) : Kept mask s0 (bufferFrame p h msgs s).2 := by
  unfold bufferFrame
  exact kept_foldl _ (setPort_kept _ _ hk (sub_trans rfl hsub)) (fun _ _ ht => protocolError_kept _ _ _ ht (sub_trans rfl hsub))

theorem consumeFrame_kept {mask : List Part} {s0 s : State} (p : PortId) (h : FrameHeader) (msgs : List RxMsg) (hk : Kept mask s0 s)
    (hsub : [.free, .dict, .ev, .ports, .opLog] ⊆ mask) : Kept mask s0 (consumeFrame p h msgs s) := by
  unfold consumeFrame
  try extract_lets -underBinder
  repeat' first
   | with_reducible assumption
   | exact sub_trans rfl hsub
   | intro _
   | with_reducible apply kept_ite
   | with_reducible apply raiseLimits_kept
   | with_reducible apply bufferFrame_kept
   | split
   | extract_lets -underBinder
   | (dsimp +zetaDelta only; split)

theorem forwardFrame_kept {mask : List Part} {s0 s : State} (p : PortId) (h : FrameHeader) (msgs : List RxMsg) (hk : Kept mask s0 s)
    (hsub : [.free, .dict, .ev, .ports, .opLog] ⊆ mask) : Kept mask s0 (forwardFrame p h msgs s) := by
  unfold forwardFrame
  try extract_lets -underBinder
  repeat' first
   | with_reducible assumption
   | exact sub_trans rfl hsub
   | intro _
   | with_reducible apply kept_ite
   | with_reducible apply kept_foldl
   | with_reducible apply bufferFrame_kept
   | with_reducible apply postEvent_kept
   | with_reducible apply raiseLimits_kept
   | with_reducible apply sendMsg_kept
   | split
   | extract_lets -underBinder
   | (dsimp +zetaDelta only; split)

theorem dropFrame_kept {mask : List Part} {s0 s : State} (p : PortId) (h : FrameHeader) (hk : Kept mask s0 s)
    (hsub : [.dict, .ports] ⊆ mask) : Kept mask s0 (dropFrame p h s) := by
  unfold dropFrame
  try extract_lets -underBinder
  repeat' first
   | with_reducible assumption
   | exact sub_trans rfl hsub
   | intro _
   | with_reducible apply kept_ite
   | with_reducible apply modPort_kept
   | with_reducible apply bump_kept
   | with_reducible apply raiseLimits_kept
   | with_reducible apply kept_id
   | split
   | extract_lets -underBinder
   | (dsimp +zetaDelta only; split)

theorem acceptFrame_kept {mask : List Part} {s0 s : State} (p : PortId) (h : FrameHeader) (msgs : List RxMsg) (hk : Kept mask s0 s)
    (hsub : [.free, .dict, .ev, .ports, .opLog] ⊆ mask) : Kept mask s0 (acceptFrame p h msgs s) := by
  unfold acceptFrame
  try extract_lets -underBinder
  repeat' first
   | with_reducible assumption
   | exact sub_trans rfl hsub
   | intro _
   | with_reducible apply kept_ite
   | with_reducible apply setPort_kept
   | with_reducible apply cancelIdle_kept
   | with_reducible apply consumeFrame_kept
   | with_reducible apply forwardFrame_kept
   | with_reducible apply dropFrame_kept
   | split
   | extract_lets -underBinder
   | (dsimp +zetaDelta only; split)

theorem controlFrame_kept {mask : List Part} {s0 s : State} (p : PortId) (h : FrameHeader) (msgs : List RxMsg) (hk : Kept mask s0 s)
    (hsub : [.free, .dict, .ev, .ports, .opLog] ⊆ mask) : Kept mask s0 (controlFrame p h msgs s) := by
  unfold controlFrame
  try extract_lets -underBinder
  repeat' first
   | with_reducible assumption
   | exact sub_trans rfl hsub
   | intro _
   | with_reducible apply kept_ite
   | with_reducible apply protocolError_kept
   | split
   | extract_lets -underBinder
   | (dsimp +zetaDelta only; split)

theorem frameArrives_kept {mask : List Part} {s0 s : State} (p : PortId) (quality : FrameQuality) (h : FrameHeader) (msgs : List RxMsg) (hk : Kept mask s0 s)
    (hsub : [.free, .dict, .ev, .ports, .opLog] ⊆ mask) : Kept mask s0 (frameArrives p quality h msgs s) := by
  unfold frameArrives
  try extract_lets -underBinder
  repeat' first
   | with_reducible assumption
   | exact sub_trans rfl hsub
   | intro _
   | with_reducible apply kept_ite
   | with_reducible apply bump_kept
   | with_reducible apply stompCopy_kept
   | with_reducible apply nakOnce_kept
   | with_reducible apply controlFrame_kept
   | with_reducible apply acceptFrame_kept
   | with_reducible apply setPort_kept
   | with_reducible apply kept_id
   | split
   | extract_lets -underBinder
   | (dsimp +zetaDelta only; split)

theorem loopFrame_kept {mask : List Part} {s0 s : State} (p : PortId) (quality : FrameQuality) (h : FrameHeader) (hk : Kept mask s0 s)
    (hsub : [.dict] ⊆ mask) : Kept mask s0 (loopFrame p quality h s) := by
  unfold loopFrame
  try extract_lets -underBinder
  repeat' first
   | with_reducible assumption
   | exact sub_trans rfl hsub
   | intro _
   | with_reducible apply kept_ite
   | with_reducible apply bump_kept
   | split
   | extract_lets -underBinder
   | (dsimp +zetaDelta only; split)

theorem execLinkFrameReceived_kept (p : PortId) (s : State) :
    ∃ t, execLinkFrameReceived p s = .next t ∧ Kept [.free, .dict, .ev, .ports, .opLog] s t := by
  unfold execLinkFrameReceived
  refine ⟨_, rfl, ?_⟩
  have hk := Kept.refl [.free, .dict, .ev, .ports, .opLog] s
  have hsub : ([.free, .dict, .ev, .ports, .opLog] : List Part) ⊆ [.free, .dict, .ev, .ports, .opLog] := fun _ y => y
  try extract_lets -underBinder
  repeat' first
   | with_reducible assumption
   | exact sub_trans rfl hsub
   | intro _
   | with_reducible apply kept_ite
   | with_reducible apply live_kept
   | with_reducible apply frameArrives_kept
   | with_reducible apply loopFrame_kept
   | split
   | extract_lets -underBinder
   | (dsimp +zetaDelta only; split)

theorem execEnumerationFrame_kept (d : Dom) (dest : Byte) (addr : Word) (value : Word) (reqId : Byte) (s : State) :
    ∃ t, execEnumerationFrame d dest addr value reqId s = .next t ∧ Kept [.dict, .ports] s t := by
  unfold execEnumerationFrame
  refine ⟨_, rfl, ?_⟩
  have hk := Kept.refl [.dict, .ports] s
  have hsub : ([.dict, .ports] : List Part) ⊆ [.dict, .ports] := fun _ y => y
  try extract_lets -underBinder
  repeat' first
   | with_reducible assumption
   | exact sub_trans rfl hsub
   | intro _
   | with_reducible apply kept_ite
   | with_reducible apply live_kept
   | with_reducible apply returnAdmin_kept
   | with_reducible apply setObj_kept
   | with_reducible apply sendMsg_kept
   | with_reducible apply kept_id
   | split
   | extract_lets -underBinder
   | (dsimp +zetaDelta only; split)

theorem execAck_kept (p : PortId) (seq : Half) (s : State) :
    ∃ t, execAck p seq s = .next t ∧ Kept [.ports] s t := by
  unfold execAck
  refine ⟨_, rfl, ?_⟩
  have hk := Kept.refl [.ports] s
  have hsub : ([.ports] : List Part) ⊆ [.ports] := fun _ y => y
  try extract_lets -underBinder
  repeat' first
   | with_reducible assumption
   | exact sub_trans rfl hsub
   | intro _
   | with_reducible apply kept_ite
   | with_reducible apply live_kept
   | with_reducible apply modPort_kept
   | split
   | extract_lets -underBinder
   | (dsimp +zetaDelta only; split)

theorem replayFrom_kept {mask : List Part} {s0 s : State} (p : PortId) (seq : Nat) (hk : Kept mask s0 s)
    (hsub : [.free, .dict, .ev, .ports, .opLog] ⊆ mask) : Kept mask s0 (replayFrom p seq s) := by
  unfold replayFrom
  try extract_lets -underBinder
  repeat' first
   | with_reducible assumption
   | exact sub_trans rfl hsub
   | intro _
   | with_reducible apply kept_ite
   | with_reducible apply setPort_kept
   | with_reducible apply bump_kept
   | with_reducible apply postEvent_kept
   | with_reducible apply kept_id
   | split
   | extract_lets -underBinder
   | (dsimp +zetaDelta only; split)

theorem execNak_kept (p : PortId) (seq : Half) (_reason : Byte) (s : State) :
    ∃ t, execNak p seq _reason s = .next t ∧ Kept [.free, .dict, .ev, .ports, .opLog] s t := by
  unfold execNak
  refine ⟨_, rfl, ?_⟩
  have hk := Kept.refl [.free, .dict, .ev, .ports, .opLog] s
  have hsub : ([.free, .dict, .ev, .ports, .opLog] : List Part) ⊆ [.free, .dict, .ev, .ports, .opLog] := fun _ y => y
  try extract_lets -underBinder
  repeat' first
   | with_reducible assumption
   | exact sub_trans rfl hsub
   | intro _
   | with_reducible apply kept_ite
   | with_reducible apply live_kept
   | with_reducible apply replayFrom_kept
   | split
   | extract_lets -underBinder
   | (dsimp +zetaDelta only; split)

theorem execReplayTimeout_kept (p : PortId) (s : State) :
    ∃ t, execReplayTimeout p s = .next t ∧ Kept [.free, .dict, .ev, .ports, .opLog] s t := by
  unfold execReplayTimeout
  refine ⟨_, rfl, ?_⟩
  have hk := Kept.refl [.free, .dict, .ev, .ports, .opLog] s
  have hsub : ([.free, .dict, .ev, .ports, .opLog] : List Part) ⊆ [.free, .dict, .ev, .ports, .opLog] := fun _ y => y
  try extract_lets -underBinder
  repeat' first
   | with_reducible assumption
   | exact sub_trans rfl hsub
   | intro _
   | with_reducible apply kept_ite
   | with_reducible apply live_kept
   | with_reducible apply replayFrom_kept
   | split
   | extract_lets -underBinder
   | (dsimp +zetaDelta only; split)

theorem execCreditRefresh_kept (p : PortId) (s : State) :
    ∃ t, execCreditRefresh p s = .next t ∧ Kept [.ports] s t := by
  unfold execCreditRefresh
  refine ⟨_, rfl, ?_⟩
  have hk := Kept.refl [.ports] s
  have hsub : ([.ports] : List Part) ⊆ [.ports] := fun _ y => y
  try extract_lets -underBinder
  repeat' first
   | with_reducible assumption
   | exact sub_trans rfl hsub
   | intro _
   | with_reducible apply kept_ite
   | with_reducible apply live_kept
   | with_reducible apply raiseLimits_kept
   | with_reducible apply modPort_kept
   | with_reducible apply kept_id
   | split
   | extract_lets -underBinder
   | (dsimp +zetaDelta only; split)

end Sys2Proof.Machine
end

