-- ==== Sys2Proof/Laws/KeptPowerOps.lean ====
section
/-!
SUPPORT. What the operations of Machine/PowerOps.lean may touch, and that they keep the canonical forms.
-/
set_option linter.unusedTactic false
set_option linter.unreachableTactic false
set_option linter.unusedVariables false

namespace Sys2Proof.Machine

theorem setPowerState_kept {mask : List Part} {s0 s : State} (now : Nat) (toward : Nat) (hk : Kept mask s0 s)
    (hsub : [.dict] ⊆ mask) : Kept mask s0 (setPowerState now toward s) := by
  unfold setPowerState
  try extract_lets -underBinder
  repeat' first
   | with_reducible assumption
   | exact sub_trans rfl hsub
   | intro _
   | with_reducible apply kept_ite
   | with_reducible apply setObj_kept
   | split
   | extract_lets -underBinder
   | (dsimp +zetaDelta only; split)

theorem askIdle_kept {mask : List Part} {s0 s : State} (hk : Kept mask s0 s)
    (hsub : [.dict, .ports] ⊆ mask) : Kept mask s0 (askIdle s) := by
  unfold askIdle
  try extract_lets -underBinder
  repeat' first
   | with_reducible assumption
   | exact sub_trans rfl hsub
   | intro _
   | with_reducible apply kept_ite
   | with_reducible apply kept_foldl
   | with_reducible apply startIdle_kept
   | split
   | extract_lets -underBinder
   | (dsimp +zetaDelta only; split)

theorem wakePorts_kept {mask : List Part} {s0 s : State} (hk : Kept mask s0 s)
    (hsub : [.free, .dict, .ev, .ports, .opLog] ⊆ mask) : Kept mask s0 (wakePorts s) := by
  unfold wakePorts
  try extract_lets -underBinder
  repeat' first
   | with_reducible assumption
   | exact sub_trans rfl hsub
   | intro _
   | with_reducible apply kept_ite
   | with_reducible apply kept_foldl
   | with_reducible apply cancelIdle_kept
   | with_reducible apply idleExit_kept
   | split
   | extract_lets -underBinder
   | (dsimp +zetaDelta only; split)

theorem pollPower_kept {mask : List Part} {s0 s : State} (hk : Kept mask s0 s)
    (hsub : [.free, .dict, .ev, .ports, .sched, .opLog] ⊆ mask) : Kept mask s0 (pollPower s) := by
  unfold pollPower
  try extract_lets -underBinder
  repeat' first
   | with_reducible assumption
   | exact sub_trans rfl hsub
   | intro _
   | with_reducible apply kept_ite
   | with_reducible apply setPowerState_kept
   | with_reducible apply askIdle_kept
   | with_reducible apply wakePorts_kept
   | with_reducible apply kept_id
   | exact Or.inl (mem_of rfl hsub)
   | with_reducible exact Or.inr rfl
   | split
   | extract_lets -underBinder
   | (dsimp +zetaDelta only; split)
   | with_reducible apply kept_mk

end Sys2Proof.Machine
end

