-- ==== Sys2Proof/Laws/KeptQueue.lean ====
section
/-!
SUPPORT. What the operations of Machine/Queue.lean may touch, and that they keep the canonical forms.
-/
set_option linter.unusedTactic false
set_option linter.unreachableTactic false
set_option linter.unusedVariables false

namespace Sys2Proof.Machine

theorem modSlot_kept {mask : List Part} {s0 s : State} (d : Dom) (no : Nat) (f : Slot → Slot) (hk : Kept mask s0 s)
    (hsub : [.doms] ⊆ mask) : Kept mask s0 (modSlot d no f s) := by
  unfold modSlot
  try extract_lets -underBinder
  repeat' first
   | with_reducible assumption
   | exact sub_trans rfl hsub
   | intro _
   | with_reducible apply kept_ite
   | with_reducible apply modDom_kept
   | split
   | extract_lets -underBinder
   | (dsimp +zetaDelta only; split)

theorem logError_kept {mask : List Part} {s0 s : State} (x : Slot) (status : Nat) (detail : Nat) (value : Nat) (froze : Bool) (hk : Kept mask s0 s)
    (hsub : [.doms] ⊆ mask) : Kept mask s0 (logError x status detail value froze s) := by
  unfold logError
  try extract_lets -underBinder
  repeat' first
   | with_reducible assumption
   | exact sub_trans rfl hsub
   | intro _
   | with_reducible apply kept_ite
   | with_reducible apply modDom_kept
   | split
   | extract_lets -underBinder
   | (dsimp +zetaDelta only; split)

theorem freezeQueue_kept {mask : List Part} {s0 s : State} (d : Dom) (status : Nat) (opcode : Nat) (hk : Kept mask s0 s)
    (hsub : [.free, .dict, .ev, .ports, .doms, .opLog] ⊆ mask) : Kept mask s0 (freezeQueue d status opcode s) := by
  unfold freezeQueue
  try extract_lets -underBinder
  repeat' first
   | with_reducible assumption
   | exact sub_trans rfl hsub
   | intro _
   | with_reducible apply kept_ite
   | with_reducible apply modDom_kept
   | with_reducible apply postEvent_kept
   | with_reducible apply kept_id
   | split
   | extract_lets -underBinder
   | (dsimp +zetaDelta only; split)

theorem completeSlot_kept {mask : List Part} {s0 s : State} (d : Dom) (no : Nat) (status : Nat) (detail : Nat) (count : Nat) (value : Nat) (flags : Nat) (hk : Kept mask s0 s)
    (hsub : [.free, .dict, .ev, .ports, .doms, .sched, .opLog, .energy] ⊆ mask) : Kept mask s0 (completeSlot d no status detail count value flags s) := by
  unfold completeSlot
  try extract_lets -underBinder
  repeat' first
   | with_reducible assumption
   | exact sub_trans rfl hsub
   | intro _
   | with_reducible apply kept_ite
   | with_reducible apply modSlot_kept
   | with_reducible apply modDom_kept
   | with_reducible apply logError_kept
   | with_reducible apply returnUnits_kept
   | with_reducible apply sendMsg_kept
   | with_reducible apply freezeQueue_kept
   | with_reducible apply kept_id
   | exact Or.inl (mem_of rfl hsub)
   | with_reducible exact Or.inr rfl
   | split
   | extract_lets -underBinder
   | (dsimp +zetaDelta only; split)
   | with_reducible apply kept_mk

theorem drawWrite_kept {mask : List Part} {s0 s : State} (d : Dom) (n : Nat) (hk : Kept mask s0 s)
    (hsub : [.doms] ⊆ mask) : Kept mask s0 (drawWrite d n s) := by
  unfold drawWrite
  try extract_lets -underBinder
  repeat' first
   | with_reducible assumption
   | exact sub_trans rfl hsub
   | intro _
   | with_reducible apply kept_ite
   | with_reducible apply modDom_kept
   | split
   | extract_lets -underBinder
   | (dsimp +zetaDelta only; split)

theorem drawRead_kept {mask : List Part} {s0 s : State} (d : Dom) (tape : Bool) (n : Nat) (hk : Kept mask s0 s)
    (hsub : [.doms] ⊆ mask) : Kept mask s0 (drawRead d tape n s) := by
  unfold drawRead
  try extract_lets -underBinder
  repeat' first
   | with_reducible assumption
   | exact sub_trans rfl hsub
   | intro _
   | with_reducible apply kept_ite
   | with_reducible apply modDom_kept
   | split
   | extract_lets -underBinder
   | (dsimp +zetaDelta only; split)

theorem ringPut_kept {mask : List Part} {s0 s : State} (i : Item) (hk : Kept mask s0 s)
    (hsub : [.doms, .ring] ⊆ mask) : Kept mask s0 (ringPut i s) := by
  unfold ringPut
  try extract_lets -underBinder
  repeat' first
   | with_reducible assumption
   | exact sub_trans rfl hsub
   | intro _
   | with_reducible apply kept_ite
   | with_reducible apply modDom_kept
   | with_reducible apply kept_id
   | exact Or.inl (mem_of rfl hsub)
   | with_reducible exact Or.inr rfl
   | split
   | extract_lets -underBinder
   | (dsimp +zetaDelta only; split)
   | with_reducible apply kept_mk

theorem commitSlot_kept {mask : List Part} {s0 s : State} (d : Dom) (no : Nat) (hk : Kept mask s0 s)
    (hsub : [.free, .dict, .ev, .ports, .doms, .ring, .dram, .comp, .sched, .opLog, .energy] ⊆ mask) : Kept mask s0 (commitSlot d no s) := by
  unfold commitSlot
  try extract_lets -underBinder
  repeat' first
   | with_reducible assumption
   | exact sub_trans rfl hsub
   | intro _
   | with_reducible apply kept_ite
   | with_reducible apply ringPut_kept
   | with_reducible apply addWeight_kept
   | with_reducible apply modDom_kept
   | with_reducible apply cacheSectors_kept
   | with_reducible apply runPager_kept
   | with_reducible apply completeSlot_kept
   | with_reducible apply kept_id
   | split
   | extract_lets -underBinder
   | (dsimp +zetaDelta only; split)

theorem sendBytes_kept {mask : List Part} {s0 s : State} (h : CmdHead) (off : Nat) (final : Bool) (bytes : List Byte) (hk : Kept mask s0 s)
    (hsub : [.dict, .ports, .energy] ⊆ mask) : Kept mask s0 (sendBytes h off final bytes s) := by
  unfold sendBytes
  try extract_lets -underBinder
  repeat' first
   | with_reducible assumption
   | exact sub_trans rfl hsub
   | intro _
   | with_reducible apply kept_ite
   | with_reducible apply kept_foldl
   | with_reducible apply addWeight_kept
   | with_reducible apply sendMsg_kept
   | split
   | extract_lets -underBinder
   | (dsimp +zetaDelta only; split)

theorem sendData_kept {mask : List Part} {s0 s : State} (h : CmdHead) (bytes : List Byte) (hk : Kept mask s0 s)
    (hsub : [.dict, .ports, .energy] ⊆ mask) : Kept mask s0 (sendData h bytes s) := by
  unfold sendData
  try extract_lets -underBinder
  repeat' first
   | with_reducible assumption
   | exact sub_trans rfl hsub
   | intro _
   | with_reducible apply kept_ite
   | with_reducible apply sendBytes_kept
   | split
   | extract_lets -underBinder
   | (dsimp +zetaDelta only; split)

theorem serveRead_kept {mask : List Part} {s0 s : State} (d : Dom) (no : Nat) (runs : List (Bool × List Byte)) (r : ReadReply) (hk : Kept mask s0 s)
    (hsub : [.free, .dict, .ev, .ports, .doms, .sched, .opLog, .energy] ⊆ mask) : Kept mask s0 (serveRead d no runs r s) := by
  unfold serveRead
  try extract_lets -underBinder
  repeat' first
   | with_reducible assumption
   | exact sub_trans rfl hsub
   | intro _
   | with_reducible apply kept_ite
   | with_reducible apply completeSlot_kept
   | with_reducible apply modSlot_kept
   | split
   | extract_lets -underBinder
   | (dsimp +zetaDelta only; split)

theorem finishReadLog_kept {mask : List Part} {s0 s : State} (d : Dom) (no : Nat) (x : Slot) (hk : Kept mask s0 s)
    (hsub : [.free, .dict, .ev, .ports, .doms, .sched, .opLog, .energy] ⊆ mask) : Kept mask s0 (finishReadLog d no x s) := by
  unfold finishReadLog
  try extract_lets -underBinder
  repeat' first
   | with_reducible assumption
   | exact sub_trans rfl hsub
   | intro _
   | with_reducible apply kept_ite
   | with_reducible apply serveRead_kept
   | split
   | extract_lets -underBinder
   | (dsimp +zetaDelta only; split)

theorem dropGroup_kept {mask : List Part} {s0 s : State} (d : Dom) (v : Nat) (g : Nat) (hk : Kept mask s0 s)
    (hsub : [.doms] ⊆ mask) : Kept mask s0 (dropGroup d v g s) := by
  unfold dropGroup
  try extract_lets -underBinder
  repeat' first
   | with_reducible assumption
   | exact sub_trans rfl hsub
   | intro _
   | with_reducible apply kept_ite
   | with_reducible apply modDom_kept
   | split
   | extract_lets -underBinder
   | (dsimp +zetaDelta only; split)

theorem keepRead_kept {mask : List Part} {s0 s : State} (d : Dom) (x : Slot) (hk : Kept mask s0 s)
    (hsub : [.doms] ⊆ mask) : Kept mask s0 (keepRead d x s) := by
  unfold keepRead
  try extract_lets -underBinder
  repeat' first
   | with_reducible assumption
   | exact sub_trans rfl hsub
   | intro _
   | with_reducible apply kept_ite
   | with_reducible apply kept_foldl
   | with_reducible apply touchGroup_kept
   | with_reducible apply captureGroup_kept
   | split
   | extract_lets -underBinder
   | (dsimp +zetaDelta only; split)

theorem finishReadVol_kept {mask : List Part} {s0 s : State} (d : Dom) (no : Nat) (x : Slot) (hk : Kept mask s0 s)
    (hsub : [.free, .dict, .ev, .ports, .doms, .sched, .opLog, .energy] ⊆ mask) : Kept mask s0 (finishReadVol d no x s) := by
  unfold finishReadVol
  try extract_lets -underBinder
  repeat' first
   | with_reducible assumption
   | exact sub_trans rfl hsub
   | intro _
   | with_reducible apply kept_ite
   | with_reducible apply keepRead_kept
   | with_reducible apply serveRead_kept
   | with_reducible apply dropGroup_kept
   | with_reducible apply kept_id
   | split
   | extract_lets -underBinder
   | (dsimp +zetaDelta only; split)

theorem serveTurn_kept {mask : List Part} {s0 s : State} (cls : Fin 2) (d : Dom) (x : Slot) (hk : Kept mask s0 s)
    (hsub : [.free, .dict, .ev, .ports, .doms, .sched, .opLog, .energy] ⊆ mask) : Kept mask s0 (serveTurn cls d x s) := by
  unfold serveTurn
  try extract_lets -underBinder
  repeat' first
   | with_reducible assumption
   | exact sub_trans rfl hsub
   | intro _
   | with_reducible apply kept_ite
   | with_reducible apply modPort_kept
   | with_reducible apply drawRead_kept
   | with_reducible apply sendBytes_kept
   | with_reducible apply completeSlot_kept
   | with_reducible apply modSlot_kept
   | with_reducible apply kept_id
   | split
   | extract_lets -underBinder
   | (dsimp +zetaDelta only; split)

theorem servePort_kept {mask : List Part} {s0 s : State} (p : PortId) (hk : Kept mask s0 s)
    (hsub : [.free, .dict, .ev, .ports, .doms, .sched, .opLog, .energy] ⊆ mask) : Kept mask s0 (servePort p s) := by
  unfold servePort
  try extract_lets -underBinder
  repeat' first
   | with_reducible assumption
   | exact sub_trans rfl hsub
   | intro _
   | with_reducible apply kept_ite
   | with_reducible apply serveTurn_kept
   | split
   | extract_lets -underBinder
   | (dsimp +zetaDelta only; split)

theorem runRead_kept {mask : List Part} {s0 s : State} (d : Dom) (no : Nat) (hk : Kept mask s0 s)
    (hsub : [.free, .dict, .ev, .ports, .doms, .sched, .opLog, .energy] ⊆ mask) : Kept mask s0 (runRead d no s) := by
  unfold runRead
  try extract_lets -underBinder
  repeat' first
   | with_reducible assumption
   | exact sub_trans rfl hsub
   | intro _
   | with_reducible apply kept_ite
   | with_reducible apply modSlot_kept
   | with_reducible apply servePort_kept
   | with_reducible apply finishReadLog_kept
   | with_reducible apply finishReadVol_kept
   | with_reducible apply kept_id
   | split
   | extract_lets -underBinder
   | (dsimp +zetaDelta only; split)

theorem runTrim_kept {mask : List Part} {s0 s : State} (d : Dom) (no : Nat) (hk : Kept mask s0 s)
    (hsub : [.free, .dict, .ev, .ports, .doms, .sched, .opLog, .energy] ⊆ mask) : Kept mask s0 (runTrim d no s) := by
  unfold runTrim
  try extract_lets -underBinder
  repeat' first
   | with_reducible assumption
   | exact sub_trans rfl hsub
   | intro _
   | with_reducible apply kept_ite
   | with_reducible apply modDom_kept
   | with_reducible apply refreshCuts_kept
   | with_reducible apply completeSlot_kept
   | with_reducible apply kept_id
   | split
   | extract_lets -underBinder
   | (dsimp +zetaDelta only; split)

theorem submitMeter_kept {mask : List Part} {s0 s : State} (d : Dom) (no : Nat) (hk : Kept mask s0 s)
    (hsub : [.free, .dict, .ev, .ports, .doms, .kiln, .sched, .opLog, .energy] ⊆ mask) : Kept mask s0 (submitMeter d no s) := by
  unfold submitMeter
  try extract_lets -underBinder
  repeat' first
   | with_reducible assumption
   | exact sub_trans rfl hsub
   | intro _
   | with_reducible apply kept_ite
   | with_reducible apply completeSlot_kept
   | with_reducible apply modSlot_kept
   | with_reducible apply kept_id
   | exact Or.inl (mem_of rfl hsub)
   | with_reducible exact Or.inr rfl
   | split
   | extract_lets -underBinder
   | (dsimp +zetaDelta only; split)
   | with_reducible apply kept_mk

theorem dropSubmits_kept {mask : List Part} {s0 s : State} (d : Dom) (gone : Nat → Bool) (hk : Kept mask s0 s)
    (hsub : [.kiln] ⊆ mask) : Kept mask s0 (dropSubmits d gone s) := by
  unfold dropSubmits
  try extract_lets -underBinder
  repeat' first
   | with_reducible assumption
   | exact sub_trans rfl hsub
   | intro _
   | with_reducible apply kept_ite
   | exact Or.inl (mem_of rfl hsub)
   | with_reducible exact Or.inr rfl
   | split
   | extract_lets -underBinder
   | (dsimp +zetaDelta only; split)
   | with_reducible apply kept_mk

theorem advance_kept {mask : List Part} {s0 s : State} (d : Dom) (no : Nat) (hk : Kept mask s0 s)
    (hsub : [.free, .dict, .ev, .ports, .doms, .ring, .dram, .comp, .kiln, .sched, .opLog, .energy] ⊆ mask) : Kept mask s0 (advance d no s) := by
  unfold advance
  try extract_lets -underBinder
  repeat' first
   | with_reducible assumption
   | exact sub_trans rfl hsub
   | intro _
   | with_reducible apply kept_ite
   | with_reducible apply runTrim_kept
   | with_reducible apply runRead_kept
   | with_reducible apply submitMeter_kept
   | with_reducible apply commitSlot_kept
   | with_reducible apply completeSlot_kept
   | split
   | extract_lets -underBinder
   | (dsimp +zetaDelta only; split)

theorem progress_kept {mask : List Part} {s0 s : State} (d : Dom) (hk : Kept mask s0 s)
    (hsub : [.free, .dict, .ev, .ports, .doms, .ring, .dram, .comp, .kiln, .sched, .opLog, .energy] ⊆ mask) : Kept mask s0 (progress d s) := by
  unfold progress
  try extract_lets -underBinder
  repeat' first
   | with_reducible assumption
   | exact sub_trans rfl hsub
   | intro _
   | with_reducible apply kept_ite
   | with_reducible apply kept_foldl
   | with_reducible apply advance_kept
   | split
   | extract_lets -underBinder
   | (dsimp +zetaDelta only; split)

theorem progressAll_kept {mask : List Part} {s0 s : State} (hk : Kept mask s0 s)
    (hsub : [.free, .dict, .ev, .ports, .doms, .ring, .dram, .comp, .kiln, .sched, .opLog, .energy] ⊆ mask) : Kept mask s0 (progressAll s) := by
  unfold progressAll
  try extract_lets -underBinder
  repeat' first
   | with_reducible assumption
   | exact sub_trans rfl hsub
   | intro _
   | with_reducible apply kept_ite
   | with_reducible apply kept_foldl
   | with_reducible apply progress_kept
   | split
   | extract_lets -underBinder
   | (dsimp +zetaDelta only; split)

theorem enterDom_kept {mask : List Part} {s0 s : State} (d : Dom) (st : DomState) (hk : Kept mask s0 s)
    (hsub : [.dict, .doms] ⊆ mask) : Kept mask s0 (enterDom d st s) := by
  unfold enterDom
  try extract_lets -underBinder
  repeat' first
   | with_reducible assumption
   | exact sub_trans rfl hsub
   | intro _
   | with_reducible apply kept_ite
   | with_reducible apply modDom_kept
   | with_reducible apply bumpGen_kept
   | with_reducible apply kept_id
   | split
   | extract_lets -underBinder
   | (dsimp +zetaDelta only; split)

theorem setOnline_kept {mask : List Part} {s0 s : State} (d : Dom) (b : Bool) (hk : Kept mask s0 s)
    (hsub : [.dict] ⊆ mask) : Kept mask s0 (setOnline d b s) := by
  unfold setOnline
  try extract_lets -underBinder
  repeat' first
   | with_reducible assumption
   | exact sub_trans rfl hsub
   | intro _
   | with_reducible apply kept_ite
   | with_reducible apply setObj_kept
   | split
   | extract_lets -underBinder
   | (dsimp +zetaDelta only; split)

theorem failTapeWork_kept {mask : List Part} {s0 s : State} (d : Dom) (status : Nat) (detail : Nat) (hk : Kept mask s0 s)
    (hsub : [.free, .dict, .ev, .ports, .doms, .sched, .opLog, .energy] ⊆ mask) : Kept mask s0 (failTapeWork d status detail s) := by
  unfold failTapeWork
  try extract_lets -underBinder
  repeat' first
   | with_reducible assumption
   | exact sub_trans rfl hsub
   | intro _
   | with_reducible apply kept_ite
   | with_reducible apply kept_foldl
   | with_reducible apply completeSlot_kept
   | split
   | extract_lets -underBinder
   | (dsimp +zetaDelta only; split)

theorem failRingWaits_kept {mask : List Part} {s0 s : State} (hk : Kept mask s0 s)
    (hsub : [.free, .dict, .ev, .ports, .doms, .sched, .opLog, .energy] ⊆ mask) : Kept mask s0 (failRingWaits s) := by
  unfold failRingWaits
  try extract_lets -underBinder
  repeat' first
   | with_reducible assumption
   | exact sub_trans rfl hsub
   | intro _
   | with_reducible apply kept_ite
   | with_reducible apply kept_foldl
   | with_reducible apply completeSlot_kept
   | split
   | extract_lets -underBinder
   | (dsimp +zetaDelta only; split)

theorem endSelfTestOf_kept {mask : List Part} {s0 s : State} (hk : Kept mask s0 s)
    (hsub : [.test] ⊆ mask) : Kept mask s0 (endSelfTestOf s) := by
  unfold endSelfTestOf
  try extract_lets -underBinder
  repeat' first
   | with_reducible assumption
   | exact sub_trans rfl hsub
   | intro _
   | with_reducible apply kept_ite
   | exact Or.inl (mem_of rfl hsub)
   | with_reducible exact Or.inr rfl
   | split
   | extract_lets -underBinder
   | (dsimp +zetaDelta only; split)
   | with_reducible apply kept_mk

theorem loseCartridge_kept {mask : List Part} {s0 s : State} (status : Nat) (hk : Kept mask s0 s)
    (hsub : [.free, .dict, .ev, .ports, .doms, .test, .sched, .opLog, .energy] ⊆ mask) : Kept mask s0 (loseCartridge status s) := by
  unfold loseCartridge
  try extract_lets -underBinder
  repeat' first
   | with_reducible assumption
   | exact sub_trans rfl hsub
   | intro _
   | with_reducible apply kept_ite
   | with_reducible apply kept_foldl
   | with_reducible apply failRingWaits_kept
   | with_reducible apply endSelfTestOf_kept
   | with_reducible apply setOnline_kept
   | with_reducible apply enterDom_kept
   | with_reducible apply modDom_kept
   | with_reducible apply failTapeWork_kept
   | with_reducible apply kept_id
   | split
   | extract_lets -underBinder
   | (dsimp +zetaDelta only; split)

theorem wakeCartridge_kept {mask : List Part} {s0 s : State} (hk : Kept mask s0 s)
    (hsub : [.free, .dict, .ev, .ports, .doms, .sched, .opLog, .energy] ⊆ mask) : Kept mask s0 (wakeCartridge s) := by
  unfold wakeCartridge
  try extract_lets -underBinder
  repeat' first
   | with_reducible assumption
   | exact sub_trans rfl hsub
   | intro _
   | with_reducible apply kept_ite
   | with_reducible apply kept_foldl
   | with_reducible apply failRingWaits_kept
   | with_reducible apply completeSlot_kept
   | split
   | extract_lets -underBinder
   | (dsimp +zetaDelta only; split)

theorem faultCartridge_kept {mask : List Part} {s0 s : State} (hk : Kept mask s0 s)
    (hsub : [.free, .dict, .ev, .ports, .doms, .test, .cart, .sched, .opLog, .energy] ⊆ mask) : Kept mask s0 (faultCartridge s) := by
  unfold faultCartridge
  try extract_lets -underBinder
  repeat' first
   | with_reducible assumption
   | exact sub_trans rfl hsub
   | intro _
   | with_reducible apply kept_ite
   | with_reducible apply enterCart_kept
   | with_reducible apply loseCartridge_kept
   | with_reducible apply wakeCartridge_kept
   | with_reducible apply kept_id
   | exact Or.inl (mem_of rfl hsub)
   | with_reducible exact Or.inr rfl
   | split
   | extract_lets -underBinder
   | (dsimp +zetaDelta only; split)
   | with_reducible apply kept_mk

theorem releaseItems_kept {mask : List Part} {s0 s : State} (hk : Kept mask s0 s)
    (hsub : [.doms, .ring] ⊆ mask) : Kept mask s0 (releaseItems s) := by
  unfold releaseItems
  try extract_lets -underBinder
  repeat' first
   | with_reducible assumption
   | exact sub_trans rfl hsub
   | intro _
   | with_reducible apply kept_ite
   | with_reducible apply kept_foldl
   | with_reducible apply modDom_kept
   | exact Or.inl (mem_of rfl hsub)
   | with_reducible exact Or.inr rfl
   | split
   | extract_lets -underBinder
   | (dsimp +zetaDelta only; split)
   | with_reducible apply kept_mk

theorem releaseCut_kept {mask : List Part} {s0 s : State} (d : Dom) (blocks : List Block) (hk : Kept mask s0 s)
    (hsub : [.doms, .ring] ⊆ mask) : Kept mask s0 (releaseCut d blocks s) := by
  unfold releaseCut
  try extract_lets -underBinder
  repeat' first
   | with_reducible assumption
   | exact sub_trans rfl hsub
   | intro _
   | with_reducible apply kept_ite
   | with_reducible apply kept_foldl
   | with_reducible apply releaseItems_kept
   | exact Or.inl (mem_of rfl hsub)
   | with_reducible exact Or.inr rfl
   | split
   | extract_lets -underBinder
   | (dsimp +zetaDelta only; split)
   | with_reducible apply kept_mk

end Sys2Proof.Machine
end

