-- ==== Sys2Proof/Laws/KeptCommands.lean ====
section
/-!
SUPPORT. What the operations of Machine/Commands.lean may touch, and that they keep the canonical forms.
-/
set_option linter.unusedTactic false
set_option linter.unreachableTactic false
set_option linter.unusedVariables false

namespace Sys2Proof.Machine

theorem stopTest_kept {mask : List Part} {s0 s : State} (result : Nat) (step : Nat) (hk : Kept mask s0 s)
    (hsub : [.test] ⊆ mask) : Kept mask s0 (stopTest result step s) := by
  unfold stopTest
  try extract_lets -underBinder
  repeat' first
   | with_reducible assumption
   | exact sub_trans rfl hsub
   | intro _
   | with_reducible apply kept_ite
   | exact Or.inl (mem_of rfl hsub)
   | with_reducible exact Or.inr rfl
   | split
   | extract_lets -underBinder
   | (dsimp +zetaDelta only; split)
   | with_reducible apply kept_mk

theorem yieldTest_kept {mask : List Part} {s0 s : State} (needs : List Nat) (hk : Kept mask s0 s)
    (hsub : [.test] ⊆ mask) : Kept mask s0 (yieldTest needs s) := by
  unfold yieldTest
  try extract_lets -underBinder
  repeat' first
   | with_reducible assumption
   | exact sub_trans rfl hsub
   | intro _
   | with_reducible apply kept_ite
   | exact Or.inl (mem_of rfl hsub)
   | with_reducible exact Or.inr rfl
   | split
   | extract_lets -underBinder
   | (dsimp +zetaDelta only; split)
   | with_reducible apply kept_mk

theorem dropAnswer_kept {mask : List Part} {s0 s : State} (x : Slot) (hk : Kept mask s0 s)
    (hsub : [.ports] ⊆ mask) : Kept mask s0 (dropAnswer x s) := by
  unfold dropAnswer
  try extract_lets -underBinder
  repeat' first
   | with_reducible assumption
   | exact sub_trans rfl hsub
   | intro _
   | with_reducible apply kept_ite
   | with_reducible apply modPort_kept
   | split
   | extract_lets -underBinder
   | (dsimp +zetaDelta only; split)

theorem abortSlot_kept {mask : List Part} {s0 s : State} (d : Dom) (x : Slot) (hk : Kept mask s0 s)
    (hsub : [.free, .dict, .ev, .ports, .doms, .test, .kiln, .sched, .opLog, .energy] ⊆ mask) : Kept mask s0 (abortSlot d x s) := by
  unfold abortSlot
  try extract_lets -underBinder
  repeat' first
   | with_reducible assumption
   | exact sub_trans rfl hsub
   | intro _
   | with_reducible apply kept_ite
   | with_reducible apply stopTest_kept
   | with_reducible apply dropSubmits_kept
   | with_reducible apply dropAnswer_kept
   | with_reducible apply sendMsg_kept
   | with_reducible apply completeSlot_kept
   | split
   | extract_lets -underBinder
   | (dsimp +zetaDelta only; split)

theorem runAbort_kept {mask : List Part} {s0 s : State} (d : Dom) (x : Slot) (hk : Kept mask s0 s)
    (hsub : [.free, .dict, .ev, .ports, .doms, .ring, .dram, .test, .comp, .kiln, .sched, .opLog, .energy] ⊆ mask) : Kept mask s0 (runAbort d x s) := by
  unfold runAbort
  try extract_lets -underBinder
  repeat' first
   | with_reducible assumption
   | exact sub_trans rfl hsub
   | intro _
   | with_reducible apply kept_ite
   | with_reducible apply kept_foldl
   | with_reducible apply completeSlot_kept
   | with_reducible apply progress_kept
   | with_reducible apply abortSlot_kept
   | split
   | extract_lets -underBinder
   | (dsimp +zetaDelta only; split)

theorem runSelfTest_kept {mask : List Part} {s0 s : State} (d : Dom) (x : Slot) (hk : Kept mask s0 s)
    (hsub : [.free, .dict, .ev, .ports, .doms, .test, .sched, .opLog, .energy] ⊆ mask) : Kept mask s0 (runSelfTest d x s) := by
  unfold runSelfTest
  try extract_lets -underBinder
  repeat' first
   | with_reducible assumption
   | exact sub_trans rfl hsub
   | intro _
   | with_reducible apply kept_ite
   | with_reducible apply stopTest_kept
   | with_reducible apply completeSlot_kept
   | with_reducible apply modSlot_kept
   | with_reducible apply kept_id
   | exact Or.inl (mem_of rfl hsub)
   | with_reducible exact Or.inr rfl
   | split
   | extract_lets -underBinder
   | (dsimp +zetaDelta only; split)
   | with_reducible apply kept_mk

theorem runPage_kept {mask : List Part} {s0 s : State} (d : Dom) (x : Slot) (hk : Kept mask s0 s)
    (hsub : [.free, .dict, .ev, .ports, .doms, .sched, .opLog, .energy] ⊆ mask) : Kept mask s0 (runPage d x s) := by
  unfold runPage
  try extract_lets -underBinder
  repeat' first
   | with_reducible assumption
   | exact sub_trans rfl hsub
   | intro _
   | with_reducible apply kept_ite
   | with_reducible apply sendData_kept
   | with_reducible apply completeSlot_kept
   | with_reducible apply kept_id
   | split
   | extract_lets -underBinder
   | (dsimp +zetaDelta only; split)

theorem runSetPower_kept {mask : List Part} {s0 s : State} (d : Dom) (x : Slot) (hk : Kept mask s0 s)
    (hsub : [.free, .dict, .ev, .ports, .doms, .sched, .opLog, .energy] ⊆ mask) : Kept mask s0 (runSetPower d x s) := by
  unfold runSetPower
  try extract_lets -underBinder
  repeat' first
   | with_reducible assumption
   | exact sub_trans rfl hsub
   | intro _
   | with_reducible apply kept_ite
   | with_reducible apply setObj_kept
   | with_reducible apply modDom_kept
   | with_reducible apply completeSlot_kept
   | with_reducible apply kept_id
   | split
   | extract_lets -underBinder
   | (dsimp +zetaDelta only; split)

theorem runLoad_kept {mask : List Part} {s0 s : State} (d : Dom) (x : Slot) (hk : Kept mask s0 s)
    (hsub : [.free, .dict, .ev, .ports, .doms, .ring, .comp, .cart, .xport, .sched, .jour, .opLog, .energy] ⊆ mask) : Kept mask s0 (runLoad d x s) := by
  unfold runLoad
  try extract_lets -underBinder
  repeat' first
   | with_reducible assumption
   | exact sub_trans rfl hsub
   | intro _
   | with_reducible apply kept_ite
   | with_reducible apply modSlot_kept
   | with_reducible apply cartAction_kept
   | with_reducible apply wakeCartridge_kept
   | with_reducible apply kept_id
   | split
   | extract_lets -underBinder
   | (dsimp +zetaDelta only; split)

theorem startSlot_kept {mask : List Part} {s0 s : State} (d : Dom) (no : Nat) (hk : Kept mask s0 s)
    (hsub : [.free, .dict, .ev, .ports, .doms, .ring, .dram, .test, .comp, .cart, .xport, .kiln, .sched, .jour, .opLog, .energy] ⊆ mask) : Kept mask s0 (startSlot d no s) := by
  unfold startSlot
  try extract_lets -underBinder
  repeat' first
   | with_reducible assumption
   | exact sub_trans rfl hsub
   | intro _
   | with_reducible apply kept_ite
   | with_reducible apply sendData_kept
   | with_reducible apply completeSlot_kept
   | with_reducible apply runPage_kept
   | with_reducible apply runAbort_kept
   | with_reducible apply runSelfTest_kept
   | with_reducible apply runSetPower_kept
   | with_reducible apply runLoad_kept
   | with_reducible apply modSlot_kept
   | with_reducible apply progress_kept
   | with_reducible apply kept_id
   | split
   | extract_lets -underBinder
   | (dsimp +zetaDelta only; split)

theorem grantRoom_kept {mask : List Part} {s0 s : State} (x0 : Nat) (x1 : Dom) (hk : Kept mask s0 s)
    (hsub : [.ports, .doms] ⊆ mask) : Kept mask s0 (grantRoom x0 x1 s) := by
  induction x0 generalizing s x1 with
  | zero =>
    unfold grantRoom
    try extract_lets -underBinder
    repeat' first
     | with_reducible assumption
     | exact sub_trans rfl hsub
     | intro _
     | with_reducible apply kept_ite
     | with_reducible apply ih
     | with_reducible apply returnUnits_kept
     | with_reducible apply modSlot_kept
     | with_reducible apply kept_id
     | split
     | extract_lets -underBinder
     | (dsimp +zetaDelta only; split)
  | succ n ih =>
    unfold grantRoom
    try extract_lets -underBinder
    repeat' first
     | with_reducible assumption
     | exact sub_trans rfl hsub
     | intro _
     | with_reducible apply kept_ite
     | with_reducible apply ih
     | with_reducible apply returnUnits_kept
     | with_reducible apply modSlot_kept
     | with_reducible apply kept_id
     | split
     | extract_lets -underBinder
     | (dsimp +zetaDelta only; split)

theorem retryHeld_kept {mask : List Part} {s0 s : State} (d : Dom) (x0 : List Nat) (hk : Kept mask s0 s)
    (hsub : [.free, .dict, .ev, .ports, .doms, .ring, .dram, .test, .comp, .cart, .xport, .kiln, .sched, .jour, .opLog, .energy] ⊆ mask) : Kept mask s0 (retryHeld d x0 s) := by
  induction x0 generalizing s with
  | nil =>
    unfold retryHeld
    try extract_lets -underBinder
    repeat' first
     | with_reducible assumption
     | exact sub_trans rfl hsub
     | intro _
     | with_reducible apply kept_ite
     | with_reducible apply ih
     | with_reducible apply completeSlot_kept
     | with_reducible apply modSlot_kept
     | with_reducible apply startSlot_kept
     | with_reducible apply kept_id
     | split
     | extract_lets -underBinder
     | (dsimp +zetaDelta only; split)
  | cons a rest ih =>
    unfold retryHeld
    try extract_lets -underBinder
    repeat' first
     | with_reducible assumption
     | exact sub_trans rfl hsub
     | intro _
     | with_reducible apply kept_ite
     | with_reducible apply ih
     | with_reducible apply completeSlot_kept
     | with_reducible apply modSlot_kept
     | with_reducible apply startSlot_kept
     | with_reducible apply kept_id
     | split
     | extract_lets -underBinder
     | (dsimp +zetaDelta only; split)

theorem runResume_kept {mask : List Part} {s0 s : State} (d : Dom) (x : Slot) (hk : Kept mask s0 s)
    (hsub : [.free, .dict, .ev, .ports, .doms, .ring, .dram, .test, .comp, .cart, .xport, .kiln, .sched, .jour, .opLog, .energy] ⊆ mask) : Kept mask s0 (runResume d x s) := by
  unfold runResume
  try extract_lets -underBinder
  repeat' first
   | with_reducible assumption
   | exact sub_trans rfl hsub
   | intro _
   | with_reducible apply kept_ite
   | with_reducible apply kept_foldl
   | with_reducible apply modDom_kept
   | with_reducible apply postEvent_kept
   | with_reducible apply retryHeld_kept
   | with_reducible apply completeSlot_kept
   | with_reducible apply progress_kept
   | with_reducible apply kept_id
   | split
   | extract_lets -underBinder
   | (dsimp +zetaDelta only; split)

theorem closeTag_kept {mask : List Part} {s0 s : State} (d : Dom) (p : PortId) (tag : Nat) (hk : Kept mask s0 s)
    (hsub : [.doms] ⊆ mask) : Kept mask s0 (closeTag d p tag s) := by
  unfold closeTag
  try extract_lets -underBinder
  repeat' first
   | with_reducible assumption
   | exact sub_trans rfl hsub
   | intro _
   | with_reducible apply kept_ite
   | with_reducible apply modDom_kept
   | split
   | extract_lets -underBinder
   | (dsimp +zetaDelta only; split)

theorem takeData_kept {mask : List Part} {s0 s : State} (x : Slot) (off : Nat) (bytes : List Byte) (last : Bool) (hk : Kept mask s0 s)
    (hsub : [.free, .dict, .ev, .ports, .doms, .ring, .dram, .comp, .kiln, .sched, .opLog, .energy] ⊆ mask) : Kept mask s0 (takeData x off bytes last s) := by
  unfold takeData
  try extract_lets -underBinder
  repeat' first
   | with_reducible assumption
   | exact sub_trans rfl hsub
   | intro _
   | with_reducible apply kept_ite
   | with_reducible apply kept_foldl
   | with_reducible apply modSlot_kept
   | with_reducible apply completeSlot_kept
   | with_reducible apply returnUnits_kept
   | with_reducible apply progress_kept
   | with_reducible apply kept_id
   | split
   | extract_lets -underBinder
   | (dsimp +zetaDelta only; split)

theorem receiveData_kept {mask : List Part} {s0 s : State} (h : CmdHead) (off : Nat) (bytes : List Byte) (last : Bool) (hk : Kept mask s0 s)
    (hsub : [.free, .dict, .ev, .ports, .doms, .ring, .dram, .comp, .kiln, .sched, .opLog, .energy] ⊆ mask) : Kept mask s0 (receiveData h off bytes last s) := by
  unfold receiveData
  try extract_lets -underBinder
  repeat' first
   | with_reducible assumption
   | exact sub_trans rfl hsub
   | intro _
   | with_reducible apply kept_ite
   | with_reducible apply returnUnits_kept
   | with_reducible apply protocolError_kept
   | with_reducible apply closeTag_kept
   | with_reducible apply modSlot_kept
   | with_reducible apply takeData_kept
   | with_reducible apply kept_id
   | split
   | extract_lets -underBinder
   | (dsimp +zetaDelta only; split)

theorem useSpares_kept {mask : List Part} {s0 s : State} (n : Nat) (hk : Kept mask s0 s)
    (hsub : [.free, .dict, .ev, .ports, .recov, .opLog] ⊆ mask) : Kept mask s0 (useSpares n s) := by
  unfold useSpares
  try extract_lets -underBinder
  repeat' first
   | with_reducible assumption
   | exact sub_trans rfl hsub
   | intro _
   | with_reducible apply kept_ite
   | with_reducible apply setObj_kept
   | with_reducible apply postEvent_kept
   | with_reducible apply kept_id
   | exact Or.inl (mem_of rfl hsub)
   | with_reducible exact Or.inr rfl
   | split
   | extract_lets -underBinder
   | (dsimp +zetaDelta only; split)
   | with_reducible apply kept_mk

theorem closeAtCutOff_kept {mask : List Part} {s0 s : State} (hk : Kept mask s0 s)
    (hsub : [.ring] ⊆ mask) : Kept mask s0 (closeAtCutOff s) := by
  unfold closeAtCutOff
  try extract_lets -underBinder
  repeat' first
   | with_reducible assumption
   | exact sub_trans rfl hsub
   | intro _
   | with_reducible apply kept_ite
   | exact Or.inl (mem_of rfl hsub)
   | with_reducible exact Or.inr rfl
   | split
   | extract_lets -underBinder
   | (dsimp +zetaDelta only; split)
   | with_reducible apply kept_mk

theorem noteUntaped_kept {mask : List Part} {s0 s : State} (hk : Kept mask s0 s)
    (hsub : [.jour] ⊆ mask) : Kept mask s0 (noteUntaped s) := by
  unfold noteUntaped
  try extract_lets -underBinder
  repeat' first
   | with_reducible assumption
   | exact sub_trans rfl hsub
   | intro _
   | with_reducible apply kept_ite
   | exact Or.inl (mem_of rfl hsub)
   | with_reducible exact Or.inr rfl
   | split
   | extract_lets -underBinder
   | (dsimp +zetaDelta only; split)
   | with_reducible apply kept_mk

theorem dataArrives_kept {mask : List Part} {s0 s : State} (h : CmdHead) (off : Nat) (bytes : List Byte) (last : Bool) (spares : Nat) (hk : Kept mask s0 s)
    (hsub : [.free, .dict, .ev, .ports, .doms, .ring, .dram, .comp, .kiln, .recov, .sched, .jour, .opLog, .energy] ⊆ mask) : Kept mask s0 (dataArrives h off bytes last spares s) := by
  unfold dataArrives
  try extract_lets -underBinder
  repeat' first
   | with_reducible assumption
   | exact sub_trans rfl hsub
   | intro _
   | with_reducible apply kept_ite
   | with_reducible apply useSpares_kept
   | with_reducible apply closeAtCutOff_kept
   | with_reducible apply noteUntaped_kept
   | with_reducible apply receiveData_kept
   | with_reducible apply kept_id
   | split
   | extract_lets -underBinder
   | (dsimp +zetaDelta only; split)

theorem returnCmd_kept {mask : List Part} {s0 s : State} (h : CmdHead) (hk : Kept mask s0 s)
    (hsub : [.ports] ⊆ mask) : Kept mask s0 (returnCmd h s) := by
  unfold returnCmd
  try extract_lets -underBinder
  repeat' first
   | with_reducible assumption
   | exact sub_trans rfl hsub
   | intro _
   | with_reducible apply kept_ite
   | with_reducible apply returnAdmin_kept
   | with_reducible apply returnUnits_kept
   | split
   | extract_lets -underBinder
   | (dsimp +zetaDelta only; split)

theorem refuseCmd_kept {mask : List Part} {s0 s : State} (c : HostCmd) (status : Nat) (detail : Nat) (hk : Kept mask s0 s)
    (hsub : [.dict, .ports, .doms] ⊆ mask) : Kept mask s0 (refuseCmd c status detail s) := by
  unfold refuseCmd
  try extract_lets -underBinder
  repeat' first
   | with_reducible assumption
   | exact sub_trans rfl hsub
   | intro _
   | with_reducible apply kept_ite
   | with_reducible apply modDom_kept
   | with_reducible apply sendMsg_kept
   | with_reducible apply kept_id
   | split
   | extract_lets -underBinder
   | (dsimp +zetaDelta only; split)

theorem takeIn_kept {mask : List Part} {s0 s : State} (c : HostCmd) (no : Nat) (hk : Kept mask s0 s)
    (hsub : [.free, .dict, .ev, .ports, .doms, .ring, .dram, .test, .comp, .cart, .xport, .kiln, .sched, .jour, .opLog, .energy] ⊆ mask) : Kept mask s0 (takeIn c no s) := by
  unfold takeIn
  try extract_lets -underBinder
  repeat' first
   | with_reducible assumption
   | exact sub_trans rfl hsub
   | intro _
   | with_reducible apply kept_ite
   | with_reducible apply drawWrite_kept
   | with_reducible apply modDom_kept
   | with_reducible apply yieldTest_kept
   | with_reducible apply runResume_kept
   | with_reducible apply startSlot_kept
   | split
   | extract_lets -underBinder
   | (dsimp +zetaDelta only; split)

theorem judgeCmd_kept {mask : List Part} {s0 s : State} (c : HostCmd) (hk : Kept mask s0 s)
    (hsub : [.free, .dict, .ev, .ports, .doms, .ring, .dram, .test, .comp, .cart, .xport, .kiln, .sched, .jour, .opLog, .energy] ⊆ mask) : Kept mask s0 (judgeCmd c s) := by
  unfold judgeCmd
  try extract_lets -underBinder
  repeat' first
   | with_reducible assumption
   | exact sub_trans rfl hsub
   | intro _
   | with_reducible apply kept_ite
   | with_reducible apply refuseCmd_kept
   | with_reducible apply bump_kept
   | with_reducible apply takeIn_kept
   | with_reducible apply kept_id
   | split
   | extract_lets -underBinder
   | (dsimp +zetaDelta only; split)

theorem receiveCmd_kept {mask : List Part} {s0 s : State} (c : HostCmd) (hk : Kept mask s0 s)
    (hsub : [.free, .dict, .ev, .ports, .doms, .ring, .dram, .test, .comp, .cart, .xport, .kiln, .sched, .jour, .opLog, .energy] ⊆ mask) : Kept mask s0 (receiveCmd c s) := by
  unfold receiveCmd
  try extract_lets -underBinder
  repeat' first
   | with_reducible assumption
   | exact sub_trans rfl hsub
   | intro _
   | with_reducible apply kept_ite
   | with_reducible apply returnCmd_kept
   | with_reducible apply protocolError_kept
   | with_reducible apply judgeCmd_kept
   | with_reducible apply pollPower_kept
   | with_reducible apply modPort_kept
   | with_reducible apply leaveP2_kept
   | with_reducible apply kept_id
   | split
   | extract_lets -underBinder
   | (dsimp +zetaDelta only; split)

theorem drainBacklog_kept {mask : List Part} {s0 s : State} (p : PortId) (ws : List Waiting) (hk : Kept mask s0 s)
    (hsub : [.free, .dict, .ev, .ports, .doms, .ring, .dram, .test, .comp, .cart, .xport, .kiln, .recov, .sched, .jour, .opLog, .energy] ⊆ mask) :
    Kept mask s0 (drainBacklog p ws s) := by
  induction ws generalizing s with
  | nil => exact modPort_kept _ _ hk (sub_trans rfl hsub)
  | cons w rest ih =>
    cases w with
    | cmd c =>
      unfold drainBacklog
      exact kept_ite (ih (judgeCmd_kept _ (returnCmd_kept _ hk (sub_trans rfl hsub)) (sub_trans rfl hsub)))
        (modPort_kept _ _ hk (sub_trans rfl hsub))
    | data h off bytes last spares =>
      unfold drainBacklog
      exact ih (dataArrives_kept _ _ _ _ _ hk (sub_trans rfl hsub))

theorem drainBacklogs_kept {mask : List Part} {s0 s : State} (hk : Kept mask s0 s)
    (hsub : [.free, .dict, .ev, .ports, .doms, .ring, .dram, .test, .comp, .cart, .xport, .kiln, .recov, .sched, .jour, .opLog, .energy] ⊆ mask) : Kept mask s0 (drainBacklogs s) := by
  unfold drainBacklogs
  try extract_lets -underBinder
  repeat' first
   | with_reducible assumption
   | exact sub_trans rfl hsub
   | intro _
   | with_reducible apply kept_ite
   | with_reducible apply kept_foldl
   | with_reducible apply pollPower_kept
   | with_reducible apply drainBacklog_kept
   | split
   | extract_lets -underBinder
   | (dsimp +zetaDelta only; split)

theorem execAppend_kept (h : CmdHead) (b : CmdBody) (s : State) :
    ∃ t, execAppend h b s = .next t ∧ Kept [.free, .dict, .ev, .ports, .doms, .ring, .dram, .test, .comp, .cart, .xport, .kiln, .sched, .jour, .opLog, .energy] s t := by
  unfold execAppend
  refine ⟨_, rfl, ?_⟩
  have hk := Kept.refl [.free, .dict, .ev, .ports, .doms, .ring, .dram, .test, .comp, .cart, .xport, .kiln, .sched, .jour, .opLog, .energy] s
  have hsub : ([.free, .dict, .ev, .ports, .doms, .ring, .dram, .test, .comp, .cart, .xport, .kiln, .sched, .jour, .opLog, .energy] : List Part) ⊆ [.free, .dict, .ev, .ports, .doms, .ring, .dram, .test, .comp, .cart, .xport, .kiln, .sched, .jour, .opLog, .energy] := fun _ y => y
  try extract_lets -underBinder
  repeat' first
   | with_reducible assumption
   | exact sub_trans rfl hsub
   | intro _
   | with_reducible apply kept_ite
   | with_reducible apply live_kept
   | with_reducible apply receiveCmd_kept
   | split
   | extract_lets -underBinder
   | (dsimp +zetaDelta only; split)

theorem execWriteVol_kept (h : CmdHead) (b : CmdBody) (s : State) :
    ∃ t, execWriteVol h b s = .next t ∧ Kept [.free, .dict, .ev, .ports, .doms, .ring, .dram, .test, .comp, .cart, .xport, .kiln, .sched, .jour, .opLog, .energy] s t := by
  unfold execWriteVol
  refine ⟨_, rfl, ?_⟩
  have hk := Kept.refl [.free, .dict, .ev, .ports, .doms, .ring, .dram, .test, .comp, .cart, .xport, .kiln, .sched, .jour, .opLog, .energy] s
  have hsub : ([.free, .dict, .ev, .ports, .doms, .ring, .dram, .test, .comp, .cart, .xport, .kiln, .sched, .jour, .opLog, .energy] : List Part) ⊆ [.free, .dict, .ev, .ports, .doms, .ring, .dram, .test, .comp, .cart, .xport, .kiln, .sched, .jour, .opLog, .energy] := fun _ y => y
  try extract_lets -underBinder
  repeat' first
   | with_reducible assumption
   | exact sub_trans rfl hsub
   | intro _
   | with_reducible apply kept_ite
   | with_reducible apply live_kept
   | with_reducible apply receiveCmd_kept
   | split
   | extract_lets -underBinder
   | (dsimp +zetaDelta only; split)

theorem execSync_kept (h : CmdHead) (b : CmdBody) (s : State) :
    ∃ t, execSync h b s = .next t ∧ Kept [.free, .dict, .ev, .ports, .doms, .ring, .dram, .test, .comp, .cart, .xport, .kiln, .sched, .jour, .opLog, .energy] s t := by
  unfold execSync
  refine ⟨_, rfl, ?_⟩
  have hk := Kept.refl [.free, .dict, .ev, .ports, .doms, .ring, .dram, .test, .comp, .cart, .xport, .kiln, .sched, .jour, .opLog, .energy] s
  have hsub : ([.free, .dict, .ev, .ports, .doms, .ring, .dram, .test, .comp, .cart, .xport, .kiln, .sched, .jour, .opLog, .energy] : List Part) ⊆ [.free, .dict, .ev, .ports, .doms, .ring, .dram, .test, .comp, .cart, .xport, .kiln, .sched, .jour, .opLog, .energy] := fun _ y => y
  try extract_lets -underBinder
  repeat' first
   | with_reducible assumption
   | exact sub_trans rfl hsub
   | intro _
   | with_reducible apply kept_ite
   | with_reducible apply live_kept
   | with_reducible apply receiveCmd_kept
   | split
   | extract_lets -underBinder
   | (dsimp +zetaDelta only; split)

theorem execTrimLog_kept (h : CmdHead) (b : CmdBody) (s : State) :
    ∃ t, execTrimLog h b s = .next t ∧ Kept [.free, .dict, .ev, .ports, .doms, .ring, .dram, .test, .comp, .cart, .xport, .kiln, .sched, .jour, .opLog, .energy] s t := by
  unfold execTrimLog
  refine ⟨_, rfl, ?_⟩
  have hk := Kept.refl [.free, .dict, .ev, .ports, .doms, .ring, .dram, .test, .comp, .cart, .xport, .kiln, .sched, .jour, .opLog, .energy] s
  have hsub : ([.free, .dict, .ev, .ports, .doms, .ring, .dram, .test, .comp, .cart, .xport, .kiln, .sched, .jour, .opLog, .energy] : List Part) ⊆ [.free, .dict, .ev, .ports, .doms, .ring, .dram, .test, .comp, .cart, .xport, .kiln, .sched, .jour, .opLog, .energy] := fun _ y => y
  try extract_lets -underBinder
  repeat' first
   | with_reducible assumption
   | exact sub_trans rfl hsub
   | intro _
   | with_reducible apply kept_ite
   | with_reducible apply live_kept
   | with_reducible apply receiveCmd_kept
   | split
   | extract_lets -underBinder
   | (dsimp +zetaDelta only; split)

theorem execIdentify_kept (h : CmdHead) (b : CmdBody) (s : State) :
    ∃ t, execIdentify h b s = .next t ∧ Kept [.free, .dict, .ev, .ports, .doms, .ring, .dram, .test, .comp, .cart, .xport, .kiln, .sched, .jour, .opLog, .energy] s t := by
  unfold execIdentify
  refine ⟨_, rfl, ?_⟩
  have hk := Kept.refl [.free, .dict, .ev, .ports, .doms, .ring, .dram, .test, .comp, .cart, .xport, .kiln, .sched, .jour, .opLog, .energy] s
  have hsub : ([.free, .dict, .ev, .ports, .doms, .ring, .dram, .test, .comp, .cart, .xport, .kiln, .sched, .jour, .opLog, .energy] : List Part) ⊆ [.free, .dict, .ev, .ports, .doms, .ring, .dram, .test, .comp, .cart, .xport, .kiln, .sched, .jour, .opLog, .energy] := fun _ y => y
  try extract_lets -underBinder
  repeat' first
   | with_reducible assumption
   | exact sub_trans rfl hsub
   | intro _
   | with_reducible apply kept_ite
   | with_reducible apply live_kept
   | with_reducible apply receiveCmd_kept
   | split
   | extract_lets -underBinder
   | (dsimp +zetaDelta only; split)

theorem execGetLogPage_kept (h : CmdHead) (b : CmdBody) (s : State) :
    ∃ t, execGetLogPage h b s = .next t ∧ Kept [.free, .dict, .ev, .ports, .doms, .ring, .dram, .test, .comp, .cart, .xport, .kiln, .sched, .jour, .opLog, .energy] s t := by
  unfold execGetLogPage
  refine ⟨_, rfl, ?_⟩
  have hk := Kept.refl [.free, .dict, .ev, .ports, .doms, .ring, .dram, .test, .comp, .cart, .xport, .kiln, .sched, .jour, .opLog, .energy] s
  have hsub : ([.free, .dict, .ev, .ports, .doms, .ring, .dram, .test, .comp, .cart, .xport, .kiln, .sched, .jour, .opLog, .energy] : List Part) ⊆ [.free, .dict, .ev, .ports, .doms, .ring, .dram, .test, .comp, .cart, .xport, .kiln, .sched, .jour, .opLog, .energy] := fun _ y => y
  try extract_lets -underBinder
  repeat' first
   | with_reducible assumption
   | exact sub_trans rfl hsub
   | intro _
   | with_reducible apply kept_ite
   | with_reducible apply live_kept
   | with_reducible apply receiveCmd_kept
   | split
   | extract_lets -underBinder
   | (dsimp +zetaDelta only; split)

theorem execSelfTest_kept (h : CmdHead) (b : CmdBody) (s : State) :
    ∃ t, execSelfTest h b s = .next t ∧ Kept [.free, .dict, .ev, .ports, .doms, .ring, .dram, .test, .comp, .cart, .xport, .kiln, .sched, .jour, .opLog, .energy] s t := by
  unfold execSelfTest
  refine ⟨_, rfl, ?_⟩
  have hk := Kept.refl [.free, .dict, .ev, .ports, .doms, .ring, .dram, .test, .comp, .cart, .xport, .kiln, .sched, .jour, .opLog, .energy] s
  have hsub : ([.free, .dict, .ev, .ports, .doms, .ring, .dram, .test, .comp, .cart, .xport, .kiln, .sched, .jour, .opLog, .energy] : List Part) ⊆ [.free, .dict, .ev, .ports, .doms, .ring, .dram, .test, .comp, .cart, .xport, .kiln, .sched, .jour, .opLog, .energy] := fun _ y => y
  try extract_lets -underBinder
  repeat' first
   | with_reducible assumption
   | exact sub_trans rfl hsub
   | intro _
   | with_reducible apply kept_ite
   | with_reducible apply live_kept
   | with_reducible apply receiveCmd_kept
   | split
   | extract_lets -underBinder
   | (dsimp +zetaDelta only; split)

theorem execResume_kept (h : CmdHead) (b : CmdBody) (s : State) :
    ∃ t, execResume h b s = .next t ∧ Kept [.free, .dict, .ev, .ports, .doms, .ring, .dram, .test, .comp, .cart, .xport, .kiln, .sched, .jour, .opLog, .energy] s t := by
  unfold execResume
  refine ⟨_, rfl, ?_⟩
  have hk := Kept.refl [.free, .dict, .ev, .ports, .doms, .ring, .dram, .test, .comp, .cart, .xport, .kiln, .sched, .jour, .opLog, .energy] s
  have hsub : ([.free, .dict, .ev, .ports, .doms, .ring, .dram, .test, .comp, .cart, .xport, .kiln, .sched, .jour, .opLog, .energy] : List Part) ⊆ [.free, .dict, .ev, .ports, .doms, .ring, .dram, .test, .comp, .cart, .xport, .kiln, .sched, .jour, .opLog, .energy] := fun _ y => y
  try extract_lets -underBinder
  repeat' first
   | with_reducible assumption
   | exact sub_trans rfl hsub
   | intro _
   | with_reducible apply kept_ite
   | with_reducible apply live_kept
   | with_reducible apply receiveCmd_kept
   | split
   | extract_lets -underBinder
   | (dsimp +zetaDelta only; split)

theorem execSetPower_kept (h : CmdHead) (b : CmdBody) (s : State) :
    ∃ t, execSetPower h b s = .next t ∧ Kept [.free, .dict, .ev, .ports, .doms, .ring, .dram, .test, .comp, .cart, .xport, .kiln, .sched, .jour, .opLog, .energy] s t := by
  unfold execSetPower
  refine ⟨_, rfl, ?_⟩
  have hk := Kept.refl [.free, .dict, .ev, .ports, .doms, .ring, .dram, .test, .comp, .cart, .xport, .kiln, .sched, .jour, .opLog, .energy] s
  have hsub : ([.free, .dict, .ev, .ports, .doms, .ring, .dram, .test, .comp, .cart, .xport, .kiln, .sched, .jour, .opLog, .energy] : List Part) ⊆ [.free, .dict, .ev, .ports, .doms, .ring, .dram, .test, .comp, .cart, .xport, .kiln, .sched, .jour, .opLog, .energy] := fun _ y => y
  try extract_lets -underBinder
  repeat' first
   | with_reducible assumption
   | exact sub_trans rfl hsub
   | intro _
   | with_reducible apply kept_ite
   | with_reducible apply live_kept
   | with_reducible apply receiveCmd_kept
   | split
   | extract_lets -underBinder
   | (dsimp +zetaDelta only; split)

theorem execAbort_kept (h : CmdHead) (b : CmdBody) (s : State) :
    ∃ t, execAbort h b s = .next t ∧ Kept [.free, .dict, .ev, .ports, .doms, .ring, .dram, .test, .comp, .cart, .xport, .kiln, .sched, .jour, .opLog, .energy] s t := by
  unfold execAbort
  refine ⟨_, rfl, ?_⟩
  have hk := Kept.refl [.free, .dict, .ev, .ports, .doms, .ring, .dram, .test, .comp, .cart, .xport, .kiln, .sched, .jour, .opLog, .energy] s
  have hsub : ([.free, .dict, .ev, .ports, .doms, .ring, .dram, .test, .comp, .cart, .xport, .kiln, .sched, .jour, .opLog, .energy] : List Part) ⊆ [.free, .dict, .ev, .ports, .doms, .ring, .dram, .test, .comp, .cart, .xport, .kiln, .sched, .jour, .opLog, .energy] := fun _ y => y
  try extract_lets -underBinder
  repeat' first
   | with_reducible assumption
   | exact sub_trans rfl hsub
   | intro _
   | with_reducible apply kept_ite
   | with_reducible apply live_kept
   | with_reducible apply receiveCmd_kept
   | split
   | extract_lets -underBinder
   | (dsimp +zetaDelta only; split)

theorem execMeterRecord_kept (h : CmdHead) (b : CmdBody) (s : State) :
    ∃ t, execMeterRecord h b s = .next t ∧ Kept [.free, .dict, .ev, .ports, .doms, .ring, .dram, .test, .comp, .cart, .xport, .kiln, .sched, .jour, .opLog, .energy] s t := by
  unfold execMeterRecord
  refine ⟨_, rfl, ?_⟩
  have hk := Kept.refl [.free, .dict, .ev, .ports, .doms, .ring, .dram, .test, .comp, .cart, .xport, .kiln, .sched, .jour, .opLog, .energy] s
  have hsub : ([.free, .dict, .ev, .ports, .doms, .ring, .dram, .test, .comp, .cart, .xport, .kiln, .sched, .jour, .opLog, .energy] : List Part) ⊆ [.free, .dict, .ev, .ports, .doms, .ring, .dram, .test, .comp, .cart, .xport, .kiln, .sched, .jour, .opLog, .energy] := fun _ y => y
  try extract_lets -underBinder
  repeat' first
   | with_reducible assumption
   | exact sub_trans rfl hsub
   | intro _
   | with_reducible apply kept_ite
   | with_reducible apply live_kept
   | with_reducible apply receiveCmd_kept
   | split
   | extract_lets -underBinder
   | (dsimp +zetaDelta only; split)

theorem execLoadUnload_kept (h : CmdHead) (b : CmdBody) (s : State) :
    ∃ t, execLoadUnload h b s = .next t ∧ Kept [.free, .dict, .ev, .ports, .doms, .ring, .dram, .test, .comp, .cart, .xport, .kiln, .sched, .jour, .opLog, .energy] s t := by
  unfold execLoadUnload
  refine ⟨_, rfl, ?_⟩
  have hk := Kept.refl [.free, .dict, .ev, .ports, .doms, .ring, .dram, .test, .comp, .cart, .xport, .kiln, .sched, .jour, .opLog, .energy] s
  have hsub : ([.free, .dict, .ev, .ports, .doms, .ring, .dram, .test, .comp, .cart, .xport, .kiln, .sched, .jour, .opLog, .energy] : List Part) ⊆ [.free, .dict, .ev, .ports, .doms, .ring, .dram, .test, .comp, .cart, .xport, .kiln, .sched, .jour, .opLog, .energy] := fun _ y => y
  try extract_lets -underBinder
  repeat' first
   | with_reducible assumption
   | exact sub_trans rfl hsub
   | intro _
   | with_reducible apply kept_ite
   | with_reducible apply live_kept
   | with_reducible apply receiveCmd_kept
   | split
   | extract_lets -underBinder
   | (dsimp +zetaDelta only; split)

theorem execUndefinedOpcode_kept (opcode : Byte) (h : CmdHead) (b : CmdBody) (s : State) :
    ∃ t, execUndefinedOpcode opcode h b s = .next t ∧ Kept [.free, .dict, .ev, .ports, .doms, .ring, .dram, .test, .comp, .cart, .xport, .kiln, .sched, .jour, .opLog, .energy] s t := by
  unfold execUndefinedOpcode
  refine ⟨_, rfl, ?_⟩
  have hk := Kept.refl [.free, .dict, .ev, .ports, .doms, .ring, .dram, .test, .comp, .cart, .xport, .kiln, .sched, .jour, .opLog, .energy] s
  have hsub : ([.free, .dict, .ev, .ports, .doms, .ring, .dram, .test, .comp, .cart, .xport, .kiln, .sched, .jour, .opLog, .energy] : List Part) ⊆ [.free, .dict, .ev, .ports, .doms, .ring, .dram, .test, .comp, .cart, .xport, .kiln, .sched, .jour, .opLog, .energy] := fun _ y => y
  try extract_lets -underBinder
  repeat' first
   | with_reducible assumption
   | exact sub_trans rfl hsub
   | intro _
   | with_reducible apply kept_ite
   | with_reducible apply live_kept
   | with_reducible apply receiveCmd_kept
   | split
   | extract_lets -underBinder
   | (dsimp +zetaDelta only; split)

theorem execData_kept (h : CmdHead) (offset : Word) (bytes : List Byte) (last : Bool) (spares : Byte) (s : State) :
    ∃ t, execData h offset bytes last spares s = .next t ∧ Kept [.free, .dict, .ev, .ports, .doms, .ring, .dram, .comp, .kiln, .recov, .sched, .jour, .opLog, .energy] s t := by
  unfold execData
  refine ⟨_, rfl, ?_⟩
  have hk := Kept.refl [.free, .dict, .ev, .ports, .doms, .ring, .dram, .comp, .kiln, .recov, .sched, .jour, .opLog, .energy] s
  have hsub : ([.free, .dict, .ev, .ports, .doms, .ring, .dram, .comp, .kiln, .recov, .sched, .jour, .opLog, .energy] : List Part) ⊆ [.free, .dict, .ev, .ports, .doms, .ring, .dram, .comp, .kiln, .recov, .sched, .jour, .opLog, .energy] := fun _ y => y
  try extract_lets -underBinder
  repeat' first
   | with_reducible assumption
   | exact sub_trans rfl hsub
   | intro _
   | with_reducible apply kept_ite
   | with_reducible apply live_kept
   | with_reducible apply modPort_kept
   | with_reducible apply dataArrives_kept
   | split
   | extract_lets -underBinder
   | (dsimp +zetaDelta only; split)

theorem execDataStallTimeout_kept (h : CmdHead) (s : State) :
    ∃ t, execDataStallTimeout h s = .next t ∧ Kept [.free, .dict, .ev, .ports, .doms, .ring, .dram, .comp, .kiln, .sched, .opLog, .energy] s t := by
  unfold execDataStallTimeout
  refine ⟨_, rfl, ?_⟩
  have hk := Kept.refl [.free, .dict, .ev, .ports, .doms, .ring, .dram, .comp, .kiln, .sched, .opLog, .energy] s
  have hsub : ([.free, .dict, .ev, .ports, .doms, .ring, .dram, .comp, .kiln, .sched, .opLog, .energy] : List Part) ⊆ [.free, .dict, .ev, .ports, .doms, .ring, .dram, .comp, .kiln, .sched, .opLog, .energy] := fun _ y => y
  try extract_lets -underBinder
  repeat' first
   | with_reducible assumption
   | exact sub_trans rfl hsub
   | intro _
   | with_reducible apply kept_ite
   | with_reducible apply live_kept
   | with_reducible apply modSlot_kept
   | with_reducible apply completeSlot_kept
   | with_reducible apply progress_kept
   | with_reducible apply kept_id
   | split
   | extract_lets -underBinder
   | (dsimp +zetaDelta only; split)

theorem closeCovered_kept {mask : List Part} {s0 s : State} (h : CmdHead) (hk : Kept mask s0 s)
    (hsub : [.doms] ⊆ mask) : Kept mask s0 (closeCovered h s) := by
  unfold closeCovered
  try extract_lets -underBinder
  repeat' first
   | with_reducible assumption
   | exact sub_trans rfl hsub
   | intro _
   | with_reducible apply kept_ite
   | with_reducible apply modSlot_kept
   | split
   | extract_lets -underBinder
   | (dsimp +zetaDelta only; split)

theorem execTagCloseTimeout_kept (h : CmdHead) (s : State) :
    ∃ t, execTagCloseTimeout h s = .next t ∧ Kept [.doms] s t := by
  unfold execTagCloseTimeout
  refine ⟨_, rfl, ?_⟩
  have hk := Kept.refl [.doms] s
  have hsub : ([.doms] : List Part) ⊆ [.doms] := fun _ y => y
  try extract_lets -underBinder
  repeat' first
   | with_reducible assumption
   | exact sub_trans rfl hsub
   | intro _
   | with_reducible apply kept_ite
   | with_reducible apply live_kept
   | with_reducible apply closeCovered_kept
   | with_reducible apply closeTag_kept
   | split
   | extract_lets -underBinder
   | (dsimp +zetaDelta only; split)

theorem execRingRoomGranted_kept (d : Dom) (s : State) :
    ∃ t, execRingRoomGranted d s = .next t ∧ Kept [.free, .dict, .ev, .ports, .doms, .ring, .dram, .comp, .kiln, .sched, .opLog, .energy] s t := by
  unfold execRingRoomGranted
  refine ⟨_, rfl, ?_⟩
  have hk := Kept.refl [.free, .dict, .ev, .ports, .doms, .ring, .dram, .comp, .kiln, .sched, .opLog, .energy] s
  have hsub : ([.free, .dict, .ev, .ports, .doms, .ring, .dram, .comp, .kiln, .sched, .opLog, .energy] : List Part) ⊆ [.free, .dict, .ev, .ports, .doms, .ring, .dram, .comp, .kiln, .sched, .opLog, .energy] := fun _ y => y
  try extract_lets -underBinder
  repeat' first
   | with_reducible assumption
   | exact sub_trans rfl hsub
   | intro _
   | with_reducible apply kept_ite
   | with_reducible apply live_kept
   | with_reducible apply grantRoom_kept
   | with_reducible apply progress_kept
   | with_reducible apply kept_id
   | split
   | extract_lets -underBinder
   | (dsimp +zetaDelta only; split)

theorem execRingWaitLimitExpiry_kept (h : CmdHead) (s : State) :
    ∃ t, execRingWaitLimitExpiry h s = .next t ∧ Kept [.free, .dict, .ev, .ports, .doms, .ring, .dram, .comp, .kiln, .sched, .opLog, .energy] s t := by
  unfold execRingWaitLimitExpiry
  refine ⟨_, rfl, ?_⟩
  have hk := Kept.refl [.free, .dict, .ev, .ports, .doms, .ring, .dram, .comp, .kiln, .sched, .opLog, .energy] s
  have hsub : ([.free, .dict, .ev, .ports, .doms, .ring, .dram, .comp, .kiln, .sched, .opLog, .energy] : List Part) ⊆ [.free, .dict, .ev, .ports, .doms, .ring, .dram, .comp, .kiln, .sched, .opLog, .energy] := fun _ y => y
  try extract_lets -underBinder
  repeat' first
   | with_reducible assumption
   | exact sub_trans rfl hsub
   | intro _
   | with_reducible apply kept_ite
   | with_reducible apply live_kept
   | with_reducible apply bump_kept
   | with_reducible apply completeSlot_kept
   | with_reducible apply progress_kept
   | with_reducible apply kept_id
   | split
   | extract_lets -underBinder
   | (dsimp +zetaDelta only; split)

theorem execIdleTimeout_kept (d : Dom) (s : State) :
    ∃ t, execIdleTimeout d s = .next t ∧ Kept [.free, .dict, .ev, .ports, .doms, .sched, .opLog] s t := by
  unfold execIdleTimeout
  refine ⟨_, rfl, ?_⟩
  have hk := Kept.refl [.free, .dict, .ev, .ports, .doms, .sched, .opLog] s
  have hsub : ([.free, .dict, .ev, .ports, .doms, .sched, .opLog] : List Part) ⊆ [.free, .dict, .ev, .ports, .doms, .sched, .opLog] := fun _ y => y
  try extract_lets -underBinder
  repeat' first
   | with_reducible assumption
   | exact sub_trans rfl hsub
   | intro _
   | with_reducible apply kept_ite
   | with_reducible apply live_kept
   | with_reducible apply pollPower_kept
   | with_reducible apply modDom_kept
   | split
   | extract_lets -underBinder
   | (dsimp +zetaDelta only; split)

theorem execSelfTestResume_kept (s : State) :
    ∃ t, execSelfTestResume s = .next t ∧ Kept [.test] s t := by
  unfold execSelfTestResume
  refine ⟨_, rfl, ?_⟩
  have hk := Kept.refl [.test] s
  have hsub : ([.test] : List Part) ⊆ [.test] := fun _ y => y
  try extract_lets -underBinder
  repeat' first
   | with_reducible assumption
   | exact sub_trans rfl hsub
   | intro _
   | with_reducible apply kept_ite
   | with_reducible apply live_kept
   | exact Or.inl (mem_of rfl hsub)
   | with_reducible exact Or.inr rfl
   | split
   | extract_lets -underBinder
   | (dsimp +zetaDelta only; split)
   | with_reducible apply kept_mk

theorem passTest_kept {mask : List Part} {s0 s : State} (r : SelfTestRun) (hk : Kept mask s0 s)
    (hsub : [.free, .dict, .ev, .ports, .doms, .test, .sched, .opLog, .energy] ⊆ mask) : Kept mask s0 (passTest r s) := by
  unfold passTest
  try extract_lets -underBinder
  repeat' first
   | with_reducible assumption
   | exact sub_trans rfl hsub
   | intro _
   | with_reducible apply kept_ite
   | with_reducible apply stopTest_kept
   | with_reducible apply completeSlot_kept
   | with_reducible apply kept_id
   | split
   | extract_lets -underBinder
   | (dsimp +zetaDelta only; split)

theorem enterStep_kept {mask : List Part} {s0 s : State} (r : SelfTestRun) (progress : Nat) (hk : Kept mask s0 s)
    (hsub : [.free, .dict, .ev, .ports, .doms, .ring, .dram, .test, .comp, .kiln, .sched, .opLog, .energy] ⊆ mask) : Kept mask s0 (enterStep r progress s) := by
  unfold enterStep
  try extract_lets -underBinder
  repeat' first
   | with_reducible assumption
   | exact sub_trans rfl hsub
   | intro _
   | with_reducible apply kept_ite
   | with_reducible apply progress_kept
   | exact Or.inl (mem_of rfl hsub)
   | with_reducible exact Or.inr rfl
   | split
   | extract_lets -underBinder
   | (dsimp +zetaDelta only; split)
   | with_reducible apply kept_mk

theorem execSelfTestStepComplete_kept (pass : Bool) (progress : Byte) (s : State) :
    ∃ t, execSelfTestStepComplete pass progress s = .next t ∧ Kept [.free, .dict, .ev, .ports, .doms, .ring, .dram, .test, .comp, .kiln, .sched, .opLog, .energy] s t := by
  unfold execSelfTestStepComplete
  refine ⟨_, rfl, ?_⟩
  have hk := Kept.refl [.free, .dict, .ev, .ports, .doms, .ring, .dram, .test, .comp, .kiln, .sched, .opLog, .energy] s
  have hsub : ([.free, .dict, .ev, .ports, .doms, .ring, .dram, .test, .comp, .kiln, .sched, .opLog, .energy] : List Part) ⊆ [.free, .dict, .ev, .ports, .doms, .ring, .dram, .test, .comp, .kiln, .sched, .opLog, .energy] := fun _ y => y
  try extract_lets -underBinder
  repeat' first
   | with_reducible assumption
   | exact sub_trans rfl hsub
   | intro _
   | with_reducible apply kept_ite
   | with_reducible apply live_kept
   | with_reducible apply stopTest_kept
   | with_reducible apply completeSlot_kept
   | with_reducible apply passTest_kept
   | with_reducible apply enterStep_kept
   | with_reducible apply kept_id
   | split
   | extract_lets -underBinder
   | (dsimp +zetaDelta only; split)

end Sys2Proof.Machine
end

