-- ==== Sys2Proof/Laws/KeptLoops.lean ====
section
/-!
SUPPORT. What the operations of Machine/Loops.lean may touch, and that they keep the canonical forms.
-/
set_option linter.unusedTactic false
set_option linter.unreachableTactic false
set_option linter.unusedVariables false

namespace Sys2Proof.Machine

theorem modXport_kept {mask : List Part} {s0 s : State} (f : Xport → Xport) (hk : Kept mask s0 s)
    (hsub : [.xport] ⊆ mask) : Kept mask s0 (modXport f s) := by
  unfold modXport
  try extract_lets -underBinder
  repeat' first
   | with_reducible assumption
   | exact sub_trans rfl hsub
   | intro _
   | with_reducible apply kept_ite
   | exact Or.inl (mem_of rfl hsub)
   | with_reducible exact Or.inr rfl
   | split
   | extract_lets -underBinder
   | (dsimp +zetaDelta only; split)
   | with_reducible apply kept_mk

theorem modLoop_kept {mask : List Part} {s0 s : State} (n : SlotNo) (f : LoopRt → LoopRt) (hk : Kept mask s0 s)
    (hsub : [.xport] ⊆ mask) : Kept mask s0 (modLoop n f s) := by
  unfold modLoop
  try extract_lets -underBinder
  repeat' first
   | with_reducible assumption
   | exact sub_trans rfl hsub
   | intro _
   | with_reducible apply kept_ite
   | with_reducible apply modXport_kept
   | split
   | extract_lets -underBinder
   | (dsimp +zetaDelta only; split)

theorem takeSamples_kept {mask : List Part} {s0 s : State} (x : PeriodInputs) (hk : Kept mask s0 s)
    (hsub : [.dict, .xport] ⊆ mask) : Kept mask s0 (takeSamples x s) := by
  unfold takeSamples
  try extract_lets -underBinder
  repeat' first
   | with_reducible assumption
   | exact sub_trans rfl hsub
   | intro _
   | with_reducible apply kept_ite
   | with_reducible apply kept_foldl
   | with_reducible apply bumpBy_kept
   | with_reducible apply modXport_kept
   | with_reducible apply setObjInt_kept
   | split
   | extract_lets -underBinder
   | (dsimp +zetaDelta only; split)

theorem modEnc_kept {mask : List Part} {s0 s : State} (r : Reel) (f : EncoderRt → EncoderRt) (hk : Kept mask s0 s)
    (hsub : [.xport] ⊆ mask) : Kept mask s0 (modEnc r f s) := by
  unfold modEnc
  try extract_lets -underBinder
  repeat' first
   | with_reducible assumption
   | exact sub_trans rfl hsub
   | intro _
   | with_reducible apply kept_ite
   | with_reducible apply modXport_kept
   | split
   | extract_lets -underBinder
   | (dsimp +zetaDelta only; split)

theorem advanceLpos_kept {mask : List Part} {s0 s : State} (cycles : Nat) (hk : Kept mask s0 s)
    (hsub : [.xport] ⊆ mask) : Kept mask s0 (advanceLpos cycles s) := by
  unfold advanceLpos
  try extract_lets -underBinder
  repeat' first
   | with_reducible assumption
   | exact sub_trans rfl hsub
   | intro _
   | with_reducible apply kept_ite
   | with_reducible apply modXport_kept
   | split
   | extract_lets -underBinder
   | (dsimp +zetaDelta only; split)

theorem latchEncoders_kept {mask : List Part} {s0 s : State} (hk : Kept mask s0 s)
    (hsub : [.dict, .xport] ⊆ mask) : Kept mask s0 (latchEncoders s) := by
  unfold latchEncoders
  try extract_lets -underBinder
  repeat' first
   | with_reducible assumption
   | exact sub_trans rfl hsub
   | intro _
   | with_reducible apply kept_ite
   | with_reducible apply setObjInt_kept
   | with_reducible apply setObj_kept
   | with_reducible apply modEnc_kept
   | with_reducible apply modXport_kept
   | with_reducible apply kept_id
   | split
   | extract_lets -underBinder
   | (dsimp +zetaDelta only; split)

theorem meterPeriod_kept {mask : List Part} {s0 s : State} (hk : Kept mask s0 s)
    (hsub : [.energy] ⊆ mask) : Kept mask s0 (meterPeriod s) := by
  unfold meterPeriod
  try extract_lets -underBinder
  repeat' first
   | with_reducible assumption
   | exact sub_trans rfl hsub
   | intro _
   | with_reducible apply kept_ite
   | exact Or.inl (mem_of rfl hsub)
   | with_reducible exact Or.inr rfl
   | split
   | extract_lets -underBinder
   | (dsimp +zetaDelta only; split)
   | with_reducible apply kept_mk

theorem injectTick_kept {mask : List Part} {s0 s : State} (n : SlotNo) (hk : Kept mask s0 s)
    (hsub : [.xport] ⊆ mask) : Kept mask s0 (injectTick n s) := by
  unfold injectTick
  try extract_lets -underBinder
  repeat' first
   | with_reducible assumption
   | exact sub_trans rfl hsub
   | intro _
   | with_reducible apply kept_ite
   | with_reducible apply modXport_kept
   | split
   | extract_lets -underBinder
   | (dsimp +zetaDelta only; split)

theorem showLoop_kept {mask : List Part} {s0 s : State} (n : SlotNo) (hk : Kept mask s0 s)
    (hsub : [.dict] ⊆ mask) : Kept mask s0 (showLoop n s) := by
  unfold showLoop
  try extract_lets -underBinder
  repeat' first
   | with_reducible assumption
   | exact sub_trans rfl hsub
   | intro _
   | with_reducible apply kept_ite
   | with_reducible apply setObj_kept
   | with_reducible apply setObjInt_kept
   | with_reducible apply kept_id
   | split
   | extract_lets -underBinder
   | (dsimp +zetaDelta only; split)

theorem runSlot_kept {mask : List Part} {s0 s : State} (n : SlotNo) (hk : Kept mask s0 s)
    (hsub : [.dict, .xport] ⊆ mask) : Kept mask s0 (runSlot n s) := by
  unfold runSlot
  try extract_lets -underBinder
  repeat' first
   | with_reducible assumption
   | exact sub_trans rfl hsub
   | intro _
   | with_reducible apply kept_ite
   | with_reducible apply modLoop_kept
   | with_reducible apply showLoop_kept
   | with_reducible apply injectTick_kept
   | with_reducible apply kept_id
   | split
   | extract_lets -underBinder
   | (dsimp +zetaDelta only; split)

theorem runRamps_kept {mask : List Part} {s0 s : State} (hk : Kept mask s0 s)
    (hsub : [.dict, .xport] ⊆ mask) : Kept mask s0 (runRamps s) := by
  unfold runRamps
  try extract_lets -underBinder
  repeat' first
   | with_reducible assumption
   | exact sub_trans rfl hsub
   | intro _
   | with_reducible apply kept_ite
   | with_reducible apply modXport_kept
   | with_reducible apply setObjInt_kept
   | split
   | extract_lets -underBinder
   | (dsimp +zetaDelta only; split)

theorem minSelect_kept {mask : List Part} {s0 s : State} (hk : Kept mask s0 s)
    (hsub : [.dict, .xport] ⊆ mask) : Kept mask s0 (minSelect s) := by
  unfold minSelect
  try extract_lets -underBinder
  repeat' first
   | with_reducible assumption
   | exact sub_trans rfl hsub
   | intro _
   | with_reducible apply kept_ite
   | with_reducible apply kept_foldl
   | with_reducible apply modLoop_kept
   | with_reducible apply modXport_kept
   | with_reducible apply showLoop_kept
   | with_reducible apply setObjInt_kept
   | with_reducible apply kept_id
   | split
   | extract_lets -underBinder
   | (dsimp +zetaDelta only; split)

theorem valley_kept {mask : List Part} {s0 s : State} (hk : Kept mask s0 s)
    (hsub : [.dict, .xport] ⊆ mask) : Kept mask s0 (valley s) := by
  unfold valley
  try extract_lets -underBinder
  repeat' first
   | with_reducible assumption
   | exact sub_trans rfl hsub
   | intro _
   | with_reducible apply kept_ite
   | with_reducible apply modXport_kept
   | with_reducible apply bumpBy_kept
   | with_reducible apply kept_id
   | split
   | extract_lets -underBinder
   | (dsimp +zetaDelta only; split)

theorem modulate_kept {mask : List Part} {s0 s : State} (hk : Kept mask s0 s)
    (hsub : [.xport] ⊆ mask) : Kept mask s0 (modulate s) := by
  unfold modulate
  try extract_lets -underBinder
  repeat' first
   | with_reducible assumption
   | exact sub_trans rfl hsub
   | intro _
   | with_reducible apply kept_ite
   | with_reducible apply modXport_kept
   | split
   | extract_lets -underBinder
   | (dsimp +zetaDelta only; split)

theorem runCapture_kept {mask : List Part} {s0 s : State} (hk : Kept mask s0 s)
    (hsub : [.xport] ⊆ mask) : Kept mask s0 (runCapture s) := by
  unfold runCapture
  try extract_lets -underBinder
  repeat' first
   | with_reducible assumption
   | exact sub_trans rfl hsub
   | intro _
   | with_reducible apply kept_ite
   | with_reducible apply modXport_kept
   | split
   | extract_lets -underBinder
   | (dsimp +zetaDelta only; split)

theorem showCapture_kept {mask : List Part} {s0 s : State} (hk : Kept mask s0 s)
    (hsub : [.dict] ⊆ mask) : Kept mask s0 (showCapture s) := by
  unfold showCapture
  try extract_lets -underBinder
  repeat' first
   | with_reducible assumption
   | exact sub_trans rfl hsub
   | intro _
   | with_reducible apply kept_ite
   | with_reducible apply setObj_kept
   | split
   | extract_lets -underBinder
   | (dsimp +zetaDelta only; split)

end Sys2Proof.Machine
end

