-- ==== Sys2Proof/Laws/KeptSharing.lean ====
section
/-!
SUPPORT. What the operations of Machine/Sharing.lean may touch, and that they keep the canonical forms.
-/
set_option linter.unusedTactic false
set_option linter.unreachableTactic false
set_option linter.unusedVariables false

namespace Sys2Proof.Machine

theorem startLocate_kept {mask : List Part} {s0 s : State} (lpos : Nat) (wrap : Nat) (hk : Kept mask s0 s)
    (hsub : [.xport] ⊆ mask) : Kept mask s0 (startLocate lpos wrap s) := by
  unfold startLocate
  try extract_lets -underBinder
  repeat' first
   | with_reducible assumption
   | exact sub_trans rfl hsub
   | intro _
   | with_reducible apply kept_ite
   | with_reducible apply modXport_kept
   | split
   | extract_lets -underBinder
   | (dsimp +zetaDelta only; split)

theorem seekCut_kept {mask : List Part} {s0 s : State} (c : Cut) (hk : Kept mask s0 s)
    (hsub : [.xport] ⊆ mask) : Kept mask s0 (seekCut c s) := by
  unfold seekCut
  try extract_lets -underBinder
  repeat' first
   | with_reducible assumption
   | exact sub_trans rfl hsub
   | intro _
   | with_reducible apply kept_ite
   | with_reducible apply startLocate_kept
   | split
   | extract_lets -underBinder
   | (dsimp +zetaDelta only; split)

theorem stopTape_kept {mask : List Part} {s0 s : State} (hk : Kept mask s0 s)
    (hsub : [.xport] ⊆ mask) : Kept mask s0 (stopTape s) := by
  unfold stopTape
  try extract_lets -underBinder
  repeat' first
   | with_reducible assumption
   | exact sub_trans rfl hsub
   | intro _
   | with_reducible apply kept_ite
   | with_reducible apply modXport_kept
   | split
   | extract_lets -underBinder
   | (dsimp +zetaDelta only; split)

theorem modSlots_kept {mask : List Part} {s0 s : State} (f : Slot → Slot) (hk : Kept mask s0 s)
    (hsub : [.doms] ⊆ mask) : Kept mask s0 (modSlots f s) := by
  unfold modSlots
  try extract_lets -underBinder
  repeat' first
   | with_reducible assumption
   | exact sub_trans rfl hsub
   | intro _
   | with_reducible apply kept_ite
   | with_reducible apply kept_foldl
   | with_reducible apply modDom_kept
   | split
   | extract_lets -underBinder
   | (dsimp +zetaDelta only; split)

theorem modReaders_kept {mask : List Part} {s0 s : State} (serial : Nat) (f : Slot → Slot) (hk : Kept mask s0 s)
    (hsub : [.doms] ⊆ mask) : Kept mask s0 (modReaders serial f s) := by
  unfold modReaders
  try extract_lets -underBinder
  repeat' first
   | with_reducible assumption
   | exact sub_trans rfl hsub
   | intro _
   | with_reducible apply kept_ite
   | with_reducible apply modSlots_kept
   | split
   | extract_lets -underBinder
   | (dsimp +zetaDelta only; split)

theorem moveFor_kept {mask : List Part} {s0 s : State} (serial : Nat) (hk : Kept mask s0 s)
    (hsub : [.doms] ⊆ mask) : Kept mask s0 (moveFor serial s) := by
  unfold moveFor
  try extract_lets -underBinder
  repeat' first
   | with_reducible assumption
   | exact sub_trans rfl hsub
   | intro _
   | with_reducible apply kept_ite
   | with_reducible apply modReaders_kept
   | with_reducible apply modSlots_kept
   | split
   | extract_lets -underBinder
   | (dsimp +zetaDelta only; split)

theorem startExcursion_kept {mask : List Part} {s0 s : State} (cls : Nat) (serial : Nat) (hk : Kept mask s0 s)
    (hsub : [.dict, .doms, .xport, .sched] ⊆ mask) : Kept mask s0 (startExcursion cls serial s) := by
  unfold startExcursion
  try extract_lets -underBinder
  repeat' first
   | with_reducible assumption
   | exact sub_trans rfl hsub
   | intro _
   | with_reducible apply kept_ite
   | with_reducible apply moveFor_kept
   | with_reducible apply seekCut_kept
   | with_reducible apply enterXport_kept
   | with_reducible apply kept_id
   | exact Or.inl (mem_of rfl hsub)
   | with_reducible exact Or.inr rfl
   | split
   | extract_lets -underBinder
   | (dsimp +zetaDelta only; split)
   | with_reducible apply kept_mk

theorem endExcursion_kept {mask : List Part} {s0 s : State} (hk : Kept mask s0 s)
    (hsub : [.xport, .sched] ⊆ mask) : Kept mask s0 (endExcursion s) := by
  unfold endExcursion
  try extract_lets -underBinder
  repeat' first
   | with_reducible assumption
   | exact sub_trans rfl hsub
   | intro _
   | with_reducible apply kept_ite
   | with_reducible apply stopTape_kept
   | exact Or.inl (mem_of rfl hsub)
   | with_reducible exact Or.inr rfl
   | split
   | extract_lets -underBinder
   | (dsimp +zetaDelta only; split)
   | with_reducible apply kept_mk

theorem goReading_kept {mask : List Part} {s0 s : State} (hk : Kept mask s0 s)
    (hsub : [.dict, .doms, .xport, .sched] ⊆ mask) : Kept mask s0 (goReading s) := by
  unfold goReading
  try extract_lets -underBinder
  repeat' first
   | with_reducible assumption
   | exact sub_trans rfl hsub
   | intro _
   | with_reducible apply kept_ite
   | with_reducible apply startExcursion_kept
   | split
   | extract_lets -underBinder
   | (dsimp +zetaDelta only; split)

theorem startCalibration_kept {mask : List Part} {s0 s : State} (hk : Kept mask s0 s)
    (hsub : [.dict, .xport, .sched] ⊆ mask) : Kept mask s0 (startCalibration s) := by
  unfold startCalibration
  try extract_lets -underBinder
  repeat' first
   | with_reducible assumption
   | exact sub_trans rfl hsub
   | intro _
   | with_reducible apply kept_ite
   | with_reducible apply seekCut_kept
   | with_reducible apply enterXport_kept
   | with_reducible apply kept_id
   | exact Or.inl (mem_of rfl hsub)
   | with_reducible exact Or.inr rfl
   | split
   | extract_lets -underBinder
   | (dsimp +zetaDelta only; split)
   | with_reducible apply kept_mk

theorem stopDailies_kept {mask : List Part} {s0 s : State} (hk : Kept mask s0 s)
    (hsub : [.xport, .sched] ⊆ mask) : Kept mask s0 (stopDailies s) := by
  unfold stopDailies
  try extract_lets -underBinder
  repeat' first
   | with_reducible assumption
   | exact sub_trans rfl hsub
   | intro _
   | with_reducible apply kept_ite
   | with_reducible apply endExcursion_kept
   | exact Or.inl (mem_of rfl hsub)
   | with_reducible exact Or.inr rfl
   | split
   | extract_lets -underBinder
   | (dsimp +zetaDelta only; split)
   | with_reducible apply kept_mk

theorem leaveExcursion_kept {mask : List Part} {s0 s : State} (hk : Kept mask s0 s)
    (hsub : [.sched] ⊆ mask) : Kept mask s0 (leaveExcursion s) := by
  unfold leaveExcursion
  try extract_lets -underBinder
  repeat' first
   | with_reducible assumption
   | exact sub_trans rfl hsub
   | intro _
   | with_reducible apply kept_ite
   | exact Or.inl (mem_of rfl hsub)
   | with_reducible exact Or.inr rfl
   | split
   | extract_lets -underBinder
   | (dsimp +zetaDelta only; split)
   | with_reducible apply kept_mk

theorem startReads_kept {mask : List Part} {s0 s : State} (hk : Kept mask s0 s)
    (hsub : [.dict, .doms, .xport, .sched] ⊆ mask) : Kept mask s0 (startReads s) := by
  unfold startReads
  try extract_lets -underBinder
  repeat' first
   | with_reducible assumption
   | exact sub_trans rfl hsub
   | intro _
   | with_reducible apply kept_ite
   | with_reducible apply leaveExcursion_kept
   | with_reducible apply stopDailies_kept
   | with_reducible apply startCalibration_kept
   | with_reducible apply goReading_kept
   | split
   | extract_lets -underBinder
   | (dsimp +zetaDelta only; split)

end Sys2Proof.Machine
end

