-- ==== Sys2Proof/Laws/KeptTransport.lean ====
section
/-!
SUPPORT. What the operations of Machine/Transport.lean may touch, and that they keep the canonical forms.
-/
set_option linter.unusedTactic false
set_option linter.unreachableTactic false
set_option linter.unusedVariables false

namespace Sys2Proof.Machine

theorem dropOpenCut_kept {mask : List Part} {s0 s : State} (hk : Kept mask s0 s)
    (hsub : [.comp, .cart, .sched] ⊆ mask) : Kept mask s0 (dropOpenCut s) := by
  unfold dropOpenCut
  try extract_lets -underBinder
  repeat' first
   | with_reducible assumption
   | exact sub_trans rfl hsub
   | intro _
   | with_reducible apply kept_ite
   | with_reducible apply modTape_kept
   | with_reducible apply kept_id
   | exact Or.inl (mem_of rfl hsub)
   | with_reducible exact Or.inr rfl
   | split
   | extract_lets -underBinder
   | (dsimp +zetaDelta only; split)
   | with_reducible apply kept_mk

theorem transportFault_kept {mask : List Part} {s0 s : State} (cause : Nat) (hk : Kept mask s0 s)
    (hsub : [.free, .dict, .ev, .ports, .doms, .ring, .dram, .test, .comp, .cart, .xport, .kiln, .sched, .opLog, .energy] ⊆ mask) : Kept mask s0 (transportFault cause s) := by
  unfold transportFault
  try extract_lets -underBinder
  repeat' first
   | with_reducible assumption
   | exact sub_trans rfl hsub
   | intro _
   | with_reducible apply kept_ite
   | with_reducible apply dropOpenCut_kept
   | with_reducible apply enterXport_kept
   | with_reducible apply setObj_kept
   | with_reducible apply modXport_kept
   | with_reducible apply postEvent_kept
   | with_reducible apply faultCartridge_kept
   | with_reducible apply progressAll_kept
   | with_reducible apply pollPower_kept
   | with_reducible apply kept_id
   | exact Or.inl (mem_of rfl hsub)
   | with_reducible exact Or.inr rfl
   | split
   | extract_lets -underBinder
   | (dsimp +zetaDelta only; split)
   | with_reducible apply kept_mk

theorem shortBridges_kept {mask : List Part} {s0 s : State} (hk : Kept mask s0 s)
    (hsub : [.xport] ⊆ mask) : Kept mask s0 (shortBridges s) := by
  unfold shortBridges
  try extract_lets -underBinder
  repeat' first
   | with_reducible assumption
   | exact sub_trans rfl hsub
   | intro _
   | with_reducible apply kept_ite
   | with_reducible apply modXport_kept
   | split
   | extract_lets -underBinder
   | (dsimp +zetaDelta only; split)

theorem clearReady_kept {mask : List Part} {s0 s : State} (hk : Kept mask s0 s)
    (hsub : [.free, .dict, .ev, .ports, .xport, .power, .opLog] ⊆ mask) : Kept mask s0 (clearReady s) := by
  unfold clearReady
  try extract_lets -underBinder
  repeat' first
   | with_reducible assumption
   | exact sub_trans rfl hsub
   | intro _
   | with_reducible apply kept_ite
   | with_reducible apply modXport_kept
   | with_reducible apply postEvent_kept
   | with_reducible apply kept_id
   | exact Or.inl (mem_of rfl hsub)
   | with_reducible exact Or.inr rfl
   | split
   | extract_lets -underBinder
   | (dsimp +zetaDelta only; split)
   | with_reducible apply kept_mk

theorem holdupFault_kept {mask : List Part} {s0 s : State} (n : Nat) (hk : Kept mask s0 s)
    (hsub : [.free, .dict, .ev, .ports, .xport, .power, .opLog] ⊆ mask) : Kept mask s0 (holdupFault n s) := by
  unfold holdupFault
  try extract_lets -underBinder
  repeat' first
   | with_reducible assumption
   | exact sub_trans rfl hsub
   | intro _
   | with_reducible apply kept_ite
   | with_reducible apply postEvent_kept
   | with_reducible apply clearReady_kept
   | with_reducible apply kept_id
   | exact Or.inl (mem_of rfl hsub)
   | with_reducible exact Or.inr rfl
   | split
   | extract_lets -underBinder
   | (dsimp +zetaDelta only; split)
   | with_reducible apply kept_mk

theorem loopFault_kept {mask : List Part} {s0 s : State} (n : SlotNo) (hk : Kept mask s0 s)
    (hsub : [.free, .dict, .ev, .ports, .doms, .ring, .dram, .test, .comp, .cart, .xport, .power, .kiln, .sched, .opLog, .energy] ⊆ mask) : Kept mask s0 (loopFault n s) := by
  unfold loopFault
  try extract_lets -underBinder
  repeat' first
   | with_reducible assumption
   | exact sub_trans rfl hsub
   | intro _
   | with_reducible apply kept_ite
   | with_reducible apply modLoop_kept
   | with_reducible apply showLoop_kept
   | with_reducible apply postEvent_kept
   | with_reducible apply transportFault_kept
   | with_reducible apply shortBridges_kept
   | with_reducible apply holdupFault_kept
   | with_reducible apply kept_id
   | split
   | extract_lets -underBinder
   | (dsimp +zetaDelta only; split)

theorem raiseLoopFaults_kept {mask : List Part} {s0 s : State} (hk : Kept mask s0 s)
    (hsub : [.free, .dict, .ev, .ports, .doms, .ring, .dram, .test, .comp, .cart, .xport, .power, .kiln, .sched, .opLog, .energy] ⊆ mask) : Kept mask s0 (raiseLoopFaults s) := by
  unfold raiseLoopFaults
  try extract_lets -underBinder
  repeat' first
   | with_reducible assumption
   | exact sub_trans rfl hsub
   | intro _
   | with_reducible apply kept_ite
   | with_reducible apply kept_foldl
   | with_reducible apply loopFault_kept
   | split
   | extract_lets -underBinder
   | (dsimp +zetaDelta only; split)

theorem finishStop_kept {mask : List Part} {s0 s : State} (hk : Kept mask s0 s)
    (hsub : [.dict, .xport] ⊆ mask) : Kept mask s0 (finishStop s) := by
  unfold finishStop
  try extract_lets -underBinder
  repeat' first
   | with_reducible assumption
   | exact sub_trans rfl hsub
   | intro _
   | with_reducible apply kept_ite
   | with_reducible apply enterXport_kept
   | with_reducible apply modXport_kept
   | split
   | extract_lets -underBinder
   | (dsimp +zetaDelta only; split)

theorem withCap_kept {mask : List Part} {s0 s : State} (f : State → State) (hk : Kept mask s0 s)
    (hsub : [.free, .dict, .ev, .ports, .opLog] ⊆ mask) (hff : ∀ t, Kept mask s0 t → Kept mask s0 (f t)) : Kept mask s0 (withCap f s) := by
  unfold withCap
  try extract_lets -underBinder
  repeat' first
   | with_reducible assumption
   | exact sub_trans rfl hsub
   | intro _
   | with_reducible apply kept_ite
   | with_reducible apply hff
   | with_reducible apply postEvent_kept
   | split
   | extract_lets -underBinder
   | (dsimp +zetaDelta only; split)

theorem speedExcursion_kept {mask : List Part} {s0 s : State} (hk : Kept mask s0 s)
    (hsub : [.free, .dict, .ev, .ports, .xport, .sched, .opLog] ⊆ mask) : Kept mask s0 (speedExcursion s) := by
  unfold speedExcursion
  try extract_lets -underBinder
  repeat' first
   | with_reducible assumption
   | exact sub_trans rfl hsub
   | intro _
   | with_reducible apply kept_ite
   | with_reducible apply bump_kept
   | with_reducible apply modXport_kept
   | with_reducible apply withCap_kept
   | with_reducible apply kept_id
   | exact Or.inl (mem_of rfl hsub)
   | with_reducible exact Or.inr rfl
   | split
   | extract_lets -underBinder
   | (dsimp +zetaDelta only; split)
   | with_reducible apply kept_mk

theorem judgeSpeed_kept {mask : List Part} {s0 s : State} (hk : Kept mask s0 s)
    (hsub : [.free, .dict, .ev, .ports, .xport, .sched, .opLog] ⊆ mask) : Kept mask s0 (judgeSpeed s) := by
  unfold judgeSpeed
  try extract_lets -underBinder
  repeat' first
   | with_reducible assumption
   | exact sub_trans rfl hsub
   | intro _
   | with_reducible apply kept_ite
   | with_reducible apply modXport_kept
   | with_reducible apply speedExcursion_kept
   | split
   | extract_lets -underBinder
   | (dsimp +zetaDelta only; split)

theorem takeServo_kept {mask : List Part} {s0 s : State} (x : PeriodInputs) (hk : Kept mask s0 s)
    (hsub : [.xport] ⊆ mask) : Kept mask s0 (takeServo x s) := by
  unfold takeServo
  try extract_lets -underBinder
  repeat' first
   | with_reducible assumption
   | exact sub_trans rfl hsub
   | intro _
   | with_reducible apply kept_ite
   | with_reducible apply modXport_kept
   | split
   | extract_lets -underBinder
   | (dsimp +zetaDelta only; split)

theorem inhibit_kept {mask : List Part} {s0 s : State} (hk : Kept mask s0 s)
    (hsub : [.dict, .xport] ⊆ mask) : Kept mask s0 (inhibit s) := by
  unfold inhibit
  try extract_lets -underBinder
  repeat' first
   | with_reducible assumption
   | exact sub_trans rfl hsub
   | intro _
   | with_reducible apply kept_ite
   | with_reducible apply bump_kept
   | with_reducible apply modXport_kept
   | split
   | extract_lets -underBinder
   | (dsimp +zetaDelta only; split)

theorem execWriteInhibit_kept (pos : Half) (s : State) :
    ∃ t, execWriteInhibit pos s = .next t ∧ Kept [.dict, .xport] s t := by
  unfold execWriteInhibit
  refine ⟨_, rfl, ?_⟩
  have hk := Kept.refl [.dict, .xport] s
  have hsub : ([.dict, .xport] : List Part) ⊆ [.dict, .xport] := fun _ y => y
  try extract_lets -underBinder
  repeat' first
   | with_reducible assumption
   | exact sub_trans rfl hsub
   | intro _
   | with_reducible apply kept_ite
   | with_reducible apply live_kept
   | with_reducible apply inhibit_kept
   | with_reducible apply modXport_kept
   | split
   | extract_lets -underBinder
   | (dsimp +zetaDelta only; split)

theorem breakRevolution_kept {mask : List Part} {s0 s : State} (hk : Kept mask s0 s)
    (hsub : [.xport] ⊆ mask) : Kept mask s0 (breakRevolution s) := by
  unfold breakRevolution
  try extract_lets -underBinder
  repeat' first
   | with_reducible assumption
   | exact sub_trans rfl hsub
   | intro _
   | with_reducible apply kept_ite
   | with_reducible apply modXport_kept
   | split
   | extract_lets -underBinder
   | (dsimp +zetaDelta only; split)

theorem execServoReaderLost_kept (upper : Bool) (s : State) :
    ∃ t, execServoReaderLost upper s = .next t ∧ Kept [.dict, .xport] s t := by
  unfold execServoReaderLost
  refine ⟨_, rfl, ?_⟩
  have hk := Kept.refl [.dict, .xport] s
  have hsub : ([.dict, .xport] : List Part) ⊆ [.dict, .xport] := fun _ y => y
  try extract_lets -underBinder
  repeat' first
   | with_reducible assumption
   | exact sub_trans rfl hsub
   | intro _
   | with_reducible apply kept_ite
   | with_reducible apply live_kept
   | with_reducible apply modXport_kept
   | with_reducible apply inhibit_kept
   | with_reducible apply breakRevolution_kept
   | split
   | extract_lets -underBinder
   | (dsimp +zetaDelta only; split)

theorem execServoReaderFault_kept (s : State) :
    ∃ t, execServoReaderFault s = .next t ∧ Kept [.free, .dict, .ev, .ports, .doms, .ring, .dram, .test, .comp, .cart, .xport, .kiln, .sched, .opLog, .energy] s t := by
  unfold execServoReaderFault
  refine ⟨_, rfl, ?_⟩
  have hk := Kept.refl [.free, .dict, .ev, .ports, .doms, .ring, .dram, .test, .comp, .cart, .xport, .kiln, .sched, .opLog, .energy] s
  have hsub : ([.free, .dict, .ev, .ports, .doms, .ring, .dram, .test, .comp, .cart, .xport, .kiln, .sched, .opLog, .energy] : List Part) ⊆ [.free, .dict, .ev, .ports, .doms, .ring, .dram, .test, .comp, .cart, .xport, .kiln, .sched, .opLog, .energy] := fun _ y => y
  try extract_lets -underBinder
  repeat' first
   | with_reducible assumption
   | exact sub_trans rfl hsub
   | intro _
   | with_reducible apply kept_ite
   | with_reducible apply live_kept
   | with_reducible apply transportFault_kept
   | with_reducible apply postEvent_kept
   | split
   | extract_lets -underBinder
   | (dsimp +zetaDelta only; split)

theorem takeLpos_kept {mask : List Part} {s0 s : State} (lpos : Nat) (hk : Kept mask s0 s)
    (hsub : [.xport] ⊆ mask) : Kept mask s0 (takeLpos lpos s) := by
  unfold takeLpos
  try extract_lets -underBinder
  repeat' first
   | with_reducible assumption
   | exact sub_trans rfl hsub
   | intro _
   | with_reducible apply kept_ite
   | with_reducible apply modXport_kept
   | split
   | extract_lets -underBinder
   | (dsimp +zetaDelta only; split)

theorem execLposWord_kept (word : BitVec 40) (s : State) :
    ∃ t, execLposWord word s = .next t ∧ Kept [.xport] s t := by
  unfold execLposWord
  refine ⟨_, rfl, ?_⟩
  have hk := Kept.refl [.xport] s
  have hsub : ([.xport] : List Part) ⊆ [.xport] := fun _ y => y
  try extract_lets -underBinder
  repeat' first
   | with_reducible assumption
   | exact sub_trans rfl hsub
   | intro _
   | with_reducible apply kept_ite
   | with_reducible apply live_kept
   | with_reducible apply takeLpos_kept
   | split
   | extract_lets -underBinder
   | (dsimp +zetaDelta only; split)

theorem execLposWordLoss_kept (s : State) :
    ∃ t, execLposWordLoss s = .next t ∧ Kept [.xport] s t := by
  unfold execLposWordLoss
  refine ⟨_, rfl, ?_⟩
  have hk := Kept.refl [.xport] s
  have hsub : ([.xport] : List Part) ⊆ [.xport] := fun _ y => y
  try extract_lets -underBinder
  repeat' first
   | with_reducible assumption
   | exact sub_trans rfl hsub
   | intro _
   | with_reducible apply kept_ite
   | with_reducible apply live_kept
   | with_reducible apply breakRevolution_kept
   | with_reducible apply modXport_kept
   | split
   | extract_lets -underBinder
   | (dsimp +zetaDelta only; split)

theorem execEncoderEdge_kept (r : Fin 2) (a : BitVec 15) (b : BitVec 15) (tick : BitVec 12) (s : State) :
    ∃ t, execEncoderEdge r a b tick s = .next t ∧ Kept [.dict, .xport] s t := by
  unfold execEncoderEdge
  refine ⟨_, rfl, ?_⟩
  have hk := Kept.refl [.dict, .xport] s
  have hsub : ([.dict, .xport] : List Part) ⊆ [.dict, .xport] := fun _ y => y
  try extract_lets -underBinder
  repeat' first
   | with_reducible assumption
   | exact sub_trans rfl hsub
   | intro _
   | with_reducible apply kept_ite
   | with_reducible apply live_kept
   | with_reducible apply modEnc_kept
   | with_reducible apply bump_kept
   | with_reducible apply bumpBy_kept
   | with_reducible apply kept_id
   | split
   | extract_lets -underBinder
   | (dsimp +zetaDelta only; split)

theorem execEncoderFault_kept (r : Fin 2) (s : State) :
    ∃ t, execEncoderFault r s = .next t ∧ Kept [.free, .dict, .ev, .ports, .doms, .ring, .dram, .test, .comp, .cart, .xport, .kiln, .sched, .opLog, .energy] s t := by
  unfold execEncoderFault
  refine ⟨_, rfl, ?_⟩
  have hk := Kept.refl [.free, .dict, .ev, .ports, .doms, .ring, .dram, .test, .comp, .cart, .xport, .kiln, .sched, .opLog, .energy] s
  have hsub : ([.free, .dict, .ev, .ports, .doms, .ring, .dram, .test, .comp, .cart, .xport, .kiln, .sched, .opLog, .energy] : List Part) ⊆ [.free, .dict, .ev, .ports, .doms, .ring, .dram, .test, .comp, .cart, .xport, .kiln, .sched, .opLog, .energy] := fun _ y => y
  try extract_lets -underBinder
  repeat' first
   | with_reducible assumption
   | exact sub_trans rfl hsub
   | intro _
   | with_reducible apply kept_ite
   | with_reducible apply live_kept
   | with_reducible apply modEnc_kept
   | with_reducible apply postEvent_kept
   | with_reducible apply transportFault_kept
   | with_reducible apply shortBridges_kept
   | with_reducible apply kept_id
   | split
   | extract_lets -underBinder
   | (dsimp +zetaDelta only; split)

theorem execStandstill_kept (r : Fin 2) (s : State) :
    ∃ t, execStandstill r s = .next t ∧ Kept [.xport] s t := by
  unfold execStandstill
  refine ⟨_, rfl, ?_⟩
  have hk := Kept.refl [.xport] s
  have hsub : ([.xport] : List Part) ⊆ [.xport] := fun _ y => y
  try extract_lets -underBinder
  repeat' first
   | with_reducible assumption
   | exact sub_trans rfl hsub
   | intro _
   | with_reducible apply kept_ite
   | with_reducible apply live_kept
   | with_reducible apply modEnc_kept
   | split
   | extract_lets -underBinder
   | (dsimp +zetaDelta only; split)

theorem execRadiusMeasured_kept (r : Fin 2) (s : State) :
    ∃ t, execRadiusMeasured r s = .next t ∧ Kept [.dict, .xport] s t := by
  unfold execRadiusMeasured
  refine ⟨_, rfl, ?_⟩
  have hk := Kept.refl [.dict, .xport] s
  have hsub : ([.dict, .xport] : List Part) ⊆ [.dict, .xport] := fun _ y => y
  try extract_lets -underBinder
  repeat' first
   | with_reducible assumption
   | exact sub_trans rfl hsub
   | intro _
   | with_reducible apply kept_ite
   | with_reducible apply live_kept
   | with_reducible apply setObj_kept
   | with_reducible apply modEnc_kept
   | with_reducible apply kept_id
   | split
   | extract_lets -underBinder
   | (dsimp +zetaDelta only; split)

theorem execSpeedMismatch_kept (s : State) :
    ∃ t, execSpeedMismatch s = .next t ∧ Kept [.free, .dict, .ev, .ports, .xport, .opLog] s t := by
  unfold execSpeedMismatch
  refine ⟨_, rfl, ?_⟩
  have hk := Kept.refl [.free, .dict, .ev, .ports, .xport, .opLog] s
  have hsub : ([.free, .dict, .ev, .ports, .xport, .opLog] : List Part) ⊆ [.free, .dict, .ev, .ports, .xport, .opLog] := fun _ y => y
  try extract_lets -underBinder
  repeat' first
   | with_reducible assumption
   | exact sub_trans rfl hsub
   | intro _
   | with_reducible apply kept_ite
   | with_reducible apply live_kept
   | with_reducible apply modXport_kept
   | with_reducible apply bump_kept
   | with_reducible apply postEvent_kept
   | with_reducible apply kept_id
   | split
   | extract_lets -underBinder
   | (dsimp +zetaDelta only; split)

theorem execSpeedAgreement_kept (s : State) :
    ∃ t, execSpeedAgreement s = .next t ∧ Kept [.xport] s t := by
  unfold execSpeedAgreement
  refine ⟨_, rfl, ?_⟩
  have hk := Kept.refl [.xport] s
  have hsub : ([.xport] : List Part) ⊆ [.xport] := fun _ y => y
  try extract_lets -underBinder
  repeat' first
   | with_reducible assumption
   | exact sub_trans rfl hsub
   | intro _
   | with_reducible apply kept_ite
   | with_reducible apply live_kept
   | with_reducible apply modXport_kept
   | split
   | extract_lets -underBinder
   | (dsimp +zetaDelta only; split)

theorem execTensionArmMismatch_kept (s : State) :
    ∃ t, execTensionArmMismatch s = .next t ∧ Kept [.free, .dict, .ev, .ports, .opLog] s t := by
  unfold execTensionArmMismatch
  refine ⟨_, rfl, ?_⟩
  have hk := Kept.refl [.free, .dict, .ev, .ports, .opLog] s
  have hsub : ([.free, .dict, .ev, .ports, .opLog] : List Part) ⊆ [.free, .dict, .ev, .ports, .opLog] := fun _ y => y
  try extract_lets -underBinder
  repeat' first
   | with_reducible assumption
   | exact sub_trans rfl hsub
   | intro _
   | with_reducible apply kept_ite
   | with_reducible apply live_kept
   | with_reducible apply bump_kept
   | with_reducible apply postEvent_kept
   | with_reducible apply kept_id
   | split
   | extract_lets -underBinder
   | (dsimp +zetaDelta only; split)

theorem execTensionFault_kept (s : State) :
    ∃ t, execTensionFault s = .next t ∧ Kept [.free, .dict, .ev, .ports, .doms, .ring, .dram, .test, .comp, .cart, .xport, .kiln, .sched, .opLog, .energy] s t := by
  unfold execTensionFault
  refine ⟨_, rfl, ?_⟩
  have hk := Kept.refl [.free, .dict, .ev, .ports, .doms, .ring, .dram, .test, .comp, .cart, .xport, .kiln, .sched, .opLog, .energy] s
  have hsub : ([.free, .dict, .ev, .ports, .doms, .ring, .dram, .test, .comp, .cart, .xport, .kiln, .sched, .opLog, .energy] : List Part) ⊆ [.free, .dict, .ev, .ports, .doms, .ring, .dram, .test, .comp, .cart, .xport, .kiln, .sched, .opLog, .energy] := fun _ y => y
  try extract_lets -underBinder
  repeat' first
   | with_reducible assumption
   | exact sub_trans rfl hsub
   | intro _
   | with_reducible apply kept_ite
   | with_reducible apply live_kept
   | with_reducible apply postEvent_kept
   | with_reducible apply transportFault_kept
   | with_reducible apply kept_id
   | split
   | extract_lets -underBinder
   | (dsimp +zetaDelta only; split)

theorem execReelsAtRest_kept (s : State) :
    ∃ t, execReelsAtRest s = .next t ∧ Kept [.free, .dict, .ev, .ports, .xport, .sched, .opLog] s t := by
  unfold execReelsAtRest
  refine ⟨_, rfl, ?_⟩
  have hk := Kept.refl [.free, .dict, .ev, .ports, .xport, .sched, .opLog] s
  have hsub : ([.free, .dict, .ev, .ports, .xport, .sched, .opLog] : List Part) ⊆ [.free, .dict, .ev, .ports, .xport, .sched, .opLog] := fun _ y => y
  try extract_lets -underBinder
  repeat' first
   | with_reducible assumption
   | exact sub_trans rfl hsub
   | intro _
   | with_reducible apply kept_ite
   | with_reducible apply live_kept
   | with_reducible apply modXport_kept
   | with_reducible apply pollPower_kept
   | with_reducible apply enterXport_kept
   | with_reducible apply finishStop_kept
   | split
   | extract_lets -underBinder
   | (dsimp +zetaDelta only; split)

theorem countHeadLoad_kept {mask : List Part} {s0 s : State} (hk : Kept mask s0 s)
    (hsub : [.free, .dict, .ev, .ports, .xport, .opLog] ⊆ mask) : Kept mask s0 (countHeadLoad s) := by
  unfold countHeadLoad
  try extract_lets -underBinder
  repeat' first
   | with_reducible assumption
   | exact sub_trans rfl hsub
   | intro _
   | with_reducible apply kept_ite
   | with_reducible apply bump_kept
   | with_reducible apply postEvent_kept
   | with_reducible apply modXport_kept
   | with_reducible apply kept_id
   | split
   | extract_lets -underBinder
   | (dsimp +zetaDelta only; split)

theorem seedRadii_kept {mask : List Part} {s0 s : State} (wCart : Nat) (wMach : Nat) (hk : Kept mask s0 s)
    (hsub : [.dict] ⊆ mask) : Kept mask s0 (seedRadii wCart wMach s) := by
  unfold seedRadii
  try extract_lets -underBinder
  repeat' first
   | with_reducible assumption
   | exact sub_trans rfl hsub
   | intro _
   | with_reducible apply kept_ite
   | with_reducible apply setObj_kept
   | with_reducible apply kept_id
   | split
   | extract_lets -underBinder
   | (dsimp +zetaDelta only; split)

theorem execHeadLoaded_kept (wCart : Half) (wMach : Half) (s : State) :
    ∃ t, execHeadLoaded wCart wMach s = .next t ∧ Kept [.free, .dict, .ev, .ports, .xport, .opLog] s t := by
  unfold execHeadLoaded
  refine ⟨_, rfl, ?_⟩
  have hk := Kept.refl [.free, .dict, .ev, .ports, .xport, .opLog] s
  have hsub : ([.free, .dict, .ev, .ports, .xport, .opLog] : List Part) ⊆ [.free, .dict, .ev, .ports, .xport, .opLog] := fun _ y => y
  try extract_lets -underBinder
  repeat' first
   | with_reducible assumption
   | exact sub_trans rfl hsub
   | intro _
   | with_reducible apply kept_ite
   | with_reducible apply live_kept
   | with_reducible apply countHeadLoad_kept
   | with_reducible apply seedRadii_kept
   | with_reducible apply enterXport_kept
   | with_reducible apply kept_id
   | split
   | extract_lets -underBinder
   | (dsimp +zetaDelta only; split)

theorem execHeadUnloaded_kept (s : State) :
    ∃ t, execHeadUnloaded s = .next t ∧ Kept [.dict, .xport] s t := by
  unfold execHeadUnloaded
  refine ⟨_, rfl, ?_⟩
  have hk := Kept.refl [.dict, .xport] s
  have hsub : ([.dict, .xport] : List Part) ⊆ [.dict, .xport] := fun _ y => y
  try extract_lets -underBinder
  repeat' first
   | with_reducible assumption
   | exact sub_trans rfl hsub
   | intro _
   | with_reducible apply kept_ite
   | with_reducible apply live_kept
   | with_reducible apply finishStop_kept
   | with_reducible apply modXport_kept
   | split
   | extract_lets -underBinder
   | (dsimp +zetaDelta only; split)

theorem transportRequest_kept {mask : List Part} {s0 s : State} (w : Writer) (action : Nat) (gen : Half) (legal : Bool) (f : State → State) (hk : Kept mask s0 s)
    (hsub : [.dict, .ports, .ecat] ⊆ mask) (hff : ∀ t, Kept mask s0 t → Kept mask s0 (f t)) : Kept mask s0 (transportRequest w action gen legal f s) := by
  unfold transportRequest
  try extract_lets -underBinder
  repeat' first
   | with_reducible assumption
   | exact sub_trans rfl hsub
   | intro _
   | with_reducible apply kept_ite
   | with_reducible apply hff
   | with_reducible apply stateRequest_kept
   | split
   | extract_lets -underBinder
   | (dsimp +zetaDelta only; split)

theorem clearFault_kept {mask : List Part} {s0 s : State} (hk : Kept mask s0 s)
    (hsub : [.free, .dict, .ev, .ports, .xport, .sched, .opLog] ⊆ mask) : Kept mask s0 (clearFault s) := by
  unfold clearFault
  try extract_lets -underBinder
  repeat' first
   | with_reducible assumption
   | exact sub_trans rfl hsub
   | intro _
   | with_reducible apply kept_ite
   | with_reducible apply kept_foldl
   | with_reducible apply modLoop_kept
   | with_reducible apply showLoop_kept
   | with_reducible apply modXport_kept
   | with_reducible apply setObj_kept
   | with_reducible apply enterXport_kept
   | with_reducible apply pollPower_kept
   | with_reducible apply kept_id
   | split
   | extract_lets -underBinder
   | (dsimp +zetaDelta only; split)

theorem reqClearFault_kept {mask : List Part} {s0 s : State} (w : Writer) (gen : Half) (hk : Kept mask s0 s)
    (hsub : [.free, .dict, .ev, .ports, .ecat, .xport, .sched, .opLog] ⊆ mask) : Kept mask s0 (reqClearFault w gen s) := by
  unfold reqClearFault
  try extract_lets -underBinder
  repeat' first
   | with_reducible assumption
   | exact sub_trans rfl hsub
   | intro _
   | with_reducible apply kept_ite
   | with_reducible apply transportRequest_kept
   | with_reducible apply clearFault_kept
   | split
   | extract_lets -underBinder
   | (dsimp +zetaDelta only; split)

theorem execClearFault_kept (w : Writer) (gen : Half) (s : State) :
    ∃ t, execClearFault w gen s = .next t ∧ Kept [.free, .dict, .ev, .ports, .ecat, .xport, .sched, .opLog] s t := by
  unfold execClearFault
  refine ⟨_, rfl, ?_⟩
  have hk := Kept.refl [.free, .dict, .ev, .ports, .ecat, .xport, .sched, .opLog] s
  have hsub : ([.free, .dict, .ev, .ports, .ecat, .xport, .sched, .opLog] : List Part) ⊆ [.free, .dict, .ev, .ports, .ecat, .xport, .sched, .opLog] := fun _ y => y
  try extract_lets -underBinder
  repeat' first
   | with_reducible assumption
   | exact sub_trans rfl hsub
   | intro _
   | with_reducible apply kept_ite
   | with_reducible apply live_kept
   | with_reducible apply arriveValue_kept
   | with_reducible apply reqClearFault_kept
   | split
   | extract_lets -underBinder
   | (dsimp +zetaDelta only; split)

theorem reqEnterTest_kept {mask : List Part} {s0 s : State} (w : Writer) (gen : Half) (hk : Kept mask s0 s)
    (hsub : [.dict, .ports, .ecat, .xport] ⊆ mask) : Kept mask s0 (reqEnterTest w gen s) := by
  unfold reqEnterTest
  try extract_lets -underBinder
  repeat' first
   | with_reducible assumption
   | exact sub_trans rfl hsub
   | intro _
   | with_reducible apply kept_ite
   | with_reducible apply transportRequest_kept
   | with_reducible apply enterXport_kept
   | with_reducible apply modXport_kept
   | split
   | extract_lets -underBinder
   | (dsimp +zetaDelta only; split)

theorem execEnterTest_kept (w : Writer) (gen : Half) (s : State) :
    ∃ t, execEnterTest w gen s = .next t ∧ Kept [.dict, .ports, .ecat, .xport] s t := by
  unfold execEnterTest
  refine ⟨_, rfl, ?_⟩
  have hk := Kept.refl [.dict, .ports, .ecat, .xport] s
  have hsub : ([.dict, .ports, .ecat, .xport] : List Part) ⊆ [.dict, .ports, .ecat, .xport] := fun _ y => y
  try extract_lets -underBinder
  repeat' first
   | with_reducible assumption
   | exact sub_trans rfl hsub
   | intro _
   | with_reducible apply kept_ite
   | with_reducible apply live_kept
   | with_reducible apply arriveValue_kept
   | with_reducible apply reqEnterTest_kept
   | split
   | extract_lets -underBinder
   | (dsimp +zetaDelta only; split)

theorem reqEndTest_kept {mask : List Part} {s0 s : State} (w : Writer) (gen : Half) (hk : Kept mask s0 s)
    (hsub : [.dict, .ports, .ecat, .xport] ⊆ mask) : Kept mask s0 (reqEndTest w gen s) := by
  unfold reqEndTest
  try extract_lets -underBinder
  repeat' first
   | with_reducible assumption
   | exact sub_trans rfl hsub
   | intro _
   | with_reducible apply kept_ite
   | with_reducible apply transportRequest_kept
   | with_reducible apply enterXport_kept
   | split
   | extract_lets -underBinder
   | (dsimp +zetaDelta only; split)

theorem execEndTest_kept (w : Writer) (gen : Half) (s : State) :
    ∃ t, execEndTest w gen s = .next t ∧ Kept [.dict, .ports, .ecat, .xport] s t := by
  unfold execEndTest
  refine ⟨_, rfl, ?_⟩
  have hk := Kept.refl [.dict, .ports, .ecat, .xport] s
  have hsub : ([.dict, .ports, .ecat, .xport] : List Part) ⊆ [.dict, .ports, .ecat, .xport] := fun _ y => y
  try extract_lets -underBinder
  repeat' first
   | with_reducible assumption
   | exact sub_trans rfl hsub
   | intro _
   | with_reducible apply kept_ite
   | with_reducible apply live_kept
   | with_reducible apply arriveValue_kept
   | with_reducible apply reqEndTest_kept
   | split
   | extract_lets -underBinder
   | (dsimp +zetaDelta only; split)

theorem execCaptureFull_kept (s : State) :
    ∃ t, execCaptureFull s = .next t ∧ Kept [.dict, .xport] s t := by
  unfold execCaptureFull
  refine ⟨_, rfl, ?_⟩
  have hk := Kept.refl [.dict, .xport] s
  have hsub : ([.dict, .xport] : List Part) ⊆ [.dict, .xport] := fun _ y => y
  try extract_lets -underBinder
  repeat' first
   | with_reducible assumption
   | exact sub_trans rfl hsub
   | intro _
   | with_reducible apply kept_ite
   | with_reducible apply live_kept
   | with_reducible apply showCapture_kept
   | with_reducible apply modXport_kept
   | split
   | extract_lets -underBinder
   | (dsimp +zetaDelta only; split)

theorem runAlign_kept {mask : List Part} {s0 s : State} (hk : Kept mask s0 s)
    (hsub : [.dict, .xport] ⊆ mask) : Kept mask s0 (runAlign s) := by
  unfold runAlign
  try extract_lets -underBinder
  repeat' first
   | with_reducible assumption
   | exact sub_trans rfl hsub
   | intro _
   | with_reducible apply kept_ite
   | with_reducible apply setObj_kept
   | with_reducible apply modXport_kept
   | with_reducible apply kept_id
   | split
   | extract_lets -underBinder
   | (dsimp +zetaDelta only; split)

theorem runSlots_kept {mask : List Part} {s0 s : State} (hk : Kept mask s0 s)
    (hsub : [.dict, .xport] ⊆ mask) : Kept mask s0 (runSlots s) := by
  unfold runSlots
  try extract_lets -underBinder
  repeat' first
   | with_reducible assumption
   | exact sub_trans rfl hsub
   | intro _
   | with_reducible apply kept_ite
   | with_reducible apply kept_foldl
   | with_reducible apply runSlot_kept
   | with_reducible apply minSelect_kept
   | with_reducible apply modulate_kept
   | with_reducible apply kept_id
   | split
   | extract_lets -underBinder
   | (dsimp +zetaDelta only; split)

theorem settleMotion_kept {mask : List Part} {s0 s : State} (hk : Kept mask s0 s)
    (hsub : [.dict, .xport] ⊆ mask) : Kept mask s0 (settleMotion s) := by
  unfold settleMotion
  try extract_lets -underBinder
  repeat' first
   | with_reducible assumption
   | exact sub_trans rfl hsub
   | intro _
   | with_reducible apply kept_ite
   | with_reducible apply modXport_kept
   | with_reducible apply enterXport_kept
   | split
   | extract_lets -underBinder
   | (dsimp +zetaDelta only; split)

theorem refillTokens_kept {mask : List Part} {s0 s : State} (hk : Kept mask s0 s)
    (hsub : [.doms] ⊆ mask) : Kept mask s0 (refillTokens s) := by
  unfold refillTokens
  try extract_lets -underBinder
  repeat' first
   | with_reducible assumption
   | exact sub_trans rfl hsub
   | intro _
   | with_reducible apply kept_ite
   | with_reducible apply kept_foldl
   | with_reducible apply modDom_kept
   | split
   | extract_lets -underBinder
   | (dsimp +zetaDelta only; split)

theorem pwmPeriod_kept {mask : List Part} {s0 s : State} (x : PeriodInputs) (hk : Kept mask s0 s)
    (hsub : [.free, .periods, .dict, .ev, .ports, .doms, .ring, .dram, .test, .comp, .cart, .xport, .power, .kiln, .sched, .opLog, .energy] ⊆ mask) : Kept mask s0 (pwmPeriod x s) := by
  unfold pwmPeriod pwmPeriod.setObjIntTension
  refine closeAtCutOff_kept ?_ (sub_trans rfl hsub)
  generalize ht : pollPower _ = t
  have h : Kept mask s0 t := by
    subst ht
    repeat' first
     | with_reducible assumption
     | exact sub_trans rfl hsub
     | with_reducible apply valley_kept
     | with_reducible apply advanceLpos_kept
     | with_reducible apply latchEncoders_kept
     | with_reducible apply takeServo_kept
     | with_reducible apply judgeSpeed_kept
     | with_reducible apply takeSamples_kept
     | with_reducible apply meterPeriod_kept
     | with_reducible apply runRamps_kept
     | with_reducible apply runSlots_kept
     | with_reducible apply raiseLoopFaults_kept
     | with_reducible apply runAlign_kept
     | with_reducible apply runCapture_kept
     | with_reducible apply showCapture_kept
     | with_reducible apply settleMotion_kept
     | with_reducible apply followCart_kept
     | with_reducible apply startReads_kept
     | with_reducible apply refillTokens_kept
     | with_reducible apply pollPower_kept
     | with_reducible apply setObjInt_kept
  apply kept_mk h
  all_goals first | exact Or.inl (mem_of rfl hsub) | exact Or.inr rfl

theorem execPwmPeriod_kept (x : PeriodInputs) (s : State) :
    ∃ t, execPwmPeriod x s = .next t ∧ Kept [.free, .periods, .dict, .ev, .ports, .doms, .ring, .dram, .test, .comp, .cart, .xport, .power, .kiln, .sched, .opLog, .energy] s t := by
  unfold execPwmPeriod
  refine ⟨_, rfl, ?_⟩
  have hk := Kept.refl [.free, .periods, .dict, .ev, .ports, .doms, .ring, .dram, .test, .comp, .cart, .xport, .power, .kiln, .sched, .opLog, .energy] s
  have hsub : ([.free, .periods, .dict, .ev, .ports, .doms, .ring, .dram, .test, .comp, .cart, .xport, .power, .kiln, .sched, .opLog, .energy] : List Part) ⊆ [.free, .periods, .dict, .ev, .ports, .doms, .ring, .dram, .test, .comp, .cart, .xport, .power, .kiln, .sched, .opLog, .energy] := fun _ y => y
  try extract_lets -underBinder
  repeat' first
   | with_reducible assumption
   | exact sub_trans rfl hsub
   | intro _
   | with_reducible apply kept_ite
   | with_reducible apply live_kept
   | with_reducible apply pwmPeriod_kept
   | split
   | extract_lets -underBinder
   | (dsimp +zetaDelta only; split)

end Sys2Proof.Machine
end

