-- ==== Sys2Proof/Laws/KeptPowerFail.lean ====
section
/-!
SUPPORT. What the operations of Machine/PowerFail.lean may touch, and that they keep the canonical forms.
-/
set_option linter.unusedTactic false
set_option linter.unreachableTactic false
set_option linter.unusedVariables false

namespace Sys2Proof.Machine

theorem openOp_kept {mask : List Part} {s0 s : State} (kind : Nat) (param : Nat) (hk : Kept mask s0 s)
    (hsub : [.jour, .opLog] ⊆ mask) : Kept mask s0 (openOp kind param s) := by
  unfold openOp
  try extract_lets -underBinder
  repeat' first
   | with_reducible assumption
   | exact sub_trans rfl hsub
   | intro _
   | with_reducible apply kept_ite
   | exact Or.inl (mem_of rfl hsub)
   | with_reducible exact Or.inr rfl
   | split
   | extract_lets -underBinder
   | (dsimp +zetaDelta only; split)
   | with_reducible apply kept_mk

theorem stepOp_kept {mask : List Part} {s0 s : State} (kind : Nat) (step : Nat) (param : Nat) (hk : Kept mask s0 s)
    (hsub : [.jour, .opLog] ⊆ mask) : Kept mask s0 (stepOp kind step param s) := by
  unfold stepOp
  try extract_lets -underBinder
  repeat' first
   | with_reducible assumption
   | exact sub_trans rfl hsub
   | intro _
   | with_reducible apply kept_ite
   | exact Or.inl (mem_of rfl hsub)
   | with_reducible exact Or.inr rfl
   | split
   | extract_lets -underBinder
   | (dsimp +zetaDelta only; split)
   | with_reducible apply kept_mk

theorem endOp_kept {mask : List Part} {s0 s : State} (kind : Nat) (hk : Kept mask s0 s)
    (hsub : [.jour, .opLog] ⊆ mask) : Kept mask s0 (endOp kind s) := by
  unfold endOp
  try extract_lets -underBinder
  repeat' first
   | with_reducible assumption
   | exact sub_trans rfl hsub
   | intro _
   | with_reducible apply kept_ite
   | exact Or.inl (mem_of rfl hsub)
   | with_reducible exact Or.inr rfl
   | split
   | extract_lets -underBinder
   | (dsimp +zetaDelta only; split)
   | with_reducible apply kept_mk

theorem closeRing_kept {mask : List Part} {s0 s : State} (hk : Kept mask s0 s)
    (hsub : [.jour, .opLog] ⊆ mask) : Kept mask s0 (closeRing s) := by
  unfold closeRing
  try extract_lets -underBinder
  repeat' first
   | with_reducible assumption
   | exact sub_trans rfl hsub
   | intro _
   | with_reducible apply kept_ite
   | exact Or.inl (mem_of rfl hsub)
   | with_reducible exact Or.inr rfl
   | split
   | extract_lets -underBinder
   | (dsimp +zetaDelta only; split)
   | with_reducible apply kept_mk

theorem stopDataPath_kept {mask : List Part} {s0 s : State} (hk : Kept mask s0 s)
    (hsub : [.doms, .dram, .comp, .cart, .recov, .sched] ⊆ mask) : Kept mask s0 (stopDataPath s) := by
  unfold stopDataPath
  try extract_lets -underBinder
  repeat' first
   | with_reducible assumption
   | exact sub_trans rfl hsub
   | intro _
   | with_reducible apply kept_ite
   | with_reducible apply kept_foldl
   | with_reducible apply modDom_kept
   | with_reducible apply kept_id
   | exact Or.inl (mem_of rfl hsub)
   | with_reducible exact Or.inr rfl
   | split
   | extract_lets -underBinder
   | (dsimp +zetaDelta only; split)
   | with_reducible apply kept_mk

theorem brake_kept {mask : List Part} {s0 s : State} (hk : Kept mask s0 s)
    (hsub : [.dict, .xport] ⊆ mask) : Kept mask s0 (brake s) := by
  unfold brake
  try extract_lets -underBinder
  repeat' first
   | with_reducible assumption
   | exact sub_trans rfl hsub
   | intro _
   | with_reducible apply kept_ite
   | with_reducible apply modXport_kept
   | with_reducible apply finishStop_kept
   | with_reducible apply enterXport_kept
   | split
   | extract_lets -underBinder
   | (dsimp +zetaDelta only; split)

theorem startSequence_kept {mask : List Part} {s0 s : State} (forReset : Bool) (source : Nat) (hk : Kept mask s0 s)
    (hsub : [.dict, .doms, .dram, .comp, .cart, .xport, .power, .recov, .sched, .jour, .opLog] ⊆ mask) : Kept mask s0 (startSequence forReset source s) := by
  unfold startSequence
  try extract_lets -underBinder
  repeat' first
   | with_reducible assumption
   | exact sub_trans rfl hsub
   | intro _
   | with_reducible apply kept_ite
   | with_reducible apply closeRing_kept
   | with_reducible apply dropOpenCut_kept
   | with_reducible apply stopDataPath_kept
   | with_reducible apply brake_kept
   | with_reducible apply kept_id
   | exact Or.inl (mem_of rfl hsub)
   | with_reducible exact Or.inr rfl
   | split
   | extract_lets -underBinder
   | (dsimp +zetaDelta only; split)
   | with_reducible apply kept_mk

theorem requestReset_kept {mask : List Part} {s0 s : State} (cause : Nat) (hk : Kept mask s0 s)
    (hsub : [.dict, .doms, .dram, .boot, .comp, .cart, .xport, .power, .recov, .sched, .jour, .opLog] ⊆ mask) : Kept mask s0 (requestReset cause s) := by
  unfold requestReset
  try extract_lets -underBinder
  repeat' first
   | with_reducible assumption
   | exact sub_trans rfl hsub
   | intro _
   | with_reducible apply kept_ite
   | with_reducible apply startSequence_kept
   | exact Or.inl (mem_of rfl hsub)
   | with_reducible exact Or.inr rfl
   | split
   | extract_lets -underBinder
   | (dsimp +zetaDelta only; split)
   | with_reducible apply kept_mk

theorem lastRecovery_kept {mask : List Part} {s0 s : State} (unit : Nat) (outcome : Nat) (us : Nat) (hk : Kept mask s0 s)
    (hsub : [.dict] ⊆ mask) : Kept mask s0 (lastRecovery unit outcome us s) := by
  unfold lastRecovery
  try extract_lets -underBinder
  repeat' first
   | with_reducible assumption
   | exact sub_trans rfl hsub
   | intro _
   | with_reducible apply kept_ite
   | with_reducible apply setObj_kept
   | split
   | extract_lets -underBinder
   | (dsimp +zetaDelta only; split)

theorem escalate_kept {mask : List Part} {s0 s : State} (unit : Nat) (hk : Kept mask s0 s)
    (hsub : [.free, .dict, .ev, .ports, .doms, .dram, .boot, .comp, .cart, .xport, .power, .recov, .sched, .jour, .opLog] ⊆ mask) : Kept mask s0 (escalate unit s) := by
  unfold escalate
  try extract_lets -underBinder
  repeat' first
   | with_reducible assumption
   | exact sub_trans rfl hsub
   | intro _
   | with_reducible apply kept_ite
   | with_reducible apply lastRecovery_kept
   | with_reducible apply postEvent_kept
   | with_reducible apply requestReset_kept
   | with_reducible apply kept_id
   | split
   | extract_lets -underBinder
   | (dsimp +zetaDelta only; split)

theorem execPowerFailureDetected_kept (sources : BitVec 2) (s : State) :
    ∃ t, execPowerFailureDetected sources s = .next t ∧ Kept [.dict, .doms, .dram, .boot, .comp, .cart, .xport, .power, .recov, .sched, .jour, .opLog] s t := by
  unfold execPowerFailureDetected
  refine ⟨_, rfl, ?_⟩
  have hk := Kept.refl [.dict, .doms, .dram, .boot, .comp, .cart, .xport, .power, .recov, .sched, .jour, .opLog] s
  have hsub : ([.dict, .doms, .dram, .boot, .comp, .cart, .xport, .power, .recov, .sched, .jour, .opLog] : List Part) ⊆ [.dict, .doms, .dram, .boot, .comp, .cart, .xport, .power, .recov, .sched, .jour, .opLog] := fun _ y => y
  try extract_lets -underBinder
  repeat' first
   | with_reducible assumption
   | exact sub_trans rfl hsub
   | intro _
   | with_reducible apply kept_ite
   | with_reducible apply live_kept
   | with_reducible apply startSequence_kept
   | exact Or.inl (mem_of rfl hsub)
   | with_reducible exact Or.inr rfl
   | split
   | extract_lets -underBinder
   | (dsimp +zetaDelta only; split)
   | with_reducible apply kept_mk

theorem execHoldupExhausted_kept (vholdMv : Half) (s : State) :
    ∃ t, execHoldupExhausted vholdMv s = .next t ∧ Kept [.dict, .xport, .jour, .opLog] s t := by
  unfold execHoldupExhausted
  refine ⟨_, rfl, ?_⟩
  have hk := Kept.refl [.dict, .xport, .jour, .opLog] s
  have hsub : ([.dict, .xport, .jour, .opLog] : List Part) ⊆ [.dict, .xport, .jour, .opLog] := fun _ y => y
  try extract_lets -underBinder
  repeat' first
   | with_reducible assumption
   | exact sub_trans rfl hsub
   | intro _
   | with_reducible apply kept_ite
   | with_reducible apply live_kept
   | with_reducible apply shortBridges_kept
   | with_reducible apply modXport_kept
   | with_reducible apply finishStop_kept
   | with_reducible apply kept_id
   | exact Or.inl (mem_of rfl hsub)
   | with_reducible exact Or.inr rfl
   | split
   | extract_lets -underBinder
   | (dsimp +zetaDelta only; split)
   | with_reducible apply kept_mk

theorem execSequenceEnd_kept (energyMj : Word) (s : State) :
    ∃ t, execSequenceEnd energyMj s = .next t ∧ Kept [.dict, .boot, .kiln, .jour, .opLog, .savedEnergy] s t := by
  unfold execSequenceEnd
  refine ⟨_, rfl, ?_⟩
  have hk := Kept.refl [.dict, .boot, .kiln, .jour, .opLog, .savedEnergy] s
  have hsub : ([.dict, .boot, .kiln, .jour, .opLog, .savedEnergy] : List Part) ⊆ [.dict, .boot, .kiln, .jour, .opLog, .savedEnergy] := fun _ y => y
  try extract_lets -underBinder
  repeat' first
   | with_reducible assumption
   | exact sub_trans rfl hsub
   | intro _
   | with_reducible apply kept_ite
   | with_reducible apply live_kept
   | with_reducible apply setObj_kept
   | with_reducible apply bump_kept
   | with_reducible apply kept_id
   | exact Or.inl (mem_of rfl hsub)
   | with_reducible exact Or.inr rfl
   | split
   | extract_lets -underBinder
   | (dsimp +zetaDelta only; split)
   | with_reducible apply kept_mk

theorem execHoldupReady_kept (s : State) :
    ∃ t, execHoldupReady s = .next t ∧ Kept [.free, .dict, .ev, .ports, .xport, .power, .sched, .opLog] s t := by
  unfold execHoldupReady
  refine ⟨_, rfl, ?_⟩
  have hk := Kept.refl [.free, .dict, .ev, .ports, .xport, .power, .sched, .opLog] s
  have hsub : ([.free, .dict, .ev, .ports, .xport, .power, .sched, .opLog] : List Part) ⊆ [.free, .dict, .ev, .ports, .xport, .power, .sched, .opLog] := fun _ y => y
  try extract_lets -underBinder
  repeat' first
   | with_reducible assumption
   | exact sub_trans rfl hsub
   | intro _
   | with_reducible apply kept_ite
   | with_reducible apply live_kept
   | with_reducible apply pollPower_kept
   | with_reducible apply followCart_kept
   | exact Or.inl (mem_of rfl hsub)
   | with_reducible exact Or.inr rfl
   | split
   | extract_lets -underBinder
   | (dsimp +zetaDelta only; split)
   | with_reducible apply kept_mk

theorem execHoldupLow_kept (s : State) :
    ∃ t, execHoldupLow s = .next t ∧ Kept [.free, .dict, .ev, .ports, .xport, .power, .opLog] s t := by
  unfold execHoldupLow
  refine ⟨_, rfl, ?_⟩
  have hk := Kept.refl [.free, .dict, .ev, .ports, .xport, .power, .opLog] s
  have hsub : ([.free, .dict, .ev, .ports, .xport, .power, .opLog] : List Part) ⊆ [.free, .dict, .ev, .ports, .xport, .power, .opLog] := fun _ y => y
  try extract_lets -underBinder
  repeat' first
   | with_reducible assumption
   | exact sub_trans rfl hsub
   | intro _
   | with_reducible apply kept_ite
   | with_reducible apply live_kept
   | with_reducible apply clearReady_kept
   | split
   | extract_lets -underBinder
   | (dsimp +zetaDelta only; split)

end Sys2Proof.Machine
end

