-- ==== Sys2Proof/Laws/KeptLines.lean ====
section
/-!
SUPPORT. What the operations of Machine/Lines.lean may touch, and that they keep the canonical forms.
-/
set_option linter.unusedTactic false
set_option linter.unreachableTactic false
set_option linter.unusedVariables false

namespace Sys2Proof.Machine

theorem startRebuild_kept {mask : List Part} {s0 s : State} (hk : Kept mask s0 s)
    (hsub : [.free, .dict, .ev, .ports, .doms, .dram, .boot, .comp, .cart, .xport, .power, .recov, .sched, .jour, .opLog] ⊆ mask) : Kept mask s0 (startRebuild s) := by
  unfold startRebuild
  try extract_lets -underBinder
  repeat' first
   | with_reducible assumption
   | exact sub_trans rfl hsub
   | intro _
   | with_reducible apply kept_ite
   | with_reducible apply escalate_kept
   | exact Or.inl (mem_of rfl hsub)
   | with_reducible exact Or.inr rfl
   | split
   | extract_lets -underBinder
   | (dsimp +zetaDelta only; split)
   | with_reducible apply kept_mk

theorem failTestStep_kept {mask : List Part} {s0 s : State} (hk : Kept mask s0 s)
    (hsub : [.free, .dict, .ev, .ports, .doms, .test, .sched, .opLog, .energy] ⊆ mask) : Kept mask s0 (failTestStep s) := by
  unfold failTestStep
  try extract_lets -underBinder
  repeat' first
   | with_reducible assumption
   | exact sub_trans rfl hsub
   | intro _
   | with_reducible apply kept_ite
   | with_reducible apply stopTest_kept
   | with_reducible apply completeSlot_kept
   | with_reducible apply kept_id
   | split
   | extract_lets -underBinder
   | (dsimp +zetaDelta only; split)

theorem askCopiesAgain_kept {mask : List Part} {s0 s : State} (hk : Kept mask s0 s)
    (hsub : [.kiln] ⊆ mask) : Kept mask s0 (askCopiesAgain s) := by
  unfold askCopiesAgain
  try extract_lets -underBinder
  repeat' first
   | with_reducible assumption
   | exact sub_trans rfl hsub
   | intro _
   | with_reducible apply kept_ite
   | exact Or.inl (mem_of rfl hsub)
   | with_reducible exact Or.inr rfl
   | split
   | extract_lets -underBinder
   | (dsimp +zetaDelta only; split)
   | with_reducible apply kept_mk

theorem failDailiesPage_kept {mask : List Part} {s0 s : State} (hk : Kept mask s0 s)
    (hsub : [.sched] ⊆ mask) : Kept mask s0 (failDailiesPage s) := by
  unfold failDailiesPage
  try extract_lets -underBinder
  repeat' first
   | with_reducible assumption
   | exact sub_trans rfl hsub
   | intro _
   | with_reducible apply kept_ite
   | exact Or.inl (mem_of rfl hsub)
   | with_reducible exact Or.inr rfl
   | split
   | extract_lets -underBinder
   | (dsimp +zetaDelta only; split)
   | with_reducible apply kept_mk

theorem failServicePage_kept {mask : List Part} {s0 s : State} (hk : Kept mask s0 s)
    (hsub : [.free, .dict, .ev, .ports, .doms, .test, .sched, .opLog, .energy] ⊆ mask) : Kept mask s0 (failServicePage s) := by
  unfold failServicePage
  try extract_lets -underBinder
  repeat' first
   | with_reducible assumption
   | exact sub_trans rfl hsub
   | intro _
   | with_reducible apply kept_ite
   | with_reducible apply failDailiesPage_kept
   | with_reducible apply failTestStep_kept
   | split
   | extract_lets -underBinder
   | (dsimp +zetaDelta only; split)

theorem lineLost_kept {mask : List Part} {s0 s : State} (u : LineUse) (hk : Kept mask s0 s)
    (hsub : [.free, .dict, .ev, .ports, .doms, .dram, .boot, .test, .comp, .cart, .xport, .power, .kiln, .recov, .sched, .jour, .opLog, .energy] ⊆ mask) : Kept mask s0 (lineLost u s) := by
  unfold lineLost
  try extract_lets -underBinder
  repeat' first
   | with_reducible assumption
   | exact sub_trans rfl hsub
   | intro _
   | with_reducible apply kept_ite
   | with_reducible apply startRebuild_kept
   | with_reducible apply askCopiesAgain_kept
   | with_reducible apply failServicePage_kept
   | split
   | extract_lets -underBinder
   | (dsimp +zetaDelta only; split)

theorem meetLine_kept {mask : List Part} {s0 s : State} (h : EccHit) (hk : Kept mask s0 s)
    (hsub : [.free, .dict, .ev, .ports, .doms, .dram, .boot, .test, .comp, .cart, .xport, .power, .kiln, .recov, .sched, .jour, .opLog, .energy] ⊆ mask) : Kept mask s0 (meetLine h s) := by
  unfold meetLine
  try extract_lets -underBinder
  repeat' first
   | with_reducible assumption
   | exact sub_trans rfl hsub
   | intro _
   | with_reducible apply kept_ite
   | with_reducible apply uncorrectableLine_kept
   | with_reducible apply lineLost_kept
   | with_reducible apply correctedLine_kept
   | with_reducible apply kept_id
   | split
   | extract_lets -underBinder
   | (dsimp +zetaDelta only; split)

theorem meetLines_kept {mask : List Part} {s0 s : State} (hits : List EccHit) (hk : Kept mask s0 s)
    (hsub : [.free, .dict, .ev, .ports, .doms, .dram, .boot, .test, .comp, .cart, .xport, .power, .kiln, .recov, .sched, .jour, .opLog, .energy] ⊆ mask) : Kept mask s0 (meetLines hits s) := by
  unfold meetLines
  try extract_lets -underBinder
  repeat' first
   | with_reducible assumption
   | exact sub_trans rfl hsub
   | intro _
   | with_reducible apply kept_ite
   | with_reducible apply kept_foldl
   | with_reducible apply meetLine_kept
   | split
   | extract_lets -underBinder
   | (dsimp +zetaDelta only; split)

theorem execReadLog_kept (h : CmdHead) (b : CmdBody) (hits : List EccHit) (s : State) :
    ∃ t, execReadLog h b hits s = .next t ∧ Kept [.free, .dict, .ev, .ports, .doms, .ring, .dram, .boot, .test, .comp, .cart, .xport, .power, .kiln, .recov, .sched, .jour, .opLog, .energy] s t := by
  unfold execReadLog
  refine ⟨_, rfl, ?_⟩
  have hk := Kept.refl [.free, .dict, .ev, .ports, .doms, .ring, .dram, .boot, .test, .comp, .cart, .xport, .power, .kiln, .recov, .sched, .jour, .opLog, .energy] s
  have hsub : ([.free, .dict, .ev, .ports, .doms, .ring, .dram, .boot, .test, .comp, .cart, .xport, .power, .kiln, .recov, .sched, .jour, .opLog, .energy] : List Part) ⊆ [.free, .dict, .ev, .ports, .doms, .ring, .dram, .boot, .test, .comp, .cart, .xport, .power, .kiln, .recov, .sched, .jour, .opLog, .energy] := fun _ y => y
  try extract_lets -underBinder
  repeat' first
   | with_reducible assumption
   | exact sub_trans rfl hsub
   | intro _
   | with_reducible apply kept_ite
   | with_reducible apply live_kept
   | with_reducible apply receiveCmd_kept
   | with_reducible apply meetLines_kept
   | split
   | extract_lets -underBinder
   | (dsimp +zetaDelta only; split)

theorem execReadVol_kept (h : CmdHead) (b : CmdBody) (hits : List EccHit) (rot : List CacheRot) (s : State) :
    ∃ t, execReadVol h b hits rot s = .next t ∧ Kept [.free, .dict, .ev, .ports, .doms, .ring, .dram, .boot, .test, .comp, .cart, .xport, .power, .kiln, .recov, .sched, .jour, .opLog, .energy] s t := by
  unfold execReadVol
  refine ⟨_, rfl, ?_⟩
  have hk := Kept.refl [.free, .dict, .ev, .ports, .doms, .ring, .dram, .boot, .test, .comp, .cart, .xport, .power, .kiln, .recov, .sched, .jour, .opLog, .energy] s
  have hsub : ([.free, .dict, .ev, .ports, .doms, .ring, .dram, .boot, .test, .comp, .cart, .xport, .power, .kiln, .recov, .sched, .jour, .opLog, .energy] : List Part) ⊆ [.free, .dict, .ev, .ports, .doms, .ring, .dram, .boot, .test, .comp, .cart, .xport, .power, .kiln, .recov, .sched, .jour, .opLog, .energy] := fun _ y => y
  try extract_lets -underBinder
  repeat' first
   | with_reducible assumption
   | exact sub_trans rfl hsub
   | intro _
   | with_reducible apply kept_ite
   | with_reducible apply live_kept
   | with_reducible apply receiveCmd_kept
   | with_reducible apply meetLines_kept
   | with_reducible apply rotCache_kept
   | split
   | extract_lets -underBinder
   | (dsimp +zetaDelta only; split)

theorem execTableRebuildComplete_kept (slates : Half) (s : State) :
    ∃ t, execTableRebuildComplete slates s = .next t ∧ Kept [.free, .dict, .ev, .ports, .doms, .ring, .dram, .comp, .kiln, .recov, .sched, .opLog, .energy] s t := by
  unfold execTableRebuildComplete
  refine ⟨_, rfl, ?_⟩
  have hk := Kept.refl [.free, .dict, .ev, .ports, .doms, .ring, .dram, .comp, .kiln, .recov, .sched, .opLog, .energy] s
  have hsub : ([.free, .dict, .ev, .ports, .doms, .ring, .dram, .comp, .kiln, .recov, .sched, .opLog, .energy] : List Part) ⊆ [.free, .dict, .ev, .ports, .doms, .ring, .dram, .comp, .kiln, .recov, .sched, .opLog, .energy] := fun _ y => y
  try extract_lets -underBinder
  repeat' first
   | with_reducible assumption
   | exact sub_trans rfl hsub
   | intro _
   | with_reducible apply kept_ite
   | with_reducible apply live_kept
   | with_reducible apply postEvent_kept
   | with_reducible apply progressAll_kept
   | with_reducible apply kept_id
   | exact Or.inl (mem_of rfl hsub)
   | with_reducible exact Or.inr rfl
   | split
   | extract_lets -underBinder
   | (dsimp +zetaDelta only; split)
   | with_reducible apply kept_mk

end Sys2Proof.Machine
end

