-- ==== Sys2Proof/Laws/KeptCompress.lean ====
section
/-!
SUPPORT. What the operations of Machine/Compress.lean may touch, and that they keep the canonical forms.
-/
set_option linter.unusedTactic false
set_option linter.unreachableTactic false
set_option linter.unusedVariables false

namespace Sys2Proof.Machine

theorem modComp_kept {mask : List Part} {s0 s : State} (f : Comp → Comp) (hk : Kept mask s0 s)
    (hsub : [.comp] ⊆ mask) : Kept mask s0 (modComp f s) := by
  unfold modComp
  try extract_lets -underBinder
  repeat' first
   | with_reducible assumption
   | exact sub_trans rfl hsub
   | intro _
   | with_reducible apply kept_ite
   | exact Or.inl (mem_of rfl hsub)
   | with_reducible exact Or.inr rfl
   | split
   | extract_lets -underBinder
   | (dsimp +zetaDelta only; split)
   | with_reducible apply kept_mk

theorem blockDone_kept {mask : List Part} {s0 s : State} (sel : CompBlock → Bool) (new : Block) (hk : Kept mask s0 s)
    (hsub : [.dict, .comp, .sched] ⊆ mask) : Kept mask s0 (blockDone sel new s) := by
  unfold blockDone
  try extract_lets -underBinder
  repeat' first
   | with_reducible assumption
   | exact sub_trans rfl hsub
   | intro _
   | with_reducible apply kept_ite
   | with_reducible apply modComp_kept
   | with_reducible apply bumpBy_kept
   | with_reducible apply bump_kept
   | with_reducible apply kept_id
   | exact Or.inl (mem_of rfl hsub)
   | with_reducible exact Or.inr rfl
   | split
   | extract_lets -underBinder
   | (dsimp +zetaDelta only; split)
   | with_reducible apply kept_mk

theorem uncache_kept {mask : List Part} {s0 s : State} (d : Dom) (n : Nat) (hk : Kept mask s0 s)
    (hsub : [.ring] ⊆ mask) : Kept mask s0 (uncache d n s) := by
  unfold uncache
  try extract_lets -underBinder
  repeat' first
   | with_reducible assumption
   | exact sub_trans rfl hsub
   | intro _
   | with_reducible apply kept_ite
   | exact Or.inl (mem_of rfl hsub)
   | with_reducible exact Or.inr rfl
   | split
   | extract_lets -underBinder
   | (dsimp +zetaDelta only; split)
   | with_reducible apply kept_mk

theorem repage_kept {mask : List Part} {s0 s : State} (d : Dom) (v : Nat) (groups : List Nat) (hk : Kept mask s0 s)
    (hsub : [.dict, .doms, .ring, .dram, .comp] ⊆ mask) : Kept mask s0 (repage d v groups s) := by
  unfold repage
  try extract_lets -underBinder
  repeat' first
   | with_reducible assumption
   | exact sub_trans rfl hsub
   | intro _
   | with_reducible apply kept_ite
   | with_reducible apply kept_foldl
   | with_reducible apply runPager_kept
   | with_reducible apply dropGroup_kept
   | exact Or.inl (mem_of rfl hsub)
   | with_reducible exact Or.inr rfl
   | split
   | extract_lets -underBinder
   | (dsimp +zetaDelta only; split)
   | with_reducible apply kept_mk

theorem spoilItem_kept {mask : List Part} {s0 s : State} (idx : Nat) (wrong : List (Nat × Byte)) (hk : Kept mask s0 s)
    (hsub : [.free, .dict, .ev, .ports, .doms, .ring, .dram, .comp, .kiln, .sched, .opLog, .energy] ⊆ mask) : Kept mask s0 (spoilItem idx wrong s) := by
  unfold spoilItem
  try extract_lets -underBinder
  repeat' first
   | with_reducible assumption
   | exact sub_trans rfl hsub
   | intro _
   | with_reducible apply kept_ite
   | with_reducible apply kept_foldl
   | with_reducible apply postEvent_kept
   | with_reducible apply uncache_kept
   | with_reducible apply progress_kept
   | with_reducible apply repage_kept
   | exact Or.inl (mem_of rfl hsub)
   | with_reducible exact Or.inr rfl
   | split
   | extract_lets -underBinder
   | (dsimp +zetaDelta only; split)
   | with_reducible apply kept_mk

theorem execBlockGatherExpiry_kept (d : Dom) (log : LogNo) (s : State) :
    ∃ t, execBlockGatherExpiry d log s = .next t ∧ Kept [.comp] s t := by
  unfold execBlockGatherExpiry
  refine ⟨_, rfl, ?_⟩
  have hk := Kept.refl [.comp] s
  have hsub : ([.comp] : List Part) ⊆ [.comp] := fun _ y => y
  try extract_lets -underBinder
  repeat' first
   | with_reducible assumption
   | exact sub_trans rfl hsub
   | intro _
   | with_reducible apply kept_ite
   | with_reducible apply live_kept
   | with_reducible apply closeGather_kept
   | split
   | extract_lets -underBinder
   | (dsimp +zetaDelta only; split)

theorem startBlock_kept {mask : List Part} {s0 s : State} (hk : Kept mask s0 s)
    (hsub : [.dict, .comp, .sched] ⊆ mask) : Kept mask s0 (startBlock s) := by
  unfold startBlock
  try extract_lets -underBinder
  repeat' first
   | with_reducible assumption
   | exact sub_trans rfl hsub
   | intro _
   | with_reducible apply kept_ite
   | with_reducible apply blockDone_kept
   | with_reducible apply modComp_kept
   | split
   | extract_lets -underBinder
   | (dsimp +zetaDelta only; split)

theorem execBlockStart_kept (hits : List EccHit) (bad : List (Nat × Byte)) (spares : Byte) (s : State) :
    ∃ t, execBlockStart hits bad spares s = .next t ∧ Kept [.free, .dict, .ev, .ports, .doms, .ring, .dram, .boot, .test, .comp, .cart, .xport, .power, .kiln, .recov, .sched, .jour, .opLog, .energy] s t := by
  unfold execBlockStart
  refine ⟨_, rfl, ?_⟩
  have hk := Kept.refl [.free, .dict, .ev, .ports, .doms, .ring, .dram, .boot, .test, .comp, .cart, .xport, .power, .kiln, .recov, .sched, .jour, .opLog, .energy] s
  have hsub : ([.free, .dict, .ev, .ports, .doms, .ring, .dram, .boot, .test, .comp, .cart, .xport, .power, .kiln, .recov, .sched, .jour, .opLog, .energy] : List Part) ⊆ [.free, .dict, .ev, .ports, .doms, .ring, .dram, .boot, .test, .comp, .cart, .xport, .power, .kiln, .recov, .sched, .jour, .opLog, .energy] := fun _ y => y
  try extract_lets -underBinder
  repeat' first
   | with_reducible assumption
   | exact sub_trans rfl hsub
   | intro _
   | with_reducible apply kept_ite
   | with_reducible apply working_kept
   | with_reducible apply meetLines_kept
   | with_reducible apply useSpares_kept
   | with_reducible apply spoilItem_kept
   | with_reducible apply startBlock_kept
   | with_reducible apply kept_id
   | split
   | extract_lets -underBinder
   | (dsimp +zetaDelta only; split)

theorem countCheckFailure_kept {mask : List Part} {s0 s : State} (n : Fin 2) (hk : Kept mask s0 s)
    (hsub : [.free, .dict, .ev, .ports, .comp, .opLog] ⊆ mask) : Kept mask s0 (countCheckFailure n s) := by
  unfold countCheckFailure
  try extract_lets -underBinder
  repeat' first
   | with_reducible assumption
   | exact sub_trans rfl hsub
   | intro _
   | with_reducible apply kept_ite
   | with_reducible apply modComp_kept
   | with_reducible apply bump_kept
   | with_reducible apply postEvent_kept
   | with_reducible apply kept_id
   | split
   | extract_lets -underBinder
   | (dsimp +zetaDelta only; split)

theorem execBlockCompressed_kept (n : Fin 2) (lengths : List (BitVec 4)) (wrong : List (Nat × Byte)) (s : State) :
    ∃ t, execBlockCompressed n lengths wrong s = .next t ∧ Kept [.free, .dict, .ev, .ports, .comp, .sched, .opLog] s t := by
  unfold execBlockCompressed
  refine ⟨_, rfl, ?_⟩
  have hk := Kept.refl [.free, .dict, .ev, .ports, .comp, .sched, .opLog] s
  have hsub : ([.free, .dict, .ev, .ports, .comp, .sched, .opLog] : List Part) ⊆ [.free, .dict, .ev, .ports, .comp, .sched, .opLog] := fun _ y => y
  try extract_lets -underBinder
  repeat' first
   | with_reducible assumption
   | exact sub_trans rfl hsub
   | intro _
   | with_reducible apply kept_ite
   | with_reducible apply working_kept
   | with_reducible apply blockDone_kept
   | with_reducible apply bump_kept
   | with_reducible apply countCheckFailure_kept
   | with_reducible apply kept_id
   | split
   | extract_lets -underBinder
   | (dsimp +zetaDelta only; split)

end Sys2Proof.Machine
end

