-- ==== Sys2Proof/Laws/KeptCuts.lean ====
section
/-!
SUPPORT. What the operations of Machine/Cuts.lean may touch, and that they keep the canonical forms.
-/
set_option linter.unusedTactic false
set_option linter.unreachableTactic false
set_option linter.unusedVariables false

namespace Sys2Proof.Machine

theorem modChain_kept {mask : List Part} {s0 s : State} (c : Chain) (f : ChainPos → ChainPos) (hk : Kept mask s0 s)
    (hsub : [.cart] ⊆ mask) : Kept mask s0 (modChain c f s) := by
  unfold modChain
  try extract_lets -underBinder
  repeat' first
   | with_reducible assumption
   | exact sub_trans rfl hsub
   | intro _
   | with_reducible apply kept_ite
   | exact Or.inl (mem_of rfl hsub)
   | with_reducible exact Or.inr rfl
   | split
   | extract_lets -underBinder
   | (dsimp +zetaDelta only; split)
   | with_reducible apply kept_mk

theorem modCart_kept {mask : List Part} {s0 s : State} (f : Cart → Cart) (hk : Kept mask s0 s)
    (hsub : [.cart] ⊆ mask) : Kept mask s0 (modCart f s) := by
  unfold modCart
  try extract_lets -underBinder
  repeat' first
   | with_reducible assumption
   | exact sub_trans rfl hsub
   | intro _
   | with_reducible apply kept_ite
   | exact Or.inl (mem_of rfl hsub)
   | with_reducible exact Or.inr rfl
   | split
   | extract_lets -underBinder
   | (dsimp +zetaDelta only; split)
   | with_reducible apply kept_mk

theorem refreshWear_kept {mask : List Part} {s0 s : State} (hk : Kept mask s0 s)
    (hsub : [.dict] ⊆ mask) : Kept mask s0 (refreshWear s) := by
  unfold refreshWear
  try extract_lets -underBinder
  repeat' first
   | with_reducible assumption
   | exact sub_trans rfl hsub
   | intro _
   | with_reducible apply kept_ite
   | with_reducible apply kept_foldl
   | with_reducible apply setObj_kept
   | with_reducible apply kept_id
   | split
   | extract_lets -underBinder
   | (dsimp +zetaDelta only; split)

theorem judgeWear_kept {mask : List Part} {s0 s : State} (w : Nat) (hk : Kept mask s0 s)
    (hsub : [.free, .dict, .ev, .ports, .cart, .opLog] ⊆ mask) : Kept mask s0 (judgeWear w s) := by
  unfold judgeWear
  try extract_lets -underBinder
  repeat' first
   | with_reducible assumption
   | exact sub_trans rfl hsub
   | intro _
   | with_reducible apply kept_ite
   | with_reducible apply modCart_kept
   | with_reducible apply postEvent_kept
   | with_reducible apply kept_id
   | split
   | extract_lets -underBinder
   | (dsimp +zetaDelta only; split)

theorem addWear_kept {mask : List Part} {s0 s : State} (w : Nat) (bits : Nat) (hk : Kept mask s0 s)
    (hsub : [.free, .dict, .ev, .ports, .cart, .opLog] ⊆ mask) : Kept mask s0 (addWear w bits s) := by
  unfold addWear
  try extract_lets -underBinder
  repeat' first
   | with_reducible assumption
   | exact sub_trans rfl hsub
   | intro _
   | with_reducible apply kept_ite
   | with_reducible apply modCart_kept
   | with_reducible apply judgeWear_kept
   | with_reducible apply refreshWear_kept
   | with_reducible apply kept_id
   | split
   | extract_lets -underBinder
   | (dsimp +zetaDelta only; split)

theorem flushWear_kept {mask : List Part} {s0 s : State} (unload : Bool) (hk : Kept mask s0 s)
    (hsub : [.cart] ⊆ mask) : Kept mask s0 (flushWear unload s) := by
  unfold flushWear
  try extract_lets -underBinder
  repeat' first
   | with_reducible assumption
   | exact sub_trans rfl hsub
   | intro _
   | with_reducible apply kept_ite
   | with_reducible apply modTape_kept
   | with_reducible apply modCart_kept
   | with_reducible apply kept_id
   | split
   | extract_lets -underBinder
   | (dsimp +zetaDelta only; split)

theorem flushZones_kept {mask : List Part} {s0 s : State} (hk : Kept mask s0 s)
    (hsub : [.cart] ⊆ mask) : Kept mask s0 (flushZones s) := by
  unfold flushZones
  try extract_lets -underBinder
  repeat' first
   | with_reducible assumption
   | exact sub_trans rfl hsub
   | intro _
   | with_reducible apply kept_ite
   | with_reducible apply modTape_kept
   | with_reducible apply modCart_kept
   | with_reducible apply kept_id
   | split
   | extract_lets -underBinder
   | (dsimp +zetaDelta only; split)

theorem updateMemory_kept {mask : List Part} {s0 s : State} (f : StateBlock → StateBlock) (hk : Kept mask s0 s)
    (hsub : [.cart] ⊆ mask) : Kept mask s0 (updateMemory f s) := by
  unfold updateMemory
  try extract_lets -underBinder
  repeat' first
   | with_reducible assumption
   | exact sub_trans rfl hsub
   | intro _
   | with_reducible apply kept_ite
   | with_reducible apply flushWear_kept
   | with_reducible apply writeStateBlock_kept
   | with_reducible apply kept_id
   | split
   | extract_lets -underBinder
   | (dsimp +zetaDelta only; split)

theorem refreshSpare_kept {mask : List Part} {s0 s : State} (hk : Kept mask s0 s)
    (hsub : [.free, .dict, .ev, .ports, .opLog] ⊆ mask) : Kept mask s0 (refreshSpare s) := by
  unfold refreshSpare
  try extract_lets -underBinder
  repeat' first
   | with_reducible assumption
   | exact sub_trans rfl hsub
   | intro _
   | with_reducible apply kept_ite
   | with_reducible apply setObj_kept
   | with_reducible apply postEvent_kept
   | with_reducible apply kept_id
   | split
   | extract_lets -underBinder
   | (dsimp +zetaDelta only; split)

theorem addCharge_kept {mask : List Part} {s0 s : State} (serial : Nat) (n : Nat) (hk : Kept mask s0 s)
    (hsub : [.free, .dict, .ev, .ports, .cart, .opLog] ⊆ mask) : Kept mask s0 (addCharge serial n s) := by
  unfold addCharge
  try extract_lets -underBinder
  repeat' first
   | with_reducible assumption
   | exact sub_trans rfl hsub
   | intro _
   | with_reducible apply kept_ite
   | with_reducible apply modCut_kept
   | with_reducible apply refreshSpare_kept
   | with_reducible apply kept_id
   | split
   | extract_lets -underBinder
   | (dsimp +zetaDelta only; split)

theorem refreshTape_kept {mask : List Part} {s0 s : State} (hk : Kept mask s0 s)
    (hsub : [.free, .dict, .ev, .ports, .opLog] ⊆ mask) : Kept mask s0 (refreshTape s) := by
  unfold refreshTape
  try extract_lets -underBinder
  repeat' first
   | with_reducible assumption
   | exact sub_trans rfl hsub
   | intro _
   | with_reducible apply kept_ite
   | with_reducible apply refreshCuts_kept
   | with_reducible apply refreshSpare_kept
   | with_reducible apply kept_id
   | split
   | extract_lets -underBinder
   | (dsimp +zetaDelta only; split)

theorem openArea_kept {mask : List Part} {s0 s : State} (c : Chain) (w : Nat) (hk : Kept mask s0 s)
    (hsub : [.cart] ⊆ mask) : Kept mask s0 (openArea c w s) := by
  unfold openArea
  try extract_lets -underBinder
  repeat' first
   | with_reducible assumption
   | exact sub_trans rfl hsub
   | intro _
   | with_reducible apply kept_ite
   | with_reducible apply modTape_kept
   | with_reducible apply modCart_kept
   | with_reducible apply modChain_kept
   | with_reducible apply kept_id
   | split
   | extract_lets -underBinder
   | (dsimp +zetaDelta only; split)

theorem blankEnd_kept {mask : List Part} {s0 s : State} (c : Chain) (hk : Kept mask s0 s)
    (hsub : [.free, .dict, .ev, .ports, .cart, .opLog] ⊆ mask) : Kept mask s0 (blankEnd c s) := by
  unfold blankEnd
  try extract_lets -underBinder
  repeat' first
   | with_reducible assumption
   | exact sub_trans rfl hsub
   | intro _
   | with_reducible apply kept_ite
   | with_reducible apply addCharge_kept
   | split
   | extract_lets -underBinder
   | (dsimp +zetaDelta only; split)

theorem findRoom_kept {mask : List Part} {s0 s t : State} {c : Chain} (hf : findRoom c s = some t) (hk : Kept mask s0 s)
    (hsub : [.free, .dict, .ev, .ports, .cart, .xport, .jour, .opLog] ⊆ mask) : Kept mask s0 t := by
  unfold findRoom at hf
  split at hf
  · cases hf; exact hk
  · rw [Option.map_eq_some_iff] at hf
    obtain ⟨w, _, rfl⟩ := hf
    exact openArea_kept _ _ (blankEnd_kept _ hk (sub_trans rfl hsub)) (sub_trans rfl hsub)

theorem takeSerial_kept {mask : List Part} {s0 s : State} (hk : Kept mask s0 s)
    (hsub : [.dict, .jour] ⊆ mask) : Kept mask s0 (takeSerial s) := by
  unfold takeSerial
  try extract_lets -underBinder
  repeat' first
   | with_reducible assumption
   | exact sub_trans rfl hsub
   | intro _
   | with_reducible apply kept_ite
   | with_reducible apply setObj_kept
   | with_reducible apply kept_id
   | exact Or.inl (mem_of rfl hsub)
   | with_reducible exact Or.inr rfl
   | split
   | extract_lets -underBinder
   | (dsimp +zetaDelta only; split)
   | with_reducible apply kept_mk

theorem placeCut_kept {mask : List Part} {s0 s : State} (c : Chain) (f : Cut → Cut) (source : List CompBlock) (hk : Kept mask s0 s)
    (hsub : [.dict, .cart, .xport, .jour] ⊆ mask) : Kept mask s0 (placeCut c f source s) := by
  unfold placeCut
  try extract_lets -underBinder
  repeat' first
   | with_reducible assumption
   | exact sub_trans rfl hsub
   | intro _
   | with_reducible apply kept_ite
   | with_reducible apply takeSerial_kept
   | with_reducible apply modCart_kept
   | with_reducible apply modXport_kept
   | with_reducible apply kept_id
   | split
   | extract_lets -underBinder
   | (dsimp +zetaDelta only; split)

theorem startCut_kept {mask : List Part} {s0 s : State} (c : Chain) (f : Cut → Cut) (source : List CompBlock)
    (hk : Kept mask s0 s) (hsub : [.free, .dict, .ev, .ports, .cart, .xport, .jour, .opLog] ⊆ mask) : Kept mask s0 (startCut c f source s) := by
  unfold startCut
  generalize ht : findRoom c s = r
  cases r with
  | none => exact hk
  | some t => exact placeCut_kept _ _ _ (findRoom_kept ht hk (sub_trans rfl hsub)) (sub_trans rfl hsub)

theorem closeForCut_kept {mask : List Part} {s0 s : State} (hk : Kept mask s0 s)
    (hsub : [.comp] ⊆ mask) : Kept mask s0 (closeForCut s) := by
  unfold closeForCut
  try extract_lets -underBinder
  repeat' first
   | with_reducible assumption
   | exact sub_trans rfl hsub
   | intro _
   | with_reducible apply kept_ite
   | with_reducible apply kept_foldl
   | with_reducible apply closeGather_kept
   | split
   | extract_lets -underBinder
   | (dsimp +zetaDelta only; split)

theorem buildDomainCut_kept {mask : List Part} {s0 s : State} (d : Dom) (hk : Kept mask s0 s)
    (hsub : [.free, .dict, .ev, .ports, .doms, .ring, .dram, .comp, .cart, .xport, .sched, .jour, .opLog] ⊆ mask) : Kept mask s0 (buildDomainCut d s) := by
  unfold buildDomainCut
  try extract_lets -underBinder
  repeat' first
   | with_reducible assumption
   | exact sub_trans rfl hsub
   | intro _
   | with_reducible apply kept_ite
   | with_reducible apply modComp_kept
   | with_reducible apply startCut_kept
   | with_reducible apply runPagers_kept
   | with_reducible apply servePages_kept
   | with_reducible apply bump_kept
   | exact Or.inl (mem_of rfl hsub)
   | with_reducible exact Or.inr rfl
   | split
   | extract_lets -underBinder
   | (dsimp +zetaDelta only; split)
   | with_reducible apply kept_mk

theorem noteRecent_kept {mask : List Part} {s0 s : State} (abandoned : Bool) (hk : Kept mask s0 s)
    (hsub : [.cart] ⊆ mask) : Kept mask s0 (noteRecent abandoned s) := by
  unfold noteRecent
  try extract_lets -underBinder
  repeat' first
   | with_reducible assumption
   | exact sub_trans rfl hsub
   | intro _
   | with_reducible apply kept_ite
   | with_reducible apply modCart_kept
   | split
   | extract_lets -underBinder
   | (dsimp +zetaDelta only; split)

theorem logRewrite_kept {mask : List Part} {s0 s : State} (o : OpenCut) (outcome : Nat) (forced : Nat) (hk : Kept mask s0 s)
    (hsub : [.cart] ⊆ mask) : Kept mask s0 (logRewrite o outcome forced s) := by
  unfold logRewrite
  try extract_lets -underBinder
  repeat' first
   | with_reducible assumption
   | exact sub_trans rfl hsub
   | intro _
   | with_reducible apply kept_ite
   | with_reducible apply modCart_kept
   | split
   | extract_lets -underBinder
   | (dsimp +zetaDelta only; split)

theorem showAbandons_kept {mask : List Part} {s0 s : State} (c : Chain) (hk : Kept mask s0 s)
    (hsub : [.dict] ⊆ mask) : Kept mask s0 (showAbandons c s) := by
  unfold showAbandons
  try extract_lets -underBinder
  repeat' first
   | with_reducible assumption
   | exact sub_trans rfl hsub
   | intro _
   | with_reducible apply kept_ite
   | with_reducible apply setObj_kept
   | split
   | extract_lets -underBinder
   | (dsimp +zetaDelta only; split)

theorem layDown_kept {mask : List Part} {s0 s : State} (cut : Cut) (hk : Kept mask s0 s)
    (hsub : [.free, .dict, .ev, .ports, .cart, .opLog] ⊆ mask) : Kept mask s0 (layDown cut s) := by
  unfold layDown
  try extract_lets -underBinder
  repeat' first
   | with_reducible assumption
   | exact sub_trans rfl hsub
   | intro _
   | with_reducible apply kept_ite
   | with_reducible apply modTape_kept
   | with_reducible apply modChain_kept
   | with_reducible apply addWear_kept
   | with_reducible apply modCart_kept
   | with_reducible apply kept_id
   | split
   | extract_lets -underBinder
   | (dsimp +zetaDelta only; split)

end Sys2Proof.Machine
end

