-- ==== Sys2Proof/Laws/KeptDeviceCuts.lean ====
section
/-!
SUPPORT. What the operations of Machine/DeviceCuts.lean may touch, and that they keep the canonical forms.
-/
set_option linter.unusedTactic false
set_option linter.unreachableTactic false
set_option linter.unusedVariables false

namespace Sys2Proof.Machine

theorem buildMapCut_kept {mask : List Part} {s0 s : State} (hk : Kept mask s0 s)
    (hsub : [.free, .dict, .ev, .ports, .cart, .xport, .jour, .opLog] ⊆ mask) : Kept mask s0 (buildMapCut s) := by
  unfold buildMapCut
  try extract_lets -underBinder
  repeat' first
   | with_reducible assumption
   | exact sub_trans rfl hsub
   | intro _
   | with_reducible apply kept_ite
   | with_reducible apply openOp_kept
   | with_reducible apply startCut_kept
   | split
   | extract_lets -underBinder
   | (dsimp +zetaDelta only; split)

theorem buildReallocCut_kept {mask : List Part} {s0 s : State} (r : Realloc) (hk : Kept mask s0 s)
    (hsub : [.free, .dict, .ev, .ports, .cart, .xport, .jour, .opLog] ⊆ mask) : Kept mask s0 (buildReallocCut r s) := by
  unfold buildReallocCut
  try extract_lets -underBinder
  repeat' first
   | with_reducible assumption
   | exact sub_trans rfl hsub
   | intro _
   | with_reducible apply kept_ite
   | with_reducible apply startCut_kept
   | with_reducible apply modCart_kept
   | with_reducible apply kept_id
   | exact Or.inl (mem_of rfl hsub)
   | with_reducible exact Or.inr rfl
   | split
   | extract_lets -underBinder
   | (dsimp +zetaDelta only; split)
   | with_reducible apply kept_mk

theorem clearCutDue_kept {mask : List Part} {s0 s : State} (hk : Kept mask s0 s)
    (hsub : [.kiln] ⊆ mask) : Kept mask s0 (clearCutDue s) := by
  unfold clearCutDue
  try extract_lets -underBinder
  repeat' first
   | with_reducible assumption
   | exact sub_trans rfl hsub
   | intro _
   | with_reducible apply kept_ite
   | exact Or.inl (mem_of rfl hsub)
   | with_reducible exact Or.inr rfl
   | split
   | extract_lets -underBinder
   | (dsimp +zetaDelta only; split)
   | with_reducible apply kept_mk

theorem buildKilnCut_kept {mask : List Part} {s0 s : State} (hk : Kept mask s0 s)
    (hsub : [.free, .dict, .ev, .ports, .cart, .xport, .kiln, .jour, .opLog] ⊆ mask) : Kept mask s0 (buildKilnCut s) := by
  unfold buildKilnCut
  try extract_lets -underBinder
  repeat' first
   | with_reducible assumption
   | exact sub_trans rfl hsub
   | intro _
   | with_reducible apply kept_ite
   | with_reducible apply clearCutDue_kept
   | with_reducible apply startCut_kept
   | with_reducible apply kept_id
   | split
   | extract_lets -underBinder
   | (dsimp +zetaDelta only; split)

theorem modZone_kept {mask : List Part} {s0 s : State} (z : Fin 2) (f : Zone → Zone) (hk : Kept mask s0 s)
    (hsub : [.cart] ⊆ mask) : Kept mask s0 (modZone z f s) := by
  unfold modZone
  try extract_lets -underBinder
  repeat' first
   | with_reducible assumption
   | exact sub_trans rfl hsub
   | intro _
   | with_reducible apply kept_ite
   | with_reducible apply modCart_kept
   | split
   | extract_lets -underBinder
   | (dsimp +zetaDelta only; split)

theorem clearZone_kept {mask : List Part} {s0 s : State} (z : Fin 2) (hk : Kept mask s0 s)
    (hsub : [.cart] ⊆ mask) : Kept mask s0 (clearZone z s) := by
  unfold clearZone
  try extract_lets -underBinder
  repeat' first
   | with_reducible assumption
   | exact sub_trans rfl hsub
   | intro _
   | with_reducible apply kept_ite
   | with_reducible apply modTape_kept
   | with_reducible apply modChain_kept
   | with_reducible apply kept_id
   | split
   | extract_lets -underBinder
   | (dsimp +zetaDelta only; split)

theorem startGeneration_kept {mask : List Part} {s0 s : State} (hk : Kept mask s0 s)
    (hsub : [.free, .dict, .ev, .ports, .cart, .sched, .jour, .opLog] ⊆ mask) : Kept mask s0 (startGeneration s) := by
  unfold startGeneration
  try extract_lets -underBinder
  repeat' first
   | with_reducible assumption
   | exact sub_trans rfl hsub
   | intro _
   | with_reducible apply kept_ite
   | with_reducible apply modCart_kept
   | with_reducible apply postEvent_kept
   | with_reducible apply clearZone_kept
   | with_reducible apply modZone_kept
   | with_reducible apply openOp_kept
   | with_reducible apply kept_id
   | exact Or.inl (mem_of rfl hsub)
   | with_reducible exact Or.inr rfl
   | split
   | extract_lets -underBinder
   | (dsimp +zetaDelta only; split)
   | with_reducible apply kept_mk

theorem buildBedrockCut_kept {mask : List Part} {s0 s : State} (hk : Kept mask s0 s)
    (hsub : [.free, .dict, .ev, .ports, .cart, .xport, .jour, .opLog] ⊆ mask) : Kept mask s0 (buildBedrockCut s) := by
  unfold buildBedrockCut
  try extract_lets -underBinder
  repeat' first
   | with_reducible assumption
   | exact sub_trans rfl hsub
   | intro _
   | with_reducible apply kept_ite
   | with_reducible apply modZone_kept
   | with_reducible apply startCut_kept
   | split
   | extract_lets -underBinder
   | (dsimp +zetaDelta only; split)

theorem reclaimCheck_kept {mask : List Part} {s0 s : State} (hk : Kept mask s0 s)
    (hsub : [.free, .dict, .ev, .ports, .sched, .jour, .opLog] ⊆ mask) : Kept mask s0 (reclaimCheck s) := by
  unfold reclaimCheck
  try extract_lets -underBinder
  repeat' first
   | with_reducible assumption
   | exact sub_trans rfl hsub
   | intro _
   | with_reducible apply kept_ite
   | with_reducible apply openOp_kept
   | with_reducible apply postEvent_kept
   | exact Or.inl (mem_of rfl hsub)
   | with_reducible exact Or.inr rfl
   | split
   | extract_lets -underBinder
   | (dsimp +zetaDelta only; split)
   | with_reducible apply kept_mk

theorem stepReclaim_kept {mask : List Part} {s0 s : State} (old : Nat) (hk : Kept mask s0 s)
    (hsub : [.sched, .jour, .opLog] ⊆ mask) : Kept mask s0 (stepReclaim old s) := by
  unfold stepReclaim
  try extract_lets -underBinder
  repeat' first
   | with_reducible assumption
   | exact sub_trans rfl hsub
   | intro _
   | with_reducible apply kept_ite
   | with_reducible apply endOp_kept
   | with_reducible apply stepOp_kept
   | exact Or.inl (mem_of rfl hsub)
   | with_reducible exact Or.inr rfl
   | split
   | extract_lets -underBinder
   | (dsimp +zetaDelta only; split)
   | with_reducible apply kept_mk

theorem buildReclaimCut_kept {mask : List Part} {s0 s : State} (hk : Kept mask s0 s)
    (hsub : [.free, .dict, .ev, .ports, .cart, .xport, .sched, .jour, .opLog] ⊆ mask) : Kept mask s0 (buildReclaimCut s) := by
  unfold buildReclaimCut
  try extract_lets -underBinder
  repeat' first
   | with_reducible assumption
   | exact sub_trans rfl hsub
   | intro _
   | with_reducible apply kept_ite
   | with_reducible apply stepReclaim_kept
   | with_reducible apply startCut_kept
   | split
   | extract_lets -underBinder
   | (dsimp +zetaDelta only; split)

end Sys2Proof.Machine
end

