-- ==== Sys2Proof/Laws/KeptPinOps.lean ====
section
/-!
SUPPORT. What the operations of Machine/PinOps.lean may touch, and that they keep the canonical forms.
-/
set_option linter.unusedTactic false
set_option linter.unreachableTactic false
set_option linter.unusedVariables false

namespace Sys2Proof.Machine

theorem setOwnerBit_kept {mask : List Part} {s0 s : State} (owner : Nat) (q : Nat) (b : Bool) (hk : Kept mask s0 s)
    (hsub : [.dict] ⊆ mask) : Kept mask s0 (setOwnerBit owner q b s) := by
  unfold setOwnerBit
  try extract_lets -underBinder
  repeat' first
   | with_reducible assumption
   | exact sub_trans rfl hsub
   | intro _
   | with_reducible apply kept_ite
   | with_reducible apply setObj_kept
   | split
   | extract_lets -underBinder
   | (dsimp +zetaDelta only; split)

theorem applyPinConfig_kept {mask : List Part} {s0 s : State} (q : Nat) (v : Nat) (hk : Kept mask s0 s)
    (hsub : [.dict] ⊆ mask) : Kept mask s0 (applyPinConfig q v s) := by
  unfold applyPinConfig
  try extract_lets -underBinder
  repeat' first
   | with_reducible assumption
   | exact sub_trans rfl hsub
   | intro _
   | with_reducible apply kept_ite
   | with_reducible apply setObj_kept
   | with_reducible apply setOwnerBit_kept
   | with_reducible apply kept_id
   | split
   | extract_lets -underBinder
   | (dsimp +zetaDelta only; split)

theorem resetPins_kept {mask : List Part} {s0 s : State} (sel : Nat → Bool) (hk : Kept mask s0 s)
    (hsub : [.dict] ⊆ mask) : Kept mask s0 (resetPins sel s) := by
  unfold resetPins
  try extract_lets -underBinder
  repeat' first
   | with_reducible assumption
   | exact sub_trans rfl hsub
   | intro _
   | with_reducible apply kept_ite
   | with_reducible apply kept_foldl
   | with_reducible apply setOwnerBit_kept
   | split
   | extract_lets -underBinder
   | (dsimp +zetaDelta only; split)

theorem releasePins_kept {mask : List Part} {s0 s : State} (hk : Kept mask s0 s)
    (hsub : [.dict, .pins] ⊆ mask) : Kept mask s0 (releasePins s) := by
  unfold releasePins
  try extract_lets -underBinder
  repeat' first
   | with_reducible assumption
   | exact sub_trans rfl hsub
   | intro _
   | with_reducible apply kept_ite
   | with_reducible apply resetPins_kept
   | exact Or.inl (mem_of rfl hsub)
   | with_reducible exact Or.inr rfl
   | split
   | extract_lets -underBinder
   | (dsimp +zetaDelta only; split)
   | with_reducible apply kept_mk

theorem modLine_kept {mask : List Part} {s0 s : State} (n : Fin 8) (f : EventLine → EventLine) (hk : Kept mask s0 s)
    (hsub : [.pins] ⊆ mask) : Kept mask s0 (modLine n f s) := by
  unfold modLine
  try extract_lets -underBinder
  repeat' first
   | with_reducible assumption
   | exact sub_trans rfl hsub
   | intro _
   | with_reducible apply kept_ite
   | exact Or.inl (mem_of rfl hsub)
   | with_reducible exact Or.inr rfl
   | split
   | extract_lets -underBinder
   | (dsimp +zetaDelta only; split)
   | with_reducible apply kept_mk

theorem replaceLineEvent_kept {mask : List Part} {s0 s : State} (n : Fin 8) (e : EventRec) (p : PortId) (hk : Kept mask s0 s)
    (hsub : [.ports] ⊆ mask) : Kept mask s0 (replaceLineEvent n e p s) := by
  unfold replaceLineEvent
  try extract_lets -underBinder
  repeat' first
   | with_reducible assumption
   | exact sub_trans rfl hsub
   | intro _
   | with_reducible apply kept_ite
   | with_reducible apply modPort_kept
   | split
   | extract_lets -underBinder
   | (dsimp +zetaDelta only; split)

theorem bumpCount_kept {mask : List Part} {s0 s : State} (n : Fin 8) (high : Bool) (hk : Kept mask s0 s)
    (hsub : [.dict] ⊆ mask) : Kept mask s0 (bumpCount n high s) := by
  unfold bumpCount
  try extract_lets -underBinder
  repeat' first
   | with_reducible assumption
   | exact sub_trans rfl hsub
   | intro _
   | with_reducible apply kept_ite
   | with_reducible apply setObj_kept
   | split
   | extract_lets -underBinder
   | (dsimp +zetaDelta only; split)

theorem reportLine_kept {mask : List Part} {s0 s : State} (n : Fin 8) (level : Bool) (hk : Kept mask s0 s)
    (hsub : [.free, .dict, .ev, .ports, .opLog] ⊆ mask) : Kept mask s0 (reportLine n level s) := by
  unfold reportLine
  try extract_lets -underBinder
  repeat' first
   | with_reducible assumption
   | exact sub_trans rfl hsub
   | intro _
   | with_reducible apply kept_ite
   | with_reducible apply kept_foldl
   | with_reducible apply replaceLineEvent_kept
   | with_reducible apply bumpCount_kept
   | with_reducible apply postEvent_kept
   | split
   | extract_lets -underBinder
   | (dsimp +zetaDelta only; split)

theorem acceptLevel_kept {mask : List Part} {s0 s : State} (n : Fin 8) (hk : Kept mask s0 s)
    (hsub : [.free, .dict, .ev, .ports, .opLog, .pins] ⊆ mask) : Kept mask s0 (acceptLevel n s) := by
  unfold acceptLevel
  try extract_lets -underBinder
  repeat' first
   | with_reducible assumption
   | exact sub_trans rfl hsub
   | intro _
   | with_reducible apply kept_ite
   | with_reducible apply modLine_kept
   | with_reducible apply bumpCount_kept
   | with_reducible apply reportLine_kept
   | with_reducible apply kept_id
   | split
   | extract_lets -underBinder
   | (dsimp +zetaDelta only; split)

theorem dropLineEvents_kept {mask : List Part} {s0 s : State} (n : Fin 8) (hk : Kept mask s0 s)
    (hsub : [.ports] ⊆ mask) : Kept mask s0 (dropLineEvents n s) := by
  unfold dropLineEvents
  try extract_lets -underBinder
  repeat' first
   | with_reducible assumption
   | exact sub_trans rfl hsub
   | intro _
   | with_reducible apply kept_ite
   | with_reducible apply kept_foldl
   | with_reducible apply modPort_kept
   | split
   | extract_lets -underBinder
   | (dsimp +zetaDelta only; split)

theorem retargetLine_kept {mask : List Part} {s0 s : State} (n : Fin 8) (hk : Kept mask s0 s)
    (hsub : [.dict, .ports] ⊆ mask) : Kept mask s0 (retargetLine n s) := by
  unfold retargetLine
  try extract_lets -underBinder
  repeat' first
   | with_reducible assumption
   | exact sub_trans rfl hsub
   | intro _
   | with_reducible apply kept_ite
   | with_reducible apply kept_foldl
   | with_reducible apply dropLineEvents_kept
   | with_reducible apply offerEvent_kept
   | split
   | extract_lets -underBinder
   | (dsimp +zetaDelta only; split)

theorem restartLine_kept {mask : List Part} {s0 s : State} (n : Fin 8) (hk : Kept mask s0 s)
    (hsub : [.ports, .pins] ⊆ mask) : Kept mask s0 (restartLine n s) := by
  unfold restartLine
  try extract_lets -underBinder
  repeat' first
   | with_reducible assumption
   | exact sub_trans rfl hsub
   | intro _
   | with_reducible apply kept_ite
   | with_reducible apply dropLineEvents_kept
   | with_reducible apply modLine_kept
   | split
   | extract_lets -underBinder
   | (dsimp +zetaDelta only; split)

theorem filterLine_kept {mask : List Part} {s0 s : State} (n : Fin 8) (hk : Kept mask s0 s)
    (hsub : [.free, .dict, .ev, .ports, .opLog, .pins] ⊆ mask) : Kept mask s0 (filterLine n s) := by
  unfold filterLine
  try extract_lets -underBinder
  repeat' first
   | with_reducible assumption
   | exact sub_trans rfl hsub
   | intro _
   | with_reducible apply kept_ite
   | with_reducible apply modLine_kept
   | with_reducible apply acceptLevel_kept
   | split
   | extract_lets -underBinder
   | (dsimp +zetaDelta only; split)

theorem filterLines_kept {mask : List Part} {s0 s : State} (hk : Kept mask s0 s)
    (hsub : [.free, .dict, .ev, .ports, .opLog, .pins] ⊆ mask) : Kept mask s0 (filterLines s) := by
  unfold filterLines
  try extract_lets -underBinder
  repeat' first
   | with_reducible assumption
   | exact sub_trans rfl hsub
   | intro _
   | with_reducible apply kept_ite
   | with_reducible apply kept_foldl
   | with_reducible apply filterLine_kept
   | split
   | extract_lets -underBinder
   | (dsimp +zetaDelta only; split)

theorem resetDomainPins_kept {mask : List Part} {s0 s : State} (d : Dom) (hk : Kept mask s0 s)
    (hsub : [.free, .dict, .ev, .ports, .opLog, .pins] ⊆ mask) : Kept mask s0 (resetDomainPins d s) := by
  unfold resetDomainPins
  try extract_lets -underBinder
  repeat' first
   | with_reducible assumption
   | exact sub_trans rfl hsub
   | intro _
   | with_reducible apply kept_ite
   | with_reducible apply filterLines_kept
   | with_reducible apply resetPins_kept
   | split
   | extract_lets -underBinder
   | (dsimp +zetaDelta only; split)

theorem execPinLevelChange_kept (port : Fin 5) (pin : Fin 8) (level : Bool) (s : State) :
    ∃ t, execPinLevelChange port pin level s = .next t ∧ Kept [.free, .dict, .ev, .ports, .opLog, .pins] s t := by
  unfold execPinLevelChange
  refine ⟨_, rfl, ?_⟩
  have hk := Kept.refl [.free, .dict, .ev, .ports, .opLog, .pins] s
  have hsub : ([.free, .dict, .ev, .ports, .opLog, .pins] : List Part) ⊆ [.free, .dict, .ev, .ports, .opLog, .pins] := fun _ y => y
  try extract_lets -underBinder
  repeat' first
   | with_reducible assumption
   | exact sub_trans rfl hsub
   | intro _
   | with_reducible apply kept_ite
   | with_reducible apply filterLine_kept
   | exact Or.inl (mem_of rfl hsub)
   | with_reducible exact Or.inr rfl
   | split
   | extract_lets -underBinder
   | (dsimp +zetaDelta only; split)
   | with_reducible apply kept_mk

theorem execEventAccepted_kept (line : Fin 8) (s : State) :
    ∃ t, execEventAccepted line s = .next t ∧ Kept [.free, .dict, .ev, .ports, .opLog, .pins] s t := by
  unfold execEventAccepted
  refine ⟨_, rfl, ?_⟩
  have hk := Kept.refl [.free, .dict, .ev, .ports, .opLog, .pins] s
  have hsub : ([.free, .dict, .ev, .ports, .opLog, .pins] : List Part) ⊆ [.free, .dict, .ev, .ports, .opLog, .pins] := fun _ y => y
  try extract_lets -underBinder
  repeat' first
   | with_reducible assumption
   | exact sub_trans rfl hsub
   | intro _
   | with_reducible apply kept_ite
   | with_reducible apply live_kept
   | with_reducible apply acceptLevel_kept
   | split
   | extract_lets -underBinder
   | (dsimp +zetaDelta only; split)

end Sys2Proof.Machine
end

