-- ==== Sys2Proof/Laws/KeptDomains.lean ====
section
/-!
SUPPORT. What the operations of Machine/Domains.lean may touch, and that they keep the canonical forms.
-/
set_option linter.unusedTactic false
set_option linter.unreachableTactic false
set_option linter.unusedVariables false

namespace Sys2Proof.Machine

theorem domainRequest_kept {mask : List Part} {s0 s : State} (d : Dom) (w : Writer) (action : Nat) (gen : Half) (legal : Bool) (within : Bool) (f : State → State) (hk : Kept mask s0 s)
    (hsub : [.dict, .ports, .ecat] ⊆ mask) (hff : ∀ t, Kept mask s0 t → Kept mask s0 (f t)) : Kept mask s0 (domainRequest d w action gen legal within f s) := by
  unfold domainRequest
  try extract_lets -underBinder
  repeat' first
   | with_reducible assumption
   | exact sub_trans rfl hsub
   | intro _
   | with_reducible apply kept_ite
   | with_reducible apply hff
   | with_reducible apply stateRequest_kept
   | split
   | extract_lets -underBinder
   | (dsimp +zetaDelta only; split)

theorem enterConfigured_kept {mask : List Part} {s0 s : State} (d : Dom) (hk : Kept mask s0 s)
    (hsub : [.dict, .doms, .ring] ⊆ mask) : Kept mask s0 (enterConfigured d s) := by
  unfold enterConfigured
  try extract_lets -underBinder
  repeat' first
   | with_reducible assumption
   | exact sub_trans rfl hsub
   | intro _
   | with_reducible apply kept_ite
   | with_reducible apply modDom_kept
   | with_reducible apply enterDom_kept
   | with_reducible apply fitUnits_kept
   | with_reducible apply kept_id
   | split
   | extract_lets -underBinder
   | (dsimp +zetaDelta only; split)

theorem reqConfigure_kept {mask : List Part} {s0 s : State} (d : Dom) (w : Writer) (gen : Half) (hk : Kept mask s0 s)
    (hsub : [.dict, .ports, .doms, .ring, .ecat] ⊆ mask) : Kept mask s0 (reqConfigure d w gen s) := by
  unfold reqConfigure
  try extract_lets -underBinder
  repeat' first
   | with_reducible assumption
   | exact sub_trans rfl hsub
   | intro _
   | with_reducible apply kept_ite
   | with_reducible apply domainRequest_kept
   | with_reducible apply enterConfigured_kept
   | split
   | extract_lets -underBinder
   | (dsimp +zetaDelta only; split)

theorem execConfigure_kept (d : Dom) (w : Writer) (gen : Half) (s : State) :
    ∃ t, execConfigure d w gen s = .next t ∧ Kept [.dict, .ports, .doms, .ring, .ecat] s t := by
  unfold execConfigure
  refine ⟨_, rfl, ?_⟩
  have hk := Kept.refl [.dict, .ports, .doms, .ring, .ecat] s
  have hsub : ([.dict, .ports, .doms, .ring, .ecat] : List Part) ⊆ [.dict, .ports, .doms, .ring, .ecat] := fun _ y => y
  try extract_lets -underBinder
  repeat' first
   | with_reducible assumption
   | exact sub_trans rfl hsub
   | intro _
   | with_reducible apply kept_ite
   | with_reducible apply live_kept
   | with_reducible apply arriveValue_kept
   | with_reducible apply reqConfigure_kept
   | split
   | extract_lets -underBinder
   | (dsimp +zetaDelta only; split)

theorem reqGoOnline_kept {mask : List Part} {s0 s : State} (d : Dom) (w : Writer) (gen : Half) (hk : Kept mask s0 s)
    (hsub : [.free, .dict, .ev, .ports, .doms, .ecat, .sched, .opLog] ⊆ mask) : Kept mask s0 (reqGoOnline d w gen s) := by
  unfold reqGoOnline
  try extract_lets -underBinder
  repeat' first
   | with_reducible assumption
   | exact sub_trans rfl hsub
   | intro _
   | with_reducible apply kept_ite
   | with_reducible apply domainRequest_kept
   | with_reducible apply modDom_kept
   | with_reducible apply enterDom_kept
   | with_reducible apply pollPower_kept
   | with_reducible apply kept_id
   | split
   | extract_lets -underBinder
   | (dsimp +zetaDelta only; split)

theorem execGoOnline_kept (d : Dom) (w : Writer) (gen : Half) (s : State) :
    ∃ t, execGoOnline d w gen s = .next t ∧ Kept [.free, .dict, .ev, .ports, .doms, .ecat, .sched, .opLog] s t := by
  unfold execGoOnline
  refine ⟨_, rfl, ?_⟩
  have hk := Kept.refl [.free, .dict, .ev, .ports, .doms, .ecat, .sched, .opLog] s
  have hsub : ([.free, .dict, .ev, .ports, .doms, .ecat, .sched, .opLog] : List Part) ⊆ [.free, .dict, .ev, .ports, .doms, .ecat, .sched, .opLog] := fun _ y => y
  try extract_lets -underBinder
  repeat' first
   | with_reducible assumption
   | exact sub_trans rfl hsub
   | intro _
   | with_reducible apply kept_ite
   | with_reducible apply live_kept
   | with_reducible apply arriveValue_kept
   | with_reducible apply reqGoOnline_kept
   | split
   | extract_lets -underBinder
   | (dsimp +zetaDelta only; split)

theorem reqGoOffline_kept {mask : List Part} {s0 s : State} (d : Dom) (w : Writer) (gen : Half) (hk : Kept mask s0 s)
    (hsub : [.free, .dict, .ev, .ports, .doms, .ecat, .sched, .opLog] ⊆ mask) : Kept mask s0 (reqGoOffline d w gen s) := by
  unfold reqGoOffline
  try extract_lets -underBinder
  repeat' first
   | with_reducible assumption
   | exact sub_trans rfl hsub
   | intro _
   | with_reducible apply kept_ite
   | with_reducible apply domainRequest_kept
   | with_reducible apply enterDom_kept
   | with_reducible apply pollPower_kept
   | with_reducible apply kept_id
   | split
   | extract_lets -underBinder
   | (dsimp +zetaDelta only; split)

theorem execGoOffline_kept (d : Dom) (w : Writer) (gen : Half) (s : State) :
    ∃ t, execGoOffline d w gen s = .next t ∧ Kept [.free, .dict, .ev, .ports, .doms, .ecat, .sched, .opLog] s t := by
  unfold execGoOffline
  refine ⟨_, rfl, ?_⟩
  have hk := Kept.refl [.free, .dict, .ev, .ports, .doms, .ecat, .sched, .opLog] s
  have hsub : ([.free, .dict, .ev, .ports, .doms, .ecat, .sched, .opLog] : List Part) ⊆ [.free, .dict, .ev, .ports, .doms, .ecat, .sched, .opLog] := fun _ y => y
  try extract_lets -underBinder
  repeat' first
   | with_reducible assumption
   | exact sub_trans rfl hsub
   | intro _
   | with_reducible apply kept_ite
   | with_reducible apply live_kept
   | with_reducible apply arriveValue_kept
   | with_reducible apply reqGoOffline_kept
   | split
   | extract_lets -underBinder
   | (dsimp +zetaDelta only; split)

theorem abortAll_kept {mask : List Part} {s0 s : State} (d : Dom) (hk : Kept mask s0 s)
    (hsub : [.free, .dict, .ev, .ports, .doms, .test, .kiln, .sched, .opLog, .energy] ⊆ mask) : Kept mask s0 (abortAll d s) := by
  unfold abortAll
  try extract_lets -underBinder
  repeat' first
   | with_reducible assumption
   | exact sub_trans rfl hsub
   | intro _
   | with_reducible apply kept_ite
   | with_reducible apply kept_foldl
   | with_reducible apply stopTest_kept
   | with_reducible apply completeSlot_kept
   | with_reducible apply dropSubmits_kept
   | with_reducible apply kept_id
   | split
   | extract_lets -underBinder
   | (dsimp +zetaDelta only; split)

theorem reqReset_kept {mask : List Part} {s0 s : State} (d : Dom) (w : Writer) (gen : Half) (hk : Kept mask s0 s)
    (hsub : [.free, .dict, .ev, .ports, .doms, .ecat, .test, .kiln, .sched, .opLog, .energy, .pins] ⊆ mask) : Kept mask s0 (reqReset d w gen s) := by
  unfold reqReset
  try extract_lets -underBinder
  repeat' first
   | with_reducible assumption
   | exact sub_trans rfl hsub
   | intro _
   | with_reducible apply kept_ite
   | with_reducible apply domainRequest_kept
   | with_reducible apply abortAll_kept
   | with_reducible apply modDom_kept
   | with_reducible apply setOnline_kept
   | with_reducible apply enterDom_kept
   | with_reducible apply resetDomainPins_kept
   | with_reducible apply pollPower_kept
   | with_reducible apply kept_id
   | split
   | extract_lets -underBinder
   | (dsimp +zetaDelta only; split)

theorem execReset_kept (d : Dom) (w : Writer) (gen : Half) (s : State) :
    ∃ t, execReset d w gen s = .next t ∧ Kept [.free, .dict, .ev, .ports, .doms, .ecat, .test, .kiln, .sched, .opLog, .energy, .pins] s t := by
  unfold execReset
  refine ⟨_, rfl, ?_⟩
  have hk := Kept.refl [.free, .dict, .ev, .ports, .doms, .ecat, .test, .kiln, .sched, .opLog, .energy, .pins] s
  have hsub : ([.free, .dict, .ev, .ports, .doms, .ecat, .test, .kiln, .sched, .opLog, .energy, .pins] : List Part) ⊆ [.free, .dict, .ev, .ports, .doms, .ecat, .test, .kiln, .sched, .opLog, .energy, .pins] := fun _ y => y
  try extract_lets -underBinder
  repeat' first
   | with_reducible assumption
   | exact sub_trans rfl hsub
   | intro _
   | with_reducible apply kept_ite
   | with_reducible apply live_kept
   | with_reducible apply arriveValue_kept
   | with_reducible apply reqReset_kept
   | split
   | extract_lets -underBinder
   | (dsimp +zetaDelta only; split)

theorem returnPages_kept {mask : List Part} {s0 s : State} (d : Dom) (hk : Kept mask s0 s)
    (hsub : [.free, .dict, .ev, .ports, .doms, .dram, .opLog] ⊆ mask) : Kept mask s0 (returnPages d s) := by
  unfold returnPages
  try extract_lets -underBinder
  repeat' first
   | with_reducible assumption
   | exact sub_trans rfl hsub
   | intro _
   | with_reducible apply kept_ite
   | with_reducible apply modDom_kept
   | with_reducible apply retireOf_kept
   | with_reducible apply kept_id
   | exact Or.inl (mem_of rfl hsub)
   | with_reducible exact Or.inr rfl
   | split
   | extract_lets -underBinder
   | (dsimp +zetaDelta only; split)
   | with_reducible apply kept_mk

theorem reqUnconfigure_kept {mask : List Part} {s0 s : State} (d : Dom) (w : Writer) (gen : Half) (hk : Kept mask s0 s)
    (hsub : [.free, .dict, .ev, .ports, .doms, .ring, .dram, .ecat, .comp, .opLog] ⊆ mask) : Kept mask s0 (reqUnconfigure d w gen s) := by
  unfold reqUnconfigure
  try extract_lets -underBinder
  repeat' first
   | with_reducible assumption
   | exact sub_trans rfl hsub
   | intro _
   | with_reducible apply kept_ite
   | with_reducible apply domainRequest_kept
   | with_reducible apply returnPages_kept
   | with_reducible apply modDom_kept
   | with_reducible apply enterDom_kept
   | with_reducible apply fitUnits_kept
   | with_reducible apply servePages_kept
   | with_reducible apply kept_id
   | split
   | extract_lets -underBinder
   | (dsimp +zetaDelta only; split)

theorem execUnconfigure_kept (d : Dom) (w : Writer) (gen : Half) (s : State) :
    ∃ t, execUnconfigure d w gen s = .next t ∧ Kept [.free, .dict, .ev, .ports, .doms, .ring, .dram, .ecat, .comp, .opLog] s t := by
  unfold execUnconfigure
  refine ⟨_, rfl, ?_⟩
  have hk := Kept.refl [.free, .dict, .ev, .ports, .doms, .ring, .dram, .ecat, .comp, .opLog] s
  have hsub : ([.free, .dict, .ev, .ports, .doms, .ring, .dram, .ecat, .comp, .opLog] : List Part) ⊆ [.free, .dict, .ev, .ports, .doms, .ring, .dram, .ecat, .comp, .opLog] := fun _ y => y
  try extract_lets -underBinder
  repeat' first
   | with_reducible assumption
   | exact sub_trans rfl hsub
   | intro _
   | with_reducible apply kept_ite
   | with_reducible apply live_kept
   | with_reducible apply arriveValue_kept
   | with_reducible apply reqUnconfigure_kept
   | split
   | extract_lets -underBinder
   | (dsimp +zetaDelta only; split)

theorem execDomainQuiescent_kept (d : Dom) (s : State) :
    ∃ t, execDomainQuiescent d s = .next t ∧ Kept [.free, .dict, .ev, .ports, .doms, .sched, .opLog] s t := by
  unfold execDomainQuiescent
  refine ⟨_, rfl, ?_⟩
  have hk := Kept.refl [.free, .dict, .ev, .ports, .doms, .sched, .opLog] s
  have hsub : ([.free, .dict, .ev, .ports, .doms, .sched, .opLog] : List Part) ⊆ [.free, .dict, .ev, .ports, .doms, .sched, .opLog] := fun _ y => y
  try extract_lets -underBinder
  repeat' first
   | with_reducible assumption
   | exact sub_trans rfl hsub
   | intro _
   | with_reducible apply kept_ite
   | with_reducible apply live_kept
   | with_reducible apply setOnline_kept
   | with_reducible apply enterDom_kept
   | with_reducible apply pollPower_kept
   | with_reducible apply postEvent_kept
   | with_reducible apply kept_id
   | split
   | extract_lets -underBinder
   | (dsimp +zetaDelta only; split)

theorem checkBoot_kept {mask : List Part} {s0 s : State} (d : Dom) (hk : Kept mask s0 s)
    (hsub : [.doms, .ring] ⊆ mask) : Kept mask s0 (checkBoot d s) := by
  unfold checkBoot
  try extract_lets -underBinder
  repeat' first
   | with_reducible assumption
   | exact sub_trans rfl hsub
   | intro _
   | with_reducible apply kept_ite
   | with_reducible apply modDom_kept
   | with_reducible apply kept_id
   | exact Or.inl (mem_of rfl hsub)
   | with_reducible exact Or.inr rfl
   | split
   | extract_lets -underBinder
   | (dsimp +zetaDelta only; split)
   | with_reducible apply kept_mk

theorem fillTokens_kept {mask : List Part} {s0 s : State} (d : Dom) (hk : Kept mask s0 s)
    (hsub : [.doms] ⊆ mask) : Kept mask s0 (fillTokens d s) := by
  unfold fillTokens
  try extract_lets -underBinder
  repeat' first
   | with_reducible assumption
   | exact sub_trans rfl hsub
   | intro _
   | with_reducible apply kept_ite
   | with_reducible apply modDom_kept
   | split
   | extract_lets -underBinder
   | (dsimp +zetaDelta only; split)

theorem execDomainOnline_kept (d : Dom) (rot : List CacheRot) (s : State) :
    ∃ t, execDomainOnline d rot s = .next t ∧ Kept [.free, .dict, .ev, .ports, .doms, .ring, .sched, .opLog] s t := by
  unfold execDomainOnline
  refine ⟨_, rfl, ?_⟩
  have hk := Kept.refl [.free, .dict, .ev, .ports, .doms, .ring, .sched, .opLog] s
  have hsub : ([.free, .dict, .ev, .ports, .doms, .ring, .sched, .opLog] : List Part) ⊆ [.free, .dict, .ev, .ports, .doms, .ring, .sched, .opLog] := fun _ y => y
  try extract_lets -underBinder
  repeat' first
   | with_reducible assumption
   | exact sub_trans rfl hsub
   | intro _
   | with_reducible apply kept_ite
   | with_reducible apply live_kept
   | with_reducible apply rotCache_kept
   | with_reducible apply checkBoot_kept
   | with_reducible apply fillTokens_kept
   | with_reducible apply setOnline_kept
   | with_reducible apply enterDom_kept
   | with_reducible apply pollPower_kept
   | with_reducible apply postEvent_kept
   | with_reducible apply kept_id
   | split
   | extract_lets -underBinder
   | (dsimp +zetaDelta only; split)

theorem execDomainReset_kept (d : Dom) (s : State) :
    ∃ t, execDomainReset d s = .next t ∧ Kept [.free, .dict, .ev, .ports, .doms, .ring, .dram, .comp, .sched, .opLog] s t := by
  unfold execDomainReset
  refine ⟨_, rfl, ?_⟩
  have hk := Kept.refl [.free, .dict, .ev, .ports, .doms, .ring, .dram, .comp, .sched, .opLog] s
  have hsub : ([.free, .dict, .ev, .ports, .doms, .ring, .dram, .comp, .sched, .opLog] : List Part) ⊆ [.free, .dict, .ev, .ports, .doms, .ring, .dram, .comp, .sched, .opLog] := fun _ y => y
  try extract_lets -underBinder
  repeat' first
   | with_reducible assumption
   | exact sub_trans rfl hsub
   | intro _
   | with_reducible apply kept_ite
   | with_reducible apply live_kept
   | with_reducible apply returnPages_kept
   | with_reducible apply modDom_kept
   | with_reducible apply enterDom_kept
   | with_reducible apply servePages_kept
   | with_reducible apply runPager_kept
   | with_reducible apply pollPower_kept
   | with_reducible apply postEvent_kept
   | with_reducible apply kept_id
   | split
   | extract_lets -underBinder
   | (dsimp +zetaDelta only; split)

end Sys2Proof.Machine
end

