-- ==== Sys2Proof/Laws/KeptCartridge.lean ====
section
/-!
SUPPORT. What the operations of Machine/Cartridge.lean may touch, and that they keep the canonical forms.
-/
set_option linter.unusedTactic false
set_option linter.unreachableTactic false
set_option linter.unusedVariables false

namespace Sys2Proof.Machine

theorem autoLoad_kept {mask : List Part} {s0 s : State} (hk : Kept mask s0 s)
    (hsub : [.free, .dict, .ev, .ports, .cart, .xport, .opLog] ⊆ mask) : Kept mask s0 (autoLoad s) := by
  unfold autoLoad
  try extract_lets -underBinder
  repeat' first
   | with_reducible assumption
   | exact sub_trans rfl hsub
   | intro _
   | with_reducible apply kept_ite
   | with_reducible apply startThreading_kept
   | split
   | extract_lets -underBinder
   | (dsimp +zetaDelta only; split)

theorem execCartridgeInserted_kept (c : Cartridge) (s : State) :
    ∃ t, execCartridgeInserted c s = .next t ∧ Kept [.free, .dict, .ev, .ports, .cart, .xport, .sched, .opLog] s t := by
  unfold execCartridgeInserted
  refine ⟨_, rfl, ?_⟩
  have hk := Kept.refl [.free, .dict, .ev, .ports, .cart, .xport, .sched, .opLog] s
  have hsub : ([.free, .dict, .ev, .ports, .cart, .xport, .sched, .opLog] : List Part) ⊆ [.free, .dict, .ev, .ports, .cart, .xport, .sched, .opLog] := fun _ y => y
  try extract_lets -underBinder
  repeat' first
   | with_reducible assumption
   | exact sub_trans rfl hsub
   | intro _
   | with_reducible apply kept_ite
   | with_reducible apply modCart_kept
   | with_reducible apply pollPower_kept
   | with_reducible apply autoLoad_kept
   | with_reducible apply enterCart_kept
   | with_reducible apply postEvent_kept
   | with_reducible apply kept_id
   | split
   | extract_lets -underBinder
   | (dsimp +zetaDelta only; split)

theorem execCartridgeRemoved_kept (s : State) :
    ∃ t, execCartridgeRemoved s = .next t ∧ Kept [.dict, .cart] s t := by
  unfold execCartridgeRemoved
  refine ⟨_, rfl, ?_⟩
  have hk := Kept.refl [.dict, .cart] s
  have hsub : ([.dict, .cart] : List Part) ⊆ [.dict, .cart] := fun _ y => y
  try extract_lets -underBinder
  repeat' first
   | with_reducible assumption
   | exact sub_trans rfl hsub
   | intro _
   | with_reducible apply kept_ite
   | with_reducible apply live_kept
   | with_reducible apply enterCart_kept
   | with_reducible apply modCart_kept
   | split
   | extract_lets -underBinder
   | (dsimp +zetaDelta only; split)

theorem cartRequest_kept {mask : List Part} {s0 s : State} (a : CartAction) (w : Writer) (gen : Half) (hk : Kept mask s0 s)
    (hsub : [.free, .dict, .ev, .ports, .doms, .ring, .ecat, .comp, .cart, .xport, .sched, .jour, .opLog, .energy] ⊆ mask) : Kept mask s0 (cartRequest a w gen s) := by
  unfold cartRequest
  try extract_lets -underBinder
  repeat' first
   | with_reducible assumption
   | exact sub_trans rfl hsub
   | intro _
   | with_reducible apply kept_ite
   | with_reducible apply stateRequest_kept
   | with_reducible apply pollPower_kept
   | with_reducible apply wakeCartridge_kept
   | with_reducible apply cartAction_kept
   | split
   | extract_lets -underBinder
   | (dsimp +zetaDelta only; split)

theorem execLoad_kept (w : Writer) (gen : Half) (s : State) :
    ∃ t, execLoad w gen s = .next t ∧ Kept [.free, .dict, .ev, .ports, .doms, .ring, .ecat, .comp, .cart, .xport, .sched, .jour, .opLog, .energy] s t := by
  unfold execLoad
  refine ⟨_, rfl, ?_⟩
  have hk := Kept.refl [.free, .dict, .ev, .ports, .doms, .ring, .ecat, .comp, .cart, .xport, .sched, .jour, .opLog, .energy] s
  have hsub : ([.free, .dict, .ev, .ports, .doms, .ring, .ecat, .comp, .cart, .xport, .sched, .jour, .opLog, .energy] : List Part) ⊆ [.free, .dict, .ev, .ports, .doms, .ring, .ecat, .comp, .cart, .xport, .sched, .jour, .opLog, .energy] := fun _ y => y
  try extract_lets -underBinder
  repeat' first
   | with_reducible assumption
   | exact sub_trans rfl hsub
   | intro _
   | with_reducible apply kept_ite
   | with_reducible apply live_kept
   | with_reducible apply arriveValue_kept
   | with_reducible apply cartRequest_kept
   | split
   | extract_lets -underBinder
   | (dsimp +zetaDelta only; split)

theorem execUnload_kept (w : Writer) (gen : Half) (s : State) :
    ∃ t, execUnload w gen s = .next t ∧ Kept [.free, .dict, .ev, .ports, .doms, .ring, .ecat, .comp, .cart, .xport, .sched, .jour, .opLog, .energy] s t := by
  unfold execUnload
  refine ⟨_, rfl, ?_⟩
  have hk := Kept.refl [.free, .dict, .ev, .ports, .doms, .ring, .ecat, .comp, .cart, .xport, .sched, .jour, .opLog, .energy] s
  have hsub : ([.free, .dict, .ev, .ports, .doms, .ring, .ecat, .comp, .cart, .xport, .sched, .jour, .opLog, .energy] : List Part) ⊆ [.free, .dict, .ev, .ports, .doms, .ring, .ecat, .comp, .cart, .xport, .sched, .jour, .opLog, .energy] := fun _ y => y
  try extract_lets -underBinder
  repeat' first
   | with_reducible assumption
   | exact sub_trans rfl hsub
   | intro _
   | with_reducible apply kept_ite
   | with_reducible apply live_kept
   | with_reducible apply arriveValue_kept
   | with_reducible apply cartRequest_kept
   | split
   | extract_lets -underBinder
   | (dsimp +zetaDelta only; split)

theorem execEject_kept (w : Writer) (gen : Half) (s : State) :
    ∃ t, execEject w gen s = .next t ∧ Kept [.free, .dict, .ev, .ports, .doms, .ring, .ecat, .comp, .cart, .xport, .sched, .jour, .opLog, .energy] s t := by
  unfold execEject
  refine ⟨_, rfl, ?_⟩
  have hk := Kept.refl [.free, .dict, .ev, .ports, .doms, .ring, .ecat, .comp, .cart, .xport, .sched, .jour, .opLog, .energy] s
  have hsub : ([.free, .dict, .ev, .ports, .doms, .ring, .ecat, .comp, .cart, .xport, .sched, .jour, .opLog, .energy] : List Part) ⊆ [.free, .dict, .ev, .ports, .doms, .ring, .ecat, .comp, .cart, .xport, .sched, .jour, .opLog, .energy] := fun _ y => y
  try extract_lets -underBinder
  repeat' first
   | with_reducible assumption
   | exact sub_trans rfl hsub
   | intro _
   | with_reducible apply kept_ite
   | with_reducible apply live_kept
   | with_reducible apply arriveValue_kept
   | with_reducible apply cartRequest_kept
   | split
   | extract_lets -underBinder
   | (dsimp +zetaDelta only; split)

theorem execFormat_kept (w : Writer) (gen : Half) (s : State) :
    ∃ t, execFormat w gen s = .next t ∧ Kept [.free, .dict, .ev, .ports, .doms, .ring, .ecat, .comp, .cart, .xport, .sched, .jour, .opLog, .energy] s t := by
  unfold execFormat
  refine ⟨_, rfl, ?_⟩
  have hk := Kept.refl [.free, .dict, .ev, .ports, .doms, .ring, .ecat, .comp, .cart, .xport, .sched, .jour, .opLog, .energy] s
  have hsub : ([.free, .dict, .ev, .ports, .doms, .ring, .ecat, .comp, .cart, .xport, .sched, .jour, .opLog, .energy] : List Part) ⊆ [.free, .dict, .ev, .ports, .doms, .ring, .ecat, .comp, .cart, .xport, .sched, .jour, .opLog, .energy] := fun _ y => y
  try extract_lets -underBinder
  repeat' first
   | with_reducible assumption
   | exact sub_trans rfl hsub
   | intro _
   | with_reducible apply kept_ite
   | with_reducible apply live_kept
   | with_reducible apply arriveValue_kept
   | with_reducible apply cartRequest_kept
   | split
   | extract_lets -underBinder
   | (dsimp +zetaDelta only; split)

theorem execFormatForce_kept (w : Writer) (gen : Half) (s : State) :
    ∃ t, execFormatForce w gen s = .next t ∧ Kept [.free, .dict, .ev, .ports, .doms, .ring, .ecat, .comp, .cart, .xport, .sched, .jour, .opLog, .energy] s t := by
  unfold execFormatForce
  refine ⟨_, rfl, ?_⟩
  have hk := Kept.refl [.free, .dict, .ev, .ports, .doms, .ring, .ecat, .comp, .cart, .xport, .sched, .jour, .opLog, .energy] s
  have hsub : ([.free, .dict, .ev, .ports, .doms, .ring, .ecat, .comp, .cart, .xport, .sched, .jour, .opLog, .energy] : List Part) ⊆ [.free, .dict, .ev, .ports, .doms, .ring, .ecat, .comp, .cart, .xport, .sched, .jour, .opLog, .energy] := fun _ y => y
  try extract_lets -underBinder
  repeat' first
   | with_reducible assumption
   | exact sub_trans rfl hsub
   | intro _
   | with_reducible apply kept_ite
   | with_reducible apply live_kept
   | with_reducible apply arriveValue_kept
   | with_reducible apply cartRequest_kept
   | split
   | extract_lets -underBinder
   | (dsimp +zetaDelta only; split)

theorem execDiscardRing_kept (w : Writer) (gen : Half) (s : State) :
    ∃ t, execDiscardRing w gen s = .next t ∧ Kept [.free, .dict, .ev, .ports, .doms, .ring, .ecat, .comp, .cart, .xport, .sched, .jour, .opLog, .energy] s t := by
  unfold execDiscardRing
  refine ⟨_, rfl, ?_⟩
  have hk := Kept.refl [.free, .dict, .ev, .ports, .doms, .ring, .ecat, .comp, .cart, .xport, .sched, .jour, .opLog, .energy] s
  have hsub : ([.free, .dict, .ev, .ports, .doms, .ring, .ecat, .comp, .cart, .xport, .sched, .jour, .opLog, .energy] : List Part) ⊆ [.free, .dict, .ev, .ports, .doms, .ring, .ecat, .comp, .cart, .xport, .sched, .jour, .opLog, .energy] := fun _ y => y
  try extract_lets -underBinder
  repeat' first
   | with_reducible assumption
   | exact sub_trans rfl hsub
   | intro _
   | with_reducible apply kept_ite
   | with_reducible apply live_kept
   | with_reducible apply arriveValue_kept
   | with_reducible apply cartRequest_kept
   | split
   | extract_lets -underBinder
   | (dsimp +zetaDelta only; split)

theorem loadZones_kept {mask : List Part} {s0 s : State} (hk : Kept mask s0 s)
    (hsub : [.free, .dict, .ev, .ports, .cart, .opLog] ⊆ mask) : Kept mask s0 (loadZones s) := by
  unfold loadZones
  try extract_lets -underBinder
  repeat' first
   | with_reducible assumption
   | exact sub_trans rfl hsub
   | intro _
   | with_reducible apply kept_ite
   | with_reducible apply kept_foldl
   | with_reducible apply setObj_kept
   | with_reducible apply postEvent_kept
   | with_reducible apply modCart_kept
   | split
   | extract_lets -underBinder
   | (dsimp +zetaDelta only; split)

theorem loadWear_kept {mask : List Part} {s0 s : State} (hk : Kept mask s0 s)
    (hsub : [.free, .dict, .ev, .ports, .cart, .opLog] ⊆ mask) : Kept mask s0 (loadWear s) := by
  unfold loadWear
  try extract_lets -underBinder
  repeat' first
   | with_reducible assumption
   | exact sub_trans rfl hsub
   | intro _
   | with_reducible apply kept_ite
   | with_reducible apply kept_foldl
   | with_reducible apply modTape_kept
   | with_reducible apply postEvent_kept
   | with_reducible apply judgeWear_kept
   | with_reducible apply modCart_kept
   | with_reducible apply refreshWear_kept
   | with_reducible apply kept_id
   | split
   | extract_lets -underBinder
   | (dsimp +zetaDelta only; split)

theorem showCartridge_kept {mask : List Part} {s0 s : State} (hk : Kept mask s0 s)
    (hsub : [.dict] ⊆ mask) : Kept mask s0 (showCartridge s) := by
  unfold showCartridge
  try extract_lets -underBinder
  repeat' first
   | with_reducible assumption
   | exact sub_trans rfl hsub
   | intro _
   | with_reducible apply kept_ite
   | with_reducible apply setObj_kept
   | with_reducible apply kept_id
   | split
   | extract_lets -underBinder
   | (dsimp +zetaDelta only; split)

theorem hideCartridge_kept {mask : List Part} {s0 s : State} (hk : Kept mask s0 s)
    (hsub : [.dict] ⊆ mask) : Kept mask s0 (hideCartridge s) := by
  unfold hideCartridge
  try extract_lets -underBinder
  repeat' first
   | with_reducible assumption
   | exact sub_trans rfl hsub
   | intro _
   | with_reducible apply kept_ite
   | with_reducible apply kept_foldl
   | with_reducible apply setObj_kept
   | split
   | extract_lets -underBinder
   | (dsimp +zetaDelta only; split)

theorem resumeFormat_kept {mask : List Part} {s0 s : State} (hk : Kept mask s0 s)
    (hsub : [.free, .dict, .ev, .ports, .cart, .jour, .opLog] ⊆ mask) : Kept mask s0 (resumeFormat s) := by
  unfold resumeFormat
  try extract_lets -underBinder
  repeat' first
   | with_reducible assumption
   | exact sub_trans rfl hsub
   | intro _
   | with_reducible apply kept_ite
   | with_reducible apply startFormat_kept
   | with_reducible apply setObj_kept
   | with_reducible apply postEvent_kept
   | with_reducible apply writeStateBlock_kept
   | with_reducible apply kept_id
   | exact Or.inl (mem_of rfl hsub)
   | with_reducible exact Or.inr rfl
   | split
   | extract_lets -underBinder
   | (dsimp +zetaDelta only; split)
   | with_reducible apply kept_mk

theorem afterThreading_kept {mask : List Part} {s0 s : State} (hk : Kept mask s0 s)
    (hsub : [.free, .dict, .ev, .ports, .doms, .cart, .sched, .jour, .opLog, .energy] ⊆ mask) : Kept mask s0 (afterThreading s) := by
  unfold afterThreading
  try extract_lets -underBinder
  repeat' first
   | with_reducible assumption
   | exact sub_trans rfl hsub
   | intro _
   | with_reducible apply kept_ite
   | with_reducible apply enterCart_kept
   | with_reducible apply postEvent_kept
   | with_reducible apply wakeCartridge_kept
   | with_reducible apply resumeFormat_kept
   | with_reducible apply modCart_kept
   | with_reducible apply kept_id
   | split
   | extract_lets -underBinder
   | (dsimp +zetaDelta only; split)

theorem execThreaded_kept (arm : BitVec 12) (s : State) :
    ∃ t, execThreaded arm s = .next t ∧ Kept [.free, .dict, .ev, .ports, .doms, .ring, .dram, .test, .comp, .cart, .xport, .kiln, .sched, .jour, .opLog, .energy] s t := by
  unfold execThreaded
  refine ⟨_, rfl, ?_⟩
  have hk := Kept.refl [.free, .dict, .ev, .ports, .doms, .ring, .dram, .test, .comp, .cart, .xport, .kiln, .sched, .jour, .opLog, .energy] s
  have hsub : ([.free, .dict, .ev, .ports, .doms, .ring, .dram, .test, .comp, .cart, .xport, .kiln, .sched, .jour, .opLog, .energy] : List Part) ⊆ [.free, .dict, .ev, .ports, .doms, .ring, .dram, .test, .comp, .cart, .xport, .kiln, .sched, .jour, .opLog, .energy] := fun _ y => y
  try extract_lets -underBinder
  repeat' first
   | with_reducible assumption
   | exact sub_trans rfl hsub
   | intro _
   | with_reducible apply kept_ite
   | with_reducible apply live_kept
   | with_reducible apply modXport_kept
   | with_reducible apply modCart_kept
   | with_reducible apply progressAll_kept
   | with_reducible apply pollPower_kept
   | with_reducible apply postEvent_kept
   | with_reducible apply faultCartridge_kept
   | with_reducible apply writeStateBlock_kept
   | with_reducible apply showCartridge_kept
   | with_reducible apply loadZones_kept
   | with_reducible apply loadWear_kept
   | with_reducible apply wakeCartridge_kept
   | with_reducible apply afterThreading_kept
   | with_reducible apply kept_id
   | exact Or.inl (mem_of rfl hsub)
   | with_reducible exact Or.inr rfl
   | split
   | extract_lets -underBinder
   | (dsimp +zetaDelta only; split)
   | with_reducible apply kept_mk

theorem readTapeEnd_kept {mask : List Part} {s0 s : State} (hk : Kept mask s0 s)
    (hsub : [.dict, .cart, .jour] ⊆ mask) : Kept mask s0 (readTapeEnd s) := by
  unfold readTapeEnd
  try extract_lets -underBinder
  repeat' first
   | with_reducible assumption
   | exact sub_trans rfl hsub
   | intro _
   | with_reducible apply kept_ite
   | with_reducible apply kept_foldl
   | with_reducible apply modCart_kept
   | with_reducible apply setObj_kept
   | with_reducible apply kept_id
   | exact Or.inl (mem_of rfl hsub)
   | with_reducible exact Or.inr rfl
   | split
   | extract_lets -underBinder
   | (dsimp +zetaDelta only; split)
   | with_reducible apply kept_mk

theorem retireOpen_kept {mask : List Part} {s0 s : State} (hk : Kept mask s0 s)
    (hsub : [.free, .dict, .ev, .ports, .cart, .opLog] ⊆ mask) : Kept mask s0 (retireOpen s) := by
  unfold retireOpen
  try extract_lets -underBinder
  repeat' first
   | with_reducible assumption
   | exact sub_trans rfl hsub
   | intro _
   | with_reducible apply kept_ite
   | with_reducible apply kept_foldl
   | with_reducible apply modCut_kept
   | with_reducible apply addCharge_kept
   | with_reducible apply bump_kept
   | with_reducible apply kept_id
   | split
   | extract_lets -underBinder
   | (dsimp +zetaDelta only; split)

theorem passOpen_kept {mask : List Part} {s0 s : State} (hk : Kept mask s0 s)
    (hsub : [.free, .dict, .ev, .ports, .cart, .opLog] ⊆ mask) : Kept mask s0 (passOpen s) := by
  unfold passOpen
  try extract_lets -underBinder
  repeat' first
   | with_reducible assumption
   | exact sub_trans rfl hsub
   | intro _
   | with_reducible apply kept_ite
   | with_reducible apply retireOpen_kept
   | with_reducible apply modCart_kept
   | with_reducible apply kept_id
   | split
   | extract_lets -underBinder
   | (dsimp +zetaDelta only; split)

theorem execPowerLossReplay_kept (s : State) :
    ∃ t, execPowerLossReplay s = .next t ∧ Kept [.free, .dict, .ev, .ports, .cart, .jour, .opLog] s t := by
  unfold execPowerLossReplay
  refine ⟨_, rfl, ?_⟩
  have hk := Kept.refl [.free, .dict, .ev, .ports, .cart, .jour, .opLog] s
  have hsub : ([.free, .dict, .ev, .ports, .cart, .jour, .opLog] : List Part) ⊆ [.free, .dict, .ev, .ports, .cart, .jour, .opLog] := fun _ y => y
  try extract_lets -underBinder
  repeat' first
   | with_reducible assumption
   | exact sub_trans rfl hsub
   | intro _
   | with_reducible apply kept_ite
   | with_reducible apply live_kept
   | with_reducible apply passOpen_kept
   | with_reducible apply modCart_kept
   | with_reducible apply bump_kept
   | with_reducible apply postEvent_kept
   | with_reducible apply kept_id
   | exact Or.inl (mem_of rfl hsub)
   | with_reducible exact Or.inr rfl
   | split
   | extract_lets -underBinder
   | (dsimp +zetaDelta only; split)
   | with_reducible apply kept_mk

theorem scheduleRing_kept {mask : List Part} {s0 s : State} (hk : Kept mask s0 s)
    (hsub : [.dict, .doms, .ring, .dram, .comp] ⊆ mask) : Kept mask s0 (scheduleRing s) := by
  unfold scheduleRing
  try extract_lets -underBinder
  repeat' first
   | with_reducible assumption
   | exact sub_trans rfl hsub
   | intro _
   | with_reducible apply kept_ite
   | with_reducible apply runPagers_kept
   | exact Or.inl (mem_of rfl hsub)
   | with_reducible exact Or.inr rfl
   | split
   | extract_lets -underBinder
   | (dsimp +zetaDelta only; split)
   | with_reducible apply kept_mk

theorem meetLogs_kept {mask : List Part} {s0 s : State} (hk : Kept mask s0 s)
    (hsub : [.doms] ⊆ mask) : Kept mask s0 (meetLogs s) := by
  unfold meetLogs
  try extract_lets -underBinder
  repeat' first
   | with_reducible assumption
   | exact sub_trans rfl hsub
   | intro _
   | with_reducible apply kept_ite
   | with_reducible apply kept_foldl
   | with_reducible apply modDom_kept
   | split
   | extract_lets -underBinder
   | (dsimp +zetaDelta only; split)

theorem rollBack_kept {mask : List Part} {s0 s : State} (kind : Nat) (hk : Kept mask s0 s)
    (hsub : [.free, .dict, .ev, .ports, .jour, .opLog] ⊆ mask) : Kept mask s0 (rollBack kind s) := by
  unfold rollBack
  try extract_lets -underBinder
  repeat' first
   | with_reducible assumption
   | exact sub_trans rfl hsub
   | intro _
   | with_reducible apply kept_ite
   | with_reducible apply postEvent_kept
   | with_reducible apply kept_id
   | exact Or.inl (mem_of rfl hsub)
   | with_reducible exact Or.inr rfl
   | split
   | extract_lets -underBinder
   | (dsimp +zetaDelta only; split)
   | with_reducible apply kept_mk

theorem redoOps_kept {mask : List Part} {s0 s : State} (hk : Kept mask s0 s)
    (hsub : [.free, .dict, .ev, .ports, .cart, .sched, .jour, .opLog] ⊆ mask) : Kept mask s0 (redoOps s) := by
  unfold redoOps
  try extract_lets -underBinder
  repeat' first
   | with_reducible assumption
   | exact sub_trans rfl hsub
   | intro _
   | with_reducible apply kept_ite
   | with_reducible apply rollBack_kept
   | with_reducible apply modCart_kept
   | exact Or.inl (mem_of rfl hsub)
   | with_reducible exact Or.inr rfl
   | split
   | extract_lets -underBinder
   | (dsimp +zetaDelta only; split)
   | with_reducible apply kept_mk

theorem meetOps_kept {mask : List Part} {s0 s : State} (hk : Kept mask s0 s)
    (hsub : [.free, .dict, .ev, .ports, .cart, .sched, .jour, .opLog] ⊆ mask) : Kept mask s0 (meetOps s) := by
  unfold meetOps
  try extract_lets -underBinder
  repeat' first
   | with_reducible assumption
   | exact sub_trans rfl hsub
   | intro _
   | with_reducible apply kept_ite
   | with_reducible apply kept_foldl
   | with_reducible apply redoOps_kept
   | with_reducible apply rollBack_kept
   | with_reducible apply endOp_kept
   | with_reducible apply postEvent_kept
   | with_reducible apply kept_id
   | exact Or.inl (mem_of rfl hsub)
   | with_reducible exact Or.inr rfl
   | split
   | extract_lets -underBinder
   | (dsimp +zetaDelta only; split)
   | with_reducible apply kept_mk

theorem meetIndex_kept {mask : List Part} {s0 s : State} (hk : Kept mask s0 s)
    (hsub : [.free, .dict, .ev, .ports, .cart, .jour, .opLog] ⊆ mask) : Kept mask s0 (meetIndex s) := by
  unfold meetIndex
  try extract_lets -underBinder
  repeat' first
   | with_reducible assumption
   | exact sub_trans rfl hsub
   | intro _
   | with_reducible apply kept_ite
   | with_reducible apply postEvent_kept
   | with_reducible apply modCart_kept
   | with_reducible apply openOp_kept
   | with_reducible apply kept_id
   | exact Or.inl (mem_of rfl hsub)
   | with_reducible exact Or.inr rfl
   | split
   | extract_lets -underBinder
   | (dsimp +zetaDelta only; split)
   | with_reducible apply kept_mk

theorem execEodFound_kept (rot : List CacheRot) (s : State) :
    ∃ t, execEodFound rot s = .next t ∧ Kept [.free, .dict, .ev, .ports, .doms, .ring, .dram, .comp, .cart, .kiln, .sched, .jour, .opLog, .energy] s t := by
  unfold execEodFound
  refine ⟨_, rfl, ?_⟩
  have hk := Kept.refl [.free, .dict, .ev, .ports, .doms, .ring, .dram, .comp, .cart, .kiln, .sched, .jour, .opLog, .energy] s
  have hsub : ([.free, .dict, .ev, .ports, .doms, .ring, .dram, .comp, .cart, .kiln, .sched, .jour, .opLog, .energy] : List Part) ⊆ [.free, .dict, .ev, .ports, .doms, .ring, .dram, .comp, .cart, .kiln, .sched, .jour, .opLog, .energy] := fun _ y => y
  try extract_lets -underBinder
  repeat' first
   | with_reducible assumption
   | exact sub_trans rfl hsub
   | intro _
   | with_reducible apply kept_ite
   | with_reducible apply kept_foldl
   | with_reducible apply live_kept
   | with_reducible apply rotCache_kept
   | with_reducible apply readTapeEnd_kept
   | with_reducible apply passOpen_kept
   | with_reducible apply meetOps_kept
   | with_reducible apply meetIndex_kept
   | with_reducible apply meetLogs_kept
   | with_reducible apply scheduleRing_kept
   | with_reducible apply enterCart_kept
   | with_reducible apply refreshTape_kept
   | with_reducible apply checkBoot_kept
   | with_reducible apply progressAll_kept
   | with_reducible apply pollPower_kept
   | with_reducible apply wakeCartridge_kept
   | with_reducible apply kept_id
   | split
   | extract_lets -underBinder
   | (dsimp +zetaDelta only; split)

theorem indexRead_kept {mask : List Part} {s0 s : State} (serial : Nat) (hk : Kept mask s0 s)
    (hsub : [.cart, .jour, .opLog] ⊆ mask) : Kept mask s0 (indexRead serial s) := by
  unfold indexRead
  try extract_lets -underBinder
  repeat' first
   | with_reducible assumption
   | exact sub_trans rfl hsub
   | intro _
   | with_reducible apply kept_ite
   | with_reducible apply modCart_kept
   | with_reducible apply stepOp_kept
   | with_reducible apply kept_id
   | split
   | extract_lets -underBinder
   | (dsimp +zetaDelta only; split)

theorem execIndexRebuildComplete_kept (s : State) :
    ∃ t, execIndexRebuildComplete s = .next t ∧ Kept [.free, .dict, .ev, .ports, .doms, .ring, .dram, .comp, .cart, .kiln, .sched, .jour, .opLog, .energy] s t := by
  unfold execIndexRebuildComplete
  refine ⟨_, rfl, ?_⟩
  have hk := Kept.refl [.free, .dict, .ev, .ports, .doms, .ring, .dram, .comp, .cart, .kiln, .sched, .jour, .opLog, .energy] s
  have hsub : ([.free, .dict, .ev, .ports, .doms, .ring, .dram, .comp, .cart, .kiln, .sched, .jour, .opLog, .energy] : List Part) ⊆ [.free, .dict, .ev, .ports, .doms, .ring, .dram, .comp, .cart, .kiln, .sched, .jour, .opLog, .energy] := fun _ y => y
  try extract_lets -underBinder
  repeat' first
   | with_reducible assumption
   | exact sub_trans rfl hsub
   | intro _
   | with_reducible apply kept_ite
   | with_reducible apply live_kept
   | with_reducible apply modCart_kept
   | with_reducible apply endOp_kept
   | with_reducible apply refreshTape_kept
   | with_reducible apply progressAll_kept
   | with_reducible apply runPagers_kept
   | with_reducible apply kept_id
   | split
   | extract_lets -underBinder
   | (dsimp +zetaDelta only; split)

theorem execCartridgeQuiescent_kept (s : State) :
    ∃ t, execCartridgeQuiescent s = .next t ∧ Kept [.free, .dict, .ev, .ports, .doms, .ring, .dram, .test, .comp, .cart, .xport, .kiln, .sched, .jour, .opLog, .energy] s t := by
  unfold execCartridgeQuiescent
  refine ⟨_, rfl, ?_⟩
  have hk := Kept.refl [.free, .dict, .ev, .ports, .doms, .ring, .dram, .test, .comp, .cart, .xport, .kiln, .sched, .jour, .opLog, .energy] s
  have hsub : ([.free, .dict, .ev, .ports, .doms, .ring, .dram, .test, .comp, .cart, .xport, .kiln, .sched, .jour, .opLog, .energy] : List Part) ⊆ [.free, .dict, .ev, .ports, .doms, .ring, .dram, .test, .comp, .cart, .xport, .kiln, .sched, .jour, .opLog, .energy] := fun _ y => y
  try extract_lets -underBinder
  repeat' first
   | with_reducible assumption
   | exact sub_trans rfl hsub
   | intro _
   | with_reducible apply kept_ite
   | with_reducible apply live_kept
   | with_reducible apply stopTape_kept
   | with_reducible apply startFormat_kept
   | with_reducible apply startUnloading_kept
   | with_reducible apply progressAll_kept
   | with_reducible apply pollPower_kept
   | with_reducible apply wakeCartridge_kept
   | with_reducible apply loseCartridge_kept
   | exact Or.inl (mem_of rfl hsub)
   | with_reducible exact Or.inr rfl
   | split
   | extract_lets -underBinder
   | (dsimp +zetaDelta only; split)
   | with_reducible apply kept_mk

theorem dropTapeWork_kept {mask : List Part} {s0 s : State} (hk : Kept mask s0 s)
    (hsub : [.free, .dict, .ev, .ports, .cart, .sched, .jour, .opLog] ⊆ mask) : Kept mask s0 (dropTapeWork s) := by
  unfold dropTapeWork
  try extract_lets -underBinder
  repeat' first
   | with_reducible assumption
   | exact sub_trans rfl hsub
   | intro _
   | with_reducible apply kept_ite
   | with_reducible apply rollBack_kept
   | with_reducible apply kept_id
   | exact Or.inl (mem_of rfl hsub)
   | with_reducible exact Or.inr rfl
   | split
   | extract_lets -underBinder
   | (dsimp +zetaDelta only; split)
   | with_reducible apply kept_mk

theorem execUnthreaded_kept (s : State) :
    ∃ t, execUnthreaded s = .next t ∧ Kept [.free, .dict, .ev, .ports, .doms, .ring, .dram, .comp, .cart, .xport, .kiln, .sched, .jour, .opLog, .energy] s t := by
  unfold execUnthreaded
  refine ⟨_, rfl, ?_⟩
  have hk := Kept.refl [.free, .dict, .ev, .ports, .doms, .ring, .dram, .comp, .cart, .xport, .kiln, .sched, .jour, .opLog, .energy] s
  have hsub : ([.free, .dict, .ev, .ports, .doms, .ring, .dram, .comp, .cart, .xport, .kiln, .sched, .jour, .opLog, .energy] : List Part) ⊆ [.free, .dict, .ev, .ports, .doms, .ring, .dram, .comp, .cart, .xport, .kiln, .sched, .jour, .opLog, .energy] := fun _ y => y
  try extract_lets -underBinder
  repeat' first
   | with_reducible assumption
   | exact sub_trans rfl hsub
   | intro _
   | with_reducible apply kept_ite
   | with_reducible apply live_kept
   | with_reducible apply flushZones_kept
   | with_reducible apply flushWear_kept
   | with_reducible apply writeStateBlock_kept
   | with_reducible apply dropTapeWork_kept
   | with_reducible apply modCart_kept
   | with_reducible apply hideCartridge_kept
   | with_reducible apply enterCart_kept
   | with_reducible apply progressAll_kept
   | with_reducible apply pollPower_kept
   | with_reducible apply wakeCartridge_kept
   | with_reducible apply enterXport_kept
   | with_reducible apply modXport_kept
   | with_reducible apply kept_id
   | split
   | extract_lets -underBinder
   | (dsimp +zetaDelta only; split)

theorem execFormatWrapDone_kept (s : State) :
    ∃ t, execFormatWrapDone s = .next t ∧ Kept [.free, .dict, .ev, .ports, .cart, .jour, .opLog] s t := by
  unfold execFormatWrapDone
  refine ⟨_, rfl, ?_⟩
  have hk := Kept.refl [.free, .dict, .ev, .ports, .cart, .jour, .opLog] s
  have hsub : ([.free, .dict, .ev, .ports, .cart, .jour, .opLog] : List Part) ⊆ [.free, .dict, .ev, .ports, .cart, .jour, .opLog] := fun _ y => y
  try extract_lets -underBinder
  repeat' first
   | with_reducible assumption
   | exact sub_trans rfl hsub
   | intro _
   | with_reducible apply kept_ite
   | with_reducible apply live_kept
   | with_reducible apply modTape_kept
   | with_reducible apply addWear_kept
   | with_reducible apply stepOp_kept
   | with_reducible apply updateMemory_kept
   | with_reducible apply setObj_kept
   | with_reducible apply kept_id
   | split
   | extract_lets -underBinder
   | (dsimp +zetaDelta only; split)

theorem formatCut_kept {mask : List Part} {s0 s : State} (kind : CutKind) (c : Chain) (w : Nat) (start : Nat) (last : Bool) (hk : Kept mask s0 s)
    (hsub : [.free, .dict, .ev, .ports, .cart, .jour, .opLog] ⊆ mask) : Kept mask s0 (formatCut kind c w start last s) := by
  unfold formatCut
  try extract_lets -underBinder
  repeat' first
   | with_reducible assumption
   | exact sub_trans rfl hsub
   | intro _
   | with_reducible apply kept_ite
   | with_reducible apply takeSerial_kept
   | with_reducible apply modTape_kept
   | with_reducible apply modChain_kept
   | with_reducible apply addWear_kept
   | with_reducible apply kept_id
   | split
   | extract_lets -underBinder
   | (dsimp +zetaDelta only; split)

theorem writeCalibration_kept {mask : List Part} {s0 s : State} (hk : Kept mask s0 s)
    (hsub : [.free, .dict, .ev, .ports, .cart, .jour, .opLog] ⊆ mask) : Kept mask s0 (writeCalibration s) := by
  unfold writeCalibration
  try extract_lets -underBinder
  repeat' first
   | with_reducible assumption
   | exact sub_trans rfl hsub
   | intro _
   | with_reducible apply kept_ite
   | with_reducible apply kept_foldl
   | with_reducible apply formatCut_kept
   | with_reducible apply kept_id
   | split
   | extract_lets -underBinder
   | (dsimp +zetaDelta only; split)

theorem writeEmptyZone_kept {mask : List Part} {s0 s : State} (z : Fin 2) (hk : Kept mask s0 s)
    (hsub : [.free, .dict, .ev, .ports, .cart, .jour, .opLog] ⊆ mask) : Kept mask s0 (writeEmptyZone z s) := by
  unfold writeEmptyZone
  try extract_lets -underBinder
  repeat' first
   | with_reducible assumption
   | exact sub_trans rfl hsub
   | intro _
   | with_reducible apply kept_ite
   | with_reducible apply formatCut_kept
   | with_reducible apply modChain_kept
   | with_reducible apply modZone_kept
   | with_reducible apply kept_id
   | split
   | extract_lets -underBinder
   | (dsimp +zetaDelta only; split)

theorem restartChains_kept {mask : List Part} {s0 s : State} (hk : Kept mask s0 s)
    (hsub : [.cart] ⊆ mask) : Kept mask s0 (restartChains s) := by
  unfold restartChains
  try extract_lets -underBinder
  repeat' first
   | with_reducible assumption
   | exact sub_trans rfl hsub
   | intro _
   | with_reducible apply kept_ite
   | with_reducible apply modCart_kept
   | split
   | extract_lets -underBinder
   | (dsimp +zetaDelta only; split)

theorem emptyContent_kept {mask : List Part} {s0 s : State} (hk : Kept mask s0 s)
    (hsub : [.doms, .ring, .comp] ⊆ mask) : Kept mask s0 (emptyContent s) := by
  unfold emptyContent
  try extract_lets -underBinder
  repeat' first
   | with_reducible assumption
   | exact sub_trans rfl hsub
   | intro _
   | with_reducible apply kept_ite
   | with_reducible apply kept_foldl
   | with_reducible apply modDom_kept
   | exact Or.inl (mem_of rfl hsub)
   | with_reducible exact Or.inr rfl
   | split
   | extract_lets -underBinder
   | (dsimp +zetaDelta only; split)
   | with_reducible apply kept_mk

theorem execFormatComplete_kept (s : State) :
    ∃ t, execFormatComplete s = .next t ∧ Kept [.free, .dict, .ev, .ports, .doms, .ring, .dram, .comp, .cart, .kiln, .sched, .jour, .opLog, .energy] s t := by
  unfold execFormatComplete
  refine ⟨_, rfl, ?_⟩
  have hk := Kept.refl [.free, .dict, .ev, .ports, .doms, .ring, .dram, .comp, .cart, .kiln, .sched, .jour, .opLog, .energy] s
  have hsub : ([.free, .dict, .ev, .ports, .doms, .ring, .dram, .comp, .cart, .kiln, .sched, .jour, .opLog, .energy] : List Part) ⊆ [.free, .dict, .ev, .ports, .doms, .ring, .dram, .comp, .cart, .kiln, .sched, .jour, .opLog, .energy] := fun _ y => y
  try extract_lets -underBinder
  repeat' first
   | with_reducible assumption
   | exact sub_trans rfl hsub
   | intro _
   | with_reducible apply kept_ite
   | with_reducible apply live_kept
   | with_reducible apply restartChains_kept
   | with_reducible apply writeCalibration_kept
   | with_reducible apply stepOp_kept
   | with_reducible apply writeEmptyZone_kept
   | with_reducible apply formatCut_kept
   | with_reducible apply modChain_kept
   | with_reducible apply updateMemory_kept
   | with_reducible apply endOp_kept
   | with_reducible apply modCart_kept
   | with_reducible apply emptyContent_kept
   | with_reducible apply enterCart_kept
   | with_reducible apply progressAll_kept
   | with_reducible apply pollPower_kept
   | with_reducible apply refreshTape_kept
   | with_reducible apply postEvent_kept
   | with_reducible apply kept_id
   | split
   | extract_lets -underBinder
   | (dsimp +zetaDelta only; split)

end Sys2Proof.Machine
end

