-- ==== Sys2Proof/Laws/KeptChannel.lean ====
section
/-!
SUPPORT. What the operations of Machine/Channel.lean may touch, and that they keep the canonical forms.
-/
set_option linter.unusedTactic false
set_option linter.unreachableTactic false
set_option linter.unusedVariables false

namespace Sys2Proof.Machine

theorem seedChannel_kept {mask : List Part} {s0 s : State} (gain : Int) (asym : Int) (hk : Kept mask s0 s)
    (hsub : [.xport] ⊆ mask) : Kept mask s0 (seedChannel gain asym s) := by
  unfold seedChannel
  try extract_lets -underBinder
  repeat' first
   | with_reducible assumption
   | exact sub_trans rfl hsub
   | intro _
   | with_reducible apply kept_ite
   | with_reducible apply modXport_kept
   | split
   | extract_lets -underBinder
   | (dsimp +zetaDelta only; split)

theorem adaptChannel_kept {mask : List Part} {s0 s : State} (adapted : Vector AfeRead 17) (hk : Kept mask s0 s)
    (hsub : [.xport] ⊆ mask) : Kept mask s0 (adaptChannel adapted s) := by
  unfold adaptChannel
  try extract_lets -underBinder
  repeat' first
   | with_reducible assumption
   | exact sub_trans rfl hsub
   | intro _
   | with_reducible apply kept_ite
   | with_reducible apply modXport_kept
   | split
   | extract_lets -underBinder
   | (dsimp +zetaDelta only; split)

end Sys2Proof.Machine
end

