-- ==== Sys2Proof/Laws/KeptImage.lean ====
section
/-!
SUPPORT. What the operations of Machine/Image.lean may touch, and that they keep the canonical forms.
-/
set_option linter.unusedTactic false
set_option linter.unreachableTactic false
set_option linter.unusedVariables false

namespace Sys2Proof.Machine

theorem clearDict_kept {mask : List Part} {s0 s : State} (hk : Kept mask s0 s)
    (hsub : [.dict] ⊆ mask) : Kept mask s0 (clearDict s) :=
  kept_dict hk (mem_of rfl hsub) (dictWf_filter _)

theorem loadFuses_kept {mask : List Part} {s0 s : State} (hk : Kept mask s0 s)
    (hsub : [.dict] ⊆ mask) : Kept mask s0 (loadFuses s) := by
  unfold loadFuses
  try extract_lets -underBinder
  repeat' first
   | with_reducible assumption
   | exact sub_trans rfl hsub
   | intro _
   | with_reducible apply kept_ite
   | with_reducible apply setObj_kept
   | with_reducible apply kept_id
   | split
   | extract_lets -underBinder
   | (dsimp +zetaDelta only; split)

theorem loadTemplate_kept {mask : List Part} {s0 s : State} (d : Dom) (hk : Kept mask s0 s)
    (hsub : [.dict] ⊆ mask) : Kept mask s0 (loadTemplate d s) := by
  unfold loadTemplate
  try extract_lets -underBinder
  repeat' first
   | with_reducible assumption
   | exact sub_trans rfl hsub
   | intro _
   | with_reducible apply kept_ite
   | with_reducible apply setObj_kept
   | with_reducible apply kept_id
   | split
   | extract_lets -underBinder
   | (dsimp +zetaDelta only; split)

theorem loadPortStraps_kept {mask : List Part} {s0 s : State} (p : PortId) (hk : Kept mask s0 s)
    (hsub : [.dict] ⊆ mask) : Kept mask s0 (loadPortStraps p s) := by
  unfold loadPortStraps
  try extract_lets -underBinder
  repeat' first
   | with_reducible assumption
   | exact sub_trans rfl hsub
   | intro _
   | with_reducible apply kept_ite
   | with_reducible apply setObj_kept
   | with_reducible apply kept_id
   | split
   | extract_lets -underBinder
   | (dsimp +zetaDelta only; split)

theorem loadStraps_kept {mask : List Part} {s0 s : State} (hk : Kept mask s0 s)
    (hsub : [.dict] ⊆ mask) : Kept mask s0 (loadStraps s) := by
  unfold loadStraps
  try extract_lets -underBinder
  repeat' first
   | with_reducible assumption
   | exact sub_trans rfl hsub
   | intro _
   | with_reducible apply kept_ite
   | with_reducible apply kept_foldl
   | with_reducible apply setObj_kept
   | with_reducible apply loadPortStraps_kept
   | with_reducible apply loadTemplate_kept
   | with_reducible apply kept_id
   | split
   | extract_lets -underBinder
   | (dsimp +zetaDelta only; split)

theorem reloaded_kept {mask : List Part} {s0 s : State} (hk : Kept mask s0 s)
    (hsub : [.dict] ⊆ mask) : Kept mask s0 (reloaded s) := by
  unfold reloaded
  try extract_lets -underBinder
  repeat' first
   | with_reducible assumption
   | exact sub_trans rfl hsub
   | intro _
   | with_reducible apply kept_ite
   | with_reducible apply clearDict_kept
   | with_reducible apply loadFuses_kept
   | with_reducible apply loadStraps_kept
   | with_reducible apply kept_id
   | split
   | extract_lets -underBinder
   | (dsimp +zetaDelta only; split)

theorem applyValues_kept {mask : List Part} {s0 s : State} (l : List (Nat × Nat × List Byte)) (hk : Kept mask s0 s)
    (hsub : [.dict] ⊆ mask) : Kept mask s0 (applyValues l s) := by
  unfold applyValues
  try extract_lets -underBinder
  repeat' first
   | with_reducible assumption
   | exact sub_trans rfl hsub
   | intro _
   | with_reducible apply kept_ite
   | with_reducible apply kept_foldl
   | with_reducible apply setObj_kept
   | split
   | extract_lets -underBinder
   | (dsimp +zetaDelta only; split)

theorem configureByShare_kept {mask : List Part} {s0 s : State} (hk : Kept mask s0 s)
    (hsub : [.doms] ⊆ mask) : Kept mask s0 (configureByShare s) := by
  unfold configureByShare
  try extract_lets -underBinder
  repeat' first
   | with_reducible assumption
   | exact sub_trans rfl hsub
   | intro _
   | with_reducible apply kept_ite
   | with_reducible apply kept_foldl
   | with_reducible apply modDom_kept
   | split
   | extract_lets -underBinder
   | (dsimp +zetaDelta only; split)

theorem withValues_kept {mask : List Part} {s0 s : State} (l : List (Nat × Nat × List Byte)) (hk : Kept mask s0 s)
    (hsub : [.dict, .doms] ⊆ mask) : Kept mask s0 (withValues l s) := by
  unfold withValues
  try extract_lets -underBinder
  repeat' first
   | with_reducible assumption
   | exact sub_trans rfl hsub
   | intro _
   | with_reducible apply kept_ite
   | with_reducible apply configureByShare_kept
   | with_reducible apply applyValues_kept
   | with_reducible apply reloaded_kept
   | split
   | extract_lets -underBinder
   | (dsimp +zetaDelta only; split)

theorem dropDownload_kept {mask : List Part} {s0 s : State} (hk : Kept mask s0 s)
    (hsub : [.boot] ⊆ mask) : Kept mask s0 (dropDownload s) := by
  unfold dropDownload
  try extract_lets -underBinder
  repeat' first
   | with_reducible assumption
   | exact sub_trans rfl hsub
   | intro _
   | with_reducible apply kept_ite
   | exact Or.inl (mem_of rfl hsub)
   | with_reducible exact Or.inr rfl
   | split
   | extract_lets -underBinder
   | (dsimp +zetaDelta only; split)
   | with_reducible apply kept_mk

theorem finishDownload_kept {mask : List Part} {s0 s : State} (total : Nat) (hk : Kept mask s0 s)
    (hsub : [.boot, .dict] ⊆ mask) : Kept mask s0 (finishDownload total s).2 := by
  unfold finishDownload
  split
  · exact hk
  · extract_lets
    split
    · exact setObj_kept _ _ (dropDownload_kept hk (sub_trans rfl hsub)) (sub_trans rfl hsub)
    · refine dropDownload_kept ?_ (sub_trans rfl hsub)
      apply kept_mk hk
      all_goals first | exact Or.inr rfl | exact Or.inl (mem_of rfl hsub)

theorem pushData_kept {mask : List Part} {s0 s : State} (w : Writer) (bytes : List Byte) (hk : Kept mask s0 s)
    (hsub : [.free, .dict, .boot] ⊆ mask) : Kept mask s0 (pushData w bytes s) := by
  unfold pushData
  try extract_lets -underBinder
  repeat' first
   | with_reducible assumption
   | exact sub_trans rfl hsub
   | intro _
   | with_reducible apply kept_ite
   | with_reducible apply draw_kept
   | with_reducible apply setObj_kept
   | with_reducible apply kept_id
   | exact Or.inl (mem_of rfl hsub)
   | with_reducible exact Or.inr rfl
   | split
   | extract_lets -underBinder
   | (dsimp +zetaDelta only; split)
   | with_reducible apply kept_mk

theorem activate_kept {mask : List Part} {s0 s : State} (hk : Kept mask s0 s)
    (hsub : [.boot, .jour, .opLog] ⊆ mask) : Kept mask s0 (activate s) := by
  unfold activate
  try extract_lets -underBinder
  repeat' first
   | with_reducible assumption
   | exact sub_trans rfl hsub
   | intro _
   | with_reducible apply kept_ite
   | with_reducible apply openOp_kept
   | with_reducible apply stepOp_kept
   | with_reducible apply endOp_kept
   | with_reducible apply kept_id
   | exact Or.inl (mem_of rfl hsub)
   | with_reducible exact Or.inr rfl
   | split
   | extract_lets -underBinder
   | (dsimp +zetaDelta only; split)
   | with_reducible apply kept_mk

end Sys2Proof.Machine
end

