-- ==== Sys2Proof/Laws/KeptLaneLine.lean ====
section
/-!
SUPPORT. What the operations of Machine/LaneLine.lean may touch, and that they keep the canonical forms.
-/
set_option linter.unusedTactic false
set_option linter.unreachableTactic false
set_option linter.unusedVariables false

namespace Sys2Proof.Machine

theorem putLaneFrames_kept {mask : List Part} {s0 s : State} (p : PortId) (content : List Byte) (hk : Kept mask s0 s)
    (hsub : [.ports] ⊆ mask) : Kept mask s0 (putLaneFrames p content s) := by
  unfold putLaneFrames
  try extract_lets -underBinder
  repeat' first
   | with_reducible assumption
   | exact sub_trans rfl hsub
   | intro _
   | with_reducible apply kept_ite
   | with_reducible apply modLanes_kept
   | split
   | extract_lets -underBinder
   | (dsimp +zetaDelta only; split)

theorem silence_kept {mask : List Part} {s0 s : State} (p : PortId) (hk : Kept mask s0 s)
    (hsub : [.ports] ⊆ mask) : Kept mask s0 (silence p s) := by
  unfold silence
  try extract_lets -underBinder
  repeat' first
   | with_reducible assumption
   | exact sub_trans rfl hsub
   | intro _
   | with_reducible apply kept_ite
   | with_reducible apply modLanes_kept
   | split
   | extract_lets -underBinder
   | (dsimp +zetaDelta only; split)

theorem putEotMarkers_kept {mask : List Part} {s0 s : State} (p : PortId) (hk : Kept mask s0 s)
    (hsub : [.ports] ⊆ mask) : Kept mask s0 (putEotMarkers p s) := by
  unfold putEotMarkers
  try extract_lets -underBinder
  repeat' first
   | with_reducible assumption
   | exact sub_trans rfl hsub
   | intro _
   | with_reducible apply kept_ite
   | with_reducible apply modLanes_kept
   | split
   | extract_lets -underBinder
   | (dsimp +zetaDelta only; split)

end Sys2Proof.Machine
end

