-- ==== Sys2Proof/Laws/KeptLanes.lean ====
section
/-!
SUPPORT. What the operations of Machine/Lanes.lean may touch, and that they keep the canonical forms.
-/
set_option linter.unusedTactic false
set_option linter.unreachableTactic false
set_option linter.unusedVariables false

namespace Sys2Proof.Machine

theorem laneWakes_kept {mask : List Part} {s0 s : State} (p : PortId) (l : Lane) (alone : Bool) (hk : Kept mask s0 s)
    (hsub : [.ports] ⊆ mask) : Kept mask s0 (laneWakes p l alone s) := by
  unfold laneWakes
  try extract_lets -underBinder
  repeat' first
   | with_reducible assumption
   | exact sub_trans rfl hsub
   | intro _
   | with_reducible apply kept_ite
   | with_reducible apply modLane_kept
   | split
   | extract_lets -underBinder
   | (dsimp +zetaDelta only; split)

theorem listenToTraining_kept {mask : List Part} {s0 s : State} (p : PortId) (hk : Kept mask s0 s)
    (hsub : [.dict, .ports] ⊆ mask) : Kept mask s0 (listenToTraining p s) := by
  unfold listenToTraining
  try extract_lets -underBinder
  repeat' first
   | with_reducible assumption
   | exact sub_trans rfl hsub
   | intro _
   | with_reducible apply kept_ite
   | with_reducible apply takeLinkConfig_kept
   | with_reducible apply modLanes_kept
   | with_reducible apply modPort_kept
   | with_reducible apply fullTraining_kept
   | with_reducible apply enterPort_kept
   | with_reducible apply kept_id
   | split
   | extract_lets -underBinder
   | (dsimp +zetaDelta only; split)

theorem execSignalDetected_kept (p : PortId) (l : Lane) (s : State) :
    ∃ t, execSignalDetected p l s = .next t ∧ Kept [.dict, .ports] s t := by
  unfold execSignalDetected
  refine ⟨_, rfl, ?_⟩
  have hk := Kept.refl [.dict, .ports] s
  have hsub : ([.dict, .ports] : List Part) ⊆ [.dict, .ports] := fun _ y => y
  try extract_lets -underBinder
  repeat' first
   | with_reducible assumption
   | exact sub_trans rfl hsub
   | intro _
   | with_reducible apply kept_ite
   | with_reducible apply live_kept
   | with_reducible apply modLane_kept
   | with_reducible apply listenToTraining_kept
   | with_reducible apply laneWakes_kept
   | split
   | extract_lets -underBinder
   | (dsimp +zetaDelta only; split)

theorem execLos_kept (p : PortId) (l : Lane) (s : State) :
    ∃ t, execLos p l s = .next t ∧ Kept [.free, .dict, .ev, .ports, .opLog] s t := by
  unfold execLos
  refine ⟨_, rfl, ?_⟩
  have hk := Kept.refl [.free, .dict, .ev, .ports, .opLog] s
  have hsub : ([.free, .dict, .ev, .ports, .opLog] : List Part) ⊆ [.free, .dict, .ev, .ports, .opLog] := fun _ y => y
  try extract_lets -underBinder
  repeat' first
   | with_reducible assumption
   | exact sub_trans rfl hsub
   | intro _
   | with_reducible apply kept_ite
   | with_reducible apply live_kept
   | with_reducible apply modLane_kept
   | with_reducible apply laneFallback_kept
   | with_reducible apply laneLost_kept
   | split
   | extract_lets -underBinder
   | (dsimp +zetaDelta only; split)

theorem lolAsserted_kept {mask : List Part} {s0 s : State} (p : PortId) (l : Lane) (hk : Kept mask s0 s)
    (hsub : [.free, .dict, .ev, .ports, .opLog] ⊆ mask) : Kept mask s0 (lolAsserted p l s) := by
  unfold lolAsserted
  try extract_lets -underBinder
  repeat' first
   | with_reducible assumption
   | exact sub_trans rfl hsub
   | intro _
   | with_reducible apply kept_ite
   | with_reducible apply modLane_kept
   | with_reducible apply laneLost_kept
   | split
   | extract_lets -underBinder
   | (dsimp +zetaDelta only; split)

theorem execLol_kept (p : PortId) (l : Lane) (s : State) :
    ∃ t, execLol p l s = .next t ∧ Kept [.free, .dict, .ev, .ports, .opLog] s t := by
  unfold execLol
  refine ⟨_, rfl, ?_⟩
  have hk := Kept.refl [.free, .dict, .ev, .ports, .opLog] s
  have hsub : ([.free, .dict, .ev, .ports, .opLog] : List Part) ⊆ [.free, .dict, .ev, .ports, .opLog] := fun _ y => y
  try extract_lets -underBinder
  repeat' first
   | with_reducible assumption
   | exact sub_trans rfl hsub
   | intro _
   | with_reducible apply kept_ite
   | with_reducible apply live_kept
   | with_reducible apply lolAsserted_kept
   | split
   | extract_lets -underBinder
   | (dsimp +zetaDelta only; split)

theorem execLockComplete_kept (p : PortId) (l : Lane) (s : State) :
    ∃ t, execLockComplete p l s = .next t ∧ Kept [.ports] s t := by
  unfold execLockComplete
  refine ⟨_, rfl, ?_⟩
  have hk := Kept.refl [.ports] s
  have hsub : ([.ports] : List Part) ⊆ [.ports] := fun _ y => y
  try extract_lets -underBinder
  repeat' first
   | with_reducible assumption
   | exact sub_trans rfl hsub
   | intro _
   | with_reducible apply kept_ite
   | with_reducible apply live_kept
   | with_reducible apply modLane_kept
   | split
   | extract_lets -underBinder
   | (dsimp +zetaDelta only; split)

theorem execAlignComplete_kept (p : PortId) (l : Lane) (word : DWord) (hits : List SlipHit) (s : State) :
    ∃ t, execAlignComplete p l word hits s = .next t ∧ Kept [.free, .dict, .ev, .ports, .opLog] s t := by
  unfold execAlignComplete
  refine ⟨_, rfl, ?_⟩
  have hk := Kept.refl [.free, .dict, .ev, .ports, .opLog] s
  have hsub : ([.free, .dict, .ev, .ports, .opLog] : List Part) ⊆ [.free, .dict, .ev, .ports, .opLog] := fun _ y => y
  try extract_lets -underBinder
  repeat' first
   | with_reducible assumption
   | exact sub_trans rfl hsub
   | intro _
   | with_reducible apply kept_ite
   | with_reducible apply live_kept
   | with_reducible apply setLane_kept
   | with_reducible apply postEvent_kept
   | with_reducible apply kept_id
   | split
   | extract_lets -underBinder
   | (dsimp +zetaDelta only; split)

theorem execPhaseTimerExpiry_kept (p : PortId) (l : Lane) (s : State) :
    ∃ t, execPhaseTimerExpiry p l s = .next t ∧ Kept [.free, .dict, .ev, .ports, .opLog] s t := by
  unfold execPhaseTimerExpiry
  refine ⟨_, rfl, ?_⟩
  have hk := Kept.refl [.free, .dict, .ev, .ports, .opLog] s
  have hsub : ([.free, .dict, .ev, .ports, .opLog] : List Part) ⊆ [.free, .dict, .ev, .ports, .opLog] := fun _ y => y
  try extract_lets -underBinder
  repeat' first
   | with_reducible assumption
   | exact sub_trans rfl hsub
   | intro _
   | with_reducible apply kept_ite
   | with_reducible apply live_kept
   | with_reducible apply laneFallback_kept
   | with_reducible apply setLane_kept
   | split
   | extract_lets -underBinder
   | (dsimp +zetaDelta only; split)

theorem followPartner_kept {mask : List Part} {s0 s : State} (p : PortId) (w : LaneWord) (hk : Kept mask s0 s)
    (hsub : [.free, .dict, .ev, .ports, .opLog] ⊆ mask) : Kept mask s0 (followPartner p w s) := by
  unfold followPartner
  try extract_lets -underBinder
  repeat' first
   | with_reducible assumption
   | exact sub_trans rfl hsub
   | intro _
   | with_reducible apply kept_ite
   | with_reducible apply narrow_kept
   | with_reducible apply reportWidth_kept
   | with_reducible apply setPort_kept
   | with_reducible apply kept_id
   | split
   | extract_lets -underBinder
   | (dsimp +zetaDelta only; split)

theorem alignedLine_kept {mask : List Part} {s0 s : State} (p : PortId) (l : Lane) (line : List Bool) (hk : Kept mask s0 s)
    (hsub : [.free, .dict, .ev, .ports, .opLog] ⊆ mask) : Kept mask s0 (alignedLine p l line s) := by
  unfold alignedLine
  try extract_lets -underBinder
  repeat' first
   | with_reducible assumption
   | exact sub_trans rfl hsub
   | intro _
   | with_reducible apply kept_ite
   | with_reducible apply lolAsserted_kept
   | with_reducible apply setLane_kept
   | with_reducible apply followPartner_kept
   | split
   | extract_lets -underBinder
   | (dsimp +zetaDelta only; split)

theorem execLaneFrameReceived_kept (p : PortId) (l : Lane) (line : List Bool) (s : State) :
    ∃ t, execLaneFrameReceived p l line s = .next t ∧ Kept [.free, .dict, .ev, .ports, .opLog] s t := by
  unfold execLaneFrameReceived
  refine ⟨_, rfl, ?_⟩
  have hk := Kept.refl [.free, .dict, .ev, .ports, .opLog] s
  have hsub : ([.free, .dict, .ev, .ports, .opLog] : List Part) ⊆ [.free, .dict, .ev, .ports, .opLog] := fun _ y => y
  try extract_lets -underBinder
  repeat' first
   | with_reducible assumption
   | exact sub_trans rfl hsub
   | intro _
   | with_reducible apply kept_ite
   | with_reducible apply live_kept
   | with_reducible apply alignedLine_kept
   | with_reducible apply setLane_kept
   | split
   | extract_lets -underBinder
   | (dsimp +zetaDelta only; split)

theorem portUp_kept {mask : List Part} {s0 s : State} (p : PortId) (w : Nat) (hk : Kept mask s0 s)
    (hsub : [.free, .dict, .ev, .ports, .opLog] ⊆ mask) : Kept mask s0 (portUp p w s) := by
  unfold portUp
  try extract_lets -underBinder
  repeat' first
   | with_reducible assumption
   | exact sub_trans rfl hsub
   | intro _
   | with_reducible apply kept_ite
   | with_reducible apply modPort_kept
   | with_reducible apply modLanes_kept
   | with_reducible apply enterPort_kept
   | with_reducible apply postEvent_kept
   | with_reducible apply raiseLimits_kept
   | with_reducible apply payLost_kept
   | with_reducible apply kept_id
   | split
   | extract_lets -underBinder
   | (dsimp +zetaDelta only; split)

theorem execDeskewComplete_kept (p : PortId) (skews : Vector (BitVec 8) 4) (s : State) :
    ∃ t, execDeskewComplete p skews s = .next t ∧ Kept [.free, .dict, .ev, .ports, .opLog] s t := by
  unfold execDeskewComplete
  refine ⟨_, rfl, ?_⟩
  have hk := Kept.refl [.free, .dict, .ev, .ports, .opLog] s
  have hsub : ([.free, .dict, .ev, .ports, .opLog] : List Part) ⊆ [.free, .dict, .ev, .ports, .opLog] := fun _ y => y
  try extract_lets -underBinder
  repeat' first
   | with_reducible assumption
   | exact sub_trans rfl hsub
   | intro _
   | with_reducible apply kept_ite
   | with_reducible apply kept_foldl
   | with_reducible apply live_kept
   | with_reducible apply postEvent_kept
   | with_reducible apply modLanes_kept
   | with_reducible apply portUp_kept
   | split
   | extract_lets -underBinder
   | (dsimp +zetaDelta only; split)

theorem execListenBurst_kept (p : PortId) (l : Lane) (s : State) :
    ∃ t, execListenBurst p l s = .next t ∧ Kept [.ports] s t := by
  unfold execListenBurst
  refine ⟨_, rfl, ?_⟩
  have hk := Kept.refl [.ports] s
  have hsub : ([.ports] : List Part) ⊆ [.ports] := fun _ y => y
  try extract_lets -underBinder
  repeat' first
   | with_reducible assumption
   | exact sub_trans rfl hsub
   | intro _
   | with_reducible apply kept_ite
   | with_reducible apply live_kept
   | with_reducible apply modLane_kept
   | split
   | extract_lets -underBinder
   | (dsimp +zetaDelta only; split)

theorem execLoneRetrain_kept (p : PortId) (l : Lane) (s : State) :
    ∃ t, execLoneRetrain p l s = .next t ∧ Kept [.ports] s t := by
  unfold execLoneRetrain
  refine ⟨_, rfl, ?_⟩
  have hk := Kept.refl [.ports] s
  have hsub : ([.ports] : List Part) ⊆ [.ports] := fun _ y => y
  try extract_lets -underBinder
  repeat' first
   | with_reducible assumption
   | exact sub_trans rfl hsub
   | intro _
   | with_reducible apply kept_ite
   | with_reducible apply live_kept
   | with_reducible apply modLane_kept
   | split
   | extract_lets -underBinder
   | (dsimp +zetaDelta only; split)

theorem execTapRequestTimeout_kept (p : PortId) (l : Lane) (s : State) :
    ∃ t, execTapRequestTimeout p l s = .next t ∧ Kept [.ports] s t := by
  unfold execTapRequestTimeout
  refine ⟨_, rfl, ?_⟩
  have hk := Kept.refl [.ports] s
  have hsub : ([.ports] : List Part) ⊆ [.ports] := fun _ y => y
  try extract_lets -underBinder
  repeat' first
   | with_reducible assumption
   | exact sub_trans rfl hsub
   | intro _
   | with_reducible apply kept_ite
   | with_reducible apply live_kept
   | with_reducible apply modLane_kept
   | split
   | extract_lets -underBinder
   | (dsimp +zetaDelta only; split)

theorem execNarrowingTimeout_kept (p : PortId) (s : State) :
    ∃ t, execNarrowingTimeout p s = .next t ∧ Kept [.free, .dict, .ev, .ports, .opLog] s t := by
  unfold execNarrowingTimeout
  refine ⟨_, rfl, ?_⟩
  have hk := Kept.refl [.free, .dict, .ev, .ports, .opLog] s
  have hsub : ([.free, .dict, .ev, .ports, .opLog] : List Part) ⊆ [.free, .dict, .ev, .ports, .opLog] := fun _ y => y
  try extract_lets -underBinder
  repeat' first
   | with_reducible assumption
   | exact sub_trans rfl hsub
   | intro _
   | with_reducible apply kept_ite
   | with_reducible apply live_kept
   | with_reducible apply linkDown_kept
   | split
   | extract_lets -underBinder
   | (dsimp +zetaDelta only; split)

theorem execClapperBurst_kept (p : PortId) (s : State) :
    ∃ t, execClapperBurst p s = .next t ∧ Kept [.dict, .ports] s t := by
  unfold execClapperBurst
  refine ⟨_, rfl, ?_⟩
  have hk := Kept.refl [.dict, .ports] s
  have hsub : ([.dict, .ports] : List Part) ⊆ [.dict, .ports] := fun _ y => y
  try extract_lets -underBinder
  repeat' first
   | with_reducible assumption
   | exact sub_trans rfl hsub
   | intro _
   | with_reducible apply kept_ite
   | with_reducible apply live_kept
   | with_reducible apply modLanes_kept
   | with_reducible apply idleExit_kept
   | with_reducible apply leaveP2_kept
   | with_reducible apply kept_id
   | split
   | extract_lets -underBinder
   | (dsimp +zetaDelta only; split)

theorem idleIfExchanged_kept {mask : List Part} {s0 s : State} (p : PortId) (hk : Kept mask s0 s)
    (hsub : [.free, .dict, .ev, .ports, .opLog] ⊆ mask) : Kept mask s0 (idleIfExchanged p s) := by
  unfold idleIfExchanged
  try extract_lets -underBinder
  repeat' first
   | with_reducible assumption
   | exact sub_trans rfl hsub
   | intro _
   | with_reducible apply kept_ite
   | with_reducible apply enterIdle_kept
   | split
   | extract_lets -underBinder
   | (dsimp +zetaDelta only; split)

theorem execEndOfTransmission_kept (p : PortId) (s : State) :
    ∃ t, execEndOfTransmission p s = .next t ∧ Kept [.free, .dict, .ev, .ports, .opLog] s t := by
  unfold execEndOfTransmission
  refine ⟨_, rfl, ?_⟩
  have hk := Kept.refl [.free, .dict, .ev, .ports, .opLog] s
  have hsub : ([.free, .dict, .ev, .ports, .opLog] : List Part) ⊆ [.free, .dict, .ev, .ports, .opLog] := fun _ y => y
  try extract_lets -underBinder
  repeat' first
   | with_reducible assumption
   | exact sub_trans rfl hsub
   | intro _
   | with_reducible apply kept_ite
   | with_reducible apply live_kept
   | with_reducible apply startIdle_kept
   | with_reducible apply modPort_kept
   | with_reducible apply idleIfExchanged_kept
   | with_reducible apply kept_id
   | split
   | extract_lets -underBinder
   | (dsimp +zetaDelta only; split)

theorem execIdleEntryTimeout_kept (p : PortId) (s : State) :
    ∃ t, execIdleEntryTimeout p s = .next t ∧ Kept [.free, .dict, .ev, .ports, .opLog] s t := by
  unfold execIdleEntryTimeout
  refine ⟨_, rfl, ?_⟩
  have hk := Kept.refl [.free, .dict, .ev, .ports, .opLog] s
  have hsub : ([.free, .dict, .ev, .ports, .opLog] : List Part) ⊆ [.free, .dict, .ev, .ports, .opLog] := fun _ y => y
  try extract_lets -underBinder
  repeat' first
   | with_reducible assumption
   | exact sub_trans rfl hsub
   | intro _
   | with_reducible apply kept_ite
   | with_reducible apply live_kept
   | with_reducible apply cancelIdle_kept
   | split
   | extract_lets -underBinder
   | (dsimp +zetaDelta only; split)

theorem execPortQuiescent_kept (p : PortId) (s : State) :
    ∃ t, execPortQuiescent p s = .next t ∧ Kept [.free, .dict, .ev, .ports, .opLog] s t := by
  unfold execPortQuiescent
  refine ⟨_, rfl, ?_⟩
  have hk := Kept.refl [.free, .dict, .ev, .ports, .opLog] s
  have hsub : ([.free, .dict, .ev, .ports, .opLog] : List Part) ⊆ [.free, .dict, .ev, .ports, .opLog] := fun _ y => y
  try extract_lets -underBinder
  repeat' first
   | with_reducible assumption
   | exact sub_trans rfl hsub
   | intro _
   | with_reducible apply kept_ite
   | with_reducible apply live_kept
   | with_reducible apply disablePort_kept
   | with_reducible apply enterLoopback_kept
   | with_reducible apply modPort_kept
   | with_reducible apply putEotMarkers_kept
   | with_reducible apply idleIfExchanged_kept
   | with_reducible apply kept_id
   | split
   | extract_lets -underBinder
   | (dsimp +zetaDelta only; split)

theorem portRequest_kept {mask : List Part} {s0 s : State} (p : PortId) (w : Writer) (action : Nat) (gen : Half) (legal : PortState → Bool) (f : State → State) (hk : Kept mask s0 s)
    (hsub : [.dict, .ports, .ecat] ⊆ mask) (hff : ∀ t, Kept mask s0 t → Kept mask s0 (f t)) : Kept mask s0 (portRequest p w action gen legal f s) := by
  unfold portRequest
  try extract_lets -underBinder
  repeat' first
   | with_reducible assumption
   | exact sub_trans rfl hsub
   | intro _
   | with_reducible apply kept_ite
   | with_reducible apply hff
   | with_reducible apply stateRequest_kept
   | split
   | extract_lets -underBinder
   | (dsimp +zetaDelta only; split)

theorem drainTo_kept {mask : List Part} {s0 s : State} (p : PortId) (g : PortGoal) (hk : Kept mask s0 s)
    (hsub : [.dict, .ports] ⊆ mask) : Kept mask s0 (drainTo p g s) := by
  unfold drainTo
  try extract_lets -underBinder
  repeat' first
   | with_reducible assumption
   | exact sub_trans rfl hsub
   | intro _
   | with_reducible apply kept_ite
   | with_reducible apply modPort_kept
   | with_reducible apply enterPort_kept
   | with_reducible apply kept_id
   | split
   | extract_lets -underBinder
   | (dsimp +zetaDelta only; split)

theorem reqEnable_kept {mask : List Part} {s0 s : State} (p : PortId) (w : Writer) (gen : Half) (hk : Kept mask s0 s)
    (hsub : [.dict, .ports, .ecat] ⊆ mask) : Kept mask s0 (reqEnable p w gen s) := by
  unfold reqEnable
  try extract_lets -underBinder
  repeat' first
   | with_reducible assumption
   | exact sub_trans rfl hsub
   | intro _
   | with_reducible apply kept_ite
   | with_reducible apply portRequest_kept
   | with_reducible apply enablePort_kept
   | split
   | extract_lets -underBinder
   | (dsimp +zetaDelta only; split)

theorem execEnable_kept (p : PortId) (w : Writer) (gen : Half) (s : State) :
    ∃ t, execEnable p w gen s = .next t ∧ Kept [.dict, .ports, .ecat] s t := by
  unfold execEnable
  refine ⟨_, rfl, ?_⟩
  have hk := Kept.refl [.dict, .ports, .ecat] s
  have hsub : ([.dict, .ports, .ecat] : List Part) ⊆ [.dict, .ports, .ecat] := fun _ y => y
  try extract_lets -underBinder
  repeat' first
   | with_reducible assumption
   | exact sub_trans rfl hsub
   | intro _
   | with_reducible apply kept_ite
   | with_reducible apply live_kept
   | with_reducible apply arriveValue_kept
   | with_reducible apply reqEnable_kept
   | split
   | extract_lets -underBinder
   | (dsimp +zetaDelta only; split)

theorem reqDisable_kept {mask : List Part} {s0 s : State} (p : PortId) (w : Writer) (gen : Half) (hk : Kept mask s0 s)
    (hsub : [.dict, .ports, .ecat] ⊆ mask) : Kept mask s0 (reqDisable p w gen s) := by
  unfold reqDisable
  try extract_lets -underBinder
  repeat' first
   | with_reducible assumption
   | exact sub_trans rfl hsub
   | intro _
   | with_reducible apply kept_ite
   | with_reducible apply portRequest_kept
   | with_reducible apply drainTo_kept
   | with_reducible apply disablePort_kept
   | split
   | extract_lets -underBinder
   | (dsimp +zetaDelta only; split)

theorem execDisable_kept (p : PortId) (w : Writer) (gen : Half) (s : State) :
    ∃ t, execDisable p w gen s = .next t ∧ Kept [.dict, .ports, .ecat] s t := by
  unfold execDisable
  refine ⟨_, rfl, ?_⟩
  have hk := Kept.refl [.dict, .ports, .ecat] s
  have hsub : ([.dict, .ports, .ecat] : List Part) ⊆ [.dict, .ports, .ecat] := fun _ y => y
  try extract_lets -underBinder
  repeat' first
   | with_reducible assumption
   | exact sub_trans rfl hsub
   | intro _
   | with_reducible apply kept_ite
   | with_reducible apply live_kept
   | with_reducible apply arriveValue_kept
   | with_reducible apply reqDisable_kept
   | split
   | extract_lets -underBinder
   | (dsimp +zetaDelta only; split)

theorem reqRetrain_kept {mask : List Part} {s0 s : State} (p : PortId) (w : Writer) (gen : Half) (hk : Kept mask s0 s)
    (hsub : [.free, .dict, .ev, .ports, .ecat, .opLog] ⊆ mask) : Kept mask s0 (reqRetrain p w gen s) := by
  unfold reqRetrain
  try extract_lets -underBinder
  repeat' first
   | with_reducible assumption
   | exact sub_trans rfl hsub
   | intro _
   | with_reducible apply kept_ite
   | with_reducible apply portRequest_kept
   | with_reducible apply linkDown_kept
   | with_reducible apply leaveP2_kept
   | with_reducible apply fullTraining_kept
   | split
   | extract_lets -underBinder
   | (dsimp +zetaDelta only; split)

theorem execRetrain_kept (p : PortId) (w : Writer) (gen : Half) (s : State) :
    ∃ t, execRetrain p w gen s = .next t ∧ Kept [.free, .dict, .ev, .ports, .ecat, .opLog] s t := by
  unfold execRetrain
  refine ⟨_, rfl, ?_⟩
  have hk := Kept.refl [.free, .dict, .ev, .ports, .ecat, .opLog] s
  have hsub : ([.free, .dict, .ev, .ports, .ecat, .opLog] : List Part) ⊆ [.free, .dict, .ev, .ports, .ecat, .opLog] := fun _ y => y
  try extract_lets -underBinder
  repeat' first
   | with_reducible assumption
   | exact sub_trans rfl hsub
   | intro _
   | with_reducible apply kept_ite
   | with_reducible apply live_kept
   | with_reducible apply arriveValue_kept
   | with_reducible apply reqRetrain_kept
   | split
   | extract_lets -underBinder
   | (dsimp +zetaDelta only; split)

theorem reqEnterIdle_kept {mask : List Part} {s0 s : State} (p : PortId) (w : Writer) (gen : Half) (hk : Kept mask s0 s)
    (hsub : [.dict, .ports, .ecat] ⊆ mask) : Kept mask s0 (reqEnterIdle p w gen s) := by
  unfold reqEnterIdle
  try extract_lets -underBinder
  repeat' first
   | with_reducible assumption
   | exact sub_trans rfl hsub
   | intro _
   | with_reducible apply kept_ite
   | with_reducible apply portRequest_kept
   | with_reducible apply startIdle_kept
   | split
   | extract_lets -underBinder
   | (dsimp +zetaDelta only; split)

theorem execEnterIdle_kept (p : PortId) (w : Writer) (gen : Half) (s : State) :
    ∃ t, execEnterIdle p w gen s = .next t ∧ Kept [.dict, .ports, .ecat] s t := by
  unfold execEnterIdle
  refine ⟨_, rfl, ?_⟩
  have hk := Kept.refl [.dict, .ports, .ecat] s
  have hsub : ([.dict, .ports, .ecat] : List Part) ⊆ [.dict, .ports, .ecat] := fun _ y => y
  try extract_lets -underBinder
  repeat' first
   | with_reducible assumption
   | exact sub_trans rfl hsub
   | intro _
   | with_reducible apply kept_ite
   | with_reducible apply live_kept
   | with_reducible apply arriveValue_kept
   | with_reducible apply reqEnterIdle_kept
   | split
   | extract_lets -underBinder
   | (dsimp +zetaDelta only; split)

theorem loopbackEffect_kept {mask : List Part} {s0 s : State} (p : PortId) (m : LoopMode) (hk : Kept mask s0 s)
    (hsub : [.dict, .ports] ⊆ mask) : Kept mask s0 (loopbackEffect p m s) := by
  unfold loopbackEffect
  try extract_lets -underBinder
  repeat' first
   | with_reducible assumption
   | exact sub_trans rfl hsub
   | intro _
   | with_reducible apply kept_ite
   | with_reducible apply drainTo_kept
   | with_reducible apply enterLoopback_kept
   | split
   | extract_lets -underBinder
   | (dsimp +zetaDelta only; split)

theorem reqLoopbackNes_kept {mask : List Part} {s0 s : State} (p : PortId) (w : Writer) (gen : Half) (hk : Kept mask s0 s)
    (hsub : [.dict, .ports, .ecat] ⊆ mask) : Kept mask s0 (reqLoopbackNes p w gen s) := by
  unfold reqLoopbackNes
  try extract_lets -underBinder
  repeat' first
   | with_reducible assumption
   | exact sub_trans rfl hsub
   | intro _
   | with_reducible apply kept_ite
   | with_reducible apply portRequest_kept
   | with_reducible apply loopbackEffect_kept
   | split
   | extract_lets -underBinder
   | (dsimp +zetaDelta only; split)

theorem execLoopbackNes_kept (p : PortId) (w : Writer) (gen : Half) (s : State) :
    ∃ t, execLoopbackNes p w gen s = .next t ∧ Kept [.dict, .ports, .ecat] s t := by
  unfold execLoopbackNes
  refine ⟨_, rfl, ?_⟩
  have hk := Kept.refl [.dict, .ports, .ecat] s
  have hsub : ([.dict, .ports, .ecat] : List Part) ⊆ [.dict, .ports, .ecat] := fun _ y => y
  try extract_lets -underBinder
  repeat' first
   | with_reducible assumption
   | exact sub_trans rfl hsub
   | intro _
   | with_reducible apply kept_ite
   | with_reducible apply live_kept
   | with_reducible apply arriveValue_kept
   | with_reducible apply reqLoopbackNes_kept
   | split
   | extract_lets -underBinder
   | (dsimp +zetaDelta only; split)

theorem reqLoopbackNep_kept {mask : List Part} {s0 s : State} (p : PortId) (w : Writer) (gen : Half) (hk : Kept mask s0 s)
    (hsub : [.dict, .ports, .ecat] ⊆ mask) : Kept mask s0 (reqLoopbackNep p w gen s) := by
  unfold reqLoopbackNep
  try extract_lets -underBinder
  repeat' first
   | with_reducible assumption
   | exact sub_trans rfl hsub
   | intro _
   | with_reducible apply kept_ite
   | with_reducible apply portRequest_kept
   | with_reducible apply loopbackEffect_kept
   | split
   | extract_lets -underBinder
   | (dsimp +zetaDelta only; split)

theorem execLoopbackNep_kept (p : PortId) (w : Writer) (gen : Half) (s : State) :
    ∃ t, execLoopbackNep p w gen s = .next t ∧ Kept [.dict, .ports, .ecat] s t := by
  unfold execLoopbackNep
  refine ⟨_, rfl, ?_⟩
  have hk := Kept.refl [.dict, .ports, .ecat] s
  have hsub : ([.dict, .ports, .ecat] : List Part) ⊆ [.dict, .ports, .ecat] := fun _ y => y
  try extract_lets -underBinder
  repeat' first
   | with_reducible assumption
   | exact sub_trans rfl hsub
   | intro _
   | with_reducible apply kept_ite
   | with_reducible apply live_kept
   | with_reducible apply arriveValue_kept
   | with_reducible apply reqLoopbackNep_kept
   | split
   | extract_lets -underBinder
   | (dsimp +zetaDelta only; split)

theorem reqLoopbackFe_kept {mask : List Part} {s0 s : State} (p : PortId) (w : Writer) (gen : Half) (hk : Kept mask s0 s)
    (hsub : [.dict, .ports, .ecat] ⊆ mask) : Kept mask s0 (reqLoopbackFe p w gen s) := by
  unfold reqLoopbackFe
  try extract_lets -underBinder
  repeat' first
   | with_reducible assumption
   | exact sub_trans rfl hsub
   | intro _
   | with_reducible apply kept_ite
   | with_reducible apply portRequest_kept
   | with_reducible apply loopbackEffect_kept
   | split
   | extract_lets -underBinder
   | (dsimp +zetaDelta only; split)

theorem execLoopbackFe_kept (p : PortId) (w : Writer) (gen : Half) (s : State) :
    ∃ t, execLoopbackFe p w gen s = .next t ∧ Kept [.dict, .ports, .ecat] s t := by
  unfold execLoopbackFe
  refine ⟨_, rfl, ?_⟩
  have hk := Kept.refl [.dict, .ports, .ecat] s
  have hsub : ([.dict, .ports, .ecat] : List Part) ⊆ [.dict, .ports, .ecat] := fun _ y => y
  try extract_lets -underBinder
  repeat' first
   | with_reducible assumption
   | exact sub_trans rfl hsub
   | intro _
   | with_reducible apply kept_ite
   | with_reducible apply live_kept
   | with_reducible apply arriveValue_kept
   | with_reducible apply reqLoopbackFe_kept
   | split
   | extract_lets -underBinder
   | (dsimp +zetaDelta only; split)

theorem reqEndLoopback_kept {mask : List Part} {s0 s : State} (p : PortId) (w : Writer) (gen : Half) (hk : Kept mask s0 s)
    (hsub : [.dict, .ports, .ecat] ⊆ mask) : Kept mask s0 (reqEndLoopback p w gen s) := by
  unfold reqEndLoopback
  try extract_lets -underBinder
  repeat' first
   | with_reducible assumption
   | exact sub_trans rfl hsub
   | intro _
   | with_reducible apply kept_ite
   | with_reducible apply portRequest_kept
   | with_reducible apply disablePort_kept
   | split
   | extract_lets -underBinder
   | (dsimp +zetaDelta only; split)

theorem execEndLoopback_kept (p : PortId) (w : Writer) (gen : Half) (s : State) :
    ∃ t, execEndLoopback p w gen s = .next t ∧ Kept [.dict, .ports, .ecat] s t := by
  unfold execEndLoopback
  refine ⟨_, rfl, ?_⟩
  have hk := Kept.refl [.dict, .ports, .ecat] s
  have hsub : ([.dict, .ports, .ecat] : List Part) ⊆ [.dict, .ports, .ecat] := fun _ y => y
  try extract_lets -underBinder
  repeat' first
   | with_reducible assumption
   | exact sub_trans rfl hsub
   | intro _
   | with_reducible apply kept_ite
   | with_reducible apply live_kept
   | with_reducible apply arriveValue_kept
   | with_reducible apply reqEndLoopback_kept
   | split
   | extract_lets -underBinder
   | (dsimp +zetaDelta only; split)

end Sys2Proof.Machine
end

