-- ==== Sys2Proof/Laws/KeptDictionary.lean ====
section
/-!
SUPPORT. What the operations of Machine/Dictionary.lean may touch, and that they keep the canonical forms.
-/
set_option linter.unusedTactic false
set_option linter.unreachableTactic false
set_option linter.unusedVariables false

namespace Sys2Proof.Machine

theorem writeControl_kept {mask : List Part} {s0 s : State} (n : SlotNo) (v : Nat) (hk : Kept mask s0 s)
    (hsub : [.dict, .xport] ⊆ mask) : Kept mask s0 (writeControl n v s) := by
  unfold writeControl
  try extract_lets -underBinder
  repeat' first
   | with_reducible assumption
   | exact sub_trans rfl hsub
   | intro _
   | with_reducible apply kept_ite
   | with_reducible apply setObj_kept
   | with_reducible apply modLoop_kept
   | split
   | extract_lets -underBinder
   | (dsimp +zetaDelta only; split)

theorem captureControl_kept {mask : List Part} {s0 s : State} (v : Nat) (hk : Kept mask s0 s)
    (hsub : [.dict, .xport] ⊆ mask) : Kept mask s0 (captureControl v s) := by
  unfold captureControl
  try extract_lets -underBinder
  repeat' first
   | with_reducible assumption
   | exact sub_trans rfl hsub
   | intro _
   | with_reducible apply kept_ite
   | with_reducible apply showCapture_kept
   | with_reducible apply modXport_kept
   | split
   | extract_lets -underBinder
   | (dsimp +zetaDelta only; split)

theorem clearHoldup_kept {mask : List Part} {s0 s : State} (hk : Kept mask s0 s)
    (hsub : [.dict, .xport, .power] ⊆ mask) : Kept mask s0 (clearHoldup s) := by
  unfold clearHoldup
  try extract_lets -underBinder
  repeat' first
   | with_reducible assumption
   | exact sub_trans rfl hsub
   | intro _
   | with_reducible apply kept_ite
   | with_reducible apply kept_foldl
   | with_reducible apply modLoop_kept
   | with_reducible apply showLoop_kept
   | with_reducible apply kept_id
   | exact Or.inl (mem_of rfl hsub)
   | with_reducible exact Or.inr rfl
   | split
   | extract_lets -underBinder
   | (dsimp +zetaDelta only; split)
   | with_reducible apply kept_mk

theorem applyWrite_kept {mask : List Part} {s0 s : State} (w : Writer) (i : Nat) (sub : Nat) (v : Nat) (hk : Kept mask s0 s)
    (hsub : [.free, .dict, .ev, .ports, .doms, .ring, .dram, .boot, .comp, .cart, .xport, .power, .kiln, .recov, .sched, .jour, .opLog, .energy, .pins] ⊆ mask) : Kept mask s0 (applyWrite w i sub v s) := by
  unfold applyWrite
  try extract_lets -underBinder
  repeat' first
   | with_reducible assumption
   | exact sub_trans rfl hsub
   | intro _
   | with_reducible apply kept_ite
   | with_reducible apply setObj_kept
   | with_reducible apply pollPower_kept
   | with_reducible apply requestReset_kept
   | with_reducible apply activate_kept
   | with_reducible apply modCart_kept
   | with_reducible apply writeControl_kept
   | with_reducible apply modXport_kept
   | with_reducible apply captureControl_kept
   | with_reducible apply withCap_kept
   | with_reducible apply clearHoldup_kept
   | with_reducible apply filterLines_kept
   | with_reducible apply retargetLine_kept
   | with_reducible apply applyPinConfig_kept
   | with_reducible apply restartLine_kept
   | with_reducible apply fitUnits_kept
   | with_reducible apply servePages_kept
   | with_reducible apply modDom_kept
   | exact Or.inl (mem_of rfl hsub)
   | with_reducible exact Or.inr rfl
   | split
   | extract_lets -underBinder
   | (dsimp +zetaDelta only; split)
   | with_reducible apply kept_mk

theorem unitRequest_kept {mask : List Part} {s0 s : State} (w : Writer) (i : Nat) (v : Nat) (hk : Kept mask s0 s)
    (hsub : [.free, .dict, .ev, .ports, .doms, .ring, .dram, .ecat, .test, .comp, .cart, .xport, .kiln, .sched, .jour, .opLog, .energy, .pins] ⊆ mask) : Kept mask s0 (unitRequest w i v s) := by
  unfold unitRequest
  try extract_lets -underBinder
  repeat' first
   | with_reducible assumption
   | exact sub_trans rfl hsub
   | intro _
   | with_reducible apply kept_ite
   | with_reducible apply reqEnable_kept
   | with_reducible apply reqDisable_kept
   | with_reducible apply reqRetrain_kept
   | with_reducible apply reqEnterIdle_kept
   | with_reducible apply reqLoopbackNes_kept
   | with_reducible apply reqLoopbackNep_kept
   | with_reducible apply reqLoopbackFe_kept
   | with_reducible apply reqEndLoopback_kept
   | with_reducible apply portRequest_kept
   | with_reducible apply cartRequest_kept
   | with_reducible apply stateRequest_kept
   | with_reducible apply reqClearFault_kept
   | with_reducible apply reqEnterTest_kept
   | with_reducible apply reqEndTest_kept
   | with_reducible apply transportRequest_kept
   | with_reducible apply reqConfigure_kept
   | with_reducible apply reqGoOnline_kept
   | with_reducible apply reqGoOffline_kept
   | with_reducible apply reqReset_kept
   | with_reducible apply reqUnconfigure_kept
   | with_reducible apply domainRequest_kept
   | with_reducible apply kept_id
   | split
   | extract_lets -underBinder
   | (dsimp +zetaDelta only; split)

theorem commitPush_kept {mask : List Part} {s0 s : State} (w : Writer) (v : Nat) (hk : Kept mask s0 s)
    (hsub : [.dict, .ports, .boot, .ecat] ⊆ mask) : Kept mask s0 (commitPush w v s) := by
  unfold commitPush
  try extract_lets -underBinder
  repeat' first
   | with_reducible assumption
   | exact sub_trans rfl hsub
   | intro _
   | with_reducible apply kept_ite
   | with_reducible apply finishDownload_kept
   | with_reducible apply answer_kept
   | with_reducible apply refuse_kept
   | split
   | extract_lets -underBinder
   | (dsimp +zetaDelta only; split)

theorem writeValue_kept {mask : List Part} {s0 s : State} (w : Writer) (i : Nat) (sub : Nat) (len : Nat) (v : Nat) (hk : Kept mask s0 s)
    (hsub : [.free, .dict, .ev, .ports, .doms, .ring, .dram, .boot, .ecat, .test, .comp, .cart, .xport, .power, .kiln, .recov, .sched, .jour, .opLog, .energy, .pins] ⊆ mask) : Kept mask s0 (writeValue w i sub len v s) := by
  unfold writeValue
  try extract_lets -underBinder
  repeat' first
   | with_reducible assumption
   | exact sub_trans rfl hsub
   | intro _
   | with_reducible apply kept_ite
   | with_reducible apply refuse_kept
   | with_reducible apply unitRequest_kept
   | with_reducible apply applyWrite_kept
   | with_reducible apply commitPush_kept
   | with_reducible apply answer_kept
   | split
   | extract_lets -underBinder
   | (dsimp +zetaDelta only; split)

theorem writePush_kept {mask : List Part} {s0 s : State} (w : Writer) (bytes : List Byte) (hk : Kept mask s0 s)
    (hsub : [.free, .dict, .ports, .boot, .ecat] ⊆ mask) : Kept mask s0 (writePush w bytes s) := by
  unfold writePush
  try extract_lets -underBinder
  repeat' first
   | with_reducible assumption
   | exact sub_trans rfl hsub
   | intro _
   | with_reducible apply kept_ite
   | with_reducible apply refuse_kept
   | with_reducible apply answer_kept
   | with_reducible apply pushData_kept
   | split
   | extract_lets -underBinder
   | (dsimp +zetaDelta only; split)

theorem writeBytes_kept {mask : List Part} {s0 s : State} (w : Writer) (i : Nat) (sub : Nat) (bytes : List Byte) (hk : Kept mask s0 s)
    (hsub : [.free, .dict, .ev, .ports, .doms, .ring, .dram, .boot, .ecat, .test, .comp, .cart, .xport, .power, .kiln, .recov, .sched, .jour, .opLog, .energy, .pins] ⊆ mask) : Kept mask s0 (writeBytes w i sub bytes s) := by
  unfold writeBytes
  try extract_lets -underBinder
  repeat' first
   | with_reducible assumption
   | exact sub_trans rfl hsub
   | intro _
   | with_reducible apply kept_ite
   | with_reducible apply writePush_kept
   | with_reducible apply writeValue_kept
   | split
   | extract_lets -underBinder
   | (dsimp +zetaDelta only; split)

theorem putAll_kept {mask : List Part} {s0 s : State} (i : Nat) (l : List (Nat × Nat × Nat)) (hk : Kept mask s0 s)
    (hsub : [.dict] ⊆ mask) : Kept mask s0 (putAll i l s) := by
  unfold putAll
  try extract_lets -underBinder
  repeat' first
   | with_reducible assumption
   | exact sub_trans rfl hsub
   | intro _
   | with_reducible apply kept_ite
   | with_reducible apply kept_foldl
   | with_reducible apply setObj_kept
   | split
   | extract_lets -underBinder
   | (dsimp +zetaDelta only; split)

theorem writeComplete_kept {mask : List Part} {s0 s : State} (w : Writer) (i : Nat) (sub : Nat) (bytes : List Byte) (hk : Kept mask s0 s)
    (hsub : [.free, .dict, .ev, .ports, .doms, .ring, .dram, .boot, .ecat, .test, .comp, .cart, .xport, .power, .kiln, .recov, .sched, .jour, .opLog, .energy, .pins] ⊆ mask) : Kept mask s0 (writeComplete w i sub bytes s) := by
  unfold writeComplete
  try extract_lets -underBinder
  repeat' first
   | with_reducible assumption
   | exact sub_trans rfl hsub
   | intro _
   | with_reducible apply kept_ite
   | with_reducible apply kept_foldl
   | with_reducible apply putAll_kept
   | with_reducible apply refuse_kept
   | with_reducible apply unitRequest_kept
   | with_reducible apply answer_kept
   | with_reducible apply applyWrite_kept
   | exact Or.inl (mem_of rfl hsub)
   | with_reducible exact Or.inr rfl
   | split
   | extract_lets -underBinder
   | (dsimp +zetaDelta only; split)
   | with_reducible apply kept_mk

theorem sendRegd_kept {mask : List Part} {s0 s : State} (p : PortId) (d : Dom) (addr : Word) (reqId : Byte) (status : Nat) (word : Nat) (hk : Kept mask s0 s)
    (hsub : [.dict, .ports] ⊆ mask) : Kept mask s0 (sendRegd p d addr reqId status word s) := by
  unfold sendRegd
  try extract_lets -underBinder
  repeat' first
   | with_reducible assumption
   | exact sub_trans rfl hsub
   | intro _
   | with_reducible apply kept_ite
   | with_reducible apply sendMsg_kept
   | split
   | extract_lets -underBinder
   | (dsimp +zetaDelta only; split)

theorem refuseWindow_kept {mask : List Part} {s0 s : State} (p : PortId) (d : Dom) (addr : Word) (reqId : Byte) (i : Nat) (sub : Nat) (r : Reason) (word : Nat) (hk : Kept mask s0 s)
    (hsub : [.dict, .ports] ⊆ mask) : Kept mask s0 (refuseWindow p d addr reqId i sub r word s) := by
  unfold refuseWindow
  try extract_lets -underBinder
  repeat' first
   | with_reducible assumption
   | exact sub_trans rfl hsub
   | intro _
   | with_reducible apply kept_ite
   | with_reducible apply refusalDetail_kept
   | with_reducible apply sendRegd_kept
   | with_reducible apply kept_id
   | split
   | extract_lets -underBinder
   | (dsimp +zetaDelta only; split)

theorem regw_kept {mask : List Part} {s0 s : State} (p : PortId) (d : Dom) (reqId : Byte) (addr : Word) (value : Word) (hk : Kept mask s0 s)
    (hsub : [.free, .dict, .ev, .ports, .doms, .ring, .dram, .boot, .ecat, .test, .comp, .cart, .xport, .power, .kiln, .recov, .sched, .jour, .opLog, .energy, .pins] ⊆ mask) : Kept mask s0 (regw p d reqId addr value s) := by
  unfold regw
  try extract_lets -underBinder
  repeat' first
   | with_reducible assumption
   | exact sub_trans rfl hsub
   | intro _
   | with_reducible apply kept_ite
   | with_reducible apply dropPair_kept
   | with_reducible apply returnAdmin_kept
   | with_reducible apply refuseWindow_kept
   | with_reducible apply writeValue_kept
   | with_reducible apply modPort_kept
   | with_reducible apply sendRegd_kept
   | with_reducible apply kept_id
   | split
   | extract_lets -underBinder
   | (dsimp +zetaDelta only; split)

theorem regr_kept {mask : List Part} {s0 s : State} (p : PortId) (d : Dom) (reqId : Byte) (addr : Word) (hk : Kept mask s0 s)
    (hsub : [.dict, .ports] ⊆ mask) : Kept mask s0 (regr p d reqId addr s) := by
  unfold regr
  try extract_lets -underBinder
  repeat' first
   | with_reducible assumption
   | exact sub_trans rfl hsub
   | intro _
   | with_reducible apply kept_ite
   | with_reducible apply dropPair_kept
   | with_reducible apply returnAdmin_kept
   | with_reducible apply refuseWindow_kept
   | with_reducible apply sendRegd_kept
   | with_reducible apply modPort_kept
   | with_reducible apply kept_id
   | split
   | extract_lets -underBinder
   | (dsimp +zetaDelta only; split)

theorem sdoProtocol_kept {mask : List Part} {s0 s : State} (i : Nat) (sub : Nat) (code : Nat) (hk : Kept mask s0 s)
    (hsub : [.dict, .ecat] ⊆ mask) : Kept mask s0 (sdoProtocol i sub code s) := by
  unfold sdoProtocol
  try extract_lets -underBinder
  repeat' first
   | with_reducible assumption
   | exact sub_trans rfl hsub
   | intro _
   | with_reducible apply kept_ite
   | with_reducible apply refusalDetail_kept
   | exact Or.inl (mem_of rfl hsub)
   | with_reducible exact Or.inr rfl
   | split
   | extract_lets -underBinder
   | (dsimp +zetaDelta only; split)
   | with_reducible apply kept_mk

theorem putSdo_kept {mask : List Part} {s0 s : State} (x : Option SdoTransfer) (r : MailboxReply) (hk : Kept mask s0 s)
    (hsub : [.ecat] ⊆ mask) : Kept mask s0 (putSdo x r s) := by
  unfold putSdo
  try extract_lets -underBinder
  repeat' first
   | with_reducible assumption
   | exact sub_trans rfl hsub
   | intro _
   | with_reducible apply kept_ite
   | exact Or.inl (mem_of rfl hsub)
   | with_reducible exact Or.inr rfl
   | split
   | extract_lets -underBinder
   | (dsimp +zetaDelta only; split)
   | with_reducible apply kept_mk

theorem closeSdo_kept {mask : List Part} {s0 s : State} (hk : Kept mask s0 s)
    (hsub : [.ecat] ⊆ mask) : Kept mask s0 (closeSdo s) := by
  unfold closeSdo
  try extract_lets -underBinder
  repeat' first
   | with_reducible assumption
   | exact sub_trans rfl hsub
   | intro _
   | with_reducible apply kept_ite
   | exact Or.inl (mem_of rfl hsub)
   | with_reducible exact Or.inr rfl
   | split
   | extract_lets -underBinder
   | (dsimp +zetaDelta only; split)
   | with_reducible apply kept_mk

theorem dropSdo_kept {mask : List Part} {s0 s : State} (code : Nat) (hk : Kept mask s0 s)
    (hsub : [.dict, .ecat] ⊆ mask) : Kept mask s0 (dropSdo code s) := by
  unfold dropSdo
  try extract_lets -underBinder
  repeat' first
   | with_reducible assumption
   | exact sub_trans rfl hsub
   | intro _
   | with_reducible apply kept_ite
   | with_reducible apply sdoProtocol_kept
   | with_reducible apply closeSdo_kept
   | split
   | extract_lets -underBinder
   | (dsimp +zetaDelta only; split)

theorem sdoValue_kept {mask : List Part} {s0 s : State} (complete : Bool) (i : Nat) (sub : Nat) (bytes : List Byte) (hk : Kept mask s0 s)
    (hsub : [.free, .dict, .ev, .ports, .doms, .ring, .dram, .boot, .ecat, .test, .comp, .cart, .xport, .power, .kiln, .recov, .sched, .jour, .opLog, .energy, .pins] ⊆ mask) : Kept mask s0 (sdoValue complete i sub bytes s) := by
  unfold sdoValue
  try extract_lets -underBinder
  repeat' first
   | with_reducible assumption
   | exact sub_trans rfl hsub
   | intro _
   | with_reducible apply kept_ite
   | with_reducible apply writeComplete_kept
   | with_reducible apply writeBytes_kept
   | split
   | extract_lets -underBinder
   | (dsimp +zetaDelta only; split)

theorem sdoSegment_kept {mask : List Part} {s0 s : State} (toggle : Bool) (last : Bool) (bytes : List Byte) (hk : Kept mask s0 s)
    (hsub : [.free, .dict, .ev, .ports, .doms, .ring, .dram, .boot, .ecat, .test, .comp, .cart, .xport, .power, .kiln, .recov, .sched, .jour, .opLog, .energy, .pins] ⊆ mask) : Kept mask s0 (sdoSegment toggle last bytes s) := by
  unfold sdoSegment
  try extract_lets -underBinder
  repeat' first
   | with_reducible assumption
   | exact sub_trans rfl hsub
   | intro _
   | with_reducible apply kept_ite
   | with_reducible apply dropSdo_kept
   | with_reducible apply putSdo_kept
   | with_reducible apply refuse_kept
   | with_reducible apply closeSdo_kept
   | with_reducible apply sdoValue_kept
   | split
   | extract_lets -underBinder
   | (dsimp +zetaDelta only; split)

theorem objectWrite_kept {mask : List Part} {s0 s : State} (w : ObjWrite) (hk : Kept mask s0 s)
    (hsub : [.free, .dict, .ev, .ports, .doms, .ring, .dram, .boot, .ecat, .test, .comp, .cart, .xport, .power, .kiln, .recov, .sched, .jour, .opLog, .energy, .pins] ⊆ mask) : Kept mask s0 (objectWrite w s) := by
  unfold objectWrite
  try extract_lets -underBinder
  repeat' first
   | with_reducible assumption
   | exact sub_trans rfl hsub
   | intro _
   | with_reducible apply kept_ite
   | with_reducible apply sdoValue_kept
   | with_reducible apply closeSdo_kept
   | with_reducible apply putSdo_kept
   | with_reducible apply sdoSegment_kept
   | with_reducible apply regw_kept
   | with_reducible apply arrive_kept
   | with_reducible apply writeValue_kept
   | split
   | extract_lets -underBinder
   | (dsimp +zetaDelta only; split)

theorem execObjectWrite_kept (w : ObjWrite) (s : State) :
    ∃ t, execObjectWrite w s = .next t ∧ Kept [.free, .dict, .ev, .ports, .doms, .ring, .dram, .boot, .ecat, .test, .comp, .cart, .xport, .power, .kiln, .recov, .sched, .jour, .opLog, .energy, .pins] s t := by
  unfold execObjectWrite
  refine ⟨_, rfl, ?_⟩
  have hk := Kept.refl [.free, .dict, .ev, .ports, .doms, .ring, .dram, .boot, .ecat, .test, .comp, .cart, .xport, .power, .kiln, .recov, .sched, .jour, .opLog, .energy, .pins] s
  have hsub : ([.free, .dict, .ev, .ports, .doms, .ring, .dram, .boot, .ecat, .test, .comp, .cart, .xport, .power, .kiln, .recov, .sched, .jour, .opLog, .energy, .pins] : List Part) ⊆ [.free, .dict, .ev, .ports, .doms, .ring, .dram, .boot, .ecat, .test, .comp, .cart, .xport, .power, .kiln, .recov, .sched, .jour, .opLog, .energy, .pins] := fun _ y => y
  try extract_lets -underBinder
  repeat' first
   | with_reducible assumption
   | exact sub_trans rfl hsub
   | intro _
   | with_reducible apply kept_ite
   | with_reducible apply live_kept
   | with_reducible apply objectWrite_kept
   | split
   | extract_lets -underBinder
   | (dsimp +zetaDelta only; split)

theorem execRegwLowerWord_kept (p : PortId) (d : Dom) (reqId : Byte) (addr : Word) (value : Word) (s : State) :
    ∃ t, execRegwLowerWord p d reqId addr value s = .next t ∧ Kept [.free, .dict, .ev, .ports, .doms, .ring, .dram, .boot, .ecat, .test, .comp, .cart, .xport, .power, .kiln, .recov, .sched, .jour, .opLog, .energy, .pins] s t := by
  unfold execRegwLowerWord
  refine ⟨_, rfl, ?_⟩
  have hk := Kept.refl [.free, .dict, .ev, .ports, .doms, .ring, .dram, .boot, .ecat, .test, .comp, .cart, .xport, .power, .kiln, .recov, .sched, .jour, .opLog, .energy, .pins] s
  have hsub : ([.free, .dict, .ev, .ports, .doms, .ring, .dram, .boot, .ecat, .test, .comp, .cart, .xport, .power, .kiln, .recov, .sched, .jour, .opLog, .energy, .pins] : List Part) ⊆ [.free, .dict, .ev, .ports, .doms, .ring, .dram, .boot, .ecat, .test, .comp, .cart, .xport, .power, .kiln, .recov, .sched, .jour, .opLog, .energy, .pins] := fun _ y => y
  try extract_lets -underBinder
  repeat' first
   | with_reducible assumption
   | exact sub_trans rfl hsub
   | intro _
   | with_reducible apply kept_ite
   | with_reducible apply live_kept
   | with_reducible apply regw_kept
   | split
   | extract_lets -underBinder
   | (dsimp +zetaDelta only; split)

theorem execRegrLowerWord_kept (p : PortId) (d : Dom) (reqId : Byte) (addr : Word) (s : State) :
    ∃ t, execRegrLowerWord p d reqId addr s = .next t ∧ Kept [.dict, .ports] s t := by
  unfold execRegrLowerWord
  refine ⟨_, rfl, ?_⟩
  have hk := Kept.refl [.dict, .ports] s
  have hsub : ([.dict, .ports] : List Part) ⊆ [.dict, .ports] := fun _ y => y
  try extract_lets -underBinder
  repeat' first
   | with_reducible assumption
   | exact sub_trans rfl hsub
   | intro _
   | with_reducible apply kept_ite
   | with_reducible apply live_kept
   | with_reducible apply regr_kept
   | split
   | extract_lets -underBinder
   | (dsimp +zetaDelta only; split)

theorem valueArrives_kept {mask : List Part} {s0 s : State} (w : Writer) (i : Nat) (sub : Nat) (v : Nat) (hk : Kept mask s0 s)
    (hsub : [.free, .dict, .ev, .ports, .doms, .ring, .dram, .boot, .ecat, .test, .comp, .cart, .xport, .power, .kiln, .recov, .sched, .jour, .opLog, .energy, .pins] ⊆ mask) : Kept mask s0 (valueArrives w i sub v s) := by
  unfold valueArrives
  try extract_lets -underBinder
  repeat' first
   | with_reducible assumption
   | exact sub_trans rfl hsub
   | intro _
   | with_reducible apply kept_ite
   | with_reducible apply live_kept
   | with_reducible apply arriveValue_kept
   | with_reducible apply writeValue_kept
   | split
   | extract_lets -underBinder
   | (dsimp +zetaDelta only; split)

theorem execResetRequest_kept (w : Writer) (value : Half) (s : State) :
    ∃ t, execResetRequest w value s = .next t ∧ Kept [.free, .dict, .ev, .ports, .doms, .ring, .dram, .boot, .ecat, .test, .comp, .cart, .xport, .power, .kiln, .recov, .sched, .jour, .opLog, .energy, .pins] s t := by
  unfold execResetRequest
  refine ⟨_, rfl, ?_⟩
  have hk := Kept.refl [.free, .dict, .ev, .ports, .doms, .ring, .dram, .boot, .ecat, .test, .comp, .cart, .xport, .power, .kiln, .recov, .sched, .jour, .opLog, .energy, .pins] s
  have hsub : ([.free, .dict, .ev, .ports, .doms, .ring, .dram, .boot, .ecat, .test, .comp, .cart, .xport, .power, .kiln, .recov, .sched, .jour, .opLog, .energy, .pins] : List Part) ⊆ [.free, .dict, .ev, .ports, .doms, .ring, .dram, .boot, .ecat, .test, .comp, .cart, .xport, .power, .kiln, .recov, .sched, .jour, .opLog, .energy, .pins] := fun _ y => y
  try extract_lets -underBinder
  repeat' first
   | with_reducible assumption
   | exact sub_trans rfl hsub
   | intro _
   | with_reducible apply kept_ite
   | with_reducible apply valueArrives_kept
   | split
   | extract_lets -underBinder
   | (dsimp +zetaDelta only; split)

theorem execHoldupControl_kept (w : Writer) (value : Byte) (s : State) :
    ∃ t, execHoldupControl w value s = .next t ∧ Kept [.free, .dict, .ev, .ports, .doms, .ring, .dram, .boot, .ecat, .test, .comp, .cart, .xport, .power, .kiln, .recov, .sched, .jour, .opLog, .energy, .pins] s t := by
  unfold execHoldupControl
  refine ⟨_, rfl, ?_⟩
  have hk := Kept.refl [.free, .dict, .ev, .ports, .doms, .ring, .dram, .boot, .ecat, .test, .comp, .cart, .xport, .power, .kiln, .recov, .sched, .jour, .opLog, .energy, .pins] s
  have hsub : ([.free, .dict, .ev, .ports, .doms, .ring, .dram, .boot, .ecat, .test, .comp, .cart, .xport, .power, .kiln, .recov, .sched, .jour, .opLog, .energy, .pins] : List Part) ⊆ [.free, .dict, .ev, .ports, .doms, .ring, .dram, .boot, .ecat, .test, .comp, .cart, .xport, .power, .kiln, .recov, .sched, .jour, .opLog, .energy, .pins] := fun _ y => y
  try extract_lets -underBinder
  repeat' first
   | with_reducible assumption
   | exact sub_trans rfl hsub
   | intro _
   | with_reducible apply kept_ite
   | with_reducible apply valueArrives_kept
   | split
   | extract_lets -underBinder
   | (dsimp +zetaDelta only; split)

theorem execCalibrate_kept (w : Writer) (value : Byte) (s : State) :
    ∃ t, execCalibrate w value s = .next t ∧ Kept [.free, .dict, .ev, .ports, .doms, .ring, .dram, .boot, .ecat, .test, .comp, .cart, .xport, .power, .kiln, .recov, .sched, .jour, .opLog, .energy, .pins] s t := by
  unfold execCalibrate
  refine ⟨_, rfl, ?_⟩
  have hk := Kept.refl [.free, .dict, .ev, .ports, .doms, .ring, .dram, .boot, .ecat, .test, .comp, .cart, .xport, .power, .kiln, .recov, .sched, .jour, .opLog, .energy, .pins] s
  have hsub : ([.free, .dict, .ev, .ports, .doms, .ring, .dram, .boot, .ecat, .test, .comp, .cart, .xport, .power, .kiln, .recov, .sched, .jour, .opLog, .energy, .pins] : List Part) ⊆ [.free, .dict, .ev, .ports, .doms, .ring, .dram, .boot, .ecat, .test, .comp, .cart, .xport, .power, .kiln, .recov, .sched, .jour, .opLog, .energy, .pins] := fun _ y => y
  try extract_lets -underBinder
  repeat' first
   | with_reducible assumption
   | exact sub_trans rfl hsub
   | intro _
   | with_reducible apply kept_ite
   | with_reducible apply valueArrives_kept
   | split
   | extract_lets -underBinder
   | (dsimp +zetaDelta only; split)

theorem execApply_kept (w : Writer) (n : Fin 16) (control : Byte) (s : State) :
    ∃ t, execApply w n control s = .next t ∧ Kept [.free, .dict, .ev, .ports, .doms, .ring, .dram, .boot, .ecat, .test, .comp, .cart, .xport, .power, .kiln, .recov, .sched, .jour, .opLog, .energy, .pins] s t := by
  unfold execApply
  refine ⟨_, rfl, ?_⟩
  have hk := Kept.refl [.free, .dict, .ev, .ports, .doms, .ring, .dram, .boot, .ecat, .test, .comp, .cart, .xport, .power, .kiln, .recov, .sched, .jour, .opLog, .energy, .pins] s
  have hsub : ([.free, .dict, .ev, .ports, .doms, .ring, .dram, .boot, .ecat, .test, .comp, .cart, .xport, .power, .kiln, .recov, .sched, .jour, .opLog, .energy, .pins] : List Part) ⊆ [.free, .dict, .ev, .ports, .doms, .ring, .dram, .boot, .ecat, .test, .comp, .cart, .xport, .power, .kiln, .recov, .sched, .jour, .opLog, .energy, .pins] := fun _ y => y
  try extract_lets -underBinder
  repeat' first
   | with_reducible assumption
   | exact sub_trans rfl hsub
   | intro _
   | with_reducible apply kept_ite
   | with_reducible apply valueArrives_kept
   | split
   | extract_lets -underBinder
   | (dsimp +zetaDelta only; split)

theorem execInjectWaveform_kept (w : Writer) (value : Byte) (s : State) :
    ∃ t, execInjectWaveform w value s = .next t ∧ Kept [.free, .dict, .ev, .ports, .doms, .ring, .dram, .boot, .ecat, .test, .comp, .cart, .xport, .power, .kiln, .recov, .sched, .jour, .opLog, .energy, .pins] s t := by
  unfold execInjectWaveform
  refine ⟨_, rfl, ?_⟩
  have hk := Kept.refl [.free, .dict, .ev, .ports, .doms, .ring, .dram, .boot, .ecat, .test, .comp, .cart, .xport, .power, .kiln, .recov, .sched, .jour, .opLog, .energy, .pins] s
  have hsub : ([.free, .dict, .ev, .ports, .doms, .ring, .dram, .boot, .ecat, .test, .comp, .cart, .xport, .power, .kiln, .recov, .sched, .jour, .opLog, .energy, .pins] : List Part) ⊆ [.free, .dict, .ev, .ports, .doms, .ring, .dram, .boot, .ecat, .test, .comp, .cart, .xport, .power, .kiln, .recov, .sched, .jour, .opLog, .energy, .pins] := fun _ y => y
  try extract_lets -underBinder
  repeat' first
   | with_reducible assumption
   | exact sub_trans rfl hsub
   | intro _
   | with_reducible apply kept_ite
   | with_reducible apply valueArrives_kept
   | split
   | extract_lets -underBinder
   | (dsimp +zetaDelta only; split)

theorem execCaptureArm_kept (w : Writer) (s : State) :
    ∃ t, execCaptureArm w s = .next t ∧ Kept [.free, .dict, .ev, .ports, .doms, .ring, .dram, .boot, .ecat, .test, .comp, .cart, .xport, .power, .kiln, .recov, .sched, .jour, .opLog, .energy, .pins] s t := by
  unfold execCaptureArm
  refine ⟨_, rfl, ?_⟩
  have hk := Kept.refl [.free, .dict, .ev, .ports, .doms, .ring, .dram, .boot, .ecat, .test, .comp, .cart, .xport, .power, .kiln, .recov, .sched, .jour, .opLog, .energy, .pins] s
  have hsub : ([.free, .dict, .ev, .ports, .doms, .ring, .dram, .boot, .ecat, .test, .comp, .cart, .xport, .power, .kiln, .recov, .sched, .jour, .opLog, .energy, .pins] : List Part) ⊆ [.free, .dict, .ev, .ports, .doms, .ring, .dram, .boot, .ecat, .test, .comp, .cart, .xport, .power, .kiln, .recov, .sched, .jour, .opLog, .energy, .pins] := fun _ y => y
  try extract_lets -underBinder
  repeat' first
   | with_reducible assumption
   | exact sub_trans rfl hsub
   | intro _
   | with_reducible apply kept_ite
   | with_reducible apply valueArrives_kept
   | split
   | extract_lets -underBinder
   | (dsimp +zetaDelta only; split)

theorem execCaptureStop_kept (w : Writer) (s : State) :
    ∃ t, execCaptureStop w s = .next t ∧ Kept [.free, .dict, .ev, .ports, .doms, .ring, .dram, .boot, .ecat, .test, .comp, .cart, .xport, .power, .kiln, .recov, .sched, .jour, .opLog, .energy, .pins] s t := by
  unfold execCaptureStop
  refine ⟨_, rfl, ?_⟩
  have hk := Kept.refl [.free, .dict, .ev, .ports, .doms, .ring, .dram, .boot, .ecat, .test, .comp, .cart, .xport, .power, .kiln, .recov, .sched, .jour, .opLog, .energy, .pins] s
  have hsub : ([.free, .dict, .ev, .ports, .doms, .ring, .dram, .boot, .ecat, .test, .comp, .cart, .xport, .power, .kiln, .recov, .sched, .jour, .opLog, .energy, .pins] : List Part) ⊆ [.free, .dict, .ev, .ports, .doms, .ring, .dram, .boot, .ecat, .test, .comp, .cart, .xport, .power, .kiln, .recov, .sched, .jour, .opLog, .energy, .pins] := fun _ y => y
  try extract_lets -underBinder
  repeat' first
   | with_reducible assumption
   | exact sub_trans rfl hsub
   | intro _
   | with_reducible apply kept_ite
   | with_reducible apply valueArrives_kept
   | split
   | extract_lets -underBinder
   | (dsimp +zetaDelta only; split)

theorem execPinConfig_kept (w : Writer) (port : Fin 5) (pin : Fin 8) (value : Word) (s : State) :
    ∃ t, execPinConfig w port pin value s = .next t ∧ Kept [.free, .dict, .ev, .ports, .doms, .ring, .dram, .boot, .ecat, .test, .comp, .cart, .xport, .power, .kiln, .recov, .sched, .jour, .opLog, .energy, .pins] s t := by
  unfold execPinConfig
  refine ⟨_, rfl, ?_⟩
  have hk := Kept.refl [.free, .dict, .ev, .ports, .doms, .ring, .dram, .boot, .ecat, .test, .comp, .cart, .xport, .power, .kiln, .recov, .sched, .jour, .opLog, .energy, .pins] s
  have hsub : ([.free, .dict, .ev, .ports, .doms, .ring, .dram, .boot, .ecat, .test, .comp, .cart, .xport, .power, .kiln, .recov, .sched, .jour, .opLog, .energy, .pins] : List Part) ⊆ [.free, .dict, .ev, .ports, .doms, .ring, .dram, .boot, .ecat, .test, .comp, .cart, .xport, .power, .kiln, .recov, .sched, .jour, .opLog, .energy, .pins] := fun _ y => y
  try extract_lets -underBinder
  repeat' first
   | with_reducible assumption
   | exact sub_trans rfl hsub
   | intro _
   | with_reducible apply kept_ite
   | with_reducible apply valueArrives_kept
   | split
   | extract_lets -underBinder
   | (dsimp +zetaDelta only; split)

theorem execEventConfig_kept (w : Writer) (line : Fin 8) (value : Word) (s : State) :
    ∃ t, execEventConfig w line value s = .next t ∧ Kept [.free, .dict, .ev, .ports, .doms, .ring, .dram, .boot, .ecat, .test, .comp, .cart, .xport, .power, .kiln, .recov, .sched, .jour, .opLog, .energy, .pins] s t := by
  unfold execEventConfig
  refine ⟨_, rfl, ?_⟩
  have hk := Kept.refl [.free, .dict, .ev, .ports, .doms, .ring, .dram, .boot, .ecat, .test, .comp, .cart, .xport, .power, .kiln, .recov, .sched, .jour, .opLog, .energy, .pins] s
  have hsub : ([.free, .dict, .ev, .ports, .doms, .ring, .dram, .boot, .ecat, .test, .comp, .cart, .xport, .power, .kiln, .recov, .sched, .jour, .opLog, .energy, .pins] : List Part) ⊆ [.free, .dict, .ev, .ports, .doms, .ring, .dram, .boot, .ecat, .test, .comp, .cart, .xport, .power, .kiln, .recov, .sched, .jour, .opLog, .energy, .pins] := fun _ y => y
  try extract_lets -underBinder
  repeat' first
   | with_reducible assumption
   | exact sub_trans rfl hsub
   | intro _
   | with_reducible apply kept_ite
   | with_reducible apply valueArrives_kept
   | split
   | extract_lets -underBinder
   | (dsimp +zetaDelta only; split)

theorem execPinOut_kept (w : Writer) (d : Dom) (value : DWord) (s : State) :
    ∃ t, execPinOut w d value s = .next t ∧ Kept [.free, .dict, .ev, .ports, .doms, .ring, .dram, .boot, .ecat, .test, .comp, .cart, .xport, .power, .kiln, .recov, .sched, .jour, .opLog, .energy, .pins] s t := by
  unfold execPinOut
  refine ⟨_, rfl, ?_⟩
  have hk := Kept.refl [.free, .dict, .ev, .ports, .doms, .ring, .dram, .boot, .ecat, .test, .comp, .cart, .xport, .power, .kiln, .recov, .sched, .jour, .opLog, .energy, .pins] s
  have hsub : ([.free, .dict, .ev, .ports, .doms, .ring, .dram, .boot, .ecat, .test, .comp, .cart, .xport, .power, .kiln, .recov, .sched, .jour, .opLog, .energy, .pins] : List Part) ⊆ [.free, .dict, .ev, .ports, .doms, .ring, .dram, .boot, .ecat, .test, .comp, .cart, .xport, .power, .kiln, .recov, .sched, .jour, .opLog, .energy, .pins] := fun _ y => y
  try extract_lets -underBinder
  repeat' first
   | with_reducible assumption
   | exact sub_trans rfl hsub
   | intro _
   | with_reducible apply kept_ite
   | with_reducible apply valueArrives_kept
   | split
   | extract_lets -underBinder
   | (dsimp +zetaDelta only; split)

theorem execDevicePinOut_kept (w : Writer) (value : DWord) (s : State) :
    ∃ t, execDevicePinOut w value s = .next t ∧ Kept [.free, .dict, .ev, .ports, .doms, .ring, .dram, .boot, .ecat, .test, .comp, .cart, .xport, .power, .kiln, .recov, .sched, .jour, .opLog, .energy, .pins] s t := by
  unfold execDevicePinOut
  refine ⟨_, rfl, ?_⟩
  have hk := Kept.refl [.free, .dict, .ev, .ports, .doms, .ring, .dram, .boot, .ecat, .test, .comp, .cart, .xport, .power, .kiln, .recov, .sched, .jour, .opLog, .energy, .pins] s
  have hsub : ([.free, .dict, .ev, .ports, .doms, .ring, .dram, .boot, .ecat, .test, .comp, .cart, .xport, .power, .kiln, .recov, .sched, .jour, .opLog, .energy, .pins] : List Part) ⊆ [.free, .dict, .ev, .ports, .doms, .ring, .dram, .boot, .ecat, .test, .comp, .cart, .xport, .power, .kiln, .recov, .sched, .jour, .opLog, .energy, .pins] := fun _ y => y
  try extract_lets -underBinder
  repeat' first
   | with_reducible assumption
   | exact sub_trans rfl hsub
   | intro _
   | with_reducible apply kept_ite
   | with_reducible apply valueArrives_kept
   | split
   | extract_lets -underBinder
   | (dsimp +zetaDelta only; split)

theorem execEnergyClear_kept (w : Writer) (value : Byte) (s : State) :
    ∃ t, execEnergyClear w value s = .next t ∧ Kept [.free, .dict, .ev, .ports, .doms, .ring, .dram, .boot, .ecat, .test, .comp, .cart, .xport, .power, .kiln, .recov, .sched, .jour, .opLog, .energy, .pins] s t := by
  unfold execEnergyClear
  refine ⟨_, rfl, ?_⟩
  have hk := Kept.refl [.free, .dict, .ev, .ports, .doms, .ring, .dram, .boot, .ecat, .test, .comp, .cart, .xport, .power, .kiln, .recov, .sched, .jour, .opLog, .energy, .pins] s
  have hsub : ([.free, .dict, .ev, .ports, .doms, .ring, .dram, .boot, .ecat, .test, .comp, .cart, .xport, .power, .kiln, .recov, .sched, .jour, .opLog, .energy, .pins] : List Part) ⊆ [.free, .dict, .ev, .ports, .doms, .ring, .dram, .boot, .ecat, .test, .comp, .cart, .xport, .power, .kiln, .recov, .sched, .jour, .opLog, .energy, .pins] := fun _ y => y
  try extract_lets -underBinder
  repeat' first
   | with_reducible assumption
   | exact sub_trans rfl hsub
   | intro _
   | with_reducible apply kept_ite
   | with_reducible apply valueArrives_kept
   | split
   | extract_lets -underBinder
   | (dsimp +zetaDelta only; split)

theorem execImagePushData_kept (w : Writer) (bytes : List Byte) (s : State) :
    ∃ t, execImagePushData w bytes s = .next t ∧ Kept [.free, .dict, .ports, .boot, .ecat] s t := by
  unfold execImagePushData
  refine ⟨_, rfl, ?_⟩
  have hk := Kept.refl [.free, .dict, .ports, .boot, .ecat] s
  have hsub : ([.free, .dict, .ports, .boot, .ecat] : List Part) ⊆ [.free, .dict, .ports, .boot, .ecat] := fun _ y => y
  try extract_lets -underBinder
  repeat' first
   | with_reducible assumption
   | exact sub_trans rfl hsub
   | intro _
   | with_reducible apply kept_ite
   | with_reducible apply live_kept
   | with_reducible apply arrive_kept
   | with_reducible apply writePush_kept
   | split
   | extract_lets -underBinder
   | (dsimp +zetaDelta only; split)

theorem execImagePushCommit_kept (w : Writer) (length : Word) (s : State) :
    ∃ t, execImagePushCommit w length s = .next t ∧ Kept [.free, .dict, .ev, .ports, .doms, .ring, .dram, .boot, .ecat, .test, .comp, .cart, .xport, .power, .kiln, .recov, .sched, .jour, .opLog, .energy, .pins] s t := by
  unfold execImagePushCommit
  refine ⟨_, rfl, ?_⟩
  have hk := Kept.refl [.free, .dict, .ev, .ports, .doms, .ring, .dram, .boot, .ecat, .test, .comp, .cart, .xport, .power, .kiln, .recov, .sched, .jour, .opLog, .energy, .pins] s
  have hsub : ([.free, .dict, .ev, .ports, .doms, .ring, .dram, .boot, .ecat, .test, .comp, .cart, .xport, .power, .kiln, .recov, .sched, .jour, .opLog, .energy, .pins] : List Part) ⊆ [.free, .dict, .ev, .ports, .doms, .ring, .dram, .boot, .ecat, .test, .comp, .cart, .xport, .power, .kiln, .recov, .sched, .jour, .opLog, .energy, .pins] := fun _ y => y
  try extract_lets -underBinder
  repeat' first
   | with_reducible assumption
   | exact sub_trans rfl hsub
   | intro _
   | with_reducible apply kept_ite
   | with_reducible apply valueArrives_kept
   | split
   | extract_lets -underBinder
   | (dsimp +zetaDelta only; split)

theorem execImageActivate_kept (w : Writer) (value : Byte) (s : State) :
    ∃ t, execImageActivate w value s = .next t ∧ Kept [.free, .dict, .ev, .ports, .doms, .ring, .dram, .boot, .ecat, .test, .comp, .cart, .xport, .power, .kiln, .recov, .sched, .jour, .opLog, .energy, .pins] s t := by
  unfold execImageActivate
  refine ⟨_, rfl, ?_⟩
  have hk := Kept.refl [.free, .dict, .ev, .ports, .doms, .ring, .dram, .boot, .ecat, .test, .comp, .cart, .xport, .power, .kiln, .recov, .sched, .jour, .opLog, .energy, .pins] s
  have hsub : ([.free, .dict, .ev, .ports, .doms, .ring, .dram, .boot, .ecat, .test, .comp, .cart, .xport, .power, .kiln, .recov, .sched, .jour, .opLog, .energy, .pins] : List Part) ⊆ [.free, .dict, .ev, .ports, .doms, .ring, .dram, .boot, .ecat, .test, .comp, .cart, .xport, .power, .kiln, .recov, .sched, .jour, .opLog, .energy, .pins] := fun _ y => y
  try extract_lets -underBinder
  repeat' first
   | with_reducible assumption
   | exact sub_trans rfl hsub
   | intro _
   | with_reducible apply kept_ite
   | with_reducible apply valueArrives_kept
   | split
   | extract_lets -underBinder
   | (dsimp +zetaDelta only; split)

theorem mgmtReply_kept {mask : List Part} {s0 s : State} (p : PortId) (d : Dom) (op : Nat) (m : MgmtReq) (r : Option Reason) (total : Nat) (bytes : List Byte) (hk : Kept mask s0 s)
    (hsub : [.dict, .ports] ⊆ mask) : Kept mask s0 (mgmtReply p d op m r total bytes s) := by
  unfold mgmtReply
  try extract_lets -underBinder
  repeat' first
   | with_reducible assumption
   | exact sub_trans rfl hsub
   | intro _
   | with_reducible apply kept_ite
   | with_reducible apply refusalDetail_kept
   | with_reducible apply sendMsg_kept
   | split
   | extract_lets -underBinder
   | (dsimp +zetaDelta only; split)

theorem mgmtRefuse_kept {mask : List Part} {s0 s : State} (p : PortId) (d : Dom) (op : Nat) (m : MgmtReq) (r : Reason) (hk : Kept mask s0 s)
    (hsub : [.dict, .ports] ⊆ mask) : Kept mask s0 (mgmtRefuse p d op m r s) := by
  unfold mgmtRefuse
  try extract_lets -underBinder
  repeat' first
   | with_reducible assumption
   | exact sub_trans rfl hsub
   | intro _
   | with_reducible apply kept_ite
   | with_reducible apply mgmtReply_kept
   | split
   | extract_lets -underBinder
   | (dsimp +zetaDelta only; split)

theorem closeTransfer_kept {mask : List Part} {s0 s : State} (p : PortId) (hk : Kept mask s0 s)
    (hsub : [.ports] ⊆ mask) : Kept mask s0 (closeTransfer p s) := by
  unfold closeTransfer
  try extract_lets -underBinder
  repeat' first
   | with_reducible assumption
   | exact sub_trans rfl hsub
   | intro _
   | with_reducible apply kept_ite
   | with_reducible apply modPort_kept
   | split
   | extract_lets -underBinder
   | (dsimp +zetaDelta only; split)

theorem execMgmtRead_kept (p : PortId) (d : Dom) (m : MgmtReq) (s : State) :
    ∃ t, execMgmtRead p d m s = .next t ∧ Kept [.dict, .ports] s t := by
  unfold execMgmtRead
  refine ⟨_, rfl, ?_⟩
  have hk := Kept.refl [.dict, .ports] s
  have hsub : ([.dict, .ports] : List Part) ⊆ [.dict, .ports] := fun _ y => y
  try extract_lets -underBinder
  repeat' first
   | with_reducible assumption
   | exact sub_trans rfl hsub
   | intro _
   | with_reducible apply kept_ite
   | with_reducible apply live_kept
   | with_reducible apply returnAdmin_kept
   | with_reducible apply mgmtRefuse_kept
   | with_reducible apply modPort_kept
   | with_reducible apply mgmtReply_kept
   | with_reducible apply kept_id
   | split
   | extract_lets -underBinder
   | (dsimp +zetaDelta only; split)

theorem execMgmtWrite_kept (p : PortId) (d : Dom) (m : MgmtReq) (bytes : List Byte) (s : State) :
    ∃ t, execMgmtWrite p d m bytes s = .next t ∧ Kept [.free, .dict, .ev, .ports, .doms, .ring, .dram, .boot, .ecat, .test, .comp, .cart, .xport, .power, .kiln, .recov, .sched, .jour, .opLog, .energy, .pins] s t := by
  unfold execMgmtWrite
  refine ⟨_, rfl, ?_⟩
  have hk := Kept.refl [.free, .dict, .ev, .ports, .doms, .ring, .dram, .boot, .ecat, .test, .comp, .cart, .xport, .power, .kiln, .recov, .sched, .jour, .opLog, .energy, .pins] s
  have hsub : ([.free, .dict, .ev, .ports, .doms, .ring, .dram, .boot, .ecat, .test, .comp, .cart, .xport, .power, .kiln, .recov, .sched, .jour, .opLog, .energy, .pins] : List Part) ⊆ [.free, .dict, .ev, .ports, .doms, .ring, .dram, .boot, .ecat, .test, .comp, .cart, .xport, .power, .kiln, .recov, .sched, .jour, .opLog, .energy, .pins] := fun _ y => y
  try extract_lets -underBinder
  repeat' first
   | with_reducible assumption
   | exact sub_trans rfl hsub
   | intro _
   | with_reducible apply kept_ite
   | with_reducible apply live_kept
   | with_reducible apply returnAdmin_kept
   | with_reducible apply mgmtRefuse_kept
   | with_reducible apply modPort_kept
   | with_reducible apply mgmtReply_kept
   | with_reducible apply closeTransfer_kept
   | with_reducible apply writeComplete_kept
   | with_reducible apply writeBytes_kept
   | with_reducible apply kept_id
   | split
   | extract_lets -underBinder
   | (dsimp +zetaDelta only; split)

theorem execGetDescription_kept (p : PortId) (d : Dom) (m : MgmtReq) (s : State) :
    ∃ t, execGetDescription p d m s = .next t ∧ Kept [.dict, .ports] s t := by
  unfold execGetDescription
  refine ⟨_, rfl, ?_⟩
  have hk := Kept.refl [.dict, .ports] s
  have hsub : ([.dict, .ports] : List Part) ⊆ [.dict, .ports] := fun _ y => y
  try extract_lets -underBinder
  repeat' first
   | with_reducible assumption
   | exact sub_trans rfl hsub
   | intro _
   | with_reducible apply kept_ite
   | with_reducible apply live_kept
   | with_reducible apply returnAdmin_kept
   | with_reducible apply mgmtRefuse_kept
   | with_reducible apply mgmtReply_kept
   | split
   | extract_lets -underBinder
   | (dsimp +zetaDelta only; split)

theorem execAbortTransfer_kept (p : PortId) (d : Dom) (m : MgmtReq) (s : State) :
    ∃ t, execAbortTransfer p d m s = .next t ∧ Kept [.dict, .ports] s t := by
  unfold execAbortTransfer
  refine ⟨_, rfl, ?_⟩
  have hk := Kept.refl [.dict, .ports] s
  have hsub : ([.dict, .ports] : List Part) ⊆ [.dict, .ports] := fun _ y => y
  try extract_lets -underBinder
  repeat' first
   | with_reducible assumption
   | exact sub_trans rfl hsub
   | intro _
   | with_reducible apply kept_ite
   | with_reducible apply live_kept
   | with_reducible apply returnAdmin_kept
   | with_reducible apply mgmtRefuse_kept
   | with_reducible apply closeTransfer_kept
   | with_reducible apply mgmtReply_kept
   | with_reducible apply kept_id
   | split
   | extract_lets -underBinder
   | (dsimp +zetaDelta only; split)

theorem execUndefinedMgmtOpcode_kept (p : PortId) (d : Dom) (opcode : Byte) (m : MgmtReq) (s : State) :
    ∃ t, execUndefinedMgmtOpcode p d opcode m s = .next t ∧ Kept [.dict, .ports] s t := by
  unfold execUndefinedMgmtOpcode
  refine ⟨_, rfl, ?_⟩
  have hk := Kept.refl [.dict, .ports] s
  have hsub : ([.dict, .ports] : List Part) ⊆ [.dict, .ports] := fun _ y => y
  try extract_lets -underBinder
  repeat' first
   | with_reducible assumption
   | exact sub_trans rfl hsub
   | intro _
   | with_reducible apply kept_ite
   | with_reducible apply live_kept
   | with_reducible apply returnAdmin_kept
   | with_reducible apply mgmtRefuse_kept
   | with_reducible apply kept_id
   | split
   | extract_lets -underBinder
   | (dsimp +zetaDelta only; split)

theorem execMgmtTransferTimeout_kept (p : PortId) (s : State) :
    ∃ t, execMgmtTransferTimeout p s = .next t ∧ Kept [.ports] s t := by
  unfold execMgmtTransferTimeout
  refine ⟨_, rfl, ?_⟩
  have hk := Kept.refl [.ports] s
  have hsub : ([.ports] : List Part) ⊆ [.ports] := fun _ y => y
  try extract_lets -underBinder
  repeat' first
   | with_reducible assumption
   | exact sub_trans rfl hsub
   | intro _
   | with_reducible apply kept_ite
   | with_reducible apply live_kept
   | with_reducible apply closeTransfer_kept
   | split
   | extract_lets -underBinder
   | (dsimp +zetaDelta only; split)

end Sys2Proof.Machine
end

