-- ==== Sys2Proof/Laws/KeptKiln.lean ====
section
/-!
SUPPORT. What the operations of Machine/Kiln.lean may touch, and that they keep the canonical forms.
-/
set_option linter.unusedTactic false
set_option linter.unreachableTactic false
set_option linter.unusedVariables false

namespace Sys2Proof.Machine

theorem modKiln_kept {mask : List Part} {s0 s : State} (f : Kiln → Kiln) (hk : Kept mask s0 s)
    (hsub : [.kiln] ⊆ mask) : Kept mask s0 (modKiln f s) := by
  unfold modKiln
  try extract_lets -underBinder
  repeat' first
   | with_reducible assumption
   | exact sub_trans rfl hsub
   | intro _
   | with_reducible apply kept_ite
   | exact Or.inl (mem_of rfl hsub)
   | with_reducible exact Or.inr rfl
   | split
   | extract_lets -underBinder
   | (dsimp +zetaDelta only; split)
   | with_reducible apply kept_mk

theorem toMain_kept {mask : List Part} {s0 s : State} (m : BridgeMsg) (hk : Kept mask s0 s)
    (hsub : [.kiln] ⊆ mask) : Kept mask s0 (toMain m s) := by
  unfold toMain
  try extract_lets -underBinder
  repeat' first
   | with_reducible assumption
   | exact sub_trans rfl hsub
   | intro _
   | with_reducible apply kept_ite
   | with_reducible apply modKiln_kept
   | split
   | extract_lets -underBinder
   | (dsimp +zetaDelta only; split)

theorem kilnEvent_kept {mask : List Part} {s0 s : State} (code : Nat) (detail : Nat) (hk : Kept mask s0 s)
    (hsub : [.free, .dict, .ev, .ports, .kiln, .opLog] ⊆ mask) : Kept mask s0 (kilnEvent code detail s) := by
  unfold kilnEvent
  try extract_lets -underBinder
  repeat' first
   | with_reducible assumption
   | exact sub_trans rfl hsub
   | intro _
   | with_reducible apply kept_ite
   | with_reducible apply postEvent_kept
   | with_reducible apply modKiln_kept
   | split
   | extract_lets -underBinder
   | (dsimp +zetaDelta only; split)

theorem storeRecord_kept {mask : List Part} {s0 s : State} (r : KilnRecord) (hk : Kept mask s0 s)
    (hsub : [.kiln] ⊆ mask) : Kept mask s0 (storeRecord r s) := by
  unfold storeRecord
  try extract_lets -underBinder
  repeat' first
   | with_reducible assumption
   | exact sub_trans rfl hsub
   | intro _
   | with_reducible apply kept_ite
   | with_reducible apply modKiln_kept
   | with_reducible apply toMain_kept
   | with_reducible apply kept_id
   | split
   | extract_lets -underBinder
   | (dsimp +zetaDelta only; split)

theorem issueEntry_kept {mask : List Part} {s0 s : State} (crystal : Nat) (n : Nat) (hk : Kept mask s0 s)
    (hsub : [.kiln] ⊆ mask) : Kept mask s0 (issueEntry crystal n s) := by
  unfold issueEntry
  try extract_lets -underBinder
  repeat' first
   | with_reducible assumption
   | exact sub_trans rfl hsub
   | intro _
   | with_reducible apply kept_ite
   | with_reducible apply modKiln_kept
   | with_reducible apply storeRecord_kept
   | split
   | extract_lets -underBinder
   | (dsimp +zetaDelta only; split)

theorem issueEntries_kept {mask : List Part} {s0 s : State} (crystal : Nat) (x0 : Nat) (hk : Kept mask s0 s)
    (hsub : [.kiln] ⊆ mask) : Kept mask s0 (issueEntries crystal x0 s) := by
  induction x0 generalizing s with
  | zero =>
    unfold issueEntries
    try extract_lets -underBinder
    repeat' first
     | with_reducible assumption
     | exact sub_trans rfl hsub
     | intro _
     | with_reducible apply kept_ite
     | with_reducible apply ih
     | with_reducible apply modKiln_kept
     | with_reducible apply issueEntry_kept
     | with_reducible apply kept_id
     | split
     | extract_lets -underBinder
     | (dsimp +zetaDelta only; split)
  | succ n ih =>
    unfold issueEntries
    try extract_lets -underBinder
    repeat' first
     | with_reducible assumption
     | exact sub_trans rfl hsub
     | intro _
     | with_reducible apply kept_ite
     | with_reducible apply ih
     | with_reducible apply modKiln_kept
     | with_reducible apply issueEntry_kept
     | with_reducible apply kept_id
     | split
     | extract_lets -underBinder
     | (dsimp +zetaDelta only; split)

theorem issueAudit_kept {mask : List Part} {s0 s : State} (crystal : Nat) (hk : Kept mask s0 s)
    (hsub : [.kiln] ⊆ mask) : Kept mask s0 (issueAudit crystal s) := by
  unfold issueAudit
  try extract_lets -underBinder
  repeat' first
   | with_reducible assumption
   | exact sub_trans rfl hsub
   | intro _
   | with_reducible apply kept_ite
   | with_reducible apply issueEntries_kept
   | split
   | extract_lets -underBinder
   | (dsimp +zetaDelta only; split)

theorem addEntry_kept {mask : List Part} {s0 s : State} (f : AuditEntry → AuditEntry) (time : Nat) (hk : Kept mask s0 s)
    (hsub : [.kiln] ⊆ mask) : Kept mask s0 (addEntry f time s) := by
  unfold addEntry
  try extract_lets -underBinder
  repeat' first
   | with_reducible assumption
   | exact sub_trans rfl hsub
   | intro _
   | with_reducible apply kept_ite
   | with_reducible apply modKiln_kept
   | split
   | extract_lets -underBinder
   | (dsimp +zetaDelta only; split)

theorem kilnGen_kept {mask : List Part} {s0 s : State} (hk : Kept mask s0 s)
    (hsub : [.kiln] ⊆ mask) : Kept mask s0 (kilnGen s) := by
  unfold kilnGen
  try extract_lets -underBinder
  repeat' first
   | with_reducible assumption
   | exact sub_trans rfl hsub
   | intro _
   | with_reducible apply kept_ite
   | with_reducible apply modKiln_kept
   | split
   | extract_lets -underBinder
   | (dsimp +zetaDelta only; split)

theorem sealOpened_kept {mask : List Part} {s0 s : State} (latched : Bool) (time : Nat) (crystal : Nat) (hk : Kept mask s0 s)
    (hsub : [.free, .dict, .ev, .ports, .kiln, .opLog] ⊆ mask) : Kept mask s0 (sealOpened latched time crystal s) := by
  unfold sealOpened
  try extract_lets -underBinder
  repeat' first
   | with_reducible assumption
   | exact sub_trans rfl hsub
   | intro _
   | with_reducible apply kept_ite
   | with_reducible apply kilnGen_kept
   | with_reducible apply modKiln_kept
   | with_reducible apply addEntry_kept
   | with_reducible apply issueAudit_kept
   | with_reducible apply kilnEvent_kept
   | with_reducible apply kept_id
   | split
   | extract_lets -underBinder
   | (dsimp +zetaDelta only; split)

theorem refuseCommit_kept {mask : List Part} {s0 s : State} (reason : Nat) (hk : Kept mask s0 s)
    (hsub : [.free, .dict, .ev, .ports, .kiln, .opLog] ⊆ mask) : Kept mask s0 (refuseCommit reason s) := by
  unfold refuseCommit
  try extract_lets -underBinder
  repeat' first
   | with_reducible assumption
   | exact sub_trans rfl hsub
   | intro _
   | with_reducible apply kept_ite
   | with_reducible apply kilnGen_kept
   | with_reducible apply modKiln_kept
   | with_reducible apply kilnEvent_kept
   | with_reducible apply kept_id
   | split
   | extract_lets -underBinder
   | (dsimp +zetaDelta only; split)

theorem runCommit_kept {mask : List Part} {s0 s : State} (crystal : Nat) (hk : Kept mask s0 s)
    (hsub : [.free, .dict, .ev, .ports, .kiln, .opLog] ⊆ mask) : Kept mask s0 (runCommit crystal s) := by
  unfold runCommit
  try extract_lets -underBinder
  repeat' first
   | with_reducible assumption
   | exact sub_trans rfl hsub
   | intro _
   | with_reducible apply kept_ite
   | with_reducible apply kept_foldl
   | with_reducible apply kilnGen_kept
   | with_reducible apply modKiln_kept
   | with_reducible apply addEntry_kept
   | with_reducible apply kilnEvent_kept
   | with_reducible apply issueAudit_kept
   | with_reducible apply kept_id
   | split
   | extract_lets -underBinder
   | (dsimp +zetaDelta only; split)

theorem sealCommit_kept {mask : List Part} {s0 s : State} (interrupted : Bool) (crystal : Nat) (hk : Kept mask s0 s)
    (hsub : [.free, .dict, .ev, .ports, .kiln, .opLog] ⊆ mask) : Kept mask s0 (sealCommit interrupted crystal s) := by
  unfold sealCommit
  try extract_lets -underBinder
  repeat' first
   | with_reducible assumption
   | exact sub_trans rfl hsub
   | intro _
   | with_reducible apply kept_ite
   | with_reducible apply refuseCommit_kept
   | with_reducible apply modKiln_kept
   | with_reducible apply runCommit_kept
   | split
   | extract_lets -underBinder
   | (dsimp +zetaDelta only; split)

theorem execSealOpen_kept (crystal : DWord) (s : State) :
    ∃ t, execSealOpen crystal s = .next t ∧ Kept [.free, .dict, .ev, .ports, .kiln, .opLog] s t := by
  unfold execSealOpen
  refine ⟨_, rfl, ?_⟩
  have hk := Kept.refl [.free, .dict, .ev, .ports, .kiln, .opLog] s
  have hsub : ([.free, .dict, .ev, .ports, .kiln, .opLog] : List Part) ⊆ [.free, .dict, .ev, .ports, .kiln, .opLog] := fun _ y => y
  try extract_lets -underBinder
  repeat' first
   | with_reducible assumption
   | exact sub_trans rfl hsub
   | intro _
   | with_reducible apply kept_ite
   | with_reducible apply modKiln_kept
   | with_reducible apply sealOpened_kept
   | split
   | extract_lets -underBinder
   | (dsimp +zetaDelta only; split)

theorem execSealClosed_kept (crystal : DWord) (interrupted : Bool) (s : State) :
    ∃ t, execSealClosed crystal interrupted s = .next t ∧ Kept [.free, .dict, .ev, .ports, .kiln, .opLog] s t := by
  unfold execSealClosed
  refine ⟨_, rfl, ?_⟩
  have hk := Kept.refl [.free, .dict, .ev, .ports, .kiln, .opLog] s
  have hsub : ([.free, .dict, .ev, .ports, .kiln, .opLog] : List Part) ⊆ [.free, .dict, .ev, .ports, .kiln, .opLog] := fun _ y => y
  try extract_lets -underBinder
  repeat' first
   | with_reducible assumption
   | exact sub_trans rfl hsub
   | intro _
   | with_reducible apply kept_ite
   | with_reducible apply modKiln_kept
   | with_reducible apply sealCommit_kept
   | split
   | extract_lets -underBinder
   | (dsimp +zetaDelta only; split)

theorem rollBackCommit_kept {mask : List Part} {s0 s : State} (now : Nat) (hk : Kept mask s0 s)
    (hsub : [.kiln] ⊆ mask) : Kept mask s0 (rollBackCommit now s) := by
  unfold rollBackCommit
  try extract_lets -underBinder
  repeat' first
   | with_reducible assumption
   | exact sub_trans rfl hsub
   | intro _
   | with_reducible apply kept_ite
   | with_reducible apply modKiln_kept
   | with_reducible apply addEntry_kept
   | with_reducible apply kept_id
   | split
   | extract_lets -underBinder
   | (dsimp +zetaDelta only; split)

theorem findClock_kept {mask : List Part} {s0 s : State} (now : Nat) (hk : Kept mask s0 s)
    (hsub : [.kiln] ⊆ mask) : Kept mask s0 (findClock now s) := by
  unfold findClock
  try extract_lets -underBinder
  repeat' first
   | with_reducible assumption
   | exact sub_trans rfl hsub
   | intro _
   | with_reducible apply kept_ite
   | with_reducible apply modKiln_kept
   | with_reducible apply addEntry_kept
   | with_reducible apply kept_id
   | split
   | extract_lets -underBinder
   | (dsimp +zetaDelta only; split)

theorem kilnWakes_kept {mask : List Part} {s0 s : State} (clockLost : Bool) (crystal : Nat) (hk : Kept mask s0 s)
    (hsub : [.free, .dict, .ev, .ports, .kiln, .opLog] ⊆ mask) : Kept mask s0 (kilnWakes clockLost crystal s) := by
  unfold kilnWakes
  try extract_lets -underBinder
  repeat' first
   | with_reducible assumption
   | exact sub_trans rfl hsub
   | intro _
   | with_reducible apply kept_ite
   | with_reducible apply modKiln_kept
   | with_reducible apply toMain_kept
   | with_reducible apply kilnGen_kept
   | with_reducible apply rollBackCommit_kept
   | with_reducible apply findClock_kept
   | with_reducible apply issueAudit_kept
   | with_reducible apply sealOpened_kept
   | with_reducible apply kept_id
   | split
   | extract_lets -underBinder
   | (dsimp +zetaDelta only; split)

theorem execKilnPowerOn_kept (enabled : Bool) (clockLost : Bool) (crystal : DWord) (s : State) :
    ∃ t, execKilnPowerOn enabled clockLost crystal s = .next t ∧ Kept [.free, .dict, .ev, .ports, .kiln, .opLog] s t := by
  unfold execKilnPowerOn
  refine ⟨_, rfl, ?_⟩
  have hk := Kept.refl [.free, .dict, .ev, .ports, .kiln, .opLog] s
  have hsub : ([.free, .dict, .ev, .ports, .kiln, .opLog] : List Part) ⊆ [.free, .dict, .ev, .ports, .kiln, .opLog] := fun _ y => y
  try extract_lets -underBinder
  repeat' first
   | with_reducible assumption
   | exact sub_trans rfl hsub
   | intro _
   | with_reducible apply kept_ite
   | with_reducible apply modKiln_kept
   | with_reducible apply kilnWakes_kept
   | split
   | extract_lets -underBinder
   | (dsimp +zetaDelta only; split)

theorem execVbatLow_kept (s : State) :
    ∃ t, execVbatLow s = .next t ∧ Kept [.kiln] s t := by
  unfold execVbatLow
  refine ⟨_, rfl, ?_⟩
  have hk := Kept.refl [.kiln] s
  have hsub : ([.kiln] : List Part) ⊆ [.kiln] := fun _ y => y
  try extract_lets -underBinder
  repeat' first
   | with_reducible assumption
   | exact sub_trans rfl hsub
   | intro _
   | with_reducible apply kept_ite
   | with_reducible apply modKiln_kept
   | split
   | extract_lets -underBinder
   | (dsimp +zetaDelta only; split)

theorem kilnReceives_kept {mask : List Part} {s0 s : State} (p : BridgeMsg → Bool) (withdrawn : Bool) (f : BridgeMsg → State → State) (hk : Kept mask s0 s)
    (hsub : [.dict, .kiln] ⊆ mask) (hff : ∀ a0 t, Kept mask s0 t → Kept mask s0 (f a0 t)) : Kept mask s0 (kilnReceives p withdrawn f s) := by
  unfold kilnReceives
  try extract_lets -underBinder
  repeat' first
   | with_reducible assumption
   | exact sub_trans rfl hsub
   | intro _
   | with_reducible apply kept_ite
   | with_reducible apply hff
   | with_reducible apply bump_kept
   | with_reducible apply modKiln_kept
   | with_reducible apply kept_id
   | split
   | extract_lets -underBinder
   | (dsimp +zetaDelta only; split)

theorem meterTaken_kept {mask : List Part} {s0 s : State} (source : Nat) (sourceId : Nat) (tag : Nat) (hk : Kept mask s0 s)
    (hsub : [.ports, .doms] ⊆ mask) : Kept mask s0 (meterTaken source sourceId tag s) := by
  unfold meterTaken
  try extract_lets -underBinder
  repeat' first
   | with_reducible assumption
   | exact sub_trans rfl hsub
   | intro _
   | with_reducible apply kept_ite
   | with_reducible apply returnUnits_kept
   | with_reducible apply modSlot_kept
   | with_reducible apply kept_id
   | split
   | extract_lets -underBinder
   | (dsimp +zetaDelta only; split)

theorem takeSubmit_kept {mask : List Part} {s0 s : State} (crystal : Nat) (m : BridgeMsg) (hk : Kept mask s0 s)
    (hsub : [.ports, .doms, .kiln] ⊆ mask) : Kept mask s0 (takeSubmit crystal m s) := by
  unfold takeSubmit
  try extract_lets -underBinder
  repeat' first
   | with_reducible assumption
   | exact sub_trans rfl hsub
   | intro _
   | with_reducible apply kept_ite
   | with_reducible apply meterTaken_kept
   | with_reducible apply toMain_kept
   | with_reducible apply modKiln_kept
   | with_reducible apply storeRecord_kept
   | with_reducible apply kept_id
   | split
   | extract_lets -underBinder
   | (dsimp +zetaDelta only; split)

theorem execSubmit_kept (crystal : DWord) (withdrawn : Bool) (s : State) :
    ∃ t, execSubmit crystal withdrawn s = .next t ∧ Kept [.dict, .ports, .doms, .kiln] s t := by
  unfold execSubmit
  refine ⟨_, rfl, ?_⟩
  have hk := Kept.refl [.dict, .ports, .doms, .kiln] s
  have hsub : ([.dict, .ports, .doms, .kiln] : List Part) ⊆ [.dict, .ports, .doms, .kiln] := fun _ y => y
  try extract_lets -underBinder
  repeat' first
   | with_reducible assumption
   | exact sub_trans rfl hsub
   | intro _
   | with_reducible apply kept_ite
   | with_reducible apply kilnReceives_kept
   | with_reducible apply takeSubmit_kept
   | split
   | extract_lets -underBinder
   | (dsimp +zetaDelta only; split)

theorem execConfirm_kept (crystal : DWord) (withdrawn : Bool) (s : State) :
    ∃ t, execConfirm crystal withdrawn s = .next t ∧ Kept [.dict, .kiln] s t := by
  unfold execConfirm
  refine ⟨_, rfl, ?_⟩
  have hk := Kept.refl [.dict, .kiln] s
  have hsub : ([.dict, .kiln] : List Part) ⊆ [.dict, .kiln] := fun _ y => y
  try extract_lets -underBinder
  repeat' first
   | with_reducible assumption
   | exact sub_trans rfl hsub
   | intro _
   | with_reducible apply kept_ite
   | with_reducible apply kilnReceives_kept
   | with_reducible apply issueAudit_kept
   | with_reducible apply modKiln_kept
   | split
   | extract_lets -underBinder
   | (dsimp +zetaDelta only; split)

theorem execRequestCopy_kept (withdrawn : Bool) (s : State) :
    ∃ t, execRequestCopy withdrawn s = .next t ∧ Kept [.dict, .kiln] s t := by
  unfold execRequestCopy
  refine ⟨_, rfl, ?_⟩
  have hk := Kept.refl [.dict, .kiln] s
  have hsub : ([.dict, .kiln] : List Part) ⊆ [.dict, .kiln] := fun _ y => y
  try extract_lets -underBinder
  repeat' first
   | with_reducible assumption
   | exact sub_trans rfl hsub
   | intro _
   | with_reducible apply kept_ite
   | with_reducible apply kept_foldl
   | with_reducible apply kilnReceives_kept
   | with_reducible apply toMain_kept
   | split
   | extract_lets -underBinder
   | (dsimp +zetaDelta only; split)

theorem execStage_kept (withdrawn : Bool) (s : State) :
    ∃ t, execStage withdrawn s = .next t ∧ Kept [.dict, .kiln] s t := by
  unfold execStage
  refine ⟨_, rfl, ?_⟩
  have hk := Kept.refl [.dict, .kiln] s
  have hsub : ([.dict, .kiln] : List Part) ⊆ [.dict, .kiln] := fun _ y => y
  try extract_lets -underBinder
  repeat' first
   | with_reducible assumption
   | exact sub_trans rfl hsub
   | intro _
   | with_reducible apply kept_ite
   | with_reducible apply kept_foldl
   | with_reducible apply kilnReceives_kept
   | with_reducible apply modKiln_kept
   | with_reducible apply toMain_kept
   | split
   | extract_lets -underBinder
   | (dsimp +zetaDelta only; split)

theorem mainReceives_kept {mask : List Part} {s0 s : State} (p : BridgeMsg → Bool) (f : BridgeMsg → State → State) (hk : Kept mask s0 s)
    (hsub : [.kiln] ⊆ mask) (hff : ∀ a0 t, Kept mask s0 t → Kept mask s0 (f a0 t)) : Kept mask s0 (mainReceives p f s) := by
  unfold mainReceives
  try extract_lets -underBinder
  repeat' first
   | with_reducible assumption
   | exact sub_trans rfl hsub
   | intro _
   | with_reducible apply kept_ite
   | with_reducible apply hff
   | with_reducible apply modKiln_kept
   | with_reducible apply toMain_kept
   | with_reducible apply kept_id
   | split
   | extract_lets -underBinder
   | (dsimp +zetaDelta only; split)

theorem finishMeter_kept {mask : List Part} {s0 s : State} (d : Dom) (tag : Nat) (seq : Option Nat) (detail : Nat) (hk : Kept mask s0 s)
    (hsub : [.free, .dict, .ev, .ports, .doms, .sched, .opLog, .energy] ⊆ mask) : Kept mask s0 (finishMeter d tag seq detail s) := by
  unfold finishMeter
  try extract_lets -underBinder
  repeat' first
   | with_reducible assumption
   | exact sub_trans rfl hsub
   | intro _
   | with_reducible apply kept_ite
   | with_reducible apply completeSlot_kept
   | split
   | extract_lets -underBinder
   | (dsimp +zetaDelta only; split)

theorem finishStage_kept {mask : List Part} {s0 s : State} (w : Writer) (sub : Nat) (code : Nat) (hk : Kept mask s0 s)
    (hsub : [.dict, .ports, .ecat] ⊆ mask) : Kept mask s0 (finishStage w sub code s) := by
  unfold finishStage
  try extract_lets -underBinder
  repeat' first
   | with_reducible assumption
   | exact sub_trans rfl hsub
   | intro _
   | with_reducible apply kept_ite
   | with_reducible apply answer_kept
   | with_reducible apply refuse_kept
   | with_reducible apply closeTransfer_kept
   | split
   | extract_lets -underBinder
   | (dsimp +zetaDelta only; split)

theorem execResult_kept (s : State) :
    ∃ t, execResult s = .next t ∧ Kept [.free, .dict, .ev, .ports, .doms, .ecat, .kiln, .sched, .opLog, .energy] s t := by
  unfold execResult
  refine ⟨_, rfl, ?_⟩
  have hk := Kept.refl [.free, .dict, .ev, .ports, .doms, .ecat, .kiln, .sched, .opLog, .energy] s
  have hsub : ([.free, .dict, .ev, .ports, .doms, .ecat, .kiln, .sched, .opLog, .energy] : List Part) ⊆ [.free, .dict, .ev, .ports, .doms, .ecat, .kiln, .sched, .opLog, .energy] := fun _ y => y
  try extract_lets -underBinder
  repeat' first
   | with_reducible assumption
   | exact sub_trans rfl hsub
   | intro _
   | with_reducible apply kept_ite
   | with_reducible apply mainReceives_kept
   | with_reducible apply finishMeter_kept
   | with_reducible apply finishStage_kept
   | split
   | extract_lets -underBinder
   | (dsimp +zetaDelta only; split)

theorem execRecordCopy_kept (s : State) :
    ∃ t, execRecordCopy s = .next t ∧ Kept [.kiln, .sched] s t := by
  unfold execRecordCopy
  refine ⟨_, rfl, ?_⟩
  have hk := Kept.refl [.kiln, .sched] s
  have hsub : ([.kiln, .sched] : List Part) ⊆ [.kiln, .sched] := fun _ y => y
  try extract_lets -underBinder
  repeat' first
   | with_reducible assumption
   | exact sub_trans rfl hsub
   | intro _
   | with_reducible apply kept_ite
   | with_reducible apply mainReceives_kept
   | with_reducible apply modKiln_kept
   | exact Or.inl (mem_of rfl hsub)
   | with_reducible exact Or.inr rfl
   | split
   | extract_lets -underBinder
   | (dsimp +zetaDelta only; split)
   | with_reducible apply kept_mk

theorem takeReport_kept {mask : List Part} {s0 s : State} (crystal : Nat) (hk : Kept mask s0 s)
    (hsub : [.dict, .kiln] ⊆ mask) : Kept mask s0 (takeReport crystal s) := by
  unfold takeReport
  try extract_lets -underBinder
  repeat' first
   | with_reducible assumption
   | exact sub_trans rfl hsub
   | intro _
   | with_reducible apply kept_ite
   | with_reducible apply setObj_kept
   | with_reducible apply modKiln_kept
   | with_reducible apply kept_id
   | split
   | extract_lets -underBinder
   | (dsimp +zetaDelta only; split)

theorem postNews_kept {mask : List Part} {s0 s : State} (hk : Kept mask s0 s)
    (hsub : [.free, .dict, .ev, .ports, .kiln, .opLog] ⊆ mask) : Kept mask s0 (postNews s) := by
  unfold postNews
  try extract_lets -underBinder
  repeat' first
   | with_reducible assumption
   | exact sub_trans rfl hsub
   | intro _
   | with_reducible apply kept_ite
   | with_reducible apply kept_foldl
   | with_reducible apply postEvent_kept
   | with_reducible apply modKiln_kept
   | split
   | extract_lets -underBinder
   | (dsimp +zetaDelta only; split)

theorem askMissing_kept {mask : List Part} {s0 s : State} (hk : Kept mask s0 s)
    (hsub : [.kiln] ⊆ mask) : Kept mask s0 (askMissing s) := by
  unfold askMissing
  try extract_lets -underBinder
  repeat' first
   | with_reducible assumption
   | exact sub_trans rfl hsub
   | intro _
   | with_reducible apply kept_ite
   | with_reducible apply kept_foldl
   | with_reducible apply modKiln_kept
   | split
   | extract_lets -underBinder
   | (dsimp +zetaDelta only; split)

theorem execStateReport_kept (crystal : DWord) (s : State) :
    ∃ t, execStateReport crystal s = .next t ∧ Kept [.free, .dict, .ev, .ports, .kiln, .opLog] s t := by
  unfold execStateReport
  refine ⟨_, rfl, ?_⟩
  have hk := Kept.refl [.free, .dict, .ev, .ports, .kiln, .opLog] s
  have hsub : ([.free, .dict, .ev, .ports, .kiln, .opLog] : List Part) ⊆ [.free, .dict, .ev, .ports, .kiln, .opLog] := fun _ y => y
  try extract_lets -underBinder
  repeat' first
   | with_reducible assumption
   | exact sub_trans rfl hsub
   | intro _
   | with_reducible apply kept_ite
   | with_reducible apply takeReport_kept
   | with_reducible apply postNews_kept
   | with_reducible apply askMissing_kept
   | with_reducible apply kept_id
   | split
   | extract_lets -underBinder
   | (dsimp +zetaDelta only; split)

theorem withdrawMsg_kept {mask : List Part} {s0 s : State} (m : BridgeMsg) (hk : Kept mask s0 s)
    (hsub : [.free, .dict, .ev, .ports, .doms, .ecat, .sched, .opLog, .energy] ⊆ mask) : Kept mask s0 (withdrawMsg m s) := by
  unfold withdrawMsg
  try extract_lets -underBinder
  repeat' first
   | with_reducible assumption
   | exact sub_trans rfl hsub
   | intro _
   | with_reducible apply kept_ite
   | with_reducible apply finishMeter_kept
   | with_reducible apply finishStage_kept
   | split
   | extract_lets -underBinder
   | (dsimp +zetaDelta only; split)

theorem execKilnNotResponding_kept (s : State) :
    ∃ t, execKilnNotResponding s = .next t ∧ Kept [.free, .dict, .ev, .ports, .doms, .ecat, .kiln, .sched, .opLog, .energy] s t := by
  unfold execKilnNotResponding
  refine ⟨_, rfl, ?_⟩
  have hk := Kept.refl [.free, .dict, .ev, .ports, .doms, .ecat, .kiln, .sched, .opLog, .energy] s
  have hsub : ([.free, .dict, .ev, .ports, .doms, .ecat, .kiln, .sched, .opLog, .energy] : List Part) ⊆ [.free, .dict, .ev, .ports, .doms, .ecat, .kiln, .sched, .opLog, .energy] := fun _ y => y
  try extract_lets -underBinder
  repeat' first
   | with_reducible assumption
   | exact sub_trans rfl hsub
   | intro _
   | with_reducible apply kept_ite
   | with_reducible apply kept_foldl
   | with_reducible apply live_kept
   | with_reducible apply modKiln_kept
   | with_reducible apply setObj_kept
   | with_reducible apply postEvent_kept
   | with_reducible apply withdrawMsg_kept
   | with_reducible apply kept_id
   | split
   | extract_lets -underBinder
   | (dsimp +zetaDelta only; split)

theorem execKilnCutAgeExpiry_kept (s : State) :
    ∃ t, execKilnCutAgeExpiry s = .next t ∧ Kept [.kiln] s t := by
  unfold execKilnCutAgeExpiry
  refine ⟨_, rfl, ?_⟩
  have hk := Kept.refl [.kiln] s
  have hsub : ([.kiln] : List Part) ⊆ [.kiln] := fun _ y => y
  try extract_lets -underBinder
  repeat' first
   | with_reducible assumption
   | exact sub_trans rfl hsub
   | intro _
   | with_reducible apply kept_ite
   | with_reducible apply live_kept
   | with_reducible apply modKiln_kept
   | split
   | extract_lets -underBinder
   | (dsimp +zetaDelta only; split)

end Sys2Proof.Machine
end

