-- ==== Sys2Proof/Laws/KeptEcat.lean ====
section
/-!
SUPPORT. What the operations of Machine/Ecat.lean may touch, and that they keep the canonical forms.
-/
set_option linter.unusedTactic false
set_option linter.unreachableTactic false
set_option linter.unusedVariables false

namespace Sys2Proof.Machine

theorem modEcat_kept {mask : List Part} {s0 s : State} (f : Ecat → Ecat) (hk : Kept mask s0 s)
    (hsub : [.ecat] ⊆ mask) : Kept mask s0 (modEcat f s) := by
  unfold modEcat
  try extract_lets -underBinder
  repeat' first
   | with_reducible assumption
   | exact sub_trans rfl hsub
   | intro _
   | with_reducible apply kept_ite
   | exact Or.inl (mem_of rfl hsub)
   | with_reducible exact Or.inr rfl
   | split
   | extract_lets -underBinder
   | (dsimp +zetaDelta only; split)
   | with_reducible apply kept_mk

theorem latchInput_kept {mask : List Part} {s0 s : State} (n : Fin 8) (v : Nat) (hk : Kept mask s0 s)
    (hsub : [.kiln] ⊆ mask) : Kept mask s0 (latchInput n v s) := by
  unfold latchInput
  try extract_lets -underBinder
  repeat' first
   | with_reducible assumption
   | exact sub_trans rfl hsub
   | intro _
   | with_reducible apply kept_ite
   | with_reducible apply modKiln_kept
   | split
   | extract_lets -underBinder
   | (dsimp +zetaDelta only; split)

theorem takeOutput_kept {mask : List Part} {s0 s : State} (e : Nat × Nat × Nat) (hk : Kept mask s0 s)
    (hsub : [.free, .dict, .ev, .ports, .doms, .ring, .dram, .boot, .ecat, .test, .comp, .cart, .xport, .power, .kiln, .recov, .sched, .jour, .opLog, .energy, .pins] ⊆ mask) : Kept mask s0 (takeOutput e s) := by
  unfold takeOutput
  try extract_lets -underBinder
  repeat' first
   | with_reducible assumption
   | exact sub_trans rfl hsub
   | intro _
   | with_reducible apply kept_ite
   | with_reducible apply refuse_kept
   | with_reducible apply latchInput_kept
   | with_reducible apply writeValue_kept
   | split
   | extract_lets -underBinder
   | (dsimp +zetaDelta only; split)

theorem applyOutputs_kept {mask : List Part} {s0 s : State} (image : List Byte) (hk : Kept mask s0 s)
    (hsub : [.free, .dict, .ev, .ports, .doms, .ring, .dram, .boot, .ecat, .test, .comp, .cart, .xport, .power, .kiln, .recov, .sched, .jour, .opLog, .energy, .pins] ⊆ mask) : Kept mask s0 (applyOutputs image s) := by
  unfold applyOutputs
  try extract_lets -underBinder
  repeat' first
   | with_reducible assumption
   | exact sub_trans rfl hsub
   | intro _
   | with_reducible apply kept_ite
   | with_reducible apply kept_foldl
   | with_reducible apply takeOutput_kept
   | split
   | extract_lets -underBinder
   | (dsimp +zetaDelta only; split)

theorem enterAl_kept {mask : List Part} {s0 s : State} (a : AlState) (hk : Kept mask s0 s)
    (hsub : [.dict, .ecat] ⊆ mask) : Kept mask s0 (enterAl a s) := by
  unfold enterAl
  try extract_lets -underBinder
  repeat' first
   | with_reducible assumption
   | exact sub_trans rfl hsub
   | intro _
   | with_reducible apply kept_ite
   | with_reducible apply setObj_kept
   | with_reducible apply modEcat_kept
   | with_reducible apply kept_id
   | split
   | extract_lets -underBinder
   | (dsimp +zetaDelta only; split)

theorem alError_kept {mask : List Part} {s0 s : State} (code : Nat) (hk : Kept mask s0 s)
    (hsub : [.dict, .ecat] ⊆ mask) : Kept mask s0 (alError code s) := by
  unfold alError
  try extract_lets -underBinder
  repeat' first
   | with_reducible assumption
   | exact sub_trans rfl hsub
   | intro _
   | with_reducible apply kept_ite
   | with_reducible apply setObj_kept
   | with_reducible apply modEcat_kept
   | with_reducible apply kept_id
   | split
   | extract_lets -underBinder
   | (dsimp +zetaDelta only; split)

theorem leaveOp_kept {mask : List Part} {s0 s : State} (hk : Kept mask s0 s)
    (hsub : [.free, .dict, .ev, .ports, .opLog, .pins] ⊆ mask) : Kept mask s0 (leaveOp s) := by
  unfold leaveOp
  try extract_lets -underBinder
  repeat' first
   | with_reducible assumption
   | exact sub_trans rfl hsub
   | intro _
   | with_reducible apply kept_ite
   | with_reducible apply filterLines_kept
   | with_reducible apply setObj_kept
   | split
   | extract_lets -underBinder
   | (dsimp +zetaDelta only; split)

theorem dropFoe_kept {mask : List Part} {s0 s : State} (hk : Kept mask s0 s)
    (hsub : [.boot] ⊆ mask) : Kept mask s0 (dropFoe s) := by
  unfold dropFoe
  try extract_lets -underBinder
  repeat' first
   | with_reducible assumption
   | exact sub_trans rfl hsub
   | intro _
   | with_reducible apply kept_ite
   | with_reducible apply dropDownload_kept
   | split
   | extract_lets -underBinder
   | (dsimp +zetaDelta only; split)

theorem dropEmergencies_kept {mask : List Part} {s0 s : State} (hk : Kept mask s0 s)
    (hsub : [.ev] ⊆ mask) : Kept mask s0 (dropEmergencies s) := by
  refine kept_ev hk (mem_of rfl hsub) (fun w => ?_)
  simp only [EventState.wf, Bool.and_eq_true, decide_eq_true_eq] at w ⊢
  exact ⟨w.1, Nat.zero_le _⟩

theorem execMasterRequestsInit_kept (s : State) :
    ∃ t, execMasterRequestsInit s = .next t ∧ Kept [.free, .dict, .ev, .ports, .boot, .ecat, .opLog, .pins] s t := by
  unfold execMasterRequestsInit
  refine ⟨_, rfl, ?_⟩
  have hk := Kept.refl [.free, .dict, .ev, .ports, .boot, .ecat, .opLog, .pins] s
  have hsub : ([.free, .dict, .ev, .ports, .boot, .ecat, .opLog, .pins] : List Part) ⊆ [.free, .dict, .ev, .ports, .boot, .ecat, .opLog, .pins] := fun _ y => y
  try extract_lets -underBinder
  repeat' first
   | with_reducible assumption
   | exact sub_trans rfl hsub
   | intro _
   | with_reducible apply kept_ite
   | with_reducible apply live_kept
   | with_reducible apply leaveOp_kept
   | with_reducible apply dropFoe_kept
   | with_reducible apply modEcat_kept
   | with_reducible apply dropEmergencies_kept
   | with_reducible apply enterAl_kept
   | with_reducible apply kept_id
   | split
   | extract_lets -underBinder
   | (dsimp +zetaDelta only; split)

theorem execMasterRequestsPreop_kept (s : State) :
    ∃ t, execMasterRequestsPreop s = .next t ∧ Kept [.free, .dict, .ev, .ports, .ecat, .opLog, .pins] s t := by
  unfold execMasterRequestsPreop
  refine ⟨_, rfl, ?_⟩
  have hk := Kept.refl [.free, .dict, .ev, .ports, .ecat, .opLog, .pins] s
  have hsub : ([.free, .dict, .ev, .ports, .ecat, .opLog, .pins] : List Part) ⊆ [.free, .dict, .ev, .ports, .ecat, .opLog, .pins] := fun _ y => y
  try extract_lets -underBinder
  repeat' first
   | with_reducible assumption
   | exact sub_trans rfl hsub
   | intro _
   | with_reducible apply kept_ite
   | with_reducible apply live_kept
   | with_reducible apply alError_kept
   | with_reducible apply leaveOp_kept
   | with_reducible apply modEcat_kept
   | with_reducible apply enterAl_kept
   | with_reducible apply kept_id
   | split
   | extract_lets -underBinder
   | (dsimp +zetaDelta only; split)

theorem requestSafeop_kept {mask : List Part} {s0 s : State} (hk : Kept mask s0 s)
    (hsub : [.free, .dict, .ev, .ports, .ecat, .opLog, .pins] ⊆ mask) : Kept mask s0 (requestSafeop s) := by
  unfold requestSafeop
  try extract_lets -underBinder
  repeat' first
   | with_reducible assumption
   | exact sub_trans rfl hsub
   | intro _
   | with_reducible apply kept_ite
   | with_reducible apply alError_kept
   | with_reducible apply modEcat_kept
   | with_reducible apply enterAl_kept
   | with_reducible apply leaveOp_kept
   | with_reducible apply kept_id
   | split
   | extract_lets -underBinder
   | (dsimp +zetaDelta only; split)

theorem execMasterRequestsSafeop_kept (x : SlaveSettings) (s : State) :
    ∃ t, execMasterRequestsSafeop x s = .next t ∧ Kept [.free, .dict, .ev, .ports, .ecat, .opLog, .pins] s t := by
  unfold execMasterRequestsSafeop
  refine ⟨_, rfl, ?_⟩
  have hk := Kept.refl [.free, .dict, .ev, .ports, .ecat, .opLog, .pins] s
  have hsub : ([.free, .dict, .ev, .ports, .ecat, .opLog, .pins] : List Part) ⊆ [.free, .dict, .ev, .ports, .ecat, .opLog, .pins] := fun _ y => y
  try extract_lets -underBinder
  repeat' first
   | with_reducible assumption
   | exact sub_trans rfl hsub
   | intro _
   | with_reducible apply kept_ite
   | with_reducible apply live_kept
   | with_reducible apply modEcat_kept
   | with_reducible apply requestSafeop_kept
   | with_reducible apply kept_id
   | split
   | extract_lets -underBinder
   | (dsimp +zetaDelta only; split)

theorem execMasterRequestsOp_kept (s : State) :
    ∃ t, execMasterRequestsOp s = .next t ∧ Kept [.free, .dict, .ev, .ports, .doms, .ring, .dram, .boot, .ecat, .test, .comp, .cart, .xport, .power, .kiln, .recov, .sched, .jour, .opLog, .energy, .pins] s t := by
  unfold execMasterRequestsOp
  refine ⟨_, rfl, ?_⟩
  have hk := Kept.refl [.free, .dict, .ev, .ports, .doms, .ring, .dram, .boot, .ecat, .test, .comp, .cart, .xport, .power, .kiln, .recov, .sched, .jour, .opLog, .energy, .pins] s
  have hsub : ([.free, .dict, .ev, .ports, .doms, .ring, .dram, .boot, .ecat, .test, .comp, .cart, .xport, .power, .kiln, .recov, .sched, .jour, .opLog, .energy, .pins] : List Part) ⊆ [.free, .dict, .ev, .ports, .doms, .ring, .dram, .boot, .ecat, .test, .comp, .cart, .xport, .power, .kiln, .recov, .sched, .jour, .opLog, .energy, .pins] := fun _ y => y
  try extract_lets -underBinder
  repeat' first
   | with_reducible assumption
   | exact sub_trans rfl hsub
   | intro _
   | with_reducible apply kept_ite
   | with_reducible apply live_kept
   | with_reducible apply enterAl_kept
   | with_reducible apply applyOutputs_kept
   | with_reducible apply alError_kept
   | with_reducible apply kept_id
   | split
   | extract_lets -underBinder
   | (dsimp +zetaDelta only; split)

theorem execMasterRequestsBoot_kept (s : State) :
    ∃ t, execMasterRequestsBoot s = .next t ∧ Kept [.dict, .ecat] s t := by
  unfold execMasterRequestsBoot
  refine ⟨_, rfl, ?_⟩
  have hk := Kept.refl [.dict, .ecat] s
  have hsub : ([.dict, .ecat] : List Part) ⊆ [.dict, .ecat] := fun _ y => y
  try extract_lets -underBinder
  repeat' first
   | with_reducible assumption
   | exact sub_trans rfl hsub
   | intro _
   | with_reducible apply kept_ite
   | with_reducible apply live_kept
   | with_reducible apply enterAl_kept
   | with_reducible apply alError_kept
   | split
   | extract_lets -underBinder
   | (dsimp +zetaDelta only; split)

theorem execSm2WatchdogExpiry_kept (s : State) :
    ∃ t, execSm2WatchdogExpiry s = .next t ∧ Kept [.free, .dict, .ev, .ports, .ecat, .opLog, .pins] s t := by
  unfold execSm2WatchdogExpiry
  refine ⟨_, rfl, ?_⟩
  have hk := Kept.refl [.free, .dict, .ev, .ports, .ecat, .opLog, .pins] s
  have hsub : ([.free, .dict, .ev, .ports, .ecat, .opLog, .pins] : List Part) ⊆ [.free, .dict, .ev, .ports, .ecat, .opLog, .pins] := fun _ y => y
  try extract_lets -underBinder
  repeat' first
   | with_reducible assumption
   | exact sub_trans rfl hsub
   | intro _
   | with_reducible apply kept_ite
   | with_reducible apply live_kept
   | with_reducible apply leaveOp_kept
   | with_reducible apply modEcat_kept
   | with_reducible apply enterAl_kept
   | with_reducible apply alError_kept
   | with_reducible apply kept_id
   | split
   | extract_lets -underBinder
   | (dsimp +zetaDelta only; split)

theorem execNewOutputBuffer_kept (image : List Byte) (s : State) :
    ∃ t, execNewOutputBuffer image s = .next t ∧ Kept [.free, .dict, .ev, .ports, .doms, .ring, .dram, .boot, .ecat, .test, .comp, .cart, .xport, .power, .kiln, .recov, .sched, .jour, .opLog, .energy, .pins] s t := by
  unfold execNewOutputBuffer
  refine ⟨_, rfl, ?_⟩
  have hk := Kept.refl [.free, .dict, .ev, .ports, .doms, .ring, .dram, .boot, .ecat, .test, .comp, .cart, .xport, .power, .kiln, .recov, .sched, .jour, .opLog, .energy, .pins] s
  have hsub : ([.free, .dict, .ev, .ports, .doms, .ring, .dram, .boot, .ecat, .test, .comp, .cart, .xport, .power, .kiln, .recov, .sched, .jour, .opLog, .energy, .pins] : List Part) ⊆ [.free, .dict, .ev, .ports, .doms, .ring, .dram, .boot, .ecat, .test, .comp, .cart, .xport, .power, .kiln, .recov, .sched, .jour, .opLog, .energy, .pins] := fun _ y => y
  try extract_lets -underBinder
  repeat' first
   | with_reducible assumption
   | exact sub_trans rfl hsub
   | intro _
   | with_reducible apply kept_ite
   | with_reducible apply live_kept
   | with_reducible apply modEcat_kept
   | with_reducible apply applyOutputs_kept
   | with_reducible apply kept_id
   | split
   | extract_lets -underBinder
   | (dsimp +zetaDelta only; split)

theorem reply_kept {mask : List Part} {s0 s : State} (r : MailboxReply) (hk : Kept mask s0 s)
    (hsub : [.ecat] ⊆ mask) : Kept mask s0 (reply r s) := by
  unfold reply
  try extract_lets -underBinder
  repeat' first
   | with_reducible assumption
   | exact sub_trans rfl hsub
   | intro _
   | with_reducible apply kept_ite
   | with_reducible apply modEcat_kept
   | split
   | extract_lets -underBinder
   | (dsimp +zetaDelta only; split)

theorem execSdoTransferTimeout_kept (index : Half) (sub : Byte) (s : State) :
    ∃ t, execSdoTransferTimeout index sub s = .next t ∧ Kept [.dict, .ecat] s t := by
  unfold execSdoTransferTimeout
  refine ⟨_, rfl, ?_⟩
  have hk := Kept.refl [.dict, .ecat] s
  have hsub : ([.dict, .ecat] : List Part) ⊆ [.dict, .ecat] := fun _ y => y
  try extract_lets -underBinder
  repeat' first
   | with_reducible assumption
   | exact sub_trans rfl hsub
   | intro _
   | with_reducible apply kept_ite
   | with_reducible apply live_kept
   | with_reducible apply modEcat_kept
   | with_reducible apply sdoProtocol_kept
   | with_reducible apply kept_id
   | split
   | extract_lets -underBinder
   | (dsimp +zetaDelta only; split)

theorem foeRequest_kept {mask : List Part} {s0 s : State} (f : State → State) (hk : Kept mask s0 s)
    (hsub : [.ecat] ⊆ mask) (hff : ∀ t, Kept mask s0 t → Kept mask s0 (f t)) : Kept mask s0 (foeRequest f s) := by
  unfold foeRequest
  try extract_lets -underBinder
  repeat' first
   | with_reducible assumption
   | exact sub_trans rfl hsub
   | intro _
   | with_reducible apply kept_ite
   | with_reducible apply hff
   | with_reducible apply reply_kept
   | split
   | extract_lets -underBinder
   | (dsimp +zetaDelta only; split)

theorem execFoeWrite_kept (name : List Byte) (s : State) :
    ∃ t, execFoeWrite name s = .next t ∧ Kept [.boot, .ecat] s t := by
  unfold execFoeWrite
  refine ⟨_, rfl, ?_⟩
  have hk := Kept.refl [.boot, .ecat] s
  have hsub : ([.boot, .ecat] : List Part) ⊆ [.boot, .ecat] := fun _ y => y
  try extract_lets -underBinder
  repeat' first
   | with_reducible assumption
   | exact sub_trans rfl hsub
   | intro _
   | with_reducible apply kept_ite
   | with_reducible apply live_kept
   | with_reducible apply foeRequest_kept
   | with_reducible apply reply_kept
   | exact Or.inl (mem_of rfl hsub)
   | with_reducible exact Or.inr rfl
   | split
   | extract_lets -underBinder
   | (dsimp +zetaDelta only; split)
   | with_reducible apply kept_mk

theorem execFoeRead_kept (s : State) :
    ∃ t, execFoeRead s = .next t ∧ Kept [.ecat] s t := by
  unfold execFoeRead
  refine ⟨_, rfl, ?_⟩
  have hk := Kept.refl [.ecat] s
  have hsub : ([.ecat] : List Part) ⊆ [.ecat] := fun _ y => y
  try extract_lets -underBinder
  repeat' first
   | with_reducible assumption
   | exact sub_trans rfl hsub
   | intro _
   | with_reducible apply kept_ite
   | with_reducible apply live_kept
   | with_reducible apply foeRequest_kept
   | with_reducible apply reply_kept
   | split
   | extract_lets -underBinder
   | (dsimp +zetaDelta only; split)

theorem foeFails_kept {mask : List Part} {s0 s : State} (code : Nat) (hk : Kept mask s0 s)
    (hsub : [.boot, .ecat] ⊆ mask) : Kept mask s0 (foeFails code s) := by
  unfold foeFails
  try extract_lets -underBinder
  repeat' first
   | with_reducible assumption
   | exact sub_trans rfl hsub
   | intro _
   | with_reducible apply kept_ite
   | with_reducible apply dropFoe_kept
   | with_reducible apply reply_kept
   | with_reducible apply kept_id
   | split
   | extract_lets -underBinder
   | (dsimp +zetaDelta only; split)

theorem execFoePacket_kept (number : Word) (last : Bool) (bytes : List Byte) (s : State) :
    ∃ t, execFoePacket number last bytes s = .next t ∧ Kept [.dict, .boot, .ecat] s t := by
  unfold execFoePacket
  refine ⟨_, rfl, ?_⟩
  have hk := Kept.refl [.dict, .boot, .ecat] s
  have hsub : ([.dict, .boot, .ecat] : List Part) ⊆ [.dict, .boot, .ecat] := fun _ y => y
  try extract_lets -underBinder
  repeat' first
   | with_reducible assumption
   | exact sub_trans rfl hsub
   | intro _
   | with_reducible apply kept_ite
   | with_reducible apply live_kept
   | with_reducible apply foeRequest_kept
   | with_reducible apply foeFails_kept
   | with_reducible apply reply_kept
   | with_reducible apply finishDownload_kept
   | exact Or.inl (mem_of rfl hsub)
   | with_reducible exact Or.inr rfl
   | split
   | extract_lets -underBinder
   | (dsimp +zetaDelta only; split)
   | with_reducible apply kept_mk

theorem execDownloadTimeout_kept (s : State) :
    ∃ t, execDownloadTimeout s = .next t ∧ Kept [.boot] s t := by
  unfold execDownloadTimeout
  refine ⟨_, rfl, ?_⟩
  have hk := Kept.refl [.boot] s
  have hsub : ([.boot] : List Part) ⊆ [.boot] := fun _ y => y
  try extract_lets -underBinder
  repeat' first
   | with_reducible assumption
   | exact sub_trans rfl hsub
   | intro _
   | with_reducible apply kept_ite
   | with_reducible apply live_kept
   | with_reducible apply dropDownload_kept
   | split
   | extract_lets -underBinder
   | (dsimp +zetaDelta only; split)

end Sys2Proof.Machine
end

