-- ==== Sys2Proof/Laws/KeptEnergy.lean ====
section
/-!
SUPPORT. What the operations of Machine/Energy.lean may touch, and that they keep the canonical forms.
-/
set_option linter.unusedTactic false
set_option linter.unreachableTactic false
set_option linter.unusedVariables false

namespace Sys2Proof.Machine

theorem takeMeasures_kept {mask : List Part} {s0 s : State} (x : TickInputs) (hk : Kept mask s0 s)
    (hsub : [.dict] ⊆ mask) : Kept mask s0 (takeMeasures x s) := by
  unfold takeMeasures
  try extract_lets -underBinder
  repeat' first
   | with_reducible assumption
   | exact sub_trans rfl hsub
   | intro _
   | with_reducible apply kept_ite
   | with_reducible apply setObj_kept
   | with_reducible apply kept_id
   | split
   | extract_lets -underBinder
   | (dsimp +zetaDelta only; split)

theorem execEnergyTick_kept (x : TickInputs) (s : State) :
    ∃ t, execEnergyTick x s = .next t ∧ Kept [.dict, .energy, .savedEnergy] s t := by
  unfold execEnergyTick
  refine ⟨_, rfl, ?_⟩
  have hk := Kept.refl [.dict, .energy, .savedEnergy] s
  have hsub : ([.dict, .energy, .savedEnergy] : List Part) ⊆ [.dict, .energy, .savedEnergy] := fun _ y => y
  try extract_lets -underBinder
  repeat' first
   | with_reducible assumption
   | exact sub_trans rfl hsub
   | intro _
   | with_reducible apply kept_ite
   | with_reducible apply live_kept
   | with_reducible apply takeMeasures_kept
   | exact Or.inl (mem_of rfl hsub)
   | with_reducible exact Or.inr rfl
   | split
   | extract_lets -underBinder
   | (dsimp +zetaDelta only; split)
   | with_reducible apply kept_mk

theorem execEnergyWindow_kept (s : State) :
    ∃ t, execEnergyWindow s = .next t ∧ Kept [.energy, .savedEnergy] s t := by
  refine ⟨_, rfl, live_kept (Kept.refl _ s) (kept_ite (Kept.refl _ s) ?_)⟩
  generalize ({ sharePool s s.energy with window := Vector.replicate 9 0, ticks := 0 } : Energy) = e
  apply kept_mk (Kept.refl _ s)
  all_goals first | exact Or.inr rfl | exact Or.inl (by decide)

end Sys2Proof.Machine
end

