-- ==== Sys2Proof/Laws/KeptLinkSend.lean ====
section
/-!
SUPPORT. What the operations of Machine/LinkSend.lean may touch, and that they keep the canonical forms.
-/
set_option linter.unusedTactic false
set_option linter.unreachableTactic false
set_option linter.unusedVariables false

namespace Sys2Proof.Machine

theorem messageLeft_kept {mask : List Part} {s0 s : State} (m : TxMsg) (hk : Kept mask s0 s)
    (hsub : [.ports, .doms] ⊆ mask) : Kept mask s0 (messageLeft m s) := by
  unfold messageLeft
  try extract_lets -underBinder
  repeat' first
   | with_reducible assumption
   | exact sub_trans rfl hsub
   | intro _
   | with_reducible apply kept_ite
   | with_reducible apply modDom_kept
   | with_reducible apply returnUnits_kept
   | split
   | extract_lets -underBinder
   | (dsimp +zetaDelta only; split)

theorem sendStomped_kept {mask : List Part} {s0 s : State} (p : PortId) (r : FrameRoute) (msgs : List RxMsg) (hk : Kept mask s0 s)
    (hsub : [.ports] ⊆ mask) : Kept mask s0 (sendStomped p r msgs s) := by
  unfold sendStomped
  try extract_lets -underBinder
  repeat' first
   | with_reducible assumption
   | exact sub_trans rfl hsub
   | intro _
   | with_reducible apply kept_ite
   | with_reducible apply modPort_kept
   | split
   | extract_lets -underBinder
   | (dsimp +zetaDelta only; split)

theorem sendFrame_kept {mask : List Part} {s0 s : State} (p : PortId) (hk : Kept mask s0 s)
    (hsub : [.free, .dict, .ev, .ports, .doms, .ring, .dram, .test, .comp, .cart, .xport, .kiln, .recov, .sched, .jour, .opLog, .energy] ⊆ mask) : Kept mask s0 (sendFrame p s) := by
  unfold sendFrame
  try extract_lets -underBinder
  repeat' first
   | with_reducible assumption
   | exact sub_trans rfl hsub
   | intro _
   | with_reducible apply kept_ite
   | with_reducible apply kept_foldl
   | with_reducible apply setPort_kept
   | with_reducible apply payLost_kept
   | with_reducible apply messageLeft_kept
   | with_reducible apply drainBacklog_kept
   | split
   | extract_lets -underBinder
   | (dsimp +zetaDelta only; split)

theorem execCredit_kept (p : PortId) (cmd : Half) (admin : Half) (data : Half) (resp : Half) (s : State) :
    ∃ t, execCredit p cmd admin data resp s = .next t ∧ Kept [.ports] s t := by
  unfold execCredit
  refine ⟨_, rfl, ?_⟩
  have hk := Kept.refl [.ports] s
  have hsub : ([.ports] : List Part) ⊆ [.ports] := fun _ y => y
  try extract_lets -underBinder
  repeat' first
   | with_reducible assumption
   | exact sub_trans rfl hsub
   | intro _
   | with_reducible apply kept_ite
   | with_reducible apply live_kept
   | with_reducible apply modPort_kept
   | split
   | extract_lets -underBinder
   | (dsimp +zetaDelta only; split)

theorem chooseFrame_kept {mask : List Part} {s0 s : State} (p : PortId) (hk : Kept mask s0 s)
    (hsub : [.free, .dict, .ev, .ports, .doms, .ring, .dram, .test, .comp, .cart, .xport, .kiln, .recov, .sched, .jour, .opLog, .energy] ⊆ mask) : Kept mask s0 (chooseFrame p s) := by
  unfold chooseFrame
  try extract_lets -underBinder
  repeat' first
   | with_reducible assumption
   | exact sub_trans rfl hsub
   | intro _
   | with_reducible apply kept_ite
   | with_reducible apply setPort_kept
   | with_reducible apply sendStomped_kept
   | with_reducible apply sendFrame_kept
   | split
   | extract_lets -underBinder
   | (dsimp +zetaDelta only; split)

theorem putFrame_kept {mask : List Part} {s0 s : State} (p : PortId) (hk : Kept mask s0 s)
    (hsub : [.ports] ⊆ mask) : Kept mask s0 (putFrame p s) := by
  unfold putFrame
  try extract_lets -underBinder
  repeat' first
   | with_reducible assumption
   | exact sub_trans rfl hsub
   | intro _
   | with_reducible apply kept_ite
   | with_reducible apply putLaneFrames_kept
   | split
   | extract_lets -underBinder
   | (dsimp +zetaDelta only; split)

theorem execLaneFramePeriod_kept (p : PortId) (s : State) :
    ∃ t, execLaneFramePeriod p s = .next t ∧ Kept [.free, .dict, .ev, .ports, .doms, .ring, .dram, .test, .comp, .cart, .xport, .kiln, .recov, .sched, .jour, .opLog, .energy] s t := by
  unfold execLaneFramePeriod
  refine ⟨_, rfl, ?_⟩
  have hk := Kept.refl [.free, .dict, .ev, .ports, .doms, .ring, .dram, .test, .comp, .cart, .xport, .kiln, .recov, .sched, .jour, .opLog, .energy] s
  have hsub : ([.free, .dict, .ev, .ports, .doms, .ring, .dram, .test, .comp, .cart, .xport, .kiln, .recov, .sched, .jour, .opLog, .energy] : List Part) ⊆ [.free, .dict, .ev, .ports, .doms, .ring, .dram, .test, .comp, .cart, .xport, .kiln, .recov, .sched, .jour, .opLog, .energy] := fun _ y => y
  try extract_lets -underBinder
  repeat' first
   | with_reducible assumption
   | exact sub_trans rfl hsub
   | intro _
   | with_reducible apply kept_ite
   | with_reducible apply live_kept
   | with_reducible apply modPort_kept
   | with_reducible apply silence_kept
   | with_reducible apply chooseFrame_kept
   | with_reducible apply putFrame_kept
   | with_reducible apply servePort_kept
   | with_reducible apply kept_id
   | split
   | extract_lets -underBinder
   | (dsimp +zetaDelta only; split)

end Sys2Proof.Machine
end

