-- ==== Sys2Proof/Laws/KeptStartup.lean ====
section
/-!
SUPPORT. What the operations of Machine/Startup.lean may touch, and that they keep the canonical forms.
-/
set_option linter.unusedTactic false
set_option linter.unreachableTactic false
set_option linter.unusedVariables false

namespace Sys2Proof.Machine

theorem resetState_kept {mask : List Part} {s0 s : State} (cause : Nat) (hk : Kept mask s0 s)
    (hsub : [.free, .periods, .dict, .ev, .ports, .doms, .ring, .dram, .boot, .ecat, .test, .comp, .cart, .xport, .power, .kiln, .recov, .sched, .jour, .energy, .savedEnergy, .pins] ⊆ mask) : Kept mask s0 (resetState cause s) := by
  refine ⟨hk.queue, fun p hp => ?_, fun w => dictWf_filter _ (hk.dict w), fun w => ?_⟩
  · cases p
    case free => exact hk.frame .free hp
    case opLog => exact hk.frame .opLog hp
    case savedEnergy => exact hk.frame .savedEnergy hp
    all_goals exact absurd (mem_of rfl hsub) hp
  · have := hk.ev w
    simp only [EventState.wf, Bool.and_eq_true, decide_eq_true_eq] at this
    simp [EventState.wf, resetState, State.reset, this.1.2]

theorem afterReset_kept {mask : List Part} {s0 s : State} (cause : Nat) (hk : Kept mask s0 s)
    (hsub : [.free, .periods, .dict, .ev, .ports, .doms, .ring, .dram, .boot, .ecat, .test, .comp, .cart, .xport, .power, .kiln, .recov, .sched, .jour, .energy, .savedEnergy, .pins] ⊆ mask) : Kept mask s0 (afterReset cause s) := by
  unfold afterReset
  try extract_lets -underBinder
  repeat' first
   | with_reducible assumption
   | exact sub_trans rfl hsub
   | intro _
   | with_reducible apply kept_ite
   | with_reducible apply resetState_kept
   | with_reducible apply bumpGen_kept
   | with_reducible apply kept_id
   | split
   | extract_lets -underBinder
   | (dsimp +zetaDelta only; split)

theorem takeStraps_kept {mask : List Part} {s0 s : State} (env : StartEnv) (hk : Kept mask s0 s)
    (hsub : [.boot] ⊆ mask) : Kept mask s0 (takeStraps env s) := by
  unfold takeStraps
  try extract_lets -underBinder
  repeat' first
   | with_reducible assumption
   | exact sub_trans rfl hsub
   | intro _
   | with_reducible apply kept_ite
   | exact Or.inl (mem_of rfl hsub)
   | with_reducible exact Or.inr rfl
   | split
   | extract_lets -underBinder
   | (dsimp +zetaDelta only; split)
   | with_reducible apply kept_mk

theorem initDram_kept {mask : List Part} {s0 s : State} (env : StartEnv) (hk : Kept mask s0 s)
    (hsub : [.free, .dict, .ev, .ports, .dram, .opLog] ⊆ mask) : Kept mask s0 (initDram env s) := by
  unfold initDram
  try extract_lets -underBinder
  repeat' first
   | with_reducible assumption
   | exact sub_trans rfl hsub
   | intro _
   | with_reducible apply kept_ite
   | with_reducible apply setObj_kept
   | with_reducible apply postEvent_kept
   | with_reducible apply kept_id
   | exact Or.inl (mem_of rfl hsub)
   | with_reducible exact Or.inr rfl
   | split
   | extract_lets -underBinder
   | (dsimp +zetaDelta only; split)
   | with_reducible apply kept_mk

theorem trySlot_kept {mask : List Part} {s0 s : State} (readable : Bool) (n : Fin 2) (hk : Kept mask s0 s)
    (hsub : [.boot] ⊆ mask) : Kept mask s0 (trySlot readable n s) := by
  unfold trySlot
  try extract_lets -underBinder
  repeat' first
   | with_reducible assumption
   | exact sub_trans rfl hsub
   | intro _
   | with_reducible apply kept_ite
   | exact Or.inl (mem_of rfl hsub)
   | with_reducible exact Or.inr rfl
   | split
   | extract_lets -underBinder
   | (dsimp +zetaDelta only; split)
   | with_reducible apply kept_mk

theorem loadImage_kept {mask : List Part} {s0 s : State} (env : StartEnv) (hk : Kept mask s0 s)
    (hsub : [.boot] ⊆ mask) : Kept mask s0 (loadImage env s) := by
  unfold loadImage
  try extract_lets -underBinder
  repeat' first
   | with_reducible assumption
   | exact sub_trans rfl hsub
   | intro _
   | with_reducible apply kept_ite
   | with_reducible apply kept_foldl
   | with_reducible apply trySlot_kept
   | split
   | extract_lets -underBinder
   | (dsimp +zetaDelta only; split)

theorem readJournal_kept {mask : List Part} {s0 s : State} (hk : Kept mask s0 s)
    (hsub : [.jour] ⊆ mask) : Kept mask s0 (readJournal s) := by
  unfold readJournal
  try extract_lets -underBinder
  repeat' first
   | with_reducible assumption
   | exact sub_trans rfl hsub
   | intro _
   | with_reducible apply kept_ite
   | exact Or.inl (mem_of rfl hsub)
   | with_reducible exact Or.inr rfl
   | split
   | extract_lets -underBinder
   | (dsimp +zetaDelta only; split)
   | with_reducible apply kept_mk

theorem bringUp_kept {mask : List Part} {s0 s : State} (env : StartEnv) (hk : Kept mask s0 s)
    (hsub : [.free, .dict, .ev, .ports, .dram, .boot, .kiln, .jour, .opLog] ⊆ mask) : Kept mask s0 (bringUp env s) := by
  unfold bringUp
  try extract_lets -underBinder
  repeat' first
   | with_reducible assumption
   | exact sub_trans rfl hsub
   | intro _
   | with_reducible apply kept_ite
   | with_reducible apply setObj_kept
   | with_reducible apply readJournal_kept
   | with_reducible apply initDram_kept
   | with_reducible apply rollBack_kept
   | with_reducible apply loadImage_kept
   | with_reducible apply kept_id
   | exact Or.inl (mem_of rfl hsub)
   | with_reducible exact Or.inr rfl
   | split
   | extract_lets -underBinder
   | (dsimp +zetaDelta only; split)
   | with_reducible apply kept_mk

theorem loadStart_kept {mask : List Part} {s0 s : State} (env : StartEnv) (hk : Kept mask s0 s)
    (hsub : [.free, .dict, .ev, .ports, .dram, .boot, .kiln, .jour, .opLog] ⊆ mask) : Kept mask s0 (loadStart env s) := by
  unfold loadStart
  try extract_lets -underBinder
  repeat' first
   | with_reducible assumption
   | exact sub_trans rfl hsub
   | intro _
   | with_reducible apply kept_ite
   | with_reducible apply bringUp_kept
   | exact Or.inl (mem_of rfl hsub)
   | with_reducible exact Or.inr rfl
   | split
   | extract_lets -underBinder
   | (dsimp +zetaDelta only; split)
   | with_reducible apply kept_mk

theorem startPart_kept {mask : List Part} {s0 s : State} (env : StartEnv) (hk : Kept mask s0 s)
    (hsub : [.free, .dict, .ev, .ports, .dram, .boot, .kiln, .jour, .opLog] ⊆ mask) : Kept mask s0 (startPart env s) := by
  unfold startPart
  try extract_lets -underBinder
  repeat' first
   | with_reducible assumption
   | exact sub_trans rfl hsub
   | intro _
   | with_reducible apply kept_ite
   | with_reducible apply takeStraps_kept
   | with_reducible apply loadStart_kept
   | exact Or.inl (mem_of rfl hsub)
   | with_reducible exact Or.inr rfl
   | split
   | extract_lets -underBinder
   | (dsimp +zetaDelta only; split)
   | with_reducible apply kept_mk

theorem execPoresetNLow_kept (s : State) :
    ∃ t, execPoresetNLow s = .next t ∧ Kept [.free, .periods, .dict, .ev, .ports, .doms, .ring, .dram, .boot, .ecat, .test, .comp, .cart, .xport, .power, .kiln, .recov, .sched, .jour, .energy, .savedEnergy, .pins] s t := by
  unfold execPoresetNLow
  refine ⟨_, rfl, ?_⟩
  have hk := Kept.refl [.free, .periods, .dict, .ev, .ports, .doms, .ring, .dram, .boot, .ecat, .test, .comp, .cart, .xport, .power, .kiln, .recov, .sched, .jour, .energy, .savedEnergy, .pins] s
  have hsub : ([.free, .periods, .dict, .ev, .ports, .doms, .ring, .dram, .boot, .ecat, .test, .comp, .cart, .xport, .power, .kiln, .recov, .sched, .jour, .energy, .savedEnergy, .pins] : List Part) ⊆ [.free, .periods, .dict, .ev, .ports, .doms, .ring, .dram, .boot, .ecat, .test, .comp, .cart, .xport, .power, .kiln, .recov, .sched, .jour, .energy, .savedEnergy, .pins] := fun _ y => y
  try extract_lets -underBinder
  repeat' first
   | with_reducible assumption
   | exact sub_trans rfl hsub
   | intro _
   | with_reducible apply kept_ite
   | with_reducible apply afterReset_kept
   | split
   | extract_lets -underBinder
   | (dsimp +zetaDelta only; split)

theorem execStartReference_kept (env : StartEnv) (s : State) :
    ∃ t, execStartReference env s = .next t ∧ Kept [.free, .periods, .dict, .ev, .ports, .doms, .ring, .dram, .boot, .ecat, .test, .comp, .cart, .xport, .power, .kiln, .recov, .sched, .jour, .opLog, .energy, .savedEnergy, .pins] s t := by
  unfold execStartReference
  refine ⟨_, rfl, ?_⟩
  have hk := Kept.refl [.free, .periods, .dict, .ev, .ports, .doms, .ring, .dram, .boot, .ecat, .test, .comp, .cart, .xport, .power, .kiln, .recov, .sched, .jour, .opLog, .energy, .savedEnergy, .pins] s
  have hsub : ([.free, .periods, .dict, .ev, .ports, .doms, .ring, .dram, .boot, .ecat, .test, .comp, .cart, .xport, .power, .kiln, .recov, .sched, .jour, .opLog, .energy, .savedEnergy, .pins] : List Part) ⊆ [.free, .periods, .dict, .ev, .ports, .doms, .ring, .dram, .boot, .ecat, .test, .comp, .cart, .xport, .power, .kiln, .recov, .sched, .jour, .opLog, .energy, .savedEnergy, .pins] := fun _ y => y
  try extract_lets -underBinder
  repeat' first
   | with_reducible assumption
   | exact sub_trans rfl hsub
   | intro _
   | with_reducible apply kept_ite
   | with_reducible apply startPart_kept
   | with_reducible apply afterReset_kept
   | split
   | extract_lets -underBinder
   | (dsimp +zetaDelta only; split)

theorem execFuseLoadRetry_kept (env : StartEnv) (s : State) :
    ∃ t, execFuseLoadRetry env s = .next t ∧ Kept [.free, .dict, .ev, .ports, .dram, .boot, .kiln, .jour, .opLog] s t := by
  unfold execFuseLoadRetry
  refine ⟨_, rfl, ?_⟩
  have hk := Kept.refl [.free, .dict, .ev, .ports, .dram, .boot, .kiln, .jour, .opLog] s
  have hsub : ([.free, .dict, .ev, .ports, .dram, .boot, .kiln, .jour, .opLog] : List Part) ⊆ [.free, .dict, .ev, .ports, .dram, .boot, .kiln, .jour, .opLog] := fun _ y => y
  try extract_lets -underBinder
  repeat' first
   | with_reducible assumption
   | exact sub_trans rfl hsub
   | intro _
   | with_reducible apply kept_ite
   | with_reducible apply loadStart_kept
   | split
   | extract_lets -underBinder
   | (dsimp +zetaDelta only; split)

theorem releaseDict_kept {mask : List Part} {s0 s : State} (crystal : Nat) (hk : Kept mask s0 s)
    (hsub : [.dict, .doms] ⊆ mask) : Kept mask s0 (releaseDict crystal s) := by
  unfold releaseDict
  try extract_lets -underBinder
  repeat' first
   | with_reducible assumption
   | exact sub_trans rfl hsub
   | intro _
   | with_reducible apply kept_ite
   | with_reducible apply withValues_kept
   | with_reducible apply setObj_kept
   | with_reducible apply kept_id
   | split
   | extract_lets -underBinder
   | (dsimp +zetaDelta only; split)

theorem releaseParts_kept {mask : List Part} {s0 s : State} (us : Nat) (hk : Kept mask s0 s)
    (hsub : [.boot, .ecat, .xport, .power, .energy, .savedEnergy] ⊆ mask) : Kept mask s0 (releaseParts us s) := by
  unfold releaseParts
  try extract_lets -underBinder
  repeat' first
   | with_reducible assumption
   | exact sub_trans rfl hsub
   | intro _
   | with_reducible apply kept_ite
   | exact Or.inl (mem_of rfl hsub)
   | with_reducible exact Or.inr rfl
   | split
   | extract_lets -underBinder
   | (dsimp +zetaDelta only; split)
   | with_reducible apply kept_mk

theorem releaseCore_kept {mask : List Part} {s0 s : State} (us : Nat) (hk : Kept mask s0 s)
    (hsub : [.dict, .ports, .boot, .ecat, .xport, .power, .energy, .savedEnergy, .pins] ⊆ mask) : Kept mask s0 (releaseCore us s) := by
  unfold releaseCore
  try extract_lets -underBinder
  repeat' first
   | with_reducible assumption
   | exact sub_trans rfl hsub
   | intro _
   | with_reducible apply kept_ite
   | with_reducible apply kept_foldl
   | with_reducible apply restartLine_kept
   | with_reducible apply releasePins_kept
   | with_reducible apply releaseParts_kept
   | split
   | extract_lets -underBinder
   | (dsimp +zetaDelta only; split)

theorem clearEarly_kept {mask : List Part} {s0 s : State} (hk : Kept mask s0 s)
    (hsub : [.ev] ⊆ mask) : Kept mask s0 (clearEarly s) :=
  kept_ev hk (mem_of rfl hsub) id

theorem publishAtRelease_kept {mask : List Part} {s0 s : State} (e : EventRec) (hk : Kept mask s0 s)
    (hsub : [.free, .dict, .ev, .ports, .opLog] ⊆ mask) : Kept mask s0 (publishAtRelease e s) := by
  unfold publishAtRelease
  try extract_lets -underBinder
  repeat' first
   | with_reducible assumption
   | exact sub_trans rfl hsub
   | intro _
   | with_reducible apply kept_ite
   | with_reducible apply kept_foldl
   | with_reducible apply recordEvent_kept
   | with_reducible apply settleEvent_kept
   | with_reducible apply queueEvent_kept
   | split
   | extract_lets -underBinder
   | (dsimp +zetaDelta only; split)

theorem releaseEvent_kept {mask : List Part} {s0 s : State} (code : Nat) (detail : Nat) (hk : Kept mask s0 s)
    (hsub : [.free, .dict, .ev, .ports, .opLog] ⊆ mask) : Kept mask s0 (releaseEvent code detail s) := by
  unfold releaseEvent
  try extract_lets -underBinder
  repeat' first
   | with_reducible assumption
   | exact sub_trans rfl hsub
   | intro _
   | with_reducible apply kept_ite
   | with_reducible apply publishAtRelease_kept
   | split
   | extract_lets -underBinder
   | (dsimp +zetaDelta only; split)

theorem releaseEvents_kept {mask : List Part} {s0 s : State} (hk : Kept mask s0 s)
    (hsub : [.free, .dict, .ev, .ports, .opLog] ⊆ mask) : Kept mask s0 (releaseEvents s) := by
  unfold releaseEvents
  try extract_lets -underBinder
  repeat' first
   | with_reducible assumption
   | exact sub_trans rfl hsub
   | intro _
   | with_reducible apply kept_ite
   | with_reducible apply kept_foldl
   | with_reducible apply publishAtRelease_kept
   | with_reducible apply clearEarly_kept
   | with_reducible apply releaseEvent_kept
   | split
   | extract_lets -underBinder
   | (dsimp +zetaDelta only; split)

theorem xportIdle_kept {mask : List Part} {s0 s : State} (hk : Kept mask s0 s)
    (hsub : [.dict, .xport] ⊆ mask) : Kept mask s0 (xportIdle s) := by
  unfold xportIdle
  try extract_lets -underBinder
  repeat' first
   | with_reducible assumption
   | exact sub_trans rfl hsub
   | intro _
   | with_reducible apply kept_ite
   | with_reducible apply modXport_kept
   | with_reducible apply enterXport_kept
   | with_reducible apply kept_id
   | split
   | extract_lets -underBinder
   | (dsimp +zetaDelta only; split)

theorem releaseUnits_kept {mask : List Part} {s0 s : State} (hk : Kept mask s0 s)
    (hsub : [.free, .dict, .ev, .ports, .doms, .cart, .xport, .sched, .opLog] ⊆ mask) : Kept mask s0 (releaseUnits s) := by
  unfold releaseUnits
  try extract_lets -underBinder
  repeat' first
   | with_reducible assumption
   | exact sub_trans rfl hsub
   | intro _
   | with_reducible apply kept_ite
   | with_reducible apply kept_foldl
   | with_reducible apply enablePort_kept
   | with_reducible apply enterDom_kept
   | with_reducible apply xportIdle_kept
   | with_reducible apply pollPower_kept
   | with_reducible apply autoLoad_kept
   | with_reducible apply enterCart_kept
   | split
   | extract_lets -underBinder
   | (dsimp +zetaDelta only; split)

theorem releaseLinks_kept {mask : List Part} {s0 s : State} (hk : Kept mask s0 s)
    (hsub : [.dict, .ports] ⊆ mask) : Kept mask s0 (releaseLinks s) := by
  unfold releaseLinks
  try extract_lets -underBinder
  repeat' first
   | with_reducible assumption
   | exact sub_trans rfl hsub
   | intro _
   | with_reducible apply kept_ite
   | with_reducible apply takeLinkConfig_kept
   | with_reducible apply setObj_kept
   | with_reducible apply kept_id
   | split
   | extract_lets -underBinder
   | (dsimp +zetaDelta only; split)

theorem releaseBuffers_kept {mask : List Part} {s0 s : State} (hk : Kept mask s0 s)
    (hsub : [.free, .dict, .ev, .ports, .doms, .ring, .dram, .opLog] ⊆ mask) : Kept mask s0 (releaseBuffers s) := by
  unfold releaseBuffers
  try extract_lets -underBinder
  repeat' first
   | with_reducible assumption
   | exact sub_trans rfl hsub
   | intro _
   | with_reducible apply kept_ite
   | with_reducible apply kept_foldl
   | with_reducible apply retirePage_kept
   | with_reducible apply fillTokens_kept
   | with_reducible apply fitAllUnits_kept
   | split
   | extract_lets -underBinder
   | (dsimp +zetaDelta only; split)

theorem execRelease_kept (us : BitVec 25) (crystal : DWord) (s : State) :
    ∃ t, execRelease us crystal s = .next t ∧ Kept [.free, .dict, .ev, .ports, .doms, .ring, .dram, .boot, .ecat, .cart, .xport, .power, .sched, .opLog, .energy, .savedEnergy, .pins] s t := by
  unfold execRelease
  refine ⟨_, rfl, ?_⟩
  have hk := Kept.refl [.free, .dict, .ev, .ports, .doms, .ring, .dram, .boot, .ecat, .cart, .xport, .power, .sched, .opLog, .energy, .savedEnergy, .pins] s
  have hsub : ([.free, .dict, .ev, .ports, .doms, .ring, .dram, .boot, .ecat, .cart, .xport, .power, .sched, .opLog, .energy, .savedEnergy, .pins] : List Part) ⊆ [.free, .dict, .ev, .ports, .doms, .ring, .dram, .boot, .ecat, .cart, .xport, .power, .sched, .opLog, .energy, .savedEnergy, .pins] := fun _ y => y
  try extract_lets -underBinder
  repeat' first
   | with_reducible assumption
   | exact sub_trans rfl hsub
   | intro _
   | with_reducible apply kept_ite
   | with_reducible apply releaseDict_kept
   | with_reducible apply releaseCore_kept
   | with_reducible apply releaseLinks_kept
   | with_reducible apply releaseBuffers_kept
   | with_reducible apply releaseEvents_kept
   | with_reducible apply releaseUnits_kept
   | with_reducible apply kept_id
   | split
   | extract_lets -underBinder
   | (dsimp +zetaDelta only; split)

theorem deviceFault_kept {mask : List Part} {s0 s : State} (cause : Nat) (hk : Kept mask s0 s)
    (hsub : [.free, .periods, .dict, .ev, .ports, .doms, .ring, .dram, .boot, .ecat, .test, .comp, .cart, .xport, .power, .kiln, .recov, .sched, .jour, .energy, .savedEnergy, .pins] ⊆ mask) : Kept mask s0 (deviceFault cause s) := by
  unfold deviceFault
  try extract_lets -underBinder
  repeat' first
   | with_reducible assumption
   | exact sub_trans rfl hsub
   | intro _
   | with_reducible apply kept_ite
   | with_reducible apply afterReset_kept
   | split
   | extract_lets -underBinder
   | (dsimp +zetaDelta only; split)

theorem execRootUnlock_kept (stopped : Bool) (s : State) :
    ∃ t, execRootUnlock stopped s = .next t ∧ Kept [.free, .periods, .dict, .ev, .ports, .doms, .ring, .dram, .boot, .ecat, .test, .comp, .cart, .xport, .power, .kiln, .recov, .sched, .jour, .energy, .savedEnergy, .pins] s t := by
  unfold execRootUnlock
  refine ⟨_, rfl, ?_⟩
  have hk := Kept.refl [.free, .periods, .dict, .ev, .ports, .doms, .ring, .dram, .boot, .ecat, .test, .comp, .cart, .xport, .power, .kiln, .recov, .sched, .jour, .energy, .savedEnergy, .pins] s
  have hsub : ([.free, .periods, .dict, .ev, .ports, .doms, .ring, .dram, .boot, .ecat, .test, .comp, .cart, .xport, .power, .kiln, .recov, .sched, .jour, .energy, .savedEnergy, .pins] : List Part) ⊆ [.free, .periods, .dict, .ev, .ports, .doms, .ring, .dram, .boot, .ecat, .test, .comp, .cart, .xport, .power, .kiln, .recov, .sched, .jour, .energy, .savedEnergy, .pins] := fun _ y => y
  try extract_lets -underBinder
  repeat' first
   | with_reducible assumption
   | exact sub_trans rfl hsub
   | intro _
   | with_reducible apply kept_ite
   | with_reducible apply deviceFault_kept
   | exact Or.inl (mem_of rfl hsub)
   | with_reducible exact Or.inr rfl
   | split
   | extract_lets -underBinder
   | (dsimp +zetaDelta only; split)
   | with_reducible apply kept_mk

theorem execSupplyFault_kept (s : State) :
    ∃ t, execSupplyFault s = .next t ∧ Kept [.free, .periods, .dict, .ev, .ports, .doms, .ring, .dram, .boot, .ecat, .test, .comp, .cart, .xport, .power, .kiln, .recov, .sched, .jour, .energy, .savedEnergy, .pins] s t := by
  unfold execSupplyFault
  refine ⟨_, rfl, ?_⟩
  have hk := Kept.refl [.free, .periods, .dict, .ev, .ports, .doms, .ring, .dram, .boot, .ecat, .test, .comp, .cart, .xport, .power, .kiln, .recov, .sched, .jour, .energy, .savedEnergy, .pins] s
  have hsub : ([.free, .periods, .dict, .ev, .ports, .doms, .ring, .dram, .boot, .ecat, .test, .comp, .cart, .xport, .power, .kiln, .recov, .sched, .jour, .energy, .savedEnergy, .pins] : List Part) ⊆ [.free, .periods, .dict, .ev, .ports, .doms, .ring, .dram, .boot, .ecat, .test, .comp, .cart, .xport, .power, .kiln, .recov, .sched, .jour, .energy, .savedEnergy, .pins] := fun _ y => y
  try extract_lets -underBinder
  repeat' first
   | with_reducible assumption
   | exact sub_trans rfl hsub
   | intro _
   | with_reducible apply kept_ite
   | with_reducible apply deviceFault_kept
   | split
   | extract_lets -underBinder
   | (dsimp +zetaDelta only; split)

theorem execThermalTrip_kept (s : State) :
    ∃ t, execThermalTrip s = .next t ∧ Kept [.dict, .doms, .dram, .boot, .comp, .cart, .xport, .power, .recov, .sched, .jour, .opLog] s t := by
  unfold execThermalTrip
  refine ⟨_, rfl, ?_⟩
  have hk := Kept.refl [.dict, .doms, .dram, .boot, .comp, .cart, .xport, .power, .recov, .sched, .jour, .opLog] s
  have hsub : ([.dict, .doms, .dram, .boot, .comp, .cart, .xport, .power, .recov, .sched, .jour, .opLog] : List Part) ⊆ [.dict, .doms, .dram, .boot, .comp, .cart, .xport, .power, .recov, .sched, .jour, .opLog] := fun _ y => y
  try extract_lets -underBinder
  repeat' first
   | with_reducible assumption
   | exact sub_trans rfl hsub
   | intro _
   | with_reducible apply kept_ite
   | with_reducible apply live_kept
   | with_reducible apply bump_kept
   | with_reducible apply startSequence_kept
   | exact Or.inl (mem_of rfl hsub)
   | with_reducible exact Or.inr rfl
   | split
   | extract_lets -underBinder
   | (dsimp +zetaDelta only; split)
   | with_reducible apply kept_mk

theorem execThermalRestart_kept (env : StartEnv) (s : State) :
    ∃ t, execThermalRestart env s = .next t ∧ Kept [.free, .periods, .dict, .ev, .ports, .doms, .ring, .dram, .boot, .ecat, .test, .comp, .cart, .xport, .power, .kiln, .recov, .sched, .jour, .opLog, .energy, .savedEnergy, .pins] s t := by
  unfold execThermalRestart
  refine ⟨_, rfl, ?_⟩
  have hk := Kept.refl [.free, .periods, .dict, .ev, .ports, .doms, .ring, .dram, .boot, .ecat, .test, .comp, .cart, .xport, .power, .kiln, .recov, .sched, .jour, .opLog, .energy, .savedEnergy, .pins] s
  have hsub : ([.free, .periods, .dict, .ev, .ports, .doms, .ring, .dram, .boot, .ecat, .test, .comp, .cart, .xport, .power, .kiln, .recov, .sched, .jour, .opLog, .energy, .savedEnergy, .pins] : List Part) ⊆ [.free, .periods, .dict, .ev, .ports, .doms, .ring, .dram, .boot, .ecat, .test, .comp, .cart, .xport, .power, .kiln, .recov, .sched, .jour, .opLog, .energy, .savedEnergy, .pins] := fun _ y => y
  try extract_lets -underBinder
  repeat' first
   | with_reducible assumption
   | exact sub_trans rfl hsub
   | intro _
   | with_reducible apply kept_ite
   | with_reducible apply live_kept
   | with_reducible apply startPart_kept
   | with_reducible apply afterReset_kept
   | split
   | extract_lets -underBinder
   | (dsimp +zetaDelta only; split)

theorem execWarmReset_kept (env : StartEnv) (s : State) :
    ∃ t, execWarmReset env s = .next t ∧ Kept [.free, .periods, .dict, .ev, .ports, .doms, .ring, .dram, .boot, .ecat, .test, .comp, .cart, .xport, .power, .kiln, .recov, .sched, .jour, .opLog, .energy, .savedEnergy, .pins] s t := by
  unfold execWarmReset
  refine ⟨_, rfl, ?_⟩
  have hk := Kept.refl [.free, .periods, .dict, .ev, .ports, .doms, .ring, .dram, .boot, .ecat, .test, .comp, .cart, .xport, .power, .kiln, .recov, .sched, .jour, .opLog, .energy, .savedEnergy, .pins] s
  have hsub : ([.free, .periods, .dict, .ev, .ports, .doms, .ring, .dram, .boot, .ecat, .test, .comp, .cart, .xport, .power, .kiln, .recov, .sched, .jour, .opLog, .energy, .savedEnergy, .pins] : List Part) ⊆ [.free, .periods, .dict, .ev, .ports, .doms, .ring, .dram, .boot, .ecat, .test, .comp, .cart, .xport, .power, .kiln, .recov, .sched, .jour, .opLog, .energy, .savedEnergy, .pins] := fun _ y => y
  try extract_lets -underBinder
  repeat' first
   | with_reducible assumption
   | exact sub_trans rfl hsub
   | intro _
   | with_reducible apply kept_ite
   | with_reducible apply live_kept
   | with_reducible apply startPart_kept
   | with_reducible apply afterReset_kept
   | split
   | extract_lets -underBinder
   | (dsimp +zetaDelta only; split)

theorem execPowerFailRestart_kept (env : StartEnv) (s : State) :
    ∃ t, execPowerFailRestart env s = .next t ∧ Kept [.free, .periods, .dict, .ev, .ports, .doms, .ring, .dram, .boot, .ecat, .test, .comp, .cart, .xport, .power, .kiln, .recov, .sched, .jour, .opLog, .energy, .savedEnergy, .pins] s t := by
  unfold execPowerFailRestart
  refine ⟨_, rfl, ?_⟩
  have hk := Kept.refl [.free, .periods, .dict, .ev, .ports, .doms, .ring, .dram, .boot, .ecat, .test, .comp, .cart, .xport, .power, .kiln, .recov, .sched, .jour, .opLog, .energy, .savedEnergy, .pins] s
  have hsub : ([.free, .periods, .dict, .ev, .ports, .doms, .ring, .dram, .boot, .ecat, .test, .comp, .cart, .xport, .power, .kiln, .recov, .sched, .jour, .opLog, .energy, .savedEnergy, .pins] : List Part) ⊆ [.free, .periods, .dict, .ev, .ports, .doms, .ring, .dram, .boot, .ecat, .test, .comp, .cart, .xport, .power, .kiln, .recov, .sched, .jour, .opLog, .energy, .savedEnergy, .pins] := fun _ y => y
  try extract_lets -underBinder
  repeat' first
   | with_reducible assumption
   | exact sub_trans rfl hsub
   | intro _
   | with_reducible apply kept_ite
   | with_reducible apply startPart_kept
   | with_reducible apply afterReset_kept
   | split
   | extract_lets -underBinder
   | (dsimp +zetaDelta only; split)

theorem execBankSupplyRises_kept (bank : Fin 4) (mv : Half) (s : State) :
    ∃ t, execBankSupplyRises bank mv s = .next t ∧ Kept [.boot] s t := by
  unfold execBankSupplyRises
  refine ⟨_, rfl, ?_⟩
  have hk := Kept.refl [.boot] s
  have hsub : ([.boot] : List Part) ⊆ [.boot] := fun _ y => y
  try extract_lets -underBinder
  repeat' first
   | with_reducible assumption
   | exact sub_trans rfl hsub
   | intro _
   | with_reducible apply kept_ite
   | exact Or.inl (mem_of rfl hsub)
   | with_reducible exact Or.inr rfl
   | split
   | extract_lets -underBinder
   | (dsimp +zetaDelta only; split)
   | with_reducible apply kept_mk

end Sys2Proof.Machine
end

