-- ==== Sys2Proof/Laws/KeptPowerStates.lean ====
section
/-!
SUPPORT. What the operations of Machine/PowerStates.lean may touch, and that they keep the canonical forms.
-/
set_option linter.unusedTactic false
set_option linter.unreachableTactic false
set_option linter.unusedVariables false

namespace Sys2Proof.Machine

theorem park_kept {mask : List Part} {s0 s : State} (hk : Kept mask s0 s)
    (hsub : [.dict, .xport] ⊆ mask) : Kept mask s0 (park s) := by
  unfold park
  try extract_lets -underBinder
  repeat' first
   | with_reducible assumption
   | exact sub_trans rfl hsub
   | intro _
   | with_reducible apply kept_ite
   | with_reducible apply modXport_kept
   | with_reducible apply enterXport_kept
   | with_reducible apply kept_id
   | split
   | extract_lets -underBinder
   | (dsimp +zetaDelta only; split)

theorem execP1Reached_kept (s : State) :
    ∃ t, execP1Reached s = .next t ∧ Kept [.free, .dict, .ev, .ports, .dram, .xport, .sched, .opLog] s t := by
  unfold execP1Reached
  refine ⟨_, rfl, ?_⟩
  have hk := Kept.refl [.free, .dict, .ev, .ports, .dram, .xport, .sched, .opLog] s
  have hsub : ([.free, .dict, .ev, .ports, .dram, .xport, .sched, .opLog] : List Part) ⊆ [.free, .dict, .ev, .ports, .dram, .xport, .sched, .opLog] := fun _ y => y
  try extract_lets -underBinder
  repeat' first
   | with_reducible assumption
   | exact sub_trans rfl hsub
   | intro _
   | with_reducible apply kept_ite
   | with_reducible apply live_kept
   | with_reducible apply park_kept
   | with_reducible apply pollPower_kept
   | with_reducible apply endMasked_kept
   | with_reducible apply setPowerState_kept
   | exact Or.inl (mem_of rfl hsub)
   | with_reducible exact Or.inr rfl
   | split
   | extract_lets -underBinder
   | (dsimp +zetaDelta only; split)
   | with_reducible apply kept_mk

theorem execP2Entry_kept (s : State) :
    ∃ t, execP2Entry s = .next t ∧ Kept [.free, .dict, .ev, .ports, .dram, .xport, .sched, .opLog] s t := by
  unfold execP2Entry
  refine ⟨_, rfl, ?_⟩
  have hk := Kept.refl [.free, .dict, .ev, .ports, .dram, .xport, .sched, .opLog] s
  have hsub : ([.free, .dict, .ev, .ports, .dram, .xport, .sched, .opLog] : List Part) ⊆ [.free, .dict, .ev, .ports, .dram, .xport, .sched, .opLog] := fun _ y => y
  try extract_lets -underBinder
  repeat' first
   | with_reducible assumption
   | exact sub_trans rfl hsub
   | intro _
   | with_reducible apply kept_ite
   | with_reducible apply live_kept
   | with_reducible apply enterXport_kept
   | with_reducible apply pollPower_kept
   | with_reducible apply endMasked_kept
   | with_reducible apply bump_kept
   | with_reducible apply setPowerState_kept
   | exact Or.inl (mem_of rfl hsub)
   | with_reducible exact Or.inr rfl
   | split
   | extract_lets -underBinder
   | (dsimp +zetaDelta only; split)
   | with_reducible apply kept_mk

theorem execIdleEntryRetry_kept (s : State) :
    ∃ t, execIdleEntryRetry s = .next t ∧ Kept [.dict, .ports] s t := by
  unfold execIdleEntryRetry
  refine ⟨_, rfl, ?_⟩
  have hk := Kept.refl [.dict, .ports] s
  have hsub : ([.dict, .ports] : List Part) ⊆ [.dict, .ports] := fun _ y => y
  try extract_lets -underBinder
  repeat' first
   | with_reducible assumption
   | exact sub_trans rfl hsub
   | intro _
   | with_reducible apply kept_ite
   | with_reducible apply live_kept
   | with_reducible apply askIdle_kept
   | split
   | extract_lets -underBinder
   | (dsimp +zetaDelta only; split)

theorem xportExit_kept {mask : List Part} {s0 s : State} (hk : Kept mask s0 s)
    (hsub : [.dict, .xport] ⊆ mask) : Kept mask s0 (xportExit s) := by
  unfold xportExit
  try extract_lets -underBinder
  repeat' first
   | with_reducible assumption
   | exact sub_trans rfl hsub
   | intro _
   | with_reducible apply kept_ite
   | with_reducible apply enterXport_kept
   | with_reducible apply xportIdle_kept
   | split
   | extract_lets -underBinder
   | (dsimp +zetaDelta only; split)

theorem execExitP1Reached_kept (s : State) :
    ∃ t, execExitP1Reached s = .next t ∧ Kept [.free, .dict, .ev, .ports, .doms, .ring, .dram, .test, .comp, .cart, .xport, .kiln, .recov, .sched, .jour, .opLog, .energy] s t := by
  unfold execExitP1Reached
  refine ⟨_, rfl, ?_⟩
  have hk := Kept.refl [.free, .dict, .ev, .ports, .doms, .ring, .dram, .test, .comp, .cart, .xport, .kiln, .recov, .sched, .jour, .opLog, .energy] s
  have hsub : ([.free, .dict, .ev, .ports, .doms, .ring, .dram, .test, .comp, .cart, .xport, .kiln, .recov, .sched, .jour, .opLog, .energy] : List Part) ⊆ [.free, .dict, .ev, .ports, .doms, .ring, .dram, .test, .comp, .cart, .xport, .kiln, .recov, .sched, .jour, .opLog, .energy] := fun _ y => y
  try extract_lets -underBinder
  repeat' first
   | with_reducible assumption
   | exact sub_trans rfl hsub
   | intro _
   | with_reducible apply kept_ite
   | with_reducible apply live_kept
   | with_reducible apply pollPower_kept
   | with_reducible apply drainBacklogs_kept
   | with_reducible apply xportExit_kept
   | with_reducible apply setPowerState_kept
   | exact Or.inl (mem_of rfl hsub)
   | with_reducible exact Or.inr rfl
   | split
   | extract_lets -underBinder
   | (dsimp +zetaDelta only; split)
   | with_reducible apply kept_mk

theorem execP0Reached_kept (s : State) :
    ∃ t, execP0Reached s = .next t ∧ Kept [.free, .dict, .ev, .ports, .doms, .ring, .dram, .comp, .xport, .kiln, .sched, .opLog, .energy] s t := by
  unfold execP0Reached
  refine ⟨_, rfl, ?_⟩
  have hk := Kept.refl [.free, .dict, .ev, .ports, .doms, .ring, .dram, .comp, .xport, .kiln, .sched, .opLog, .energy] s
  have hsub : ([.free, .dict, .ev, .ports, .doms, .ring, .dram, .comp, .xport, .kiln, .sched, .opLog, .energy] : List Part) ⊆ [.free, .dict, .ev, .ports, .doms, .ring, .dram, .comp, .xport, .kiln, .sched, .opLog, .energy] := fun _ y => y
  try extract_lets -underBinder
  repeat' first
   | with_reducible assumption
   | exact sub_trans rfl hsub
   | intro _
   | with_reducible apply kept_ite
   | with_reducible apply live_kept
   | with_reducible apply pollPower_kept
   | with_reducible apply progressAll_kept
   | with_reducible apply followCart_kept
   | with_reducible apply setPowerState_kept
   | split
   | extract_lets -underBinder
   | (dsimp +zetaDelta only; split)

end Sys2Proof.Machine
end

