-- ==== Sys2Proof/Laws/KeptScheduler.lean ====
section
/-!
SUPPORT. What the operations of Machine/Scheduler.lean may touch, and that they keep the canonical forms.
-/
set_option linter.unusedTactic false
set_option linter.unreachableTactic false
set_option linter.unusedVariables false

namespace Sys2Proof.Machine

theorem buildWork_kept {mask : List Part} {s0 s : State} (w : Work) (hk : Kept mask s0 s)
    (hsub : [.free, .dict, .ev, .ports, .doms, .ring, .dram, .comp, .cart, .xport, .kiln, .sched, .jour, .opLog] ⊆ mask) : Kept mask s0 (buildWork w s) := by
  unfold buildWork
  try extract_lets -underBinder
  repeat' first
   | with_reducible assumption
   | exact sub_trans rfl hsub
   | intro _
   | with_reducible apply kept_ite
   | with_reducible apply buildKilnCut_kept
   | with_reducible apply buildDomainCut_kept
   | with_reducible apply buildMapCut_kept
   | with_reducible apply buildReallocCut_kept
   | with_reducible apply buildBedrockCut_kept
   | with_reducible apply buildReclaimCut_kept
   | split
   | extract_lets -underBinder
   | (dsimp +zetaDelta only; split)

theorem runAtStep_kept {mask : List Part} {s0 s : State} (hk : Kept mask s0 s)
    (hsub : [.xport] ⊆ mask) : Kept mask s0 (runAtStep s) := by
  unfold runAtStep
  try extract_lets -underBinder
  repeat' first
   | with_reducible assumption
   | exact sub_trans rfl hsub
   | intro _
   | with_reducible apply kept_ite
   | with_reducible apply modXport_kept
   | split
   | extract_lets -underBinder
   | (dsimp +zetaDelta only; split)

theorem setStep_kept {mask : List Part} {s0 s : State} (n : Nat) (hk : Kept mask s0 s)
    (hsub : [.sched] ⊆ mask) : Kept mask s0 (setStep n s) := by
  unfold setStep
  try extract_lets -underBinder
  repeat' first
   | with_reducible assumption
   | exact sub_trans rfl hsub
   | intro _
   | with_reducible apply kept_ite
   | exact Or.inl (mem_of rfl hsub)
   | with_reducible exact Or.inr rfl
   | split
   | extract_lets -underBinder
   | (dsimp +zetaDelta only; split)
   | with_reducible apply kept_mk

theorem endBurst_kept {mask : List Part} {s0 s : State} (hk : Kept mask s0 s)
    (hsub : [.free, .dict, .ev, .ports, .xport, .sched, .opLog] ⊆ mask) : Kept mask s0 (endBurst s) := by
  unfold endBurst
  try extract_lets -underBinder
  repeat' first
   | with_reducible assumption
   | exact sub_trans rfl hsub
   | intro _
   | with_reducible apply kept_ite
   | with_reducible apply stopTape_kept
   | with_reducible apply bump_kept
   | with_reducible apply pollPower_kept
   | with_reducible apply kept_id
   | exact Or.inl (mem_of rfl hsub)
   | with_reducible exact Or.inr rfl
   | split
   | extract_lets -underBinder
   | (dsimp +zetaDelta only; split)
   | with_reducible apply kept_mk

theorem serveWork_kept {mask : List Part} {s0 s : State} (w : Work) (hk : Kept mask s0 s)
    (hsub : [.free, .dict, .ev, .ports, .doms, .ring, .dram, .comp, .cart, .xport, .kiln, .sched, .jour, .opLog] ⊆ mask) : Kept mask s0 (serveWork w s) := by
  unfold serveWork
  try extract_lets -underBinder
  repeat' first
   | with_reducible assumption
   | exact sub_trans rfl hsub
   | intro _
   | with_reducible apply kept_ite
   | with_reducible apply startExcursion_kept
   | with_reducible apply startGeneration_kept
   | exact findRoom_kept (by assumption) hk (sub_trans rfl hsub)
   | with_reducible apply runAtStep_kept
   | with_reducible apply buildWork_kept
   | with_reducible apply startLocate_kept
   | split
   | extract_lets -underBinder
   | (dsimp +zetaDelta only; split)

theorem boundaryIdle_kept {mask : List Part} {s0 s : State} (hk : Kept mask s0 s)
    (hsub : [.free, .dict, .ev, .ports, .xport, .sched, .opLog] ⊆ mask) : Kept mask s0 (boundaryIdle s) := by
  unfold boundaryIdle
  try extract_lets -underBinder
  repeat' first
   | with_reducible assumption
   | exact sub_trans rfl hsub
   | intro _
   | with_reducible apply kept_ite
   | with_reducible apply endBurst_kept
   | split
   | extract_lets -underBinder
   | (dsimp +zetaDelta only; split)

theorem execCutBoundary_kept (s : State) :
    ∃ t, execCutBoundary s = .next t ∧ Kept [.free, .dict, .ev, .ports, .doms, .ring, .dram, .comp, .cart, .xport, .kiln, .sched, .jour, .opLog] s t := by
  unfold execCutBoundary
  refine ⟨_, rfl, ?_⟩
  have hk := Kept.refl [.free, .dict, .ev, .ports, .doms, .ring, .dram, .comp, .cart, .xport, .kiln, .sched, .jour, .opLog] s
  have hsub : ([.free, .dict, .ev, .ports, .doms, .ring, .dram, .comp, .cart, .xport, .kiln, .sched, .jour, .opLog] : List Part) ⊆ [.free, .dict, .ev, .ports, .doms, .ring, .dram, .comp, .cart, .xport, .kiln, .sched, .jour, .opLog] := fun _ y => y
  try extract_lets -underBinder
  repeat' first
   | with_reducible assumption
   | exact sub_trans rfl hsub
   | intro _
   | with_reducible apply kept_ite
   | with_reducible apply working_kept
   | with_reducible apply endBurst_kept
   | with_reducible apply reclaimCheck_kept
   | with_reducible apply closeForCut_kept
   | with_reducible apply setStep_kept
   | with_reducible apply runAtStep_kept
   | with_reducible apply boundaryIdle_kept
   | with_reducible apply serveWork_kept
   | split
   | extract_lets -underBinder
   | (dsimp +zetaDelta only; split)

theorem execStreamGapExpiry_kept (s : State) :
    ∃ t, execStreamGapExpiry s = .next t ∧ Kept [.free, .dict, .ev, .ports, .xport, .sched, .opLog] s t := by
  unfold execStreamGapExpiry
  refine ⟨_, rfl, ?_⟩
  have hk := Kept.refl [.free, .dict, .ev, .ports, .xport, .sched, .opLog] s
  have hsub : ([.free, .dict, .ev, .ports, .xport, .sched, .opLog] : List Part) ⊆ [.free, .dict, .ev, .ports, .xport, .sched, .opLog] := fun _ y => y
  try extract_lets -underBinder
  repeat' first
   | with_reducible assumption
   | exact sub_trans rfl hsub
   | intro _
   | with_reducible apply kept_ite
   | with_reducible apply live_kept
   | with_reducible apply endBurst_kept
   | with_reducible apply setStep_kept
   | split
   | extract_lets -underBinder
   | (dsimp +zetaDelta only; split)

theorem openBurst_kept {mask : List Part} {s0 s : State} (hk : Kept mask s0 s)
    (hsub : [.sched] ⊆ mask) : Kept mask s0 (openBurst s) := by
  unfold openBurst
  try extract_lets -underBinder
  repeat' first
   | with_reducible assumption
   | exact sub_trans rfl hsub
   | intro _
   | with_reducible apply kept_ite
   | exact Or.inl (mem_of rfl hsub)
   | with_reducible exact Or.inr rfl
   | split
   | extract_lets -underBinder
   | (dsimp +zetaDelta only; split)
   | with_reducible apply kept_mk

theorem execBurstStart_kept (s : State) :
    ∃ t, execBurstStart s = .next t ∧ Kept [.free, .dict, .ev, .ports, .comp, .xport, .sched, .jour, .opLog] s t := by
  unfold execBurstStart
  refine ⟨_, rfl, ?_⟩
  have hk := Kept.refl [.free, .dict, .ev, .ports, .comp, .xport, .sched, .jour, .opLog] s
  have hsub : ([.free, .dict, .ev, .ports, .comp, .xport, .sched, .jour, .opLog] : List Part) ⊆ [.free, .dict, .ev, .ports, .comp, .xport, .sched, .jour, .opLog] := fun _ y => y
  try extract_lets -underBinder
  repeat' first
   | with_reducible assumption
   | exact sub_trans rfl hsub
   | intro _
   | with_reducible apply kept_ite
   | with_reducible apply working_kept
   | with_reducible apply reclaimCheck_kept
   | with_reducible apply closeForCut_kept
   | with_reducible apply setStep_kept
   | with_reducible apply openBurst_kept
   | with_reducible apply modXport_kept
   | with_reducible apply enterXport_kept
   | with_reducible apply seedChannel_kept
   | with_reducible apply runAtStep_kept
   | with_reducible apply pollPower_kept
   | with_reducible apply kept_id
   | split
   | extract_lets -underBinder
   | (dsimp +zetaDelta only; split)

theorem execBackhitchComplete_kept (s : State) :
    ∃ t, execBackhitchComplete s = .next t ∧ Kept [.free, .dict, .ev, .ports, .sched, .opLog] s t := by
  unfold execBackhitchComplete
  refine ⟨_, rfl, ?_⟩
  have hk := Kept.refl [.free, .dict, .ev, .ports, .sched, .opLog] s
  have hsub : ([.free, .dict, .ev, .ports, .sched, .opLog] : List Part) ⊆ [.free, .dict, .ev, .ports, .sched, .opLog] := fun _ y => y
  try extract_lets -underBinder
  repeat' first
   | with_reducible assumption
   | exact sub_trans rfl hsub
   | intro _
   | with_reducible apply kept_ite
   | with_reducible apply live_kept
   | with_reducible apply pollPower_kept
   | exact Or.inl (mem_of rfl hsub)
   | with_reducible exact Or.inr rfl
   | split
   | extract_lets -underBinder
   | (dsimp +zetaDelta only; split)
   | with_reducible apply kept_mk

theorem execSpeedEvaluation_kept (s : State) :
    ∃ t, execSpeedEvaluation s = .next t ∧ Kept [.free, .dict, .ev, .ports, .sched, .opLog] s t := by
  unfold execSpeedEvaluation
  refine ⟨_, rfl, ?_⟩
  have hk := Kept.refl [.free, .dict, .ev, .ports, .sched, .opLog] s
  have hsub : ([.free, .dict, .ev, .ports, .sched, .opLog] : List Part) ⊆ [.free, .dict, .ev, .ports, .sched, .opLog] := fun _ y => y
  try extract_lets -underBinder
  repeat' first
   | with_reducible assumption
   | exact sub_trans rfl hsub
   | intro _
   | with_reducible apply kept_ite
   | with_reducible apply working_kept
   | with_reducible apply setObj_kept
   | with_reducible apply pollPower_kept
   | with_reducible apply kept_id
   | exact Or.inl (mem_of rfl hsub)
   | with_reducible exact Or.inr rfl
   | split
   | extract_lets -underBinder
   | (dsimp +zetaDelta only; split)
   | with_reducible apply kept_mk

theorem execPoolMaxAgeExpiry_kept (d : Dom) (s : State) :
    ∃ t, execPoolMaxAgeExpiry d s = .next t ∧ Kept [.free, .dict, .ev, .ports, .sched, .opLog] s t := by
  unfold execPoolMaxAgeExpiry
  refine ⟨_, rfl, ?_⟩
  have hk := Kept.refl [.free, .dict, .ev, .ports, .sched, .opLog] s
  have hsub : ([.free, .dict, .ev, .ports, .sched, .opLog] : List Part) ⊆ [.free, .dict, .ev, .ports, .sched, .opLog] := fun _ y => y
  try extract_lets -underBinder
  repeat' first
   | with_reducible assumption
   | exact sub_trans rfl hsub
   | intro _
   | with_reducible apply kept_ite
   | with_reducible apply live_kept
   | with_reducible apply pollPower_kept
   | exact Or.inl (mem_of rfl hsub)
   | with_reducible exact Or.inr rfl
   | split
   | extract_lets -underBinder
   | (dsimp +zetaDelta only; split)
   | with_reducible apply kept_mk

theorem execDerateRecovery_kept (s : State) :
    ∃ t, execDerateRecovery s = .next t ∧ Kept [.free, .dict, .ev, .ports, .sched, .opLog] s t := by
  unfold execDerateRecovery
  refine ⟨_, rfl, ?_⟩
  have hk := Kept.refl [.free, .dict, .ev, .ports, .sched, .opLog] s
  have hsub : ([.free, .dict, .ev, .ports, .sched, .opLog] : List Part) ⊆ [.free, .dict, .ev, .ports, .sched, .opLog] := fun _ y => y
  try extract_lets -underBinder
  repeat' first
   | with_reducible assumption
   | exact sub_trans rfl hsub
   | intro _
   | with_reducible apply kept_ite
   | with_reducible apply live_kept
   | with_reducible apply withCap_kept
   | exact Or.inl (mem_of rfl hsub)
   | with_reducible exact Or.inr rfl
   | split
   | extract_lets -underBinder
   | (dsimp +zetaDelta only; split)
   | with_reducible apply kept_mk

theorem execReadExcursionLimit_kept (s : State) :
    ∃ t, execReadExcursionLimit s = .next t ∧ Kept [.sched] s t := by
  unfold execReadExcursionLimit
  refine ⟨_, rfl, ?_⟩
  have hk := Kept.refl [.sched] s
  have hsub : ([.sched] : List Part) ⊆ [.sched] := fun _ y => y
  try extract_lets -underBinder
  repeat' first
   | with_reducible assumption
   | exact sub_trans rfl hsub
   | intro _
   | with_reducible apply kept_ite
   | with_reducible apply live_kept
   | exact Or.inl (mem_of rfl hsub)
   | with_reducible exact Or.inr rfl
   | split
   | extract_lets -underBinder
   | (dsimp +zetaDelta only; split)
   | with_reducible apply kept_mk

theorem execReadWaitPriority_kept (h : CmdHead) (s : State) :
    ∃ t, execReadWaitPriority h s = .next t ∧ Kept [.sched] s t := by
  unfold execReadWaitPriority
  refine ⟨_, rfl, ?_⟩
  have hk := Kept.refl [.sched] s
  have hsub : ([.sched] : List Part) ⊆ [.sched] := fun _ y => y
  try extract_lets -underBinder
  repeat' first
   | with_reducible assumption
   | exact sub_trans rfl hsub
   | intro _
   | with_reducible apply kept_ite
   | with_reducible apply live_kept
   | exact Or.inl (mem_of rfl hsub)
   | with_reducible exact Or.inr rfl
   | split
   | extract_lets -underBinder
   | (dsimp +zetaDelta only; split)
   | with_reducible apply kept_mk

end Sys2Proof.Machine
end

