-- ==== Sys2Proof/Laws/KeptWriting.lean ====
section
/-!
SUPPORT. What the operations of Machine/Writing.lean may touch, and that they keep the canonical forms.
-/
set_option linter.unusedTactic false
set_option linter.unreachableTactic false
set_option linter.unusedVariables false

namespace Sys2Proof.Machine

theorem lockClock_kept {mask : List Part} {s0 s : State} (hk : Kept mask s0 s)
    (hsub : [.xport] ⊆ mask) : Kept mask s0 (lockClock s) := by
  unfold lockClock
  try extract_lets -underBinder
  repeat' first
   | with_reducible assumption
   | exact sub_trans rfl hsub
   | intro _
   | with_reducible apply kept_ite
   | with_reducible apply modXport_kept
   | split
   | extract_lets -underBinder
   | (dsimp +zetaDelta only; split)

theorem modOpen_kept {mask : List Part} {s0 s : State} (f : OpenCut → OpenCut) (hk : Kept mask s0 s)
    (hsub : [.cart] ⊆ mask) : Kept mask s0 (modOpen f s) := by
  unfold modOpen
  try extract_lets -underBinder
  repeat' first
   | with_reducible assumption
   | exact sub_trans rfl hsub
   | intro _
   | with_reducible apply kept_ite
   | with_reducible apply modCart_kept
   | split
   | extract_lets -underBinder
   | (dsimp +zetaDelta only; split)

theorem passFrame_kept {mask : List Part} {s0 s : State} (fs : Nat) (hk : Kept mask s0 s)
    (hsub : [.cart] ⊆ mask) : Kept mask s0 (passFrame fs s) := by
  unfold passFrame
  try extract_lets -underBinder
  repeat' first
   | with_reducible assumption
   | exact sub_trans rfl hsub
   | intro _
   | with_reducible apply kept_ite
   | with_reducible apply modOpen_kept
   | split
   | extract_lets -underBinder
   | (dsimp +zetaDelta only; split)

theorem rewriteFrame_kept {mask : List Part} {s0 s : State} (fs : Nat) (miss : Nat) (window : Nat) (hk : Kept mask s0 s)
    (hsub : [.dict, .cart] ⊆ mask) : Kept mask s0 (rewriteFrame fs miss window s) := by
  unfold rewriteFrame
  try extract_lets -underBinder
  repeat' first
   | with_reducible assumption
   | exact sub_trans rfl hsub
   | intro _
   | with_reducible apply kept_ite
   | with_reducible apply modOpen_kept
   | with_reducible apply bump_kept
   | with_reducible apply kept_id
   | split
   | extract_lets -underBinder
   | (dsimp +zetaDelta only; split)

theorem refuseArea_kept {mask : List Part} {s0 s : State} (c : Chain) (hk : Kept mask s0 s)
    (hsub : [.free, .dict, .ev, .ports, .cart, .opLog] ⊆ mask) : Kept mask s0 (refuseArea c s) := by
  unfold refuseArea
  try extract_lets -underBinder
  repeat' first
   | with_reducible assumption
   | exact sub_trans rfl hsub
   | intro _
   | with_reducible apply kept_ite
   | with_reducible apply blankEnd_kept
   | with_reducible apply bump_kept
   | with_reducible apply postEvent_kept
   | with_reducible apply openArea_kept
   | with_reducible apply modChain_kept
   | with_reducible apply kept_id
   | split
   | extract_lets -underBinder
   | (dsimp +zetaDelta only; split)

theorem countKiln_kept {mask : List Part} {s0 s : State} (f : StateBlock → StateBlock) (hk : Kept mask s0 s)
    (hsub : [.free, .dict, .ev, .ports, .cart, .opLog] ⊆ mask) : Kept mask s0 (countKiln f s) := by
  unfold countKiln
  try extract_lets -underBinder
  repeat' first
   | with_reducible assumption
   | exact sub_trans rfl hsub
   | intro _
   | with_reducible apply kept_ite
   | with_reducible apply updateMemory_kept
   | with_reducible apply setObj_kept
   | with_reducible apply postEvent_kept
   | with_reducible apply kept_id
   | split
   | extract_lets -underBinder
   | (dsimp +zetaDelta only; split)

theorem countData_kept {mask : List Part} {s0 s : State} (hk : Kept mask s0 s)
    (hsub : [.cart] ⊆ mask) : Kept mask s0 (countData s) := by
  unfold countData
  try extract_lets -underBinder
  repeat' first
   | with_reducible assumption
   | exact sub_trans rfl hsub
   | intro _
   | with_reducible apply kept_ite
   | with_reducible apply modCart_kept
   | split
   | extract_lets -underBinder
   | (dsimp +zetaDelta only; split)

theorem writePathFault_kept {mask : List Part} {s0 s : State} (hk : Kept mask s0 s)
    (hsub : [.free, .dict, .ev, .ports, .doms, .ring, .dram, .test, .comp, .cart, .xport, .kiln, .sched, .opLog, .energy] ⊆ mask) : Kept mask s0 (writePathFault s) := by
  unfold writePathFault
  try extract_lets -underBinder
  repeat' first
   | with_reducible assumption
   | exact sub_trans rfl hsub
   | intro _
   | with_reducible apply kept_ite
   | with_reducible apply postEvent_kept
   | with_reducible apply transportFault_kept
   | with_reducible apply kept_id
   | split
   | extract_lets -underBinder
   | (dsimp +zetaDelta only; split)

theorem abandonCut_kept {mask : List Part} {s0 s : State} (miss : Nat) (window : Nat) (written : Nat) (hk : Kept mask s0 s)
    (hsub : [.free, .dict, .ev, .ports, .doms, .ring, .dram, .test, .comp, .cart, .xport, .kiln, .sched, .opLog, .energy] ⊆ mask) : Kept mask s0 (abandonCut miss window written s) := by
  unfold abandonCut
  try extract_lets -underBinder
  repeat' first
   | with_reducible assumption
   | exact sub_trans rfl hsub
   | intro _
   | with_reducible apply kept_ite
   | with_reducible apply layDown_kept
   | with_reducible apply modChain_kept
   | with_reducible apply noteRecent_kept
   | with_reducible apply bump_kept
   | with_reducible apply postEvent_kept
   | with_reducible apply logRewrite_kept
   | with_reducible apply countKiln_kept
   | with_reducible apply countData_kept
   | with_reducible apply showAbandons_kept
   | with_reducible apply refuseArea_kept
   | with_reducible apply addCharge_kept
   | with_reducible apply blankEnd_kept
   | with_reducible apply openArea_kept
   | with_reducible apply modCart_kept
   | with_reducible apply refreshTape_kept
   | with_reducible apply writePathFault_kept
   | with_reducible apply kept_id
   | split
   | extract_lets -underBinder
   | (dsimp +zetaDelta only; split)

theorem execFrameSetDecision_kept (fs : BitVec 5) (clock : DWord) (frames : List FrameRead) (window : Half) (written : BitVec 6) (s : State) :
    ∃ t, execFrameSetDecision fs clock frames window written s = .next t ∧ Kept [.free, .dict, .ev, .ports, .doms, .ring, .dram, .test, .comp, .cart, .xport, .kiln, .sched, .opLog, .energy] s t := by
  unfold execFrameSetDecision
  refine ⟨_, rfl, ?_⟩
  have hk := Kept.refl [.free, .dict, .ev, .ports, .doms, .ring, .dram, .test, .comp, .cart, .xport, .kiln, .sched, .opLog, .energy] s
  have hsub : ([.free, .dict, .ev, .ports, .doms, .ring, .dram, .test, .comp, .cart, .xport, .kiln, .sched, .opLog, .energy] : List Part) ⊆ [.free, .dict, .ev, .ports, .doms, .ring, .dram, .test, .comp, .cart, .xport, .kiln, .sched, .opLog, .energy] := fun _ y => y
  try extract_lets -underBinder
  repeat' first
   | with_reducible assumption
   | exact sub_trans rfl hsub
   | intro _
   | with_reducible apply kept_ite
   | with_reducible apply working_kept
   | with_reducible apply bump_kept
   | with_reducible apply bumpBy_kept
   | with_reducible apply lockClock_kept
   | with_reducible apply addWeight_kept
   | with_reducible apply passFrame_kept
   | with_reducible apply setObj_kept
   | with_reducible apply rewriteFrame_kept
   | with_reducible apply abandonCut_kept
   | with_reducible apply kept_id
   | split
   | extract_lets -underBinder
   | (dsimp +zetaDelta only; split)

theorem startReplacement_kept {mask : List Part} {s0 s : State} (o : OpenCut) (hk : Kept mask s0 s)
    (hsub : [.free, .dict, .ev, .ports, .cart, .xport, .jour, .opLog] ⊆ mask) : Kept mask s0 (startReplacement o s) := by
  unfold startReplacement
  try extract_lets -underBinder
  repeat' first
   | with_reducible assumption
   | exact sub_trans rfl hsub
   | intro _
   | with_reducible apply kept_ite
   | with_reducible apply modCart_kept
   | with_reducible apply startCut_kept
   | with_reducible apply modZone_kept
   | split
   | extract_lets -underBinder
   | (dsimp +zetaDelta only; split)

theorem execSpliceGapEnd_kept (s : State) :
    ∃ t, execSpliceGapEnd s = .next t ∧ Kept [.free, .dict, .ev, .ports, .comp, .cart, .xport, .kiln, .jour, .opLog] s t := by
  unfold execSpliceGapEnd
  refine ⟨_, rfl, ?_⟩
  have hk := Kept.refl [.free, .dict, .ev, .ports, .comp, .cart, .xport, .kiln, .jour, .opLog] s
  have hsub : ([.free, .dict, .ev, .ports, .comp, .cart, .xport, .kiln, .jour, .opLog] : List Part) ⊆ [.free, .dict, .ev, .ports, .comp, .cart, .xport, .kiln, .jour, .opLog] := fun _ y => y
  try extract_lets -underBinder
  repeat' first
   | with_reducible assumption
   | exact sub_trans rfl hsub
   | intro _
   | with_reducible apply kept_ite
   | with_reducible apply live_kept
   | with_reducible apply startReplacement_kept
   | with_reducible apply runAtStep_kept
   | exact Or.inl (mem_of rfl hsub)
   | with_reducible exact Or.inr rfl
   | split
   | extract_lets -underBinder
   | (dsimp +zetaDelta only; split)
   | with_reducible apply kept_mk

theorem indexCut_kept {mask : List Part} {s0 s : State} (cut : Cut) (d : Dom) (hk : Kept mask s0 s)
    (hsub : [.cart] ⊆ mask) : Kept mask s0 (indexCut cut d s) := by
  unfold indexCut
  try extract_lets -underBinder
  repeat' first
   | with_reducible assumption
   | exact sub_trans rfl hsub
   | intro _
   | with_reducible apply kept_ite
   | with_reducible apply modCart_kept
   | split
   | extract_lets -underBinder
   | (dsimp +zetaDelta only; split)

theorem renameIndex_kept {mask : List Part} {s0 s : State} (old : Nat) (new : Nat) (hk : Kept mask s0 s)
    (hsub : [.cart] ⊆ mask) : Kept mask s0 (renameIndex old new s) := by
  unfold renameIndex
  try extract_lets -underBinder
  repeat' first
   | with_reducible assumption
   | exact sub_trans rfl hsub
   | intro _
   | with_reducible apply kept_ite
   | with_reducible apply modCart_kept
   | split
   | extract_lets -underBinder
   | (dsimp +zetaDelta only; split)

theorem retireCut_kept {mask : List Part} {s0 s : State} (serial : Nat) (hk : Kept mask s0 s)
    (hsub : [.cart] ⊆ mask) : Kept mask s0 (retireCut serial s) := by
  unfold retireCut
  try extract_lets -underBinder
  repeat' first
   | with_reducible assumption
   | exact sub_trans rfl hsub
   | intro _
   | with_reducible apply kept_ite
   | with_reducible apply modCut_kept
   | split
   | extract_lets -underBinder
   | (dsimp +zetaDelta only; split)

theorem finishRealloc_kept {mask : List Part} {s0 s : State} (old : Nat) (new : Nat) (hk : Kept mask s0 s)
    (hsub : [.cart, .jour, .opLog] ⊆ mask) : Kept mask s0 (finishRealloc old new s) := by
  unfold finishRealloc
  try extract_lets -underBinder
  repeat' first
   | with_reducible assumption
   | exact sub_trans rfl hsub
   | intro _
   | with_reducible apply kept_ite
   | with_reducible apply modCart_kept
   | with_reducible apply endOp_kept
   | with_reducible apply kept_id
   | split
   | extract_lets -underBinder
   | (dsimp +zetaDelta only; split)

theorem finishCopy_kept {mask : List Part} {s0 s : State} (cut : Cut) (hk : Kept mask s0 s)
    (hsub : [.cart, .sched, .jour, .opLog] ⊆ mask) : Kept mask s0 (finishCopy cut s) := by
  unfold finishCopy
  try extract_lets -underBinder
  repeat' first
   | with_reducible assumption
   | exact sub_trans rfl hsub
   | intro _
   | with_reducible apply kept_ite
   | with_reducible apply retireCut_kept
   | with_reducible apply renameIndex_kept
   | with_reducible apply finishRealloc_kept
   | with_reducible apply stepReclaim_kept
   | with_reducible apply kept_id
   | split
   | extract_lets -underBinder
   | (dsimp +zetaDelta only; split)

theorem afterData_kept {mask : List Part} {s0 s : State} (cut : Cut) (d : Dom) (hk : Kept mask s0 s)
    (hsub : [.dict, .doms, .ring, .dram, .comp, .cart, .sched, .jour, .opLog] ⊆ mask) : Kept mask s0 (afterData cut d s) := by
  unfold afterData
  try extract_lets -underBinder
  repeat' first
   | with_reducible assumption
   | exact sub_trans rfl hsub
   | intro _
   | with_reducible apply kept_ite
   | with_reducible apply finishCopy_kept
   | with_reducible apply indexCut_kept
   | with_reducible apply releaseCut_kept
   | with_reducible apply runPagers_kept
   | with_reducible apply kept_id
   | split
   | extract_lets -underBinder
   | (dsimp +zetaDelta only; split)

theorem afterKiln_kept {mask : List Part} {s0 s : State} (cut : Cut) (hk : Kept mask s0 s)
    (hsub : [.free, .dict, .ev, .ports, .cart, .kiln, .sched, .jour, .opLog] ⊆ mask) : Kept mask s0 (afterKiln cut s) := by
  unfold afterKiln
  try extract_lets -underBinder
  repeat' first
   | with_reducible assumption
   | exact sub_trans rfl hsub
   | intro _
   | with_reducible apply kept_ite
   | with_reducible apply kept_foldl
   | with_reducible apply countKiln_kept
   | with_reducible apply bump_kept
   | with_reducible apply finishCopy_kept
   | with_reducible apply kept_id
   | exact Or.inl (mem_of rfl hsub)
   | with_reducible exact Or.inr rfl
   | split
   | extract_lets -underBinder
   | (dsimp +zetaDelta only; split)
   | with_reducible apply kept_mk

theorem afterBedrock_kept {mask : List Part} {s0 s : State} (cut : Cut) (z : Fin 2) (hk : Kept mask s0 s)
    (hsub : [.free, .dict, .ev, .ports, .cart, .sched, .jour, .opLog] ⊆ mask) : Kept mask s0 (afterBedrock cut z s) := by
  unfold afterBedrock
  try extract_lets -underBinder
  repeat' first
   | with_reducible assumption
   | exact sub_trans rfl hsub
   | intro _
   | with_reducible apply kept_ite
   | with_reducible apply stepOp_kept
   | with_reducible apply modZone_kept
   | with_reducible apply endOp_kept
   | with_reducible apply postEvent_kept
   | with_reducible apply kept_id
   | exact Or.inl (mem_of rfl hsub)
   | with_reducible exact Or.inr rfl
   | split
   | extract_lets -underBinder
   | (dsimp +zetaDelta only; split)
   | with_reducible apply kept_mk

theorem afterMap_kept {mask : List Part} {s0 s : State} (cut : Cut) (hk : Kept mask s0 s)
    (hsub : [.cart, .jour, .opLog] ⊆ mask) : Kept mask s0 (afterMap cut s) := by
  unfold afterMap
  try extract_lets -underBinder
  repeat' first
   | with_reducible assumption
   | exact sub_trans rfl hsub
   | intro _
   | with_reducible apply kept_ite
   | with_reducible apply modCart_kept
   | with_reducible apply updateMemory_kept
   | with_reducible apply flushZones_kept
   | with_reducible apply endOp_kept
   | with_reducible apply stepOp_kept
   | with_reducible apply kept_id
   | split
   | extract_lets -underBinder
   | (dsimp +zetaDelta only; split)

theorem afterCut_kept {mask : List Part} {s0 s : State} (cut : Cut) (hk : Kept mask s0 s)
    (hsub : [.free, .dict, .ev, .ports, .doms, .ring, .dram, .comp, .cart, .kiln, .sched, .jour, .opLog] ⊆ mask) : Kept mask s0 (afterCut cut s) := by
  unfold afterCut
  try extract_lets -underBinder
  repeat' first
   | with_reducible assumption
   | exact sub_trans rfl hsub
   | intro _
   | with_reducible apply kept_ite
   | with_reducible apply countData_kept
   | with_reducible apply afterData_kept
   | with_reducible apply afterKiln_kept
   | with_reducible apply afterBedrock_kept
   | with_reducible apply afterMap_kept
   | split
   | extract_lets -underBinder
   | (dsimp +zetaDelta only; split)

theorem payOwed_kept {mask : List Part} {s0 s : State} (k : CutKind) (hk : Kept mask s0 s)
    (hsub : [.sched] ⊆ mask) : Kept mask s0 (payOwed k s) := by
  unfold payOwed
  try extract_lets -underBinder
  repeat' first
   | with_reducible assumption
   | exact sub_trans rfl hsub
   | intro _
   | with_reducible apply kept_ite
   | exact Or.inl (mem_of rfl hsub)
   | with_reducible exact Or.inr rfl
   | split
   | extract_lets -underBinder
   | (dsimp +zetaDelta only; split)
   | with_reducible apply kept_mk

theorem execCutVerified_kept (s : State) :
    ∃ t, execCutVerified s = .next t ∧ Kept [.free, .dict, .ev, .ports, .doms, .ring, .dram, .comp, .cart, .kiln, .sched, .jour, .opLog, .energy] s t := by
  unfold execCutVerified
  refine ⟨_, rfl, ?_⟩
  have hk := Kept.refl [.free, .dict, .ev, .ports, .doms, .ring, .dram, .comp, .cart, .kiln, .sched, .jour, .opLog, .energy] s
  have hsub : ([.free, .dict, .ev, .ports, .doms, .ring, .dram, .comp, .cart, .kiln, .sched, .jour, .opLog, .energy] : List Part) ⊆ [.free, .dict, .ev, .ports, .doms, .ring, .dram, .comp, .cart, .kiln, .sched, .jour, .opLog, .energy] := fun _ y => y
  try extract_lets -underBinder
  repeat' first
   | with_reducible assumption
   | exact sub_trans rfl hsub
   | intro _
   | with_reducible apply kept_ite
   | with_reducible apply live_kept
   | with_reducible apply layDown_kept
   | with_reducible apply modChain_kept
   | with_reducible apply noteRecent_kept
   | with_reducible apply showAbandons_kept
   | with_reducible apply logRewrite_kept
   | with_reducible apply progressAll_kept
   | with_reducible apply pollPower_kept
   | with_reducible apply reclaimCheck_kept
   | with_reducible apply refreshTape_kept
   | with_reducible apply payOwed_kept
   | with_reducible apply afterCut_kept
   | with_reducible apply kept_id
   | split
   | extract_lets -underBinder
   | (dsimp +zetaDelta only; split)

end Sys2Proof.Machine
end

