-- ==== Sys2Proof/Laws/KeptReadPath.lean ====
section
/-!
SUPPORT. What the operations of Machine/ReadPath.lean may touch, and that they keep the canonical forms.
-/
set_option linter.unusedTactic false
set_option linter.unreachableTactic false
set_option linter.unusedVariables false

namespace Sys2Proof.Machine

theorem runWrap_kept {mask : List Part} {s0 s : State} (step : Nat) (hk : Kept mask s0 s)
    (hsub : [.xport] ⊆ mask) : Kept mask s0 (runWrap step s) := by
  unfold runWrap
  try extract_lets -underBinder
  repeat' first
   | with_reducible assumption
   | exact sub_trans rfl hsub
   | intro _
   | with_reducible apply kept_ite
   | with_reducible apply modXport_kept
   | split
   | extract_lets -underBinder
   | (dsimp +zetaDelta only; split)

theorem execLocateComplete_kept (wedge : DWord) (s : State) :
    ∃ t, execLocateComplete wedge s = .next t ∧ Kept [.xport] s t := by
  unfold execLocateComplete
  refine ⟨_, rfl, ?_⟩
  have hk := Kept.refl [.xport] s
  have hsub : ([.xport] : List Part) ⊆ [.xport] := fun _ y => y
  try extract_lets -underBinder
  repeat' first
   | with_reducible assumption
   | exact sub_trans rfl hsub
   | intro _
   | with_reducible apply kept_ite
   | with_reducible apply live_kept
   | with_reducible apply modXport_kept
   | with_reducible apply seedChannel_kept
   | with_reducible apply lockClock_kept
   | with_reducible apply runWrap_kept
   | split
   | extract_lets -underBinder
   | (dsimp +zetaDelta only; split)

theorem execWrapCheck_kept (track : Fin 16) (wedges : Vector DWord 4) (s : State) :
    ∃ t, execWrapCheck track wedges s = .next t ∧ Kept [.free, .dict, .ev, .ports, .doms, .ring, .dram, .test, .comp, .cart, .xport, .kiln, .sched, .opLog, .energy] s t := by
  unfold execWrapCheck
  refine ⟨_, rfl, ?_⟩
  have hk := Kept.refl [.free, .dict, .ev, .ports, .doms, .ring, .dram, .test, .comp, .cart, .xport, .kiln, .sched, .opLog, .energy] s
  have hsub : ([.free, .dict, .ev, .ports, .doms, .ring, .dram, .test, .comp, .cart, .xport, .kiln, .sched, .opLog, .energy] : List Part) ⊆ [.free, .dict, .ev, .ports, .doms, .ring, .dram, .test, .comp, .cart, .xport, .kiln, .sched, .opLog, .energy] := fun _ y => y
  try extract_lets -underBinder
  repeat' first
   | with_reducible assumption
   | exact sub_trans rfl hsub
   | intro _
   | with_reducible apply kept_ite
   | with_reducible apply live_kept
   | with_reducible apply transportFault_kept
   | with_reducible apply modXport_kept
   | with_reducible apply bump_kept
   | with_reducible apply postEvent_kept
   | with_reducible apply kept_id
   | split
   | extract_lets -underBinder
   | (dsimp +zetaDelta only; split)

theorem modServo_kept {mask : List Part} {s0 s : State} (f : Servo → Servo) (hk : Kept mask s0 s)
    (hsub : [.xport] ⊆ mask) : Kept mask s0 (modServo f s) := by
  unfold modServo
  try extract_lets -underBinder
  repeat' first
   | with_reducible assumption
   | exact sub_trans rfl hsub
   | intro _
   | with_reducible apply kept_ite
   | with_reducible apply modXport_kept
   | split
   | extract_lets -underBinder
   | (dsimp +zetaDelta only; split)

theorem execHoldover_kept (s : State) :
    ∃ t, execHoldover s = .next t ∧ Kept [.xport] s t := by
  unfold execHoldover
  refine ⟨_, rfl, ?_⟩
  have hk := Kept.refl [.xport] s
  have hsub : ([.xport] : List Part) ⊆ [.xport] := fun _ y => y
  try extract_lets -underBinder
  repeat' first
   | with_reducible assumption
   | exact sub_trans rfl hsub
   | intro _
   | with_reducible apply kept_ite
   | with_reducible apply live_kept
   | with_reducible apply modServo_kept
   | split
   | extract_lets -underBinder
   | (dsimp +zetaDelta only; split)

theorem execHoldoverOverrun_kept (s : State) :
    ∃ t, execHoldoverOverrun s = .next t ∧ Kept [.dict, .xport] s t := by
  unfold execHoldoverOverrun
  refine ⟨_, rfl, ?_⟩
  have hk := Kept.refl [.dict, .xport] s
  have hsub : ([.dict, .xport] : List Part) ⊆ [.dict, .xport] := fun _ y => y
  try extract_lets -underBinder
  repeat' first
   | with_reducible assumption
   | exact sub_trans rfl hsub
   | intro _
   | with_reducible apply kept_ite
   | with_reducible apply live_kept
   | with_reducible apply bump_kept
   | with_reducible apply modServo_kept
   | with_reducible apply kept_id
   | split
   | extract_lets -underBinder
   | (dsimp +zetaDelta only; split)

theorem execClockRelock_kept (s : State) :
    ∃ t, execClockRelock s = .next t ∧ Kept [.dict, .xport] s t := by
  unfold execClockRelock
  refine ⟨_, rfl, ?_⟩
  have hk := Kept.refl [.dict, .xport] s
  have hsub : ([.dict, .xport] : List Part) ⊆ [.dict, .xport] := fun _ y => y
  try extract_lets -underBinder
  repeat' first
   | with_reducible assumption
   | exact sub_trans rfl hsub
   | intro _
   | with_reducible apply kept_ite
   | with_reducible apply live_kept
   | with_reducible apply bump_kept
   | with_reducible apply modServo_kept
   | with_reducible apply kept_id
   | split
   | extract_lets -underBinder
   | (dsimp +zetaDelta only; split)

theorem execZoneExit_kept (w : BitVec 7) (z : Fin 8) (adapted : Vector AfeRead 17) (lateral : Half) (s : State) :
    ∃ t, execZoneExit w z adapted lateral s = .next t ∧ Kept [.dict, .cart, .xport] s t := by
  unfold execZoneExit
  refine ⟨_, rfl, ?_⟩
  have hk := Kept.refl [.dict, .cart, .xport] s
  have hsub : ([.dict, .cart, .xport] : List Part) ⊆ [.dict, .cart, .xport] := fun _ y => y
  try extract_lets -underBinder
  repeat' first
   | with_reducible assumption
   | exact sub_trans rfl hsub
   | intro _
   | with_reducible apply kept_ite
   | with_reducible apply live_kept
   | with_reducible apply adaptChannel_kept
   | with_reducible apply setObj_kept
   | with_reducible apply modCart_kept
   | with_reducible apply kept_id
   | split
   | extract_lets -underBinder
   | (dsimp +zetaDelta only; split)

theorem modBlockReaders_kept {mask : List Part} {s0 s : State} (c : Cut) (b : Block) (f : Slot → Slot) (hk : Kept mask s0 s)
    (hsub : [.doms] ⊆ mask) : Kept mask s0 (modBlockReaders c b f s) := by
  unfold modBlockReaders
  try extract_lets -underBinder
  repeat' first
   | with_reducible assumption
   | exact sub_trans rfl hsub
   | intro _
   | with_reducible apply kept_ite
   | with_reducible apply modSlots_kept
   | split
   | extract_lets -underBinder
   | (dsimp +zetaDelta only; split)

theorem serveCut_kept {mask : List Part} {s0 s : State} (serial : Nat) (hk : Kept mask s0 s)
    (hsub : [.free, .dict, .ev, .ports, .doms, .ring, .dram, .comp, .kiln, .sched, .opLog, .energy] ⊆ mask) : Kept mask s0 (serveCut serial s) := by
  unfold serveCut
  try extract_lets -underBinder
  repeat' first
   | with_reducible assumption
   | exact sub_trans rfl hsub
   | intro _
   | with_reducible apply kept_ite
   | with_reducible apply modReaders_kept
   | with_reducible apply progressAll_kept
   | with_reducible apply modComp_kept
   | split
   | extract_lets -underBinder
   | (dsimp +zetaDelta only; split)

theorem serveIfDone_kept {mask : List Part} {s0 s : State} (serial : Nat) (hk : Kept mask s0 s)
    (hsub : [.free, .dict, .ev, .ports, .doms, .ring, .dram, .comp, .kiln, .sched, .opLog, .energy] ⊆ mask) : Kept mask s0 (serveIfDone serial s) := by
  unfold serveIfDone
  try extract_lets -underBinder
  repeat' first
   | with_reducible assumption
   | exact sub_trans rfl hsub
   | intro _
   | with_reducible apply kept_ite
   | with_reducible apply serveCut_kept
   | split
   | extract_lets -underBinder
   | (dsimp +zetaDelta only; split)

theorem addInflow_kept {mask : List Part} {s0 s : State} (n : Nat) (hk : Kept mask s0 s)
    (hsub : [.sched] ⊆ mask) : Kept mask s0 (addInflow n s) := by
  unfold addInflow
  try extract_lets -underBinder
  repeat' first
   | with_reducible assumption
   | exact sub_trans rfl hsub
   | intro _
   | with_reducible apply kept_ite
   | exact Or.inl (mem_of rfl hsub)
   | with_reducible exact Or.inr rfl
   | split
   | extract_lets -underBinder
   | (dsimp +zetaDelta only; split)
   | with_reducible apply kept_mk

theorem holdCut_kept {mask : List Part} {s0 s : State} (serial : Nat) (hk : Kept mask s0 s)
    (hsub : [.free, .dict, .ev, .ports, .cart, .sched, .jour, .opLog] ⊆ mask) : Kept mask s0 (holdCut serial s) := by
  unfold holdCut
  try extract_lets -underBinder
  repeat' first
   | with_reducible assumption
   | exact sub_trans rfl hsub
   | intro _
   | with_reducible apply kept_ite
   | with_reducible apply openOp_kept
   | with_reducible apply modCart_kept
   | with_reducible apply addInflow_kept
   | with_reducible apply postEvent_kept
   | with_reducible apply kept_id
   | split
   | extract_lets -underBinder
   | (dsimp +zetaDelta only; split)

theorem reallocate_kept {mask : List Part} {s0 s : State} (c : Cut) (hk : Kept mask s0 s)
    (hsub : [.free, .dict, .ev, .ports, .cart, .sched, .jour, .opLog] ⊆ mask) : Kept mask s0 (reallocate c s) := by
  unfold reallocate
  try extract_lets -underBinder
  repeat' first
   | with_reducible assumption
   | exact sub_trans rfl hsub
   | intro _
   | with_reducible apply kept_ite
   | with_reducible apply holdCut_kept
   | with_reducible apply modZone_kept
   | with_reducible apply modCart_kept
   | split
   | extract_lets -underBinder
   | (dsimp +zetaDelta only; split)

theorem seedBand_kept {mask : List Part} {s0 s : State} (band : Nat) (entry : Nat) (hk : Kept mask s0 s)
    (hsub : [.dict, .cart] ⊆ mask) : Kept mask s0 (seedBand band entry s) := by
  unfold seedBand
  try extract_lets -underBinder
  repeat' first
   | with_reducible assumption
   | exact sub_trans rfl hsub
   | intro _
   | with_reducible apply kept_ite
   | with_reducible apply kept_foldl
   | with_reducible apply setObj_kept
   | with_reducible apply modCart_kept
   | split
   | extract_lets -underBinder
   | (dsimp +zetaDelta only; split)

theorem dailiesDone_kept {mask : List Part} {s0 s : State} (serial : Nat) (hk : Kept mask s0 s)
    (hsub : [.sched] ⊆ mask) : Kept mask s0 (dailiesDone serial s) := by
  unfold dailiesDone
  try extract_lets -underBinder
  repeat' first
   | with_reducible assumption
   | exact sub_trans rfl hsub
   | intro _
   | with_reducible apply kept_ite
   | exact Or.inl (mem_of rfl hsub)
   | with_reducible exact Or.inr rfl
   | split
   | extract_lets -underBinder
   | (dsimp +zetaDelta only; split)
   | with_reducible apply kept_mk

theorem selfTestRead_kept {mask : List Part} {s0 s : State} (serial : Nat) (hk : Kept mask s0 s)
    (hsub : [.test] ⊆ mask) : Kept mask s0 (selfTestRead serial s) := by
  unfold selfTestRead
  try extract_lets -underBinder
  repeat' first
   | with_reducible assumption
   | exact sub_trans rfl hsub
   | intro _
   | with_reducible apply kept_ite
   | exact Or.inl (mem_of rfl hsub)
   | with_reducible exact Or.inr rfl
   | split
   | extract_lets -underBinder
   | (dsimp +zetaDelta only; split)
   | with_reducible apply kept_mk

theorem ownRead_kept {mask : List Part} {s0 s : State} (c : Cut) (seed : Nat) (wrong : List (Nat × Nat × Nat × Byte)) (hk : Kept mask s0 s)
    (hsub : [.free, .dict, .ev, .ports, .doms, .ring, .dram, .test, .comp, .cart, .sched, .jour, .opLog] ⊆ mask) : Kept mask s0 (ownRead c seed wrong s) := by
  unfold ownRead
  try extract_lets -underBinder
  repeat' first
   | with_reducible assumption
   | exact sub_trans rfl hsub
   | intro _
   | with_reducible apply kept_ite
   | with_reducible apply seedBand_kept
   | with_reducible apply indexRead_kept
   | with_reducible apply fetched_kept
   | with_reducible apply dailiesDone_kept
   | with_reducible apply selfTestRead_kept
   | with_reducible apply holdCut_kept
   | with_reducible apply kept_id
   | split
   | extract_lets -underBinder
   | (dsimp +zetaDelta only; split)

theorem nextInExcursion_kept {mask : List Part} {s0 s : State} (hk : Kept mask s0 s)
    (hsub : [.dict, .doms, .xport, .sched] ⊆ mask) : Kept mask s0 (nextInExcursion s) := by
  unfold nextInExcursion
  try extract_lets -underBinder
  repeat' first
   | with_reducible assumption
   | exact sub_trans rfl hsub
   | intro _
   | with_reducible apply kept_ite
   | with_reducible apply endExcursion_kept
   | with_reducible apply startExcursion_kept
   | split
   | extract_lets -underBinder
   | (dsimp +zetaDelta only; split)

theorem readGood_kept {mask : List Part} {s0 s : State} (serial : Nat) (seed : Nat) (wrong : List (Nat × Byte)) (hk : Kept mask s0 s)
    (hsub : [.free, .dict, .ev, .ports, .doms, .ring, .dram, .test, .comp, .cart, .xport, .kiln, .sched, .jour, .opLog, .energy] ⊆ mask) : Kept mask s0 (readGood serial seed wrong s) := by
  unfold readGood
  try extract_lets -underBinder
  repeat' first
   | with_reducible assumption
   | exact sub_trans rfl hsub
   | intro _
   | with_reducible apply kept_ite
   | with_reducible apply nextInExcursion_kept
   | with_reducible apply modReaders_kept
   | with_reducible apply serveCut_kept
   | with_reducible apply modComp_kept
   | with_reducible apply ownRead_kept
   | split
   | extract_lets -underBinder
   | (dsimp +zetaDelta only; split)

theorem countDecoding_kept {mask : List Part} {s0 s : State} (y : Symbols) (hk : Kept mask s0 s)
    (hsub : [.dict] ⊆ mask) : Kept mask s0 (countDecoding y s) := by
  unfold countDecoding
  try extract_lets -underBinder
  repeat' first
   | with_reducible assumption
   | exact sub_trans rfl hsub
   | intro _
   | with_reducible apply kept_ite
   | with_reducible apply bumpBy_kept
   | with_reducible apply kept_id
   | split
   | extract_lets -underBinder
   | (dsimp +zetaDelta only; split)

theorem enterLadder_kept {mask : List Part} {s0 s : State} (serial : Nat) (y : Symbols) (hk : Kept mask s0 s)
    (hsub : [.dict, .cart, .xport] ⊆ mask) : Kept mask s0 (enterLadder serial y s) := by
  unfold enterLadder
  try extract_lets -underBinder
  repeat' first
   | with_reducible assumption
   | exact sub_trans rfl hsub
   | intro _
   | with_reducible apply kept_ite
   | with_reducible apply bump_kept
   | with_reducible apply modCart_kept
   | with_reducible apply stopTape_kept
   | with_reducible apply kept_id
   | split
   | extract_lets -underBinder
   | (dsimp +zetaDelta only; split)

theorem weighRead_kept {mask : List Part} {s0 s : State} (serial : Nat) (hk : Kept mask s0 s)
    (hsub : [.energy] ⊆ mask) : Kept mask s0 (weighRead serial s) := by
  unfold weighRead
  try extract_lets -underBinder
  repeat' first
   | with_reducible assumption
   | exact sub_trans rfl hsub
   | intro _
   | with_reducible apply kept_ite
   | with_reducible apply addWeight_kept
   | split
   | extract_lets -underBinder
   | (dsimp +zetaDelta only; split)

theorem cutDecoded_kept {mask : List Part} {s0 s : State} (c : Cut) (frames : List CopyRead) (seed : Nat) (hk : Kept mask s0 s)
    (hsub : [.free, .dict, .ev, .ports, .doms, .ring, .dram, .test, .comp, .cart, .xport, .kiln, .sched, .jour, .opLog, .energy] ⊆ mask) : Kept mask s0 (cutDecoded c frames seed s) := by
  unfold cutDecoded
  try extract_lets -underBinder
  repeat' first
   | with_reducible assumption
   | exact sub_trans rfl hsub
   | intro _
   | with_reducible apply kept_ite
   | with_reducible apply bumpBy_kept
   | with_reducible apply countDecoding_kept
   | with_reducible apply weighRead_kept
   | with_reducible apply readGood_kept
   | with_reducible apply enterLadder_kept
   | with_reducible apply kept_id
   | split
   | extract_lets -underBinder
   | (dsimp +zetaDelta only; split)

theorem execCutReadComplete_kept (frames : List CopyRead) (seed : BitVec 24) (s : State) :
    ∃ t, execCutReadComplete frames seed s = .next t ∧ Kept [.free, .dict, .ev, .ports, .doms, .ring, .dram, .test, .comp, .cart, .xport, .kiln, .sched, .jour, .opLog, .energy] s t := by
  unfold execCutReadComplete
  refine ⟨_, rfl, ?_⟩
  have hk := Kept.refl [.free, .dict, .ev, .ports, .doms, .ring, .dram, .test, .comp, .cart, .xport, .kiln, .sched, .jour, .opLog, .energy] s
  have hsub : ([.free, .dict, .ev, .ports, .doms, .ring, .dram, .test, .comp, .cart, .xport, .kiln, .sched, .jour, .opLog, .energy] : List Part) ⊆ [.free, .dict, .ev, .ports, .doms, .ring, .dram, .test, .comp, .cart, .xport, .kiln, .sched, .jour, .opLog, .energy] := fun _ y => y
  try extract_lets -underBinder
  repeat' first
   | with_reducible assumption
   | exact sub_trans rfl hsub
   | intro _
   | with_reducible apply kept_ite
   | with_reducible apply working_kept
   | with_reducible apply pollPower_kept
   | with_reducible apply nextInExcursion_kept
   | with_reducible apply cutDecoded_kept
   | split
   | extract_lets -underBinder
   | (dsimp +zetaDelta only; split)

theorem logLadder_kept {mask : List Part} {s0 s : State} (l : Ladder) (c : Cut) (outcome : Nat) (hk : Kept mask s0 s)
    (hsub : [.cart] ⊆ mask) : Kept mask s0 (logLadder l c outcome s) := by
  unfold logLadder
  try extract_lets -underBinder
  repeat' first
   | with_reducible assumption
   | exact sub_trans rfl hsub
   | intro _
   | with_reducible apply kept_ite
   | with_reducible apply modCart_kept
   | split
   | extract_lets -underBinder
   | (dsimp +zetaDelta only; split)

theorem startReread_kept {mask : List Part} {s0 s : State} (n : Nat) (hk : Kept mask s0 s)
    (hsub : [.dict, .cart, .xport] ⊆ mask) : Kept mask s0 (startReread n s) := by
  unfold startReread
  try extract_lets -underBinder
  repeat' first
   | with_reducible assumption
   | exact sub_trans rfl hsub
   | intro _
   | with_reducible apply kept_ite
   | with_reducible apply modCart_kept
   | with_reducible apply modServo_kept
   | with_reducible apply seedChannel_kept
   | with_reducible apply enterXport_kept
   | with_reducible apply runWrap_kept
   | with_reducible apply kept_id
   | split
   | extract_lets -underBinder
   | (dsimp +zetaDelta only; split)

theorem startLastStep_kept {mask : List Part} {s0 s : State} (hk : Kept mask s0 s)
    (hsub : [.cart, .xport] ⊆ mask) : Kept mask s0 (startLastStep s) := by
  unfold startLastStep
  try extract_lets -underBinder
  repeat' first
   | with_reducible assumption
   | exact sub_trans rfl hsub
   | intro _
   | with_reducible apply kept_ite
   | with_reducible apply modCart_kept
   | with_reducible apply modServo_kept
   | with_reducible apply stopTape_kept
   | with_reducible apply kept_id
   | split
   | extract_lets -underBinder
   | (dsimp +zetaDelta only; split)

theorem leaveLadder_kept {mask : List Part} {s0 s : State} (hk : Kept mask s0 s)
    (hsub : [.cart, .xport] ⊆ mask) : Kept mask s0 (leaveLadder s) := by
  unfold leaveLadder
  try extract_lets -underBinder
  repeat' first
   | with_reducible assumption
   | exact sub_trans rfl hsub
   | intro _
   | with_reducible apply kept_ite
   | with_reducible apply modCart_kept
   | with_reducible apply modServo_kept
   | with_reducible apply kept_id
   | split
   | extract_lets -underBinder
   | (dsimp +zetaDelta only; split)

theorem ladderRecovered_kept {mask : List Part} {s0 s : State} (l : Ladder) (hk : Kept mask s0 s)
    (hsub : [.free, .dict, .ev, .ports, .doms, .ring, .dram, .test, .comp, .cart, .xport, .kiln, .sched, .jour, .opLog, .energy] ⊆ mask) : Kept mask s0 (ladderRecovered l s) := by
  unfold ladderRecovered
  try extract_lets -underBinder
  repeat' first
   | with_reducible assumption
   | exact sub_trans rfl hsub
   | intro _
   | with_reducible apply kept_ite
   | with_reducible apply nextInExcursion_kept
   | with_reducible apply leaveLadder_kept
   | with_reducible apply bump_kept
   | with_reducible apply postEvent_kept
   | with_reducible apply logLadder_kept
   | with_reducible apply modCut_kept
   | with_reducible apply modReaders_kept
   | with_reducible apply reallocate_kept
   | with_reducible apply readGood_kept
   | with_reducible apply kept_id
   | split
   | extract_lets -underBinder
   | (dsimp +zetaDelta only; split)

theorem failSelfTestRead_kept {mask : List Part} {s0 s : State} (l : Ladder) (hk : Kept mask s0 s)
    (hsub : [.free, .dict, .ev, .ports, .doms, .test, .sched, .opLog, .energy] ⊆ mask) : Kept mask s0 (failSelfTestRead l s) := by
  unfold failSelfTestRead
  try extract_lets -underBinder
  repeat' first
   | with_reducible assumption
   | exact sub_trans rfl hsub
   | intro _
   | with_reducible apply kept_ite
   | with_reducible apply failTestStep_kept
   | split
   | extract_lets -underBinder
   | (dsimp +zetaDelta only; split)

theorem ladderFailed_kept {mask : List Part} {s0 s : State} (l : Ladder) (hk : Kept mask s0 s)
    (hsub : [.free, .dict, .ev, .ports, .doms, .ring, .dram, .test, .comp, .cart, .xport, .kiln, .sched, .jour, .opLog, .energy] ⊆ mask) : Kept mask s0 (ladderFailed l s) := by
  unfold ladderFailed
  try extract_lets -underBinder
  repeat' first
   | with_reducible assumption
   | exact sub_trans rfl hsub
   | intro _
   | with_reducible apply kept_ite
   | with_reducible apply nextInExcursion_kept
   | with_reducible apply leaveLadder_kept
   | with_reducible apply bump_kept
   | with_reducible apply postEvent_kept
   | with_reducible apply logLadder_kept
   | with_reducible apply modReaders_kept
   | with_reducible apply modCut_kept
   | with_reducible apply modComp_kept
   | with_reducible apply modCart_kept
   | with_reducible apply indexRead_kept
   | with_reducible apply dailiesDone_kept
   | with_reducible apply failSelfTestRead_kept
   | with_reducible apply progressAll_kept
   | with_reducible apply kept_id
   | split
   | extract_lets -underBinder
   | (dsimp +zetaDelta only; split)

theorem climb_kept {mask : List Part} {s0 s : State} (l : Ladder) (hk : Kept mask s0 s)
    (hsub : [.free, .dict, .ev, .ports, .doms, .ring, .dram, .test, .comp, .cart, .xport, .kiln, .sched, .jour, .opLog, .energy] ⊆ mask) : Kept mask s0 (climb l s) := by
  unfold climb
  try extract_lets -underBinder
  repeat' first
   | with_reducible assumption
   | exact sub_trans rfl hsub
   | intro _
   | with_reducible apply kept_ite
   | with_reducible apply ladderFailed_kept
   | with_reducible apply startReread_kept
   | with_reducible apply startLastStep_kept
   | split
   | extract_lets -underBinder
   | (dsimp +zetaDelta only; split)

theorem stepDone_kept {mask : List Part} {s0 s : State} (l0 : Ladder) (c : Cut) (frames : List CopyRead) (hk : Kept mask s0 s)
    (hsub : [.free, .dict, .ev, .ports, .doms, .ring, .dram, .test, .comp, .cart, .xport, .kiln, .sched, .jour, .opLog, .energy] ⊆ mask) : Kept mask s0 (stepDone l0 c frames s) := by
  unfold stepDone
  try extract_lets -underBinder
  repeat' first
   | with_reducible assumption
   | exact sub_trans rfl hsub
   | intro _
   | with_reducible apply kept_ite
   | with_reducible apply modCart_kept
   | with_reducible apply bumpBy_kept
   | with_reducible apply countDecoding_kept
   | with_reducible apply ladderRecovered_kept
   | with_reducible apply climb_kept
   | with_reducible apply kept_id
   | split
   | extract_lets -underBinder
   | (dsimp +zetaDelta only; split)

theorem execLadderStepComplete_kept (frames : List CopyRead) (s : State) :
    ∃ t, execLadderStepComplete frames s = .next t ∧ Kept [.free, .dict, .ev, .ports, .doms, .ring, .dram, .test, .comp, .cart, .xport, .kiln, .sched, .jour, .opLog, .energy] s t := by
  unfold execLadderStepComplete
  refine ⟨_, rfl, ?_⟩
  have hk := Kept.refl [.free, .dict, .ev, .ports, .doms, .ring, .dram, .test, .comp, .cart, .xport, .kiln, .sched, .jour, .opLog, .energy] s
  have hsub : ([.free, .dict, .ev, .ports, .doms, .ring, .dram, .test, .comp, .cart, .xport, .kiln, .sched, .jour, .opLog, .energy] : List Part) ⊆ [.free, .dict, .ev, .ports, .doms, .ring, .dram, .test, .comp, .cart, .xport, .kiln, .sched, .jour, .opLog, .energy] := fun _ y => y
  try extract_lets -underBinder
  repeat' first
   | with_reducible assumption
   | exact sub_trans rfl hsub
   | intro _
   | with_reducible apply kept_ite
   | with_reducible apply working_kept
   | with_reducible apply pollPower_kept
   | with_reducible apply nextInExcursion_kept
   | with_reducible apply leaveLadder_kept
   | with_reducible apply stepDone_kept
   | split
   | extract_lets -underBinder
   | (dsimp +zetaDelta only; split)

theorem rereadDone_kept {mask : List Part} {s0 s : State} (c : Captured) (hk : Kept mask s0 s)
    (hsub : [.comp] ⊆ mask) : Kept mask s0 (rereadDone c s) := by
  unfold rereadDone
  try extract_lets -underBinder
  repeat' first
   | with_reducible assumption
   | exact sub_trans rfl hsub
   | intro _
   | with_reducible apply kept_ite
   | with_reducible apply modComp_kept
   | split
   | extract_lets -underBinder
   | (dsimp +zetaDelta only; split)

theorem blockPassed_kept {mask : List Part} {s0 s : State} (c : Captured) (cut : Cut) (b : Block) (hk : Kept mask s0 s)
    (hsub : [.free, .dict, .ev, .ports, .doms, .ring, .dram, .comp, .cart, .kiln, .sched, .jour, .opLog, .energy] ⊆ mask) : Kept mask s0 (blockPassed c cut b s) := by
  unfold blockPassed
  try extract_lets -underBinder
  repeat' first
   | with_reducible assumption
   | exact sub_trans rfl hsub
   | intro _
   | with_reducible apply kept_ite
   | with_reducible apply reallocate_kept
   | with_reducible apply modBlockReaders_kept
   | with_reducible apply rereadDone_kept
   | with_reducible apply serveIfDone_kept
   | with_reducible apply kept_id
   | split
   | extract_lets -underBinder
   | (dsimp +zetaDelta only; split)

theorem blockFailed_kept {mask : List Part} {s0 s : State} (c : Captured) (cut : Cut) (b : Block) (hk : Kept mask s0 s)
    (hsub : [.free, .dict, .ev, .ports, .doms, .ring, .dram, .comp, .kiln, .sched, .opLog, .energy] ⊆ mask) : Kept mask s0 (blockFailed c cut b s) := by
  unfold blockFailed
  try extract_lets -underBinder
  repeat' first
   | with_reducible assumption
   | exact sub_trans rfl hsub
   | intro _
   | with_reducible apply kept_ite
   | with_reducible apply serveIfDone_kept
   | with_reducible apply rereadDone_kept
   | with_reducible apply modBlockReaders_kept
   | with_reducible apply modComp_kept
   | with_reducible apply kept_id
   | split
   | extract_lets -underBinder
   | (dsimp +zetaDelta only; split)

theorem execBlockDecompressed_kept (wrong : List (Nat × Byte)) (hits : List EccHit) (s : State) :
    ∃ t, execBlockDecompressed wrong hits s = .next t ∧ Kept [.free, .dict, .ev, .ports, .doms, .ring, .dram, .boot, .test, .comp, .cart, .xport, .power, .kiln, .recov, .sched, .jour, .opLog, .energy] s t := by
  unfold execBlockDecompressed
  refine ⟨_, rfl, ?_⟩
  have hk := Kept.refl [.free, .dict, .ev, .ports, .doms, .ring, .dram, .boot, .test, .comp, .cart, .xport, .power, .kiln, .recov, .sched, .jour, .opLog, .energy] s
  have hsub : ([.free, .dict, .ev, .ports, .doms, .ring, .dram, .boot, .test, .comp, .cart, .xport, .power, .kiln, .recov, .sched, .jour, .opLog, .energy] : List Part) ⊆ [.free, .dict, .ev, .ports, .doms, .ring, .dram, .boot, .test, .comp, .cart, .xport, .power, .kiln, .recov, .sched, .jour, .opLog, .energy] := fun _ y => y
  try extract_lets -underBinder
  repeat' first
   | with_reducible assumption
   | exact sub_trans rfl hsub
   | intro _
   | with_reducible apply kept_ite
   | with_reducible apply working_kept
   | with_reducible apply meetLines_kept
   | with_reducible apply modComp_kept
   | with_reducible apply modBlockReaders_kept
   | with_reducible apply blockPassed_kept
   | with_reducible apply bump_kept
   | with_reducible apply setObj_kept
   | with_reducible apply blockFailed_kept
   | with_reducible apply kept_id
   | split
   | extract_lets -underBinder
   | (dsimp +zetaDelta only; split)

theorem execHeadCalibrationComplete_kept (decoded : Bool) (trims : Vector Word 17) (s : State) :
    ∃ t, execHeadCalibrationComplete decoded trims s = .next t ∧ Kept [.free, .dict, .ev, .ports, .doms, .cart, .xport, .sched, .jour, .opLog] s t := by
  unfold execHeadCalibrationComplete
  refine ⟨_, rfl, ?_⟩
  have hk := Kept.refl [.free, .dict, .ev, .ports, .doms, .cart, .xport, .sched, .jour, .opLog] s
  have hsub : ([.free, .dict, .ev, .ports, .doms, .cart, .xport, .sched, .jour, .opLog] : List Part) ⊆ [.free, .dict, .ev, .ports, .doms, .cart, .xport, .sched, .jour, .opLog] := fun _ y => y
  try extract_lets -underBinder
  repeat' first
   | with_reducible assumption
   | exact sub_trans rfl hsub
   | intro _
   | with_reducible apply kept_ite
   | with_reducible apply kept_foldl
   | with_reducible apply live_kept
   | with_reducible apply modCart_kept
   | with_reducible apply setObj_kept
   | with_reducible apply postEvent_kept
   | with_reducible apply pollPower_kept
   | with_reducible apply nextInExcursion_kept
   | exact Or.inl (mem_of rfl hsub)
   | with_reducible exact Or.inr rfl
   | split
   | extract_lets -underBinder
   | (dsimp +zetaDelta only; split)
   | with_reducible apply kept_mk

theorem execDailiesDue_kept (s : State) :
    ∃ t, execDailiesDue s = .next t ∧ Kept [.free, .dict, .ev, .ports, .sched, .opLog] s t := by
  unfold execDailiesDue
  refine ⟨_, rfl, ?_⟩
  have hk := Kept.refl [.free, .dict, .ev, .ports, .sched, .opLog] s
  have hsub : ([.free, .dict, .ev, .ports, .sched, .opLog] : List Part) ⊆ [.free, .dict, .ev, .ports, .sched, .opLog] := fun _ y => y
  try extract_lets -underBinder
  repeat' first
   | with_reducible assumption
   | exact sub_trans rfl hsub
   | intro _
   | with_reducible apply kept_ite
   | with_reducible apply live_kept
   | with_reducible apply pollPower_kept
   | exact Or.inl (mem_of rfl hsub)
   | with_reducible exact Or.inr rfl
   | split
   | extract_lets -underBinder
   | (dsimp +zetaDelta only; split)
   | with_reducible apply kept_mk

theorem execDailiesResume_kept (s : State) :
    ∃ t, execDailiesResume s = .next t ∧ Kept [.sched] s t := by
  unfold execDailiesResume
  refine ⟨_, rfl, ?_⟩
  have hk := Kept.refl [.sched] s
  have hsub : ([.sched] : List Part) ⊆ [.sched] := fun _ y => y
  try extract_lets -underBinder
  repeat' first
   | with_reducible assumption
   | exact sub_trans rfl hsub
   | intro _
   | with_reducible apply kept_ite
   | with_reducible apply live_kept
   | exact Or.inl (mem_of rfl hsub)
   | with_reducible exact Or.inr rfl
   | split
   | extract_lets -underBinder
   | (dsimp +zetaDelta only; split)
   | with_reducible apply kept_mk

theorem execBedrockDelayExpiry_kept (s : State) :
    ∃ t, execBedrockDelayExpiry s = .next t ∧ Kept [.free, .dict, .ev, .ports, .sched, .opLog] s t := by
  unfold execBedrockDelayExpiry
  refine ⟨_, rfl, ?_⟩
  have hk := Kept.refl [.free, .dict, .ev, .ports, .sched, .opLog] s
  have hsub : ([.free, .dict, .ev, .ports, .sched, .opLog] : List Part) ⊆ [.free, .dict, .ev, .ports, .sched, .opLog] := fun _ y => y
  try extract_lets -underBinder
  repeat' first
   | with_reducible assumption
   | exact sub_trans rfl hsub
   | intro _
   | with_reducible apply kept_ite
   | with_reducible apply live_kept
   | with_reducible apply pollPower_kept
   | exact Or.inl (mem_of rfl hsub)
   | with_reducible exact Or.inr rfl
   | split
   | extract_lets -underBinder
   | (dsimp +zetaDelta only; split)
   | with_reducible apply kept_mk

end Sys2Proof.Machine
end

