-- ==== Sys2Proof/Laws/KeptRecovery.lean ====
section
/-!
SUPPORT. What the operations of Machine/Recovery.lean may touch, and that they keep the canonical forms.
-/
set_option linter.unusedTactic false
set_option linter.unreachableTactic false
set_option linter.unusedVariables false

namespace Sys2Proof.Machine

theorem maskBlock_kept {mask : List Part} {s0 s : State} (b : Nat) (hk : Kept mask s0 s)
    (hsub : [.dram] ⊆ mask) : Kept mask s0 (maskBlock b s) := by
  unfold maskBlock
  try extract_lets -underBinder
  repeat' first
   | with_reducible assumption
   | exact sub_trans rfl hsub
   | intro _
   | with_reducible apply kept_ite
   | with_reducible apply modDram_kept
   | with_reducible apply endMasked_kept
   | with_reducible apply kept_id
   | split
   | extract_lets -underBinder
   | (dsimp +zetaDelta only; split)

theorem unmaskBlock_kept {mask : List Part} {s0 s : State} (b : Nat) (hk : Kept mask s0 s)
    (hsub : [.dram] ⊆ mask) : Kept mask s0 (unmaskBlock b s) := by
  unfold unmaskBlock
  try extract_lets -underBinder
  repeat' first
   | with_reducible assumption
   | exact sub_trans rfl hsub
   | intro _
   | with_reducible apply kept_ite
   | with_reducible apply modDram_kept
   | with_reducible apply reArbitrate_kept
   | split
   | extract_lets -underBinder
   | (dsimp +zetaDelta only; split)

theorem resendReads_kept {mask : List Part} {s0 s : State} (p : PortId) (hk : Kept mask s0 s)
    (hsub : [.doms] ⊆ mask) : Kept mask s0 (resendReads p s) := by
  unfold resendReads
  try extract_lets -underBinder
  repeat' first
   | with_reducible assumption
   | exact sub_trans rfl hsub
   | intro _
   | with_reducible apply kept_ite
   | with_reducible apply kept_foldl
   | with_reducible apply modDom_kept
   | split
   | extract_lets -underBinder
   | (dsimp +zetaDelta only; split)

theorem faultEffect_kept {mask : List Part} {s0 s : State} (b : Nat) (hk : Kept mask s0 s)
    (hsub : [.free, .dict, .ev, .ports, .doms, .ring, .dram, .test, .comp, .cart, .xport, .kiln, .sched, .opLog, .energy] ⊆ mask) : Kept mask s0 (faultEffect b s) := by
  unfold faultEffect
  try extract_lets -underBinder
  repeat' first
   | with_reducible assumption
   | exact sub_trans rfl hsub
   | intro _
   | with_reducible apply kept_ite
   | with_reducible apply modCart_kept
   | with_reducible apply modServo_kept
   | with_reducible apply stopTape_kept
   | with_reducible apply modPort_kept
   | with_reducible apply resendReads_kept
   | with_reducible apply blockDone_kept
   | with_reducible apply countCheckFailure_kept
   | with_reducible apply progress_kept
   | with_reducible apply shortBridges_kept
   | with_reducible apply transportFault_kept
   | with_reducible apply kept_id
   | exact Or.inl (mem_of rfl hsub)
   | with_reducible exact Or.inr rfl
   | split
   | extract_lets -underBinder
   | (dsimp +zetaDelta only; split)
   | with_reducible apply kept_mk

theorem releaseEffect_kept {mask : List Part} {s0 s : State} (b : Nat) (written : Nat) (tablesBad : Bool) (hk : Kept mask s0 s)
    (hsub : [.free, .dict, .ev, .ports, .doms, .ring, .dram, .boot, .test, .comp, .cart, .xport, .power, .kiln, .recov, .sched, .jour, .opLog, .energy] ⊆ mask) : Kept mask s0 (releaseEffect b written tablesBad s) := by
  unfold releaseEffect
  try extract_lets -underBinder
  repeat' first
   | with_reducible assumption
   | exact sub_trans rfl hsub
   | intro _
   | with_reducible apply kept_ite
   | with_reducible apply startExcursion_kept
   | with_reducible apply abandonCut_kept
   | with_reducible apply startRebuild_kept
   | with_reducible apply modXport_kept
   | split
   | extract_lets -underBinder
   | (dsimp +zetaDelta only; split)

theorem revertPages_kept {mask : List Part} {s0 s : State} (b : Nat) (pages : List Half) (hk : Kept mask s0 s)
    (hsub : [.free, .dict, .ev, .ports, .doms, .ring, .dram, .comp, .opLog] ⊆ mask) : Kept mask s0 (revertPages b pages s) := by
  unfold revertPages
  try extract_lets -underBinder
  repeat' first
   | with_reducible assumption
   | exact sub_trans rfl hsub
   | intro _
   | with_reducible apply kept_ite
   | with_reducible apply kept_foldl
   | with_reducible apply releasePage_kept
   | split
   | extract_lets -underBinder
   | (dsimp +zetaDelta only; split)

theorem blockFaulty_kept {mask : List Part} {s0 s : State} (b : Nat) (pages : List Half) (hk : Kept mask s0 s)
    (hsub : [.free, .dict, .ev, .ports, .doms, .ring, .dram, .boot, .test, .comp, .cart, .xport, .power, .kiln, .recov, .sched, .jour, .opLog, .energy] ⊆ mask) : Kept mask s0 (blockFaulty b pages s) := by
  unfold blockFaulty
  try extract_lets -underBinder
  repeat' first
   | with_reducible assumption
   | exact sub_trans rfl hsub
   | intro _
   | with_reducible apply kept_ite
   | with_reducible apply escalate_kept
   | with_reducible apply maskBlock_kept
   | with_reducible apply revertPages_kept
   | with_reducible apply faultEffect_kept
   | with_reducible apply kept_id
   | exact Or.inl (mem_of rfl hsub)
   | with_reducible exact Or.inr rfl
   | split
   | extract_lets -underBinder
   | (dsimp +zetaDelta only; split)
   | with_reducible apply kept_mk

theorem execWatchdogExpiry_kept (block : Byte) (pages : List Half) (s : State) :
    ∃ t, execWatchdogExpiry block pages s = .next t ∧ Kept [.free, .dict, .ev, .ports, .doms, .ring, .dram, .boot, .test, .comp, .cart, .xport, .power, .kiln, .recov, .sched, .jour, .opLog, .energy] s t := by
  unfold execWatchdogExpiry
  refine ⟨_, rfl, ?_⟩
  have hk := Kept.refl [.free, .dict, .ev, .ports, .doms, .ring, .dram, .boot, .test, .comp, .cart, .xport, .power, .kiln, .recov, .sched, .jour, .opLog, .energy] s
  have hsub : ([.free, .dict, .ev, .ports, .doms, .ring, .dram, .boot, .test, .comp, .cart, .xport, .power, .kiln, .recov, .sched, .jour, .opLog, .energy] : List Part) ⊆ [.free, .dict, .ev, .ports, .doms, .ring, .dram, .boot, .test, .comp, .cart, .xport, .power, .kiln, .recov, .sched, .jour, .opLog, .energy] := fun _ y => y
  try extract_lets -underBinder
  repeat' first
   | with_reducible assumption
   | exact sub_trans rfl hsub
   | intro _
   | with_reducible apply kept_ite
   | with_reducible apply live_kept
   | with_reducible apply blockFaulty_kept
   | with_reducible apply escalate_kept
   | split
   | extract_lets -underBinder
   | (dsimp +zetaDelta only; split)

theorem execBlockRecoveryComplete_kept (us : Half) (written : BitVec 6) (tablesBad : Bool) (s : State) :
    ∃ t, execBlockRecoveryComplete us written tablesBad s = .next t ∧ Kept [.free, .dict, .ev, .ports, .doms, .ring, .dram, .boot, .test, .comp, .cart, .xport, .power, .kiln, .recov, .sched, .jour, .opLog, .energy] s t := by
  unfold execBlockRecoveryComplete
  refine ⟨_, rfl, ?_⟩
  have hk := Kept.refl [.free, .dict, .ev, .ports, .doms, .ring, .dram, .boot, .test, .comp, .cart, .xport, .power, .kiln, .recov, .sched, .jour, .opLog, .energy] s
  have hsub : ([.free, .dict, .ev, .ports, .doms, .ring, .dram, .boot, .test, .comp, .cart, .xport, .power, .kiln, .recov, .sched, .jour, .opLog, .energy] : List Part) ⊆ [.free, .dict, .ev, .ports, .doms, .ring, .dram, .boot, .test, .comp, .cart, .xport, .power, .kiln, .recov, .sched, .jour, .opLog, .energy] := fun _ y => y
  try extract_lets -underBinder
  repeat' first
   | with_reducible assumption
   | exact sub_trans rfl hsub
   | intro _
   | with_reducible apply kept_ite
   | with_reducible apply live_kept
   | with_reducible apply escalate_kept
   | with_reducible apply unmaskBlock_kept
   | with_reducible apply releaseEffect_kept
   | with_reducible apply bump_kept
   | with_reducible apply lastRecovery_kept
   | with_reducible apply postEvent_kept
   | with_reducible apply progressAll_kept
   | with_reducible apply kept_id
   | exact Or.inl (mem_of rfl hsub)
   | with_reducible exact Or.inr rfl
   | split
   | extract_lets -underBinder
   | (dsimp +zetaDelta only; split)
   | with_reducible apply kept_mk

theorem execCpWatchdog_kept (s : State) :
    ∃ t, execCpWatchdog s = .next t ∧ Kept [.free, .dict, .ev, .ports, .doms, .dram, .boot, .comp, .cart, .xport, .power, .recov, .sched, .jour, .opLog] s t := by
  unfold execCpWatchdog
  refine ⟨_, rfl, ?_⟩
  have hk := Kept.refl [.free, .dict, .ev, .ports, .doms, .dram, .boot, .comp, .cart, .xport, .power, .recov, .sched, .jour, .opLog] s
  have hsub : ([.free, .dict, .ev, .ports, .doms, .dram, .boot, .comp, .cart, .xport, .power, .recov, .sched, .jour, .opLog] : List Part) ⊆ [.free, .dict, .ev, .ports, .doms, .dram, .boot, .comp, .cart, .xport, .power, .recov, .sched, .jour, .opLog] := fun _ y => y
  try extract_lets -underBinder
  repeat' first
   | with_reducible assumption
   | exact sub_trans rfl hsub
   | intro _
   | with_reducible apply kept_ite
   | with_reducible apply live_kept
   | with_reducible apply bump_kept
   | with_reducible apply postEvent_kept
   | with_reducible apply escalate_kept
   | with_reducible apply kept_id
   | exact Or.inl (mem_of rfl hsub)
   | with_reducible exact Or.inr rfl
   | split
   | extract_lets -underBinder
   | (dsimp +zetaDelta only; split)
   | with_reducible apply kept_mk

end Sys2Proof.Machine
end

