-- ==== Sys2Proof/Laws/KeptSlave.lean ====
section
/-!
SUPPORT. What the operations of Machine/Slave.lean may touch, and that they keep the canonical forms.
-/
set_option linter.unusedTactic false
set_option linter.unreachableTactic false
set_option linter.unusedVariables false

namespace Sys2Proof.Machine

theorem execSiiWrite_kept (_word : Half) (_value : Half) (s : State) :
    ∃ t, execSiiWrite _word _value s = .next t ∧ Kept [.ecat] s t := by
  unfold execSiiWrite
  refine ⟨_, rfl, ?_⟩
  have hk := Kept.refl [.ecat] s
  have hsub : ([.ecat] : List Part) ⊆ [.ecat] := fun _ y => y
  try extract_lets -underBinder
  repeat' first
   | with_reducible assumption
   | exact sub_trans rfl hsub
   | intro _
   | with_reducible apply kept_ite
   | with_reducible apply live_kept
   | with_reducible apply reply_kept
   | split
   | extract_lets -underBinder
   | (dsimp +zetaDelta only; split)

theorem upload_kept {mask : List Part} {s0 s : State} (complete : Bool) (i : Nat) (sub : Nat) (hk : Kept mask s0 s)
    (hsub : [.dict, .ports, .ecat] ⊆ mask) : Kept mask s0 (upload complete i sub s) := by
  unfold upload
  try extract_lets -underBinder
  repeat' first
   | with_reducible assumption
   | exact sub_trans rfl hsub
   | intro _
   | with_reducible apply kept_ite
   | with_reducible apply refuse_kept
   | with_reducible apply closeSdo_kept
   | with_reducible apply putSdo_kept
   | split
   | extract_lets -underBinder
   | (dsimp +zetaDelta only; split)

theorem uploadSegment_kept {mask : List Part} {s0 s : State} (toggle : Bool) (hk : Kept mask s0 s)
    (hsub : [.dict, .ecat] ⊆ mask) : Kept mask s0 (uploadSegment toggle s) := by
  unfold uploadSegment
  try extract_lets -underBinder
  repeat' first
   | with_reducible assumption
   | exact sub_trans rfl hsub
   | intro _
   | with_reducible apply kept_ite
   | with_reducible apply dropSdo_kept
   | with_reducible apply putSdo_kept
   | split
   | extract_lets -underBinder
   | (dsimp +zetaDelta only; split)

theorem serveCoe_kept {mask : List Part} {s0 s : State} (r : CoeRequest) (hk : Kept mask s0 s)
    (hsub : [.dict, .ports, .ecat] ⊆ mask) : Kept mask s0 (serveCoe r s) := by
  unfold serveCoe
  try extract_lets -underBinder
  repeat' first
   | with_reducible assumption
   | exact sub_trans rfl hsub
   | intro _
   | with_reducible apply kept_ite
   | with_reducible apply upload_kept
   | with_reducible apply uploadSegment_kept
   | with_reducible apply reply_kept
   | with_reducible apply refuse_kept
   | with_reducible apply putSdo_kept
   | with_reducible apply dropSdo_kept
   | split
   | extract_lets -underBinder
   | (dsimp +zetaDelta only; split)

theorem mailboxRequest_kept {mask : List Part} {s0 s : State} (m : MailboxRequest) (hk : Kept mask s0 s)
    (hsub : [.dict, .ports, .ecat] ⊆ mask) : Kept mask s0 (mailboxRequest m s) := by
  unfold mailboxRequest
  try extract_lets -underBinder
  repeat' first
   | with_reducible assumption
   | exact sub_trans rfl hsub
   | intro _
   | with_reducible apply kept_ite
   | with_reducible apply serveCoe_kept
   | with_reducible apply reply_kept
   | split
   | extract_lets -underBinder
   | (dsimp +zetaDelta only; split)

theorem execUnsupportedProtocol_kept (m : MailboxRequest) (s : State) :
    ∃ t, execUnsupportedProtocol m s = .next t ∧ Kept [.dict, .ports, .ecat] s t := by
  unfold execUnsupportedProtocol
  refine ⟨_, rfl, ?_⟩
  have hk := Kept.refl [.dict, .ports, .ecat] s
  have hsub : ([.dict, .ports, .ecat] : List Part) ⊆ [.dict, .ports, .ecat] := fun _ y => y
  try extract_lets -underBinder
  repeat' first
   | with_reducible assumption
   | exact sub_trans rfl hsub
   | intro _
   | with_reducible apply kept_ite
   | with_reducible apply live_kept
   | with_reducible apply mailboxRequest_kept
   | split
   | extract_lets -underBinder
   | (dsimp +zetaDelta only; split)

end Sys2Proof.Machine
end

