-- ==== Sys2Proof/Machine/Balls.lean ====
section
/-!
DEFINITION. The clock tree and the output balls: clocks divided from ROOT, what REF_OUT carries, and how each output ball is driven
while the part is held in reset and on its way to release (R415, R416, R421, R490-R496, R502).
-/
namespace Sys2Proof.Machine

/-! ### Clocks (R416) -/

/-- The clocks divided from ROOT. -/
inductive Clock where
  | ser | mem | core | mram | mot | kiln
deriving DecidableEq, Repr

/-- The reference in Hz. -/
def referenceHz : Nat := 25000000

/-- ROOT in Hz: the reference times 384. -/
def rootHz : Nat := 384 * referenceHz

/-- Divider of a clock. -/
def Clock.divider : Clock → Nat
  | .ser => 2 | .mem => 6 | .core => 24 | .mram => 48 | .mot => 96 | .kiln => 192

/-- Frequency of a clock in Hz, without spread. -/
def Clock.hz (c : Clock) : Nat := rootHz / c.divider

/-! ### Output balls (R490-R496) -/

/-- The output and bidirectional balls whose state the tables of the regions give. -/
inductive Ball where
  /-- Transmit pair of lane `n` of a port. -/
  | tx (p : PortId) (n : Lane)
  | refOut
  | ddrResetN
  /-- CK, CKE, CS and CA of the halves. -/
  | ddrCk (half : Fin 2) | ddrCke (half rank : Fin 2) | ddrCs (half rank : Fin 2) | ddrCa (half : Fin 2) (n : Fin 6)
  | ddrDq (n : Fin 32) | ddrDqs (group : Fin 4) | ddrDmi (group : Fin 4)
  /-- Write drivers and currents of an element. -/
  | headWrite (e : Fin 17) | headCurrent (e : Fin 17)
  /-- The four voice-coil outputs, and the controls of the transport's head. -/
  | vcm (n : Fin 4) | headLoad | hwdrvEn
  | i2c (n : Fin 2)
  /-- TXD0-TXD3 and TX_EN of an MII port, and the management pair. -/
  | miiTx (port : Fin 2) (n : Fin 5) | miiMdc | miiMdio
  | spiClk | spiCsN | spiIo (n : Fin 4)
  | pwm (n : Fin 12) | chgDrv
  /-- The crossbar's pins. -/
  | pin (q : Fin 40)
deriving DecidableEq, Repr

/-- How a ball is driven. -/
inductive Drive where
  | low | high
  /-- Not driven: high impedance, released, or an output stage that is off. -/
  | off
  /-- Electrical idle of a transmitter. -/
  | electricalIdle
  /-- The crystal's clock. -/
  | crystal
  /-- What the ball's function gives it. -/
  | function
  /-- The spec states no level. -/
  | unstated
deriving DecidableEq, Repr

/-- REF_OUT follows the XTALSEL ball and the crystal alone: no reset stops it (R415, R492). DESIGN CHOICE: log entry 174. -/
def refOutDrive (s : State) : Drive :=
  if s.boot.refSelect then .low else if s.boot.refRuns && s.boot.phase != .shelf then .crystal else .unstated

/-- A command ball of LPDDR4X: low until the start brings the memory up; CKE is low in self-refresh (R421, R493). -/
def ddrCommandDrive (s : State) (cke : Bool) : Drive :=
  match s.dram.phase with
  | .reset => .low
  | .selfRefresh => if cke then .low else .function
  | .active => .function

/-- Reset state of a ball: it holds while PORESET_N is low and until release (R491-R496). -/
def resetDrive : Ball → Drive
  | .tx _ _ => .electricalIdle
  | .headWrite _ | .headCurrent _ | .i2c _ | .miiMdio | .spiIo _ | .ddrDq _ | .ddrDqs _ | .ddrDmi _ | .pin _ => .off
  | .spiCsN => .high
  | _ => .low

/-- How a ball is driven. A crossbar pin is driven as its function says once PIN_CONFIG is applied; LPDDR4X leaves its reset state on
the way to release; HEAD_LOAD asks for the head while it is loaded (R463, R490-R496). -/
def ballDrive (s : State) (b : Ball) : Drive :=
  match b with
  | .refOut => refOutDrive s
  | .ddrResetN => if s.dram.phase = .reset then .low else .high
  | .ddrCke _ _ => ddrCommandDrive s true
  | .ddrCk _ | .ddrCs _ _ | .ddrCa _ _ => ddrCommandDrive s false
  | .ddrDq _ | .ddrDqs _ | .ddrDmi _ => if s.dram.phase = .active then .function else .off
  | .pin q => if pinDriven s q.val then .function else .off
  | .headLoad => if released s && s.xport.headLoaded then .high else .low
  | b => if released s then .function else resetDrive b

/-- On-die termination of LPDDR4X may be on: it is off in the reset state (R493). -/
def dramTerminates (s : State) : Bool := s.dram.phase != .reset

end Sys2Proof.Machine
end

