-- ==== Sys2Proof/Machine/CartMemory.lean ====
section
/-!
DEFINITION. The cartridge memory byte by byte: manufacturer block, state blocks, wear block and zone tables, and how they are read
(R255-R257, R278, R287, R288).
-/
namespace Sys2Proof.Machine

/-- The bytes of a block before its CRC, where the CRC behind them is right. -/
def checkedBlock (n : Nat) (b : List Byte) : Option (List Byte) :=
  if ofLeBytes ((b.drop n).take 4) = (crc32c (b.take n)).toNat then some (b.take n) else none

/-- The manufacturer block: CARTRIDGE_ID, medium code 6 and the usable length of 720 m (R255). -/
def manufacturerBytes (id : Nat) : List Byte := withCrc (leBytes 16 id ++ leBytes 2 6 ++ leBytes 2 720 ++ leBytes 40 0)

/-- A state block (R255). -/
def StateBlock.bytes (b : StateBlock) : List Byte :=
  withCrc (leBytes 4 b.updateCount ++ leBytes 1 b.formatState ++ leBytes 1 b.wrapsFormatted ++ leBytes 2 0 ++ leBytes 4 b.formatGen
    ++ leBytes 4 b.nextSerial ++ leBytes 4 b.loadCount ++ leBytes 4 b.mapSerial ++ leBytes 1 b.mapWrap ++ leBytes 3 0
    ++ leBytes 4 b.mapLpos ++ leBytes 4 b.kilnLastCut ++ leBytes 4 b.kilnCutsUsed ++ leBytes 8 b.kilnLastSeq
    ++ leBytes 8 b.writerId ++ leBytes 68 0)

/-- The state block that 128 bytes hold; none where the CRC fails (R255, R256). -/
def stateBlockFrom (m : List Byte) : Option StateBlock :=
  (checkedBlock 124 m).map (fun b =>
    let num (off n : Nat) : Nat := ofLeBytes ((b.drop off).take n)
    { updateCount := num 0 4, formatState := num 4 1, wrapsFormatted := num 5 1, formatGen := num 8 4, nextSerial := num 12 4
      loadCount := num 16 4, mapSerial := num 20 4, mapWrap := num 24 1, mapLpos := num 28 4, kilnLastCut := num 32 4
      kilnCutsUsed := num 36 4, kilnLastSeq := num 40 8, writerId := num 48 8 })

/-- The wear block: the eighths of each wrap (R278). -/
def wearBytes (l : List Nat) : List Byte := withCrc ((List.range 96).flatMap (fun w => leBytes 2 ((l[w]?).getD 0))) ++ leBytes 60 0

/-- The eighths of the wraps that a wear block holds; none where its CRC fails (R278). -/
def wearFrom (m : List Byte) : Option (List Nat) :=
  (checkedBlock 192 m).map (fun b => (List.range 96).map (fun w => ofLeBytes ((b.drop (2 * w)).take 2)))

/-- A wrap record of the zone tables: bits 23:0 of the 8 entries, 24 bits each, as the record holds them (R287, R288). -/
def zoneBytes (l : List Nat) : List Byte := withCrc ((List.range 8).flatMap (fun z => leBytes 3 ((l[z]?).getD 0)) ++ leBytes 4 0)

/-- The zone entries that a wrap record holds; none where its CRC fails (R288). -/
def zoneFrom (m : List Byte) : Option (List Nat) :=
  (checkedBlock 28 m).map (fun b => (List.range 8).map (fun z => ofLeBytes ((b.drop (3 * z)).take 3)))

/-- A block, or as many zeros where it is not valid. -/
def orBlank (n : Nat) (b : Option (List Byte)) : List Byte := b.getD (leBytes n 0)

/-- The 16 KiB of the cartridge memory as the PKA-880 finds and leaves them; an invalid block is shown as zeros, and 0x1000 to 0x3FFF,
which it neither reads nor writes, with them (R255; log entry 170). -/
def Cartridge.memory (c : Cartridge) : List Byte :=
  orBlank 64 (if c.manufacturer then some (manufacturerBytes c.id) else none)
    ++ orBlank 128 (c.stateA.map StateBlock.bytes) ++ orBlank 128 (c.stateB.map StateBlock.bytes) ++ leBytes 192 0
    ++ orBlank 256 (c.wear.map wearBytes) ++ leBytes 256 0
    ++ (List.range 96).flatMap (fun w => orBlank 32 (((c.zones[w]?).join).map zoneBytes)) ++ leBytes 12288 0

end Sys2Proof.Machine
end

