-- ==== Sys2Proof/Machine/Window.lean ====
section
/-!
DEFINITION. Commands that become complete in one window of R538: how they join the queue (R53, R142, R166).
-/
namespace Sys2Proof.Machine

/-- An SDO write goes before a link write of its window (R53). -/
def writerRank : Writer → Nat
  | .sdo | .rxpdo => 0
  | .regw _ _ _ | .mgmt _ _ _ => 1

/-- A write as its path ranks it (R53). -/
def writeRank : ObjWrite → Nat
  | .sdo _ _ _ | .sdoComplete _ _ _ | .sdoBegin _ _ _ _ _ | .sdoSegment _ _ _ | .rxpdo _ _ _ => 0
  | .regw _ _ _ _ _ => 1

/-- A CMD or DATA of port A goes before one of port B in its window (R142, R166). -/
def headRank (h : CmdHead) : Nat := h.port.fin.val

/-- Place of a command among those of its window. Where no rule orders two of them they keep the order they are given in, or
follow the ranks of others (DESIGN CHOICE, log entry 150). -/
def windowRank : Instr → Nat
  | .objectWrite w => writeRank w
  | .regwLowerWord _ _ _ _ _ | .mgmtWrite _ _ _ _ => 1
  | .resetRequest w _ | .holdupControl w _ | .imagePushData w _ | .imagePushCommit w _ | .imageActivate w _ | .calibrate w _
  | .injectWaveform w _ | .captureArm w | .captureStop w | .energyClear w _ | .apply w _ _ | .eventConfig w _ _
  | .pinConfig w _ _ _ | .pinOut w _ _ | .devicePinOut w _ | .enable _ w _ | .disable _ w _ | .retrain _ w _
  | .enterIdle _ w _ | .loopbackNes _ w _ | .loopbackNep _ w _ | .loopbackFe _ w _ | .endLoopback _ w _ | .configure _ w _
  | .goOnline _ w _ | .goOffline _ w _ | .reset _ w _ | .unconfigure _ w _ | .load w _ | .unload w _ | .eject w _
  | .format w _ | .formatForce w _ | .discardRing w _ | .clearFault w _ | .enterTest w _ | .endTest w _ => writerRank w
  | .append h _ | .readLog h _ _ | .writeVol h _ | .readVol h _ _ _ | .sync h _ | .trimLog h _ | .identify h _ | .getLogPage h _
  | .selfTest h _ | .resume h _ | .setPower h _ | .abort h _ | .meterRecord h _ | .loadUnload h _ | .undefinedOpcode _ h _
  | .data h _ _ _ _ => headRank h
  | _ => 0

/-- Commands that become complete in one window join the queue in the order of the tie rules (R538). -/
def gather (window : List Instr) (s : State) : State := { s with pending := s.pending ++ sortBy windowRank window }

end Sys2Proof.Machine
end

