-- ==== Sys2Proof/WellFormed.lean ====
section
/-!
DEFINITION. Well-formed commands: the bounds that the spec puts on what a command carries, beyond the widths of its operands.
A meaning is given to ill-formed commands too; a statement may ask for well-formedness.
-/
namespace Sys2Proof

/-- A received line is at most one lane frame with its stuffed bits, its filler and the next marker's window (R82, R84). -/
def lineBound : Nat := 9000

/-- A path on which a whole value of a request arrives: not process data (R51, R68). -/
def requestPath : Writer → Bool
  | .rxpdo => false
  | _ => true

/-- A cartridge as it can stand in a slot: a wear block and wrap records of the sizes of R278 and R288. -/
def Cartridge.wellFormed (c : Cartridge) : Bool :=
  c.wear.all (fun w => w.length == 96) && c.zones.length == 96

/-- A dictionary write of at most 64 KiB (R64). -/
def ObjWrite.wellFormed : ObjWrite → Bool
  | .sdo _ _ bytes | .sdoComplete _ _ bytes | .sdoSegment _ _ bytes => bytes.length ≤ 65536
  | .sdoBegin _ _ _ _ bytes => bytes.length ≤ 65536
  | .regw _ _ _ _ _ | .rxpdo _ _ _ => true

/-- The bounds of a command's operands. -/
def wellFormed : Instr → Bool
  | .laneFrameReceived _ _ line => line.length ≤ lineBound
  | .objectWrite w => w.wellFormed
  | .mgmtWrite _ _ _ bytes => bytes.length ≤ 240
  | .undefinedMgmtOpcode _ _ opcode _ => opcode == 0 || decide (4 < opcode.toNat)
  | .newOutputBuffer image => image.length ≤ 1024
  | .foePacket _ _ bytes => bytes.length ≤ 512
  | .foeWrite name => name.length ≤ 500
  | .imagePushData w bytes => requestPath w && 1 ≤ bytes.length && bytes.length ≤ 65536
  | .imagePushCommit w _ | .imageActivate w _ | .resetRequest w _ | .holdupControl w _ | .calibrate w _
  | .injectWaveform w _ | .captureArm w | .captureStop w | .energyClear w _ => requestPath w
  | .apply w _ _ | .eventConfig w _ _ => requestPath w
  | .pinConfig w _ _ _ => requestPath w
  | .enable _ w _ | .disable _ w _ | .retrain _ w _ | .enterIdle _ w _ | .loopbackNes _ w _ | .loopbackNep _ w _
  | .loopbackFe _ w _ | .endLoopback _ w _ => requestPath w
  | .configure _ w _ | .goOnline _ w _ | .goOffline _ w _ | .reset _ w _ | .unconfigure _ w _ => requestPath w
  | .load w _ | .unload w _ | .eject w _ | .format w _ | .formatForce w _ | .discardRing w _ => requestPath w
  | .clearFault w _ | .enterTest w _ | .endTest w _ => requestPath w
  | .undefinedOpcode opcode _ _ =>
    !(([0x01, 0x02, 0x03, 0x04, 0x05, 0x06, 0x08, 0x09, 0x0A, 0x0B, 0x0C, 0x0D, 0x0E, 0x10] : List Nat).contains opcode.toNat)
  | .data _ _ bytes _ _ => 1 ≤ bytes.length && bytes.length ≤ 960
  | .arbiterRequest rank _ line n _ _ => rank.toNat < 12 && 1 ≤ n.toNat && line.toNat % 16 + n.toNat ≤ 16
  | .arbiterWithdraw rank => rank.toNat < 12
  | .arbiterStarvation rank _ => 8 ≤ rank.toNat && rank.toNat ≤ 11
  | .blockCompressed _ lengths _ => lengths.length == 305
  | .frameSetDecision _ _ frames _ written => frames.length ≤ 16 && written.toNat ≤ 36
  | .blockRecoveryComplete _ written _ => written.toNat ≤ 36
  | .cartridgeInserted c => c.wellFormed
  | .zoneExit w _ _ _ => w.toNat < 96
  | .encoderEdge _ _ _ tick => tick.toNat < 2500
  | .energyTick x => decide (-40 ≤ x.tj.toInt) && decide (x.tj.toInt ≤ 150)
  | .watchdogExpiry block _ => (1 ≤ block.toNat && block.toNat ≤ 0x0E) || (0x10 ≤ block.toNat && block.toNat ≤ 0x13)
  | .release us _ => us.toNat ≤ 0x1FFFFFF
  | _ => true

end Sys2Proof
end

