-- ==== Sys2Proof/Tests/Slice0.lean ====
section
/-!
SUPPORT. Tests on small states, the refusals of ill-formed commands, and for each statement states and operands that meet its
hypotheses.
-/
namespace Sys2Proof.Tests
open Sys2Proof.Machine
set_option Elab.async false

/-- A released part, its mailbox in INIT, with nothing configured. -/
def live0 : State := { State.reset with boot := { Boot.init with phase := .released } }

/-- The same in PREOP, as a release leaves it. -/
def preop : State := { live0 with ecat := { State.reset.ecat with al := .preop } }

/-- A condition on the next state of an outcome. -/
def after (o : Host.Outcome State Fault Refusal) (p : State → Bool) : Bool :=
  match o with
  | .next t => p t
  | _ => false

/-- A domain's run-time state changed. -/
def domWith (d : Dom) (f : DomainRt → DomainRt) (s : State) : State := { s with doms := vset s.doms d (f (domOf s d)) }

/-- A port changed. -/
def portWith (p : PortId) (f : Port → Port) (s : State) : State := setPort p (f (portOf s p)) s

/-- A port whose lane 0 stands in a state. -/
def lane0 (x : LaneState) (s : State) : State := setLane .a 0 { laneOf s .a 0 with state := x } s

/-- The transport changed. -/
def xportWith (f : Xport → Xport) (s : State) : State := { s with xport := f s.xport }

/-- The cartridge unit changed. -/
def cartWith (f : Cart → Cart) (s : State) : State := { s with cart := f s.cart }

/-- The scheduler changed. -/
def schedWith (f : Sched → Sched) (s : State) : State := { s with sched := f s.sched }

/-- Kiln changed. -/
def kilnWith (f : Kiln → Kiln) (s : State) : State := { s with kiln := f s.kiln }

/-- The holdup bank changed. -/
def powerWith (f : Power → Power) (s : State) : State := { s with power := f s.power }

/-- Start-up state changed. -/
def bootWith (f : Boot → Boot) (s : State) : State := { s with boot := f s.boot }

/-- A request by SDO that its checks pass (R33, R540). -/
theorem sdo_request {i : Nat} {gen : Half} {s : State} (h1 : released s = true) (h2 : coeServed s = true)
    (h3 : firstReason (accessChecks s .sdo i 3) = none) (h4 : gen.toNat = obj s (Obj.unitGen i)) :
    requestPasses .sdo i gen s s :=
  ⟨h1, by simp [arrived, h2], h3, h4⟩

/-- A write by SDO that its checks pass (R53, R540). -/
theorem sdo_write {i sub v : Nat} {s : State} (h1 : released s = true) (h2 : coeServed s = true)
    (h3 : firstReason (writeChecks s .sdo i sub (typeBytes i sub) v) = none) : writePasses .sdo i sub v s s :=
  ⟨h1, by simp [arrived, h2], h3⟩

/-- No slot holds a command that could go on. -/
theorem quiet_of_empty {s : State} {d : Dom} (h : (domOf s d).slots = []) : quiet s d := by
  intro x hx; rw [h] at hx; cases hx

/-! ### Ill-formed commands -/

/-- A plain port path for requests. -/
def byPdo : Writer := .rxpdo

/-- A frame header of kind 1 with a stream of `n` bytes. -/
def header (n : Nat) : FrameHeader := ⟨1, 1, false, false, 0, 0, 0, 0, BitVec.ofNat 16 n, 0, 0, 0, 0, 0⟩

/-- An empty command body. -/
def body0 : CmdBody := ⟨0, 0, 0, 0, 0, 0, 0, 0, 0, 0⟩

/-- Tag 9 of domain 2 on port A. -/
def head9 : CmdHead := ⟨.a, 2, 9⟩

/-- A blank cartridge with the sizes of R278 and R288. -/
def blank : Cartridge :=
  { id := 7, manufacturer := true, stateA := none, stateB := none, wear := none, zones := List.replicate 96 none, cuts := [] }

theorem test_refuses_long_sdo : wellFormed (.objectWrite (.sdo 0x2000 1 (List.replicate 65537 0))) = false := by
  simp only [wellFormed, ObjWrite.wellFormed, List.length_replicate]; decide
theorem test_refuses_long_segment :
    wellFormed (.mgmtWrite .a 0 ⟨false, true, 0, 0, 0, 0, 0, 0, 0⟩ (List.replicate 241 0)) = false := by decide +kernel
theorem test_refuses_defined_mgmt_opcode :
    wellFormed (.undefinedMgmtOpcode .a 0 4 ⟨false, true, 0, 0, 0, 0, 0, 0, 0⟩) = false := by decide +kernel
theorem test_refuses_long_image : wellFormed (.newOutputBuffer (List.replicate 1025 0)) = false := by decide +kernel
theorem test_refuses_long_packet : wellFormed (.foePacket 1 false (List.replicate 513 0)) = false := by decide +kernel
theorem test_refuses_long_name : wellFormed (.foeWrite (List.replicate 501 0)) = false := by decide +kernel
theorem test_refuses_empty_push : wellFormed (.imagePushData .sdo []) = false := by decide +kernel
theorem test_refuses_process_data_requests :
    [Instr.imagePushCommit byPdo 0, .imageActivate byPdo 1, .apply byPdo 0 4, .eventConfig byPdo 0 0, .pinConfig byPdo 0 0 0,
      .enable .a byPdo 0, .configure 0 byPdo 0, .load byPdo 0, .clearFault byPdo 0].map wellFormed =
      List.replicate 9 false := by decide +kernel
theorem test_refuses_defined_opcode : wellFormed (.undefinedOpcode 0x10 head9 body0) = false := by decide +kernel
theorem test_refuses_empty_data : wellFormed (.data head9 0 [] true 0) = false := by decide +kernel
theorem test_refuses_rank : wellFormed (.arbiterRequest 12 0 0 1 false false) = false := by decide +kernel
theorem test_refuses_high_rank_starving : wellFormed (.arbiterStarvation 7 0) = false := by decide +kernel
theorem test_refuses_code_lengths : wellFormed (.blockCompressed 0 [] []) = false := by decide +kernel
theorem test_refuses_frame_sets : wellFormed (.frameSetDecision 0 0 [] 0 37) = false := by decide +kernel
theorem test_refuses_cartridge : wellFormed (.cartridgeInserted { blank with zones := [] }) = false := by decide +kernel
theorem test_refuses_long_line : wellFormed (.laneFrameReceived .a 0 (List.replicate 9001 true)) = false := by
  simp only [wellFormed, lineBound, List.length_replicate]; decide
theorem test_refuses_rank_withdrawn : wellFormed (.arbiterWithdraw 12) = false := by decide +kernel
theorem test_refuses_recovery_frame_sets : wellFormed (.blockRecoveryComplete 0 37 false) = false := by decide +kernel
theorem test_refuses_zone_wrap : wellFormed (.zoneExit 96 0 (Vector.replicate 17 ⟨0, 0, 0⟩) 0) = false := by decide +kernel
theorem test_refuses_edge_tick : wellFormed (.encoderEdge 0 0 0 2500) = false := by decide +kernel
theorem test_refuses_temperature : wellFormed (.energyTick ⟨0, 151, 880, 1000, false⟩) = false := by decide +kernel
theorem test_refuses_block_number : wellFormed (.watchdogExpiry 0x0F []) = false := by decide +kernel
theorem test_accepts : [Instr.linkFrameReceived .a, .zoneExit 95 0 (Vector.replicate 17 ⟨0, 0, 0⟩) 0, .cartridgeInserted blank,
    .watchdogExpiry 0x13 []].map wellFormed = List.replicate 4 true := by decide +kernel

/-! ### States and operands that meet the hypotheses of the statements -/

/-- A board that starts normally. -/
def env0 : StartEnv := ⟨0, true, 0, 2048, 1, true, true, true⟩
/-- The same with TEST strapped high. -/
def envTest : StartEnv := { env0 with straps := 0x800 }
/-- The same with a fuse row that fails. -/
def envBad : StartEnv := { env0 with fuseOk := false }
/-- The power-fail sequence for a reset, over. -/
def seqOver : State := live0 |> powerWith (fun x => { x with failing := true, forReset := true }) |> xportWith (fun x => { x with state := .off })
  |> bootWith (fun x => { x with sequenceEnded := true })

theorem meets_ResetsHoldThePart : live0.boot.phase = .released ∧ live0.power.failing = false ∧ live0.boot.phase ≠ .held ∧
    live0.boot.phase ≠ .shelf := by decide +kernel

theorem meets_StartsRunToTheImageCheck :
    (State.reset.boot.phase = .held ∧ samplesStraps State.reset.boot.cause = true ∧ env0.fuseOk = true ∧
      bitOf env0.straps.toNat 11 = false) ∧
    bitOf envTest.straps.toNat 11 = true ∧ envBad.fuseOk = false ∧
    (let s := bootWith (fun x => { x with phase := .stuck }) State.reset;
      s.boot.phase = .stuck ∧ bitOf s.boot.straps 11 = false) ∧
    (let s := bootWith (fun x => { x with warmPending := true, cause := 3 }) seqOver;
      released s = true ∧ s.boot.warmPending = true ∧ s.boot.cause = 3 ∧ resetReady s = true ∧
        bitOf s.boot.straps 11 = false) ∧
    (let s := setObj Obj.tjC 100 (bootWith (fun x => { x with thermalHold := true }) seqOver);
      released s = true ∧ s.boot.thermalHold = true ∧ resetReady s = true ∧ objInt 16 s Obj.tjC ≤ 100) ∧
    (let s := bootWith (fun x => { x with phase := .shelf }) State.reset;
      s.boot.phase = .shelf ∧ bitOf s.boot.straps 11 = false) := by decide +kernel

theorem meets_ReleaseStartsTheFunctions :
    (bootWith (fun x => { x with phase := .started }) State.reset).boot.phase = .started ∧
    (900 < (901 : Half).toNat ∧ (901 : Half).toNat < 2100 ∧ 2900 < (2901 : Half).toNat ∧ 2100 < (2101 : Half).toNat ∧
      (2899 : Half).toNat < 2900) := by decide +kernel

theorem meets_PowerFailSequenceRuns :
    (let s := setObj Obj.powerFailSource 3 live0;
      released s = true ∧ s.power.failing = false ∧ (1 : BitVec 2).toNat &&& obj s Obj.powerFailSource ≠ 0) ∧
    (let s := setObj Obj.tjC 120 live0;
      released s = true ∧ 120 ≤ objInt 16 s Obj.tjC ∧ s.boot.thermalHold = false ∧ s.power.failing = false) ∧
    (let s := powerWith (fun x => { x with failing := true }) (xportWith (fun x => { x with atRest := false }) live0);
      released s = true ∧ s.power.failing = true ∧ s.xport.atRest = false ∧ (8999 : Half).toNat < 9000 ∧
        s.jour.exhausted = none) ∧
    (let s := powerWith (fun x => { x with failing := true }) live0;
      released s = true ∧ sequenceOver s = true ∧ s.power.forReset = false ∧ s.boot.sequenceEnded = false) := by
  decide +kernel

theorem meets_HoldupAndPowerStatesFollow :
    (released live0 = true ∧ live0.power.faulted = false ∧ live0.xport.state ≠ .moving) ∧
    (let s := powerWith (fun x => { x with ready := true }) (xportWith (fun x => { x with state := .moving }) live0);
      released s = true ∧ s.xport.state = .moving ∧ s.power.ready = true ∧ s.cart.openCut = none) ∧
    (let s := setPowerState 0 1 (xportWith (fun x => { x with state := .stopped }) live0);
      powerNow s = 0 ∧ powerToward s = 1 ∧ flushed s = true ∧ s.xport.state = .stopped) ∧
    (let s := setPowerState 1 2 live0;
      released s = true ∧ powerNow s = 1 ∧ powerToward s = 2 ∧ portsIdle s = true) ∧
    (let s := setPowerState 1 0 (xportWith (fun x => { x with state := .idle }) live0);
      powerNow s = 1 ∧ powerToward s = 0 ∧ s.xport.state = .idle ∧ (∀ d, (domOf s d).slots = [])) ∧
    (let s := setPowerState 2 1 live0;
      powerNow s = 2 ∧ powerToward s < 2 ∧ (portOf s .a).backlog = [] ∧ (portOf s .b).backlog = []) := by decide +kernel

/-- A lane word with the CRC of its bits (R85). -/
def laneWord (x : BitVec 56) : DWord := (x ++ (0 : Byte)) ||| (crc8 (bitsMsb x)).setWidth 64

/-- A lane word of a partner that locks all four lanes. -/
def word15 : LaneWord := ⟨4, 0, 0, 15, 2, 2, 0, 0, false, 0, 0, 0, 0⟩

/-- A training port with its four lanes in DESKEW, locked at both ends. -/
def deskewing : State := portWith .a (fun q => { q with state := .training, lanes := q.lanes.map (fun x =>
  { x with state := .deskew, word := some word15 }) }) live0

/-- Port A in a state. -/
def portIn (x : PortState) (s : State) : State := portWith .a (fun q => { q with state := x }) s

/-- The training pattern found at bit position 5 in four frames. -/
def hit5 : SlipHit := ⟨5, 4, false⟩
/-- Lane 0 of port A at a value, the port training. -/
def laneAt (x : LaneRt) : State := portIn .training (setLane .a 0 x live0)
/-- Lane 0 in a state, in a training of its own or of its port. -/
def lane0At (x : LaneState) (alone : Bool) (retries : Nat) : LaneRt := { LaneRt.init with state := x, alone := alone, retries := retries }
/-- The other lanes of port A back in LISTEN. -/
def othersListen (s : State) : State := modLanes .a (fun l x => if l = 0 then x else { x with state := .listen }) s

theorem meets_LanePhasesAdvance :
    (∃ w, LaneWord.decode (laneWord 0) = some w ∧ w.lane.toNat = (0 : Lane).val) ∧
    (laneOf (lane0 .lock live0) .a 0).state = .lock ∧
    (let s := laneAt { LaneRt.init with state := .loopback, loop := .lock };
      (laneOf s .a 0).state = .loopback ∧ (laneOf s .a 0).loop = .lock) ∧
    (∀ alone ∈ [false, true], let s := laneAt (lane0At .align alone 0);
      (laneOf s .a 0).state = .align ∧ (laneOf s .a 0).alone = alone ∧ (portOf s .a).fullTraining = true ∧
      searchSlip (portOf s .a) (laneOf s .a 0) [hit5] = some hit5) ∧
    4 ≤ hit5.frames.toNat ∧
    (∀ x ∈ [LaneState.lock, .align, .equalize, .deskew],
      (let y := laneOf (laneAt (lane0At x false 2)) .a 0; y.state = x ∧ y.alone = false ∧ y.retries < 3) ∧
      (let y := laneOf (laneAt (lane0At x true 0)) .a 0; y.state = x ∧ y.alone = true) ∧
      (let s := laneAt (lane0At x false 3);
        3 ≤ (laneOf s .a 0).retries ∧ (1 : Lane) ≠ 0 ∧ (1 : Lane).val < (portOf s .a).width ∧ (laneOf s .a 1).state ≠ .listen) ∧
      (let s := othersListen (laneAt (lane0At x false 3));
        (portOf s .a).state = .training ∧ 3 ≤ (laneOf s .a 0).retries ∧ (laneOf s .a 0).state = x ∧
        ∀ k, k ≠ 0 → k.val < (portOf s .a).width → (laneOf s .a k).state = .listen)) ∧
    (laneOf (lane0 .listen live0) .a 0).state = .listen ∧ (laneOf (lane0 .retrainWait live0) .a 0).state = .retrainWait ∧
    (let x := laneOf (laneAt { LaneRt.init with state := .equalize, requesting := true }) .a 0;
      x.state = .equalize ∧ x.requesting = true ∧ x.wordKind ≠ 4) ∧
    (let x := laneOf (laneAt { LaneRt.init with state := .equalize, requesting := true, word := some word15 }) .a 0;
      x.requesting = true ∧ x.wordKind = 4) := by
  refine ⟨⟨LaneWord.fields (laneWord 0), ?_⟩, ?_⟩ <;> decide +kernel

theorem meets_MiswiredLaneTakesNoPart :
    ∃ w, LaneWord.decode (laneWord 0) = some w ∧ w.lane.toNat ≠ (3 : Lane).val ∧ released live0 = true ∧
      (let s := setLane .a 3 { LaneRt.init with state := .align } live0;
        (laneOf s .a 3).state = .align ∧ searchSlip (portOf s .a) (laneOf s .a 3) [hit5] = some hit5) := by
  refine ⟨LaneWord.fields (laneWord 0), ?_⟩; decide +kernel

/-- The line of a lane frame with a lane word and as far as it goes. -/
def lineOf15 : List Bool := (laneFrame 0 word15.encode []).2.1
/-- The same with a lane word whose CRC fails. -/
def lineBad : List Bool := (laneFrame 0 (word15.encode ^^^ 1) []).2.1
/-- Lane 0 in a state with `n` markers missed. -/
def missedAt (x : LaneState) (n : Nat) : LaneRt := { LaneRt.init with state := x, missed := n }

theorem meets_LaneEventsActOnTheirLane :
    (let s := portIn .up (lane0 .listen live0);
      released s = true ∧ (laneOf s .a 0).state = .listen ∧ (portOf s .a).state = .up) ∧
    (let s := portIn .listen (lane0 .listen live0);
      (laneOf s .a 0).state = .listen ∧ (portOf s .a).state = .listen ∧ (0 : Lane).val < obj s (Obj.configuredWidth .a)) ∧
    (laneOf (lane0 .deskew live0) .a 0).state ∈ [LaneState.lock, .align, .equalize, .deskew] ∧
    (laneOf live0 .a 0).state ≠ .active ∧ (laneOf live0 .a 0).state ≠ .standby ∧
    (∀ n ∈ [0, 1], afterMarker (missedAt .deskew n) [] = none ∧ (missedAt .deskew n).missed = n) := by decide +kernel

set_option maxRecDepth 100000 in
theorem meets_LaneEventsActOnTheirLane_frames :
    (∃ rest, afterMarker (missedAt .equalize 0) lineOf15 = some rest ∧ (takeLaneFrame (missedAt .equalize 0) rest).2 = some word15) ∧
    (∃ rest, afterMarker (missedAt .equalize 0) lineBad = some rest ∧ (takeLaneFrame (missedAt .equalize 0) rest).2 = none) := by
  refine ⟨⟨lineOf15.drop 64, ?_⟩, ⟨lineBad.drop 64, ?_⟩⟩ <;> decide +kernel

/-- Port A draining towards a goal, its lanes in a state with a partner's word. -/
def draining (g : PortGoal) (eot : Bool) (x : LaneState) : State := portWith .a (fun q => { q with
  state := .draining, goal := g, eotSeen := eot, curWidth := 4, lanes := q.lanes.map (fun y => { y with state := x, word := some word15 }) }) live0

theorem meets_PortStatesFollowTheLink :
    ((portOf deskewing .a).state = .training ∧ skewedLanes deskewing .a (Vector.replicate 4 96) = [] ∧
      widthFor (commonLanes (portOf (modLanes .a (fun l x => judgeSkew (vget (Vector.replicate 4 (96 : BitVec 8)) l).toNat x)
        deskewing) .a)).length ≠ 0) ∧
    (let s := portIn .up deskewing; (portOf s .a).state = .up ∧ skewedLanes s .a (Vector.replicate 4 96) = []) ∧
    (let s := portWith .a (fun q => { q with state := .up, narrowing := true }) live0;
      (portOf s .a).state = .up ∧ (portOf s .a).narrowing = true) ∧
    (portOf (portIn .idle live0) .a).state = .idle ∧
    (let s := draining .idle false .active;
      (portOf s .a).goal = .idle ∧ (portOf s .a).eotSeen = false ∧ (laneOf s .a 0).locked = true ∧
      (activeLanes (portOf s .a)).length = (portOf s .a).curWidth) ∧
    (let s := draining .idle false .listen; ∀ l, (laneOf s .a l).locked = false) ∧
    ((portOf (draining .idle true .active) .a).eotSeen = true ∧ (portOf (draining .disabled false .active) .a).goal = .disabled ∧
      (portOf (draining .disabled false .active) .a).retry = [] ∧
      (portOf (draining (.loopback .fe) false .active) .a).goal = .loopback .fe) := by decide +kernel

theorem meets_PortRequestsTakeTheirTransition :
    ∀ x ∈ [PortState.disabled, .up, .listen, .training, .idle, .loopback],
      requestPasses .sdo (portIndex .a) 0 (portIn x preop) (portIn x preop) ∧ (portOf (portIn x preop) .a).state = x := by
  intro x hx
  simp only [List.mem_cons, List.not_mem_nil, or_false] at hx
  rcases hx with rfl | rfl | rfl | rfl | rfl | rfl <;>
    exact ⟨sdo_request (by decide +kernel) (by decide +kernel) (by decide +kernel) (by decide +kernel), by decide +kernel⟩

/-- Port A up on one lane, in the host role so that it consumes, expecting frame 5, with received content. -/
def up5 (content : List Byte) : State := portWith .a (fun q => { q with
    state := .up, rxExpected := 5, hostRole := true, curWidth := 1
    lanes := vset q.lanes 0 { LaneRt.init with state := .active, word := some { word15 with rxLocked := 1, txWidth := 0 }, rxContent := content } })
  (setObj Obj.nodeIdValid 1 live0)
/-- The header of an empty sequenced frame of number `n`; the reserved word makes the CRC of the frame what a test wants. -/
def frame5 (n res : Nat) : FrameHeader := { headerFor 1 n ⟨false, false, 0, 0⟩ 0 .zero with res12 := BitVec.ofNat 32 res }
/-- Its content up to the first zeros. -/
def bytes5 (n res : Nat) : List Byte := leBytes 16 (FrameHeader.encode (frame5 n res)).toNat

set_option maxRecDepth 100000 in
theorem meets_LinkFramesAreTakenInOrder :
    (released live0 = true ∧ (portOf live0 .a).nakSent = false ∧ receivedFrame (portOf live0 .a) = none) ∧
    (∀ f ∈ [(4, 0x16FEBA56), (5, 0xDDA8C1F3), (6, 0x85BE3BED)], (let s := up5 (bytes5 f.1 f.2); let h := frame5 f.1 f.2;
      (portOf s .a).state = .up ∧ receivedFrame (portOf s .a) = some (.good, h, []) ∧
      badFrame (portOf s .a) .good h = false ∧ h.kind = 1 ∧ h.fseq.toNat = f.1 ∧ route s .a h = .consume)) ∧
    (fseqBehind 5 4 = true ∧ fseqBehind 5 6 = false) ∧
    receivedFrame (portOf (up5 (bytes5 5 0x14FC48A3)) .a) = some (.stomped, frame5 5 0x14FC48A3, []) ∧
    (receivedFrame (portOf (up5 []) .a)).map (·.1) = some .bad := by
  decide +kernel

theorem meets_RetryAndCreditsFollowTheLink :
    (let f (n : Nat) : RetryFrame := ⟨n, []⟩;
     let s := portWith .a (fun q => { q with retry := [f 7, f 8] }) live0;
      released s = true ∧ (portOf s .a).retry = [f 7] ++ f 8 :: [] ∧ (f 8).fseq = (8 : Half).toNat ∧
        (∀ g ∈ [f 7], g.fseq ≠ (8 : Half).toNat)) ∧
    (portOf (portWith .a (fun q => { q with retry := [⟨7, []⟩] }) live0) .a).retry = ⟨7, []⟩ :: [] := by decide +kernel

theorem meets_LaneFramePeriodsSendWhatIsDue :
    (portOf (portIn .training live0) .a).state = .training ∧ (∀ d, turnSlot (portIn .training live0) .a d = none) ∧
    (let s := up5 [];
      released s = true ∧ (portOf s .a).state = .up ∧ (portOf s .a).eotSent = false ∧ s.power.failing = false ∧
      (portOf s .a).replaying = [] ∧ (portOf s .a).txWait = [] ∧ (portOf s .a).backlog = [] ∧ (portOf s .a).evtLost = 0 ∧
      (portOf s .a).nakDue = none ∧ (portOf s .a).creditDue = false ∧ (portOf s .a).stomp = none ∧
      activeLanes (portOf s .a) ≠ [] ∧ (∀ d, turnSlot s .a d = none)) ∧
    (numbered live0 = false ∧ (5 : Word).toNat = (5 : Byte).toNat ∧ (portOf (portIn .up live0) .a).state = .up) := by
  decide +kernel

/-- Port A up and bound to domain 2, which is online and owns pin PA0. -/
def site : State := live0 |> portIn .up |> setObj (Obj.linkBinding 2) 1 |> setObj (Obj.pinConfig 0 0) 0x300000 |> domWith 2 (fun x => { x with state := .online })
/-- The same with domain 2 the administrative domain. -/
def admin : State := setObj Obj.adminDomain 2 site
/-- The slave in an AL state. -/
def alIn (x : AlState) (s : State) : State := { s with ecat := { s.ecat with al := x } }

/-- RxPDO 1 assigned alone, mapping PDO_OUTPUTS alone, in OP. -/
def pdoOp : State := live0 |> setObj (objKey 0x1C12 0) 1 |> setObj (objKey 0x1C12 1) 0x1600 |> setObj (objKey 0x1600 0) 1
  |> setObj (objKey 0x1600 1) 0x38080140 |> alIn .op

/-- A MGMT request of object 0x2600:01. -/
def mgmt0 : MgmtReq := ⟨false, true, 0, 0x2600, 1, 7, 0, 2, 0⟩
/-- A register access by domain 2 on port A. -/
def regw2 : Writer := .regw .a 2 1
/-- The state a register access meets. -/
def atPort (s : State) : State := returnAdmin .a 1 (dropPair .a s)

theorem meets_ObjectWritesStoreTheirValue_rxpdo :
    (let s := setObj (objKey 0x1600 1) 0x26000110 pdoOp; writePasses .rxpdo 0x2600 1 (2000 : DWord).toNat s s) :=
  ⟨by decide +kernel, by decide +kernel, by decide +kernel⟩

theorem meets_ObjectWritesStoreTheirValue :
    (released preop = true ∧ coeServed preop = true ∧ storesOnly 0x2600 1 = true ∧
      firstReason (writeChecks preop .sdo 0x2600 1 2 (ofLeBytes [0xD0, 0x07])) = none) ∧
    (let l := splitEntries 0x2405 (subsFrom 0x2405 1) (List.replicate 8 0);
      (∀ e ∈ l, fixedEntry 0x2405 e.1 = false → storesOnly 0x2405 e.1 = true) ∧
      firstReason (completeChecks preop .sdo 0x2405 1 8 ++
        byStep (l.map (entryChecks preop (putAll 0x2405 l preop) .sdo 0x2405))) = none) ∧
    (released admin = true ∧ portReceives admin .a = true ∧ (BitVec.ofNat 32 (windowAddr 0x2600 1)).toNat % 4 = 0 ∧
      windowTarget (windowAddr 0x2600 1) = some (0x2600, 1, false) ∧ isWide 0x2600 1 = false ∧ storesOnly 0x2600 1 = true ∧
      firstReason (writeChecks (atPort admin) regw2 0x2600 1 (typeBytes 0x2600 1) (regwValue 0x2600 1 2000)) = none) ∧
    firstReason (writeChecks preop .sdo 0x2600 1 4 0) ≠ none ∧
    (let x : SdoTransfer := ⟨true, false, 0x2600, 1, 2, false, [0xD0]⟩;
     let s : State := { preop with ecat := { preop.ecat with sdo := some x } };
      coeServed s = true ∧ s.ecat.sdo = some x ∧ x.bytes.length + 1 = x.total ∧
      firstReason (writeChecks s .sdo x.index x.sub x.total (ofLeBytes (x.bytes ++ [7]))) = none) := by decide +kernel

theorem meets_WideObjectsTakeTwoWords :
    (released site = true ∧ portReceives site .a = true ∧ windowTarget (windowAddr 0x4207 1) = some (0x4207, 1, false) ∧
      isWide 0x4207 1 = true ∧ firstReason (accessChecks (atPort site) regw2 0x4207 1) = none) ∧
    (let s := portWith .a (fun q => { q with held := some (objKey 0x4207 1, 1) }) site;
      windowTarget (windowAddr 0x4207 2) = some (0x4207, 1, true) ∧ (portOf s .a).held = some (objKey 0x4207 1, 1) ∧
      0x4207 = 0x4007 + 0x100 * (2 : Dom).val ∧ firstReason (writeChecks (atPort s) regw2 0x4207 1 8 1) = none) ∧
    ((findObj 0x4207 1).any (fun r => r.access != .wo) = true ∧ mayRead (atPort site) .a 2 0x4207 = true) := by
  decide +kernel

theorem meets_MgmtRequestsAreAnswered :
    (let s1 := returnAdmin .a (mgmtUnits 0) admin;
      released admin = true ∧ portReceives admin .a = true ∧ mgmt0.complete = false ∧ (portOf admin .a).transfer = none ∧
      firstReason (readChecks s1 .a 2 mgmt0 ++ segmentChecks (portOf s1 .a) false mgmt0) = none) ∧
    (let m : MgmtReq := { mgmt0 with last := false, index := 0x2202, sub := 2, total := 480 };
     let s1 := returnAdmin .a (mgmtUnits 240) admin;
      m.last = false ∧ (List.replicate 240 (0 : Byte)).length = 240 ∧
      firstReason (mgmtWriteChecks s1 (.mgmt .a 2 m.transferId) m ++ segmentChecks (portOf s1 .a) true m) = none) ∧
    (∃ s1, arrived (.mgmt .a 2 7) 0x2600 1 2 admin = some s1 ∧
      firstReason (writeChecks s1 (.mgmt .a 2 7) 0x2600 1 2 (ofLeBytes [0xD0, 0x07])) = none) ∧
    (indexPresent 0x2600 = true ∧ (findObj 0x2600 1).isSome = true ∧ mgmtAllowed admin .a 2 = true) ∧
    (0 : Byte).toNat = 0 ∧ 4 < (5 : Byte).toNat := by
  refine ⟨?_, ?_, ⟨_, rfl, ?_⟩, ?_⟩ <;> decide +kernel

theorem meets_ControlObjectsAct :
    writePasses .sdo 0x3000 7 5 preop preop ∧
    (let s := xportWith (fun x => { x with state := .test }) preop; writePasses .sdo 0x3010 2 1 s s) ∧
    writePasses .sdo 0x3011 4 1 preop preop ∧ writePasses .sdo 0x3011 4 2 preop preop ∧
    (let s := cartWith (fun c => { c with threaded := true, state := .ready }) preop; writePasses .sdo 0x2E03 1 1 s s) ∧
    writePasses .sdo 0x3601 5 1 preop preop ∧ writePasses .sdo 0x2160 0xB 1 preop preop ∧
    writePasses .sdo 0x2200 3 0x0A5C preop preop ∧ preop.power.failing = false := by
  refine ⟨?_, ?_, ?_, ?_, ?_, ?_, ?_, ?_, ?_⟩
  any_goals exact sdo_write (by decide +kernel) (by decide +kernel) (by decide +kernel)
  rfl

theorem meets_PinObjectsTakeEffect :
    writePasses .sdo 0x3801 1 0 preop preop ∧ writePasses .sdo 0x3806 1 0x0700 preop preop ∧
    (let s := setObj (Obj.pinConfig 0 0) 0x300000 preop; writePasses .sdo 0x4207 1 1 s s) ∧ writePasses .sdo 0x3800 3 5 preop preop := by
  refine ⟨?_, ?_, ?_, ?_⟩
  all_goals exact sdo_write (by decide +kernel) (by decide +kernel) (by decide +kernel)

/-- An open download of 3 bytes. -/
def pushing : State := bootWith (fun x => { x with download := some ⟨.push none, [1, 2, 3], 0⟩ }) preop

theorem meets_ImagesArePushedAndActivated :
    (arrived .sdo 0x2202 2 3 preop = some preop ∧ firstReason (accessChecks preop .sdo 0x2202 2) = none ∧
      obj preop Obj.imagePushOffset + 3 ≤ slotSize ∧ pushAllowed preop = true) ∧
    (writePasses .sdo 0x2202 3 3 pushing pushing ∧ (∃ r, checkImage pushing 3 [1, 2, 3] = .error r)) ∧
    (let s := bootWith (fun x => { x with slots := x.slots.map (fun y => { y with status := 1 }) }) preop;
      writePasses .sdo 0x2201 4 1 s s) := by
  refine ⟨⟨rfl, by decide +kernel⟩, ⟨?_, ⟨_, rfl⟩⟩, ?_⟩
  all_goals exact sdo_write (by decide +kernel) (by decide +kernel) (by decide +kernel)

/-- An image of one empty OBJECT_VALUES section, with a key and a signature of zeros (R426). -/
def image : List Byte :=
  leBytes 4 0x4D4F494D ++ leBytes 2 1 ++ leBytes 2 0x0880 ++ leBytes 4 0xA1 ++ leBytes 4 208 ++ leBytes 4 1 ++ leBytes 4 3 ++
    List.replicate 104 0 ++ (leBytes 2 1 ++ List.replicate 10 0 ++ leBytes 4 (crc32c []).toNat) ++ List.replicate 64 0

/-- A part whose fused hash is that of the image's key. -/
def keyed : State := bootWith (fun x => { x with fuses := { x.fuses with
  keyProgrammed := true, keyHash := Config.sha256 (slice image 64 64) } })
  { setObj Obj.domainPagePool 29696 preop with dram := { preop.dram with pool := 29696 } }

set_option maxRecDepth 100000 in
/-- The image passes R428's checks where its signature does, which the model leaves uninterpreted (log entry 6). -/
theorem meets_image_checks (h : Config.ecdsaValid (slice image 64 64) (Config.sha256 (image.take (numAt image 12 4 - 64)))
    (BitVec.ofNat 512 (ofBeBytes (slice image (numAt image 12 4 - 64) 64))) = true) :
    ∃ c, checkImage keyed 208 image = .ok c := by
  have hk : keyed.boot.fuses.keyProgrammed = true := rfl
  have hh : keyed.boot.fuses.keyHash = Config.sha256 (slice image 64 64) := rfl
  have hl : limitsHold keyed [] = true := by decide +kernel
  simp only [checkImage, hk, hh, h]
  rw [if_neg (by decide +kernel), if_neg (by decide +kernel), if_neg (by decide +kernel), if_neg (by simp),
    if_neg (by simp), if_neg (by decide +kernel), if_neg (by decide +kernel), if_neg (by decide +kernel)]
  rw [if_neg (by
    rw [Bool.not_eq_true, Bool.not_eq_false']
    exact hl), if_neg (by decide +kernel)]
  exact ⟨_, rfl⟩

/-- Settings with a sync manager beyond the third enabled. -/
def badSettings : SlaveSettings := { SlaveSettings.init with sm := vset SlaveSettings.init.sm 5 ⟨0, 1, false, false, true⟩ }

theorem meets_AlStatesFollowTheMaster :
    (released live0 = true ∧ (alIn .op live0).ecat.al = .op ∧ dictWf (alIn .op live0).dict = true ∧
      (alIn .init live0).ecat.al ≠ .boot) ∧
    (preop.ecat.al = .preop ∧ safeopError SlaveSettings.init preop = none ∧ safeopError badSettings preop = some 0x17) ∧
    (let s := alIn .safeop live0; s.ecat.al = .safeop ∧ s.ecat.outputs = none ∧ assignedPdos s 0x1C12 = []) ∧
    (let s : State := { live0 with ecat := { live0.ecat with al := .safeop, outputs := some [1] } }; s.ecat.outputs = some [1]) := by
  decide +kernel

theorem meets_OutputBuffersReachTheirObjects :
    (alIn .safeop live0).ecat.al = .safeop ∧ pdoOp.ecat.al = .op ∧
    (assignedRx pdoOp).flatMap (rxEntries pdoOp) = [(0x3808, 1)] ∧
    firstReason (writeChecks pdoOp .rxpdo 0x3808 1 (typeBytes 0x3808 1) (bitsAt [0, 0, 0, 0, 0, 0, 0, 0] 0
      (imageBits (0x3808, 1)))) = none := by decide +kernel

/-- A download by FoE of nothing yet. -/
def foe : State := bootWith (fun x => { x with download := some ⟨.foe, [], 1⟩ }) (alIn .boot live0)

theorem meets_MailboxDownloadsAndRefuses :
    (released foe = true ∧ foe.ecat.al = .boot ∧ pushOpen foe = false ∧ foe.boot.download = some ⟨.foe, [], 1⟩ ∧
      (1 : Word).toNat = 1 ∧ (0 : Nat) + 512 ≤ slotSize ∧ (∃ r, checkImage foe 1 [0] = .error r)) ∧
    (preop.ecat.al ≠ .boot ∧ preop.ecat.al ≠ .init ∧ coeServed preop = true) ∧
    (firstReason (uploadChecks false 0x2600 1) = none ∧ (objBytes preop 0x2600 1).length ≤ 496 ∧
      firstReason (uploadChecks false 0x2F00 1) ≠ none) := by
  refine ⟨⟨?_, ?_, ?_, ?_, ?_, ?_, ⟨_, rfl⟩⟩, ?_⟩ <;> decide +kernel

/-- Domain 2 in a state, the rest of the part as in PREOP. -/
def domIn (x : DomState) (s : State) : State := domWith 2 (fun d => { d with state := x }) s

theorem meets_DomainRequestsTakeTheirTransition :
    (∀ x ∈ [DomState.unconfigured, .offline, .online, .starting, .draining],
      requestPasses .sdo (domIndex 2) 0 (domIn x preop) (domIn x preop) ∧ (domOf (domIn x preop) 2).state = x) ∧
    (let s := preop |> setObj (Obj.ringShare 2) 4 |> setObj (Obj.pageFloor 2) 64 |> setObj (Obj.pageCeiling 2) 64 |>
        setObj Obj.domainPagePool 64 |> setObj (Obj.cutQuota 2) 1 |> setObj (Obj.linkBinding 2) 1 |> (fun t => { t with dram := { t.dram with pool := 64 } });
      resourcesWithin s (confWith s 2) = true ∧ demandsWithin s (confWith s 2) = true) ∧
    (let s := domIn .offline preop; isAdmin s 2 = false ∧ itemsOf s 2 = [] ∧ s.power.failing = false ∧
      ((domOf s 2).slots.map (·.no)).Nodup ∧ s.test.run = none) := by
  refine ⟨?_, by decide +kernel⟩
  intro x hx
  simp only [List.mem_cons, List.not_mem_nil, or_false] at hx
  rcases hx with rfl | rfl | rfl | rfl | rfl <;>
    exact ⟨sdo_request (by decide +kernel) (by decide +kernel) (by decide +kernel) (by decide +kernel), by decide +kernel⟩

theorem meets_DomainEventsEndTheirStates :
    ((domOf (domIn .draining live0) 2).state = .draining ∧ outstanding (domIn .draining live0) 2 = 0) ∧
    (let s := cartWith (fun c => { c with state := .ready }) (domIn .starting live0);
      (domOf s 2).state = .starting ∧ s.cart.state = .ready ∧ s.dram.failed = false) ∧
    (domOf (domIn .resetting live0) 2).state = .resetting := by decide +kernel

/-- Two budgets short of the write guarantee: the scale falls below 1,024. -/
def scarce : State := live0 |> setObj (Obj.writeGuarantee 2) 100000 |> domIn .online |> setObj Obj.guaranteeScale 1024

theorem meets_GuaranteesScaleWithTheBudgets :
    (released scarce = true ∧ dictWf scarce.dict = true ∧ (scaleOf (currentBudgets scarce)).1 < 1024 ∧
      (scaleOf (currentBudgets scarce)).1 ≠ obj scarce Obj.guaranteeScale) ∧
    (let s := setObj Obj.guaranteeScale 1000 live0;
      (scaleOf (currentBudgets s)).1 = 1024 ∧ obj s Obj.guaranteeScale < 1024) ∧
    ((scaleOf (currentBudgets live0)).1 = obj live0 Obj.guaranteeScale ∧
      (scaleOf (currentBudgets live0)).2 = obj live0 Obj.limitingBudget) := by decide +kernel

/-- A pool of 100 pages with domain 2 configured. -/
def pool : State := live0 |> setObj Obj.domainPagePool 100 |> setObj (Obj.pageCeiling 2) 2 |> domIn .offline
/-- Domain 2 with a page that block 2 took. -/
def onePage : State :=
  { domWith 2 (fun d => { d with pages := 1 }) pool with dram := { pool.dram with taken := [(2, .domain 2)] } }

theorem meets_PagesFollowFloorsAndCeilings :
    (∃ r ∈ ([0] : List (Fin 2)), vget (#v[true, false] : Vector Bool 2) r = true) ∧
    (∀ r ∈ ([0] : List (Fin 2)), vget (#v[false, false] : Vector Bool 2) r = false ∧
      vget (#v[true, false] : Vector Bool 2) r = true) ∧
    (released pool = true ∧ atCeiling pool (.domain 2) = false ∧ 0 < commonFree pool) ∧
    (let s := domWith 2 (fun d => { d with pages := 2 }) pool;
      pageFloorOf s (.domain 2) ≤ heldPages s (.domain 2) ∧ atCeiling s (.domain 2) = true) ∧
    (pageFloorOf live0 .service ≤ heldPages live0 .service ∧ atCeiling live0 .service = false ∧ commonFree live0 = 0) ∧
    heldPages live0 (.device .tables) < vget reservePages (ReserveUse.no .tables) ∧
    (released onePage = true ∧ ((2 : BitVec 4).toNat, PageHolder.domain 2) ∈ onePage.dram.taken ∧
      0 < grantedPages onePage (.domain 2) ∧ onePage.dram.commonWait = [] ∧ onePage.dram.ceilingWait = [] ∧
      onePage.dram.marked = [] ∧ ((2 : BitVec 4).toNat, PageHolder.domain 2) ∉ pool.dram.taken) ∧
    (let s : State := { onePage with dram := { onePage.dram with marked := [(7, .domain 2)] } };
      (∃ e ∈ s.dram.marked, e.1 = (7 : Half).toNat) ∧ obj s Obj.retiredPages < 64) ∧
    (let s : State := { setObj Obj.domainPagePool 1 onePage with dram := { onePage.dram with commonWait := [⟨.service, 0, false⟩] } };
      0 < (domOf s 2).pages ∧ commonFree (modDom 2 (fun x => { x with pages := x.pages - 1 }) s) ≠ 0) := by decide +kernel

/-- The arbiter with an owner's transfer and waiting ones. -/
def arbitrating (own : Option Transfer) (l : List Transfer) : State :=
  { live0 with dram := { live0.dram with current := own, owner := (own.map (·.rank)).getD 0, parked := own == none, requests := l } }

theorem meets_ArbiterGrantsByRank :
    (let s := arbitrating none [];
      released s = true ∧ (3 : BitVec 4).toNat < 12 ∧ (3 : BitVec 4).toNat ∉ maskedRanks s ∧
      (∀ q ∈ s.dram.requests, q.rank ∉ maskedRanks s → (3 : BitVec 4).toNat < q.rank) ∧ s.dram.current = none) ∧
    (let s := arbitrating (some ⟨4, 16, 2⟩) [⟨8, 32, 1⟩];
      s.dram.current = some ⟨4, 16, 2⟩ ∧ (3 : BitVec 4).toNat < 4 ∧ 4 < (5 : BitVec 4).toNat ∧
      (5 : BitVec 4).toNat ∉ maskedRanks s ∧ (8 : BitVec 4).toNat ∉ maskedRanks s ∧
      (∀ q ∈ s.dram.requests, q.rank ∉ maskedRanks s → (3 : BitVec 4).toNat < q.rank) ∧
      (∀ r ∈ s.dram.requests, r.rank ∉ maskedRanks s → 8 ≤ r.rank) ∧ (0 : BitVec 4).toNat ≠ 4 ∧
      8 ≤ (8 : BitVec 4).toNat ∧ (∃ q ∈ s.dram.requests, q.rank = (8 : BitVec 4).toNat) ∧
      1000 * obj s Obj.starvationReportUs < (0xFFFFFFFF : Word).toNat ∧ (8 : BitVec 4).toNat ∉ s.dram.starving) ∧
    (let s : State := { arbitrating (some ⟨11, 16, 2⟩) [] with dram := { (arbitrating (some ⟨11, 16, 2⟩) []).dram with rewrites := [15, 17] } };
      s.dram.current = some ⟨11, 16, 2⟩ ∧ (∀ q ∈ s.dram.requests, q.rank ∈ maskedRanks s)) ∧
    (let s : State := { arbitrating none [⟨11, 0, 1⟩] with dram := { (arbitrating none [⟨11, 0, 1⟩]).dram with starving := [11] } };
      (∃ q ∈ s.dram.requests, q.rank = (11 : BitVec 4).toNat) ∧ (11 : BitVec 4).toNat ∈ s.dram.starving) := by decide +kernel

/-- A take of two bytes, as the ring and as a cut hold it. -/
def take1 : Item := ⟨1, 2, .take, 3, 1, 0, false, [0xA5, 0x5A], (crc32c [0xA5, 0x5A]).toNat⟩
/-- Its ring entry. -/
def ring1 : RingItem := ⟨take1, some 7, 0, 0, 0, 48, [], false⟩
/-- A data cut of domain 2 that holds the take and, in a second block, sector 0 of volume 1. -/
def cut1 : Cut :=
  { serial := 5, previous := 0, retires := 0, order := 5, kind := .data, dom := some 2, padded := false, replacement := false
    reallocated := false, retired := false, complete := true, bad := false, chain := .data, wrap := 4, start := 0
    length := 8, gen := 1, generation := 0, last := false, charge := 0, writer := 0, part := 0, parts := 0, rewrites := []
    blocks := [⟨.log, 3, 64, [⟨1, 1, 0, take1.entry⟩], []⟩, ⟨.rawSector, 1, 4096, [⟨0, 2, 0, List.replicate 16 0xEE⟩], []⟩] }
/-- A formatted cartridge with that cut. -/
def taped1 : Cartridge := { blank with cuts := [cut1] }

/-- Domain 2 online with log 3, a volume 1 of 16 sectors, a ring share and a quota, on a cartridge that is READY. -/
def ready : State := site |> setObj (Obj.logEnable 2) 8 |> setObj (Obj.volumeSize1 2) 16 |> setObj (Obj.ringShare 2) 4
  |> setObj (Obj.cutQuota 2) 1 |> setObj Obj.dataCuts 393986 |> setObj Obj.adminDomain 2
  |> setObj (Obj.powerPolicy 2) 0x20000
  |> cartWith (fun c => { c with
      state := .ready, threaded := true, medium := some taped1, index := ⟨some 7, 0x80, [⟨2, 1, 0, 5, 0⟩], [], 0⟩ })
/-- The same with a take committed to log 3. -/
def logged : State := domWith 2 (fun d => { d with logs := vset d.logs 3 ⟨1, 1, 0, []⟩ }) ready
/-- The take still in the ring. -/
def inRing : State := { logged with ring := { logged.ring with items := [ring1], nextIdx := 2 } }
/-- Frozen, with nothing held. -/
def frozen : State := domWith 2 (fun d => { d with frozen := true }) ready

/-- A command of TAG 9 on port A in domain 2. -/
def cmd (op : Nat) (b : CmdBody) : HostCmd := ⟨op, head9, b, false⟩
/-- Log 3, `n` bytes. -/
def logBody (n : Word) : CmdBody := { body0 with target := 3, count := n }
/-- Sectors 0 to `n - 1` of volume 1. -/
def volBody (n : Word) : CmdBody := { body0 with target := 1, count := n }
/-- An argument alone. -/
def argBody (a : DWord) : CmdBody := { body0 with argA := a }
/-- The command can be taken into slot 0. -/
def taken (c : HostCmd) (s : State) : Bool :=
  portReceives s c.head.port && !shutOut s c && !tagInUse s c.head && (portOf s c.head.port).backlog == [] &&
    takesCmds s c.head.port && (let s1 := returnCmd c.head s; judge s1 c == none && slotFor s1 c == some 0 &&
    !(lacksRoom s1 c && (s1.cart.state != .ready || !canMove s1)))

theorem cmdTaken_of_taken {c : HostCmd} {s : State} (h : taken c s = true) : cmdTaken c 0 s := by
  simp only [taken, Bool.and_eq_true, Bool.not_eq_true', beq_iff_eq] at h
  exact ⟨⟨h.1.1.1.1.1, h.1.1.1.1.2, h.1.1.1.2, h.1.1.2, h.1.2⟩, h.2.1.1, h.2.1.2, h.2.2⟩

theorem meets_RefusedCommandsHaveNoSideEffect :
    HostRow (.sync head9 body0) site (cmd opSync body0) site ∧
    (portReceives site .a = true ∧ shutOut site (cmd 7 body0) = false ∧ tagInUse site head9 = false ∧
      (portOf site .a).backlog = [] ∧ takesCmds site .a = true ∧ opcodeDefined 7 = false ∧
      judge (returnCmd head9 site) (cmd opSync { body0 with res3 := 1 }) = some (0x10, 3)) :=
  ⟨.sync _ _ _, by decide +kernel⟩

theorem meets_UnboundPortsAreNotAuthorized :
    (let s := setObj (Obj.linkBinding 2) 2 site;
      opcodeDefined opSync = true ∧ configured s 2 = true ∧ bound s 2 .a = false ∧ portReceives s .a = true) ∧
    judge (returnCmd head9 site) (cmd opIdentify (argBody 0)) = none := by decide +kernel

theorem meets_AdministrativeCommandsComplete :
    cmdTaken (cmd opIdentify (argBody 3)) 0 ready ∧
    cmdTaken (cmd opGetLogPage { body0 with count := 16, argA := 1 }) 0 ready ∧
    cmdTaken (cmd opSetPower (argBody 2)) 0 ready ∧ cmdTaken (cmd opSetPower { argBody 1 with flags := 1 }) 0 ready ∧
    cmdTaken (cmd opAbort (argBody 10)) 0 ready ∧
    (let s := ready |> domWith 2 (fun d => { d with slots :=
        [{ admittedSlot (cmd opMeterRecord body0) 3 ready with
            phase := .kiln, order := 5, cmd := ⟨opMeterRecord, ⟨.a, 2, 4⟩, body0, false⟩ }] });
     let t : State := { s with kiln := { s.kiln with toKiln := [.submit 2 2 0 false 5 []] } };
      cmdTaken (cmd opAbort (argBody 4)) 0 t ∧ (domOf t 2).slots.all (abortable t 2) = true ∧
      (domOf s 2).slots.any (abortable s 2) = false ∧ (domOf s 2).slots.all parkedSlot = true) ∧
    cmdTaken (cmd opSelfTest (argBody 1)) 0 ready ∧
    (let s : State := { ready with test := ⟨some ⟨1, 1, 0, false, 0, 0, 2, 3, []⟩, []⟩ } |> domWith 2 (fun d => { d with slots :=
        [{ admittedSlot (cmd opSelfTest (argBody 1)) 3 ready with phase := .selfTest, cmd := ⟨opSelfTest, ⟨.a, 2, 4⟩, argBody 1, false⟩ }] });
      cmdTaken (cmd opSelfTest (argBody 0x0F)) 0 s ∧ (slotOf s 2 3).isSome = true) ∧
    cmdTaken (cmd opResume (argBody 1)) 0 frozen ∧ cmdTaken (cmd opResume (argBody 0)) 0 frozen ∧
    (domOf ready 2).frozen = false ∧ (domOf frozen 2).slots = [] := by
  refine ⟨?_, ?_, ?_, ?_, ?_, ⟨?_, ?_, ?_, ?_⟩, ?_, ⟨?_, ?_⟩, ?_, ?_, ?_, ?_⟩
  any_goals exact cmdTaken_of_taken (by decide +kernel)
  all_goals decide +kernel

theorem meets_WritesAndWaitsAreAdmitted :
    quiet ready 2 ∧ quiet inRing 2 ∧ cmdTaken (cmd opAppend (logBody 262144)) 0 ready ∧ cmdTaken (cmd opWriteVol (volBody 16)) 0 ready ∧
    cmdTaken (cmd opMeterRecord { body0 with count := 64 }) 0 (setObj Obj.authorizedDomains 4 ready |> setObj (Obj.unitState 0x6000) 1) ∧
    cmdTaken (cmd opSync body0) 0 ready ∧ taped ready 2 ready.ring.nextIdx = true ∧
    cmdTaken (cmd opSync body0) 0 inRing ∧ taped inRing 2 inRing.ring.nextIdx = false ∧
    cmdTaken (cmd opTrimLog { body0 with target := 3, argA := 1 }) 0 logged ∧
    (let s := cartWith (fun c => { c with state := .present, threaded := false }) (powerWith (fun x => { x with ready := true }) ready);
      cmdTaken (cmd opLoadUnload (argBody 1)) 0 s ∧ s.cart.state = .present) ∧
    cmdTaken (cmd opLoadUnload (argBody 2)) 0 ready ∧ ready.cart.state = .ready := by
  refine ⟨quiet_of_empty (by decide +kernel), quiet_of_empty (by decide +kernel), ?_, ?_, ?_, ?_, ?_, ?_, ?_, ?_, ⟨?_, ?_⟩, ?_, ?_⟩
  any_goals exact cmdTaken_of_taken (by decide +kernel)
  all_goals decide +kernel

/-- DATA of an earlier read still waits at port A. -/
def busyPort : State := portWith .a (fun p => { p with txWait := [.data 2 4 0 [1] false] }) inRing

theorem meets_ReadsAnswerOrWaitForTheirCuts :
    (let c := cmd opReadLog { logBody 0 with argA := 1, argB := 1 };
      cmdTaken c 0 logged ∧ cutsNeeded logged (admittedSlot c 0 logged) = [5] ∧ cmdTaken c 0 inRing ∧
      (let r := logRead inRing (admittedSlot c 0 inRing);
        cutsNeeded inRing (admittedSlot c 0 inRing) = [] ∧ r.failed = none ∧ r.badCrc = none ∧ r.badLine = none ∧
        r.badBlock = none ∧ r.missing = none ∧ r.size ≠ 0 ∧ r.runs.filter (fun e => e.2 != []) ≠ []) ∧
      dataWaits (portOf inRing .a) = false ∧ (∀ e, turnSlot inRing .a e = none) ∧ cmdTaken c 0 busyPort ∧
      dataWaits (portOf busyPort .a) = true) ∧
    (let c := cmd opReadVol (volBody 1);
      cmdTaken c 0 ready ∧ waitsForIndex ready (admittedSlot c 0 ready) = false ∧
      cutsNeeded ready (admittedSlot c 0 ready) = [5]) ∧
    (let s := cartWith (fun c => { c with index := ⟨some 7, 0x80, [], [], 0⟩ }) ready;
     let c := cmd opReadVol (volBody 1);
      cmdTaken c 0 s ∧ cutsNeeded s (admittedSlot c 0 s) = [] ∧ (volRead s (admittedSlot c 0 s)).2 = none ∧
        (volRead s (admittedSlot c 0 s)).1.filter (fun e => e.2 != []) ≠ []) := by
  refine ⟨⟨?_, ?_, ?_, ?_, ?_, ?_, ?_, ?_⟩, ⟨?_, ?_⟩, ⟨?_, ?_⟩⟩
  any_goals exact cmdTaken_of_taken (by decide +kernel)
  all_goals decide +kernel

/-- Domain 2 with one slot. -/
def slotted (x : Slot) (s : State) : State := domWith 2 (fun d => { d with slots := [x] }) s
/-- An APPEND of two bytes that has received nothing. -/
def append2 : Slot := { admittedSlot (cmd opAppend (logBody 2)) 0 ready with phase := .receiving }
/-- A METER_RECORD that has received nothing. -/
def meter : Slot := { admittedSlot (cmd opMeterRecord { body0 with count := 64 }) 0 ready with phase := .receiving }

theorem meets_DataCommitsTheWrite :
    (let s := slotted append2 ready;
      released s = true ∧ portReceives s .a = true ∧ s.power.failing = false ∧
      slotOfTag s 2 .a 9 = some append2 ∧ slotOf s 2 0 = some append2 ∧ append2.cmd.head = head9 ∧
      isWriteCmd append2.cmd.opcode = true ∧ append2.lastSeen = false ∧ append2.phase = .receiving ∧ append2.held = false ∧
      (∀ x ∈ (domOf s 2).slots, parkedSlot x = true) ∧ receivedBytes append2 ≠ writeLength append2.cmd ∧
      dataBreaks append2 0 1 = false ∧ dataBreaks append2 0 2 = false ∧
      receivedBytes { append2 with data := [(0, [1])] } ≠ writeLength append2.cmd ∧
      receivedBytes { append2 with data := [(0, [1, 2])] } = writeLength append2.cmd ∧
      isRingWrite append2.cmd.opcode = true ∧ s.ring.closed = false ∧
      blocked s 2 { append2 with data := [(0, [1, 2])], lastSeen := true } = false) ∧
    (let s := kilnWith (fun k => { k with bridgeOk := true }) (slotted meter ready);
      slotOfTag s 2 .a 9 = some meter ∧ receivedBytes { meter with data := [(0, List.replicate 64 0)] } = writeLength meter.cmd ∧
      meter.cmd.opcode = opMeterRecord ∧ s.kiln.bridgeOk = true) ∧
    (slotOfTag ready 2 .a 9 = none ∧ (PortId.a, 9) ∉ (domOf ready 2).openTags ∧ waitsInBacklog (portOf ready .a) head9 = false) ∧
    (let s := portWith .a (fun p => { p with backlog := [.cmd (cmd opAppend (logBody 2))] }) ready;
      portReceives s .a = true ∧ waitsInBacklog (portOf s .a) head9 = true) ∧
    (let s := domWith 2 (fun d => { d with openTags := [(.a, 9)] }) ready;
      slotOfTag s 2 .a 9 = none ∧ (PortId.a, 9) ∈ (domOf s 2).openTags) := by decide +kernel

theorem meets_QueueTimersAndTestSteps :
    (let s := slotted append2 ready;
      released s = true ∧ s.power.failing = false ∧ slotOfTag s 2 .a 9 = some append2 ∧ slotOf s 2 append2.no = some append2 ∧
      (∀ x ∈ (domOf s 2).slots, parkedSlot x = true) ∧ portReceives s .a = true ∧ append2.phase ≠ .done ∧
      isWriteCmd append2.cmd.opcode = true ∧ receivedBytes append2 ≠ writeLength append2.cmd) ∧
    (let x := { append2 with data := [(0, [1, 2])], phase := .ready };
     let s := slotted x ready;
      slotOfTag s 2 .a 9 = some x ∧ slotOf s 2 x.no = some x ∧ x.phase ≠ .done ∧ receivedBytes x = writeLength x.cmd) ∧
    (let x := { append2 with phase := .ringWait, room := false };
     let s := slotted x ready;
      slotOfTag s 2 .a 9 = some x ∧ x.phase = .ringWait ∧
      (domOf s 2).slots.filter (fun y => y.phase == .ringWait) = [x] ∧ slotOf s 2 x.no = some x ∧
      hasRoom s 2 (writeLength x.cmd) = true ∧ receivedBytes x ≠ writeLength x.cmd) ∧
    (let x := { admittedSlot (cmd opSelfTest (argBody 1)) 3 ready with phase := .selfTest };
     let r : SelfTestRun := ⟨1, 8, 0, false, 0, 0, 2, 3, []⟩;
     let s : State := { slotted x ready with test := ⟨some r, []⟩ };
      s.test.run = some r ∧ r.suspended = false ∧ r.step = (if r.code = 2 then 9 else 8) ∧ s.power.failing = false ∧
      slotOf s r.dom r.slot = some x ∧ x.phase = .selfTest ∧ x.cmd.opcode = opSelfTest) ∧
    (let r : SelfTestRun := ⟨2, 8, 0, false, 0, 0, 2, 3, []⟩;
     let s : State := { ready with test := ⟨some r, []⟩ };
      r.step ≠ (if r.code = 2 then 9 else 8) ∧ testWaitsForPages s = false ∧ r.step ≠ 9) ∧
    (let r : SelfTestRun := ⟨2, 9, 0, false, 0, 0, 2, 3, [5]⟩; r.step = 9 ∧ r.cuts ≠ []) ∧
    (let r : SelfTestRun := ⟨2, 8, 0, true, 0, 0, 2, 3, []⟩; r.suspended = true) := by decide +kernel

/-- A log block of domain 2 that holds the take's entry. -/
def logBlock1 : CompBlock := ⟨2, true, 3, false, false, 1, .waiting, ⟨.log, 3, 0, [⟨1, 1, 0, take1.entry⟩], []⟩⟩
/-- The same once it is checked. -/
def readyBlock1 : CompBlock := { logBlock1 with stage := .ready, block := storedForm logBlock1.block }
/-- Blocks in the compression path. -/
def withBlocks (l : List CompBlock) (s : State) : State := { s with comp := { s.comp with blocks := l } }
/-- The path on a part without other content: compression on or off. -/
def comp0 (on : Nat) (l : List CompBlock) : State := withBlocks l (setObj Obj.compressionEnable on live0)

theorem meets_BlocksAreGatheredAndStarted :
    (let s : State := { live0 with comp := { live0.comp with gathers := [⟨2, 3, [⟨1, 1, 0, [1]⟩]⟩] } };
      released s = true ∧ gatherOf s 2 (3 : LogNo).val = [⟨1, 1, 0, [1]⟩]) ∧
    (let s := comp0 0 [readyBlock1, logBlock1];
      blockBusy s 3 = false ∧ s.comp.blocks = [readyBlock1] ++ logBlock1 :: [] ∧ logBlock1.stage = .waiting ∧
      (∀ x ∈ [readyBlock1], x.stage ≠ .waiting) ∧ (∀ r ∈ inRing.ring.items, (crc32c r.item.bytes).toNat = r.item.crc) ∧
      compressing s = false) ∧
    (let s := comp0 1 [logBlock1];
      logBlock1.raw = false ∧ logBlock1.store = false ∧ compressing s = true ∧ engineFree s 0 = true) ∧
    (let s := comp0 1 [{ logBlock1 with stage := .engine 0 }, logBlock1];
      engineFree s 0 = false ∧ engineFree s 1 = true) ∧
    (let s := comp0 1 [{ logBlock1 with stage := .engine 0 }, { logBlock1 with stage := .engine 1 }, logBlock1];
      engineFree s 0 = false ∧ engineFree s 1 = false) := by decide +kernel

theorem meets_CompressedBlocksAreChecked :
    (let b := { logBlock1 with stage := .engine 1 };
     let s := comp0 1 [b];
     let r := makeBlock b.block.kind [] (blockInput b.block);
      released s = true ∧ blockBusy s 7 = false ∧ s.comp.blocks = [] ++ b :: [] ∧ b.stage = .engine 1 ∧
      r.1 ≠ .rawSector ∧ (siltDecode 65536 (spoil [] r.2.1)).isRight = true ∧
      (siltDecode 65536 (spoil [(16, 0xFF)] r.2.1)).isLeft = true) ∧
    (makeBlock .rawSector [] [1, 2]).1 = .rawSector ∧ vget (comp0 1 []).comp.failures 0 ≠ 2 ∧
    (let s : State := { live0 with comp := { live0.comp with failures := #v[2, 0] } }; vget s.comp.failures 0 = 2) := by
  decide +kernel

/-- A cut of domain 2 being written on wrap 4. -/
def open1 : OpenCut := ⟨{ cut1 with serial := 6, complete := false, blocks := [readyBlock1.block] }, .writing, [readyBlock1], [], []⟩
/-- Domain 2's tape with an open cut. -/
def writing (o : OpenCut) : State :=
  ready |> cartWith (fun c => { c with openCut := some o, chains := vset c.chains 0 ⟨4, 0, 5, 0⟩ })
    |> xportWith (fun x => { x with state := .moving })

theorem meets_FrameSetsPassOrCostTheCut :
    (let s := writing open1;
      released s = true ∧ blockBusy s 1 = false ∧ s.cart.openCut = some open1 ∧ open1.phase = .writing ∧
      s.power.failing = false ∧ open1.rewrites.length + 2 ≤ 4 ∧
      missReason s ((tapeId s).getD 0) open1.cut 0 (judgedCopy open1.cut 0) 0 [] = 0 ∧
      missReason s ((tapeId s).getD 0) open1.cut 0 (judgedCopy open1.cut 0) 1 [] ≠ 0 ∧
      (tape s).isSome = true ∧ (chainAt s .data).abandons < 2 ∧
      0 + (36 * frameSetBits + 0 + 0) + gapBits + cutRoom ≤ areaLast .data (chainAt s .data).wrap) ∧
    (let o := { open1 with rewrites := [(0, 8), (1, 8), (2, 8), (3, 8)] };
      4 < o.rewrites.length + 1 ∧ ((writing o).cart.recent.filter id).length < 7) ∧
    (let s := cartWith (fun c => { c with chains := vset c.chains 0 ⟨4, 0, 5, 2⟩ }) (writing open1);
      2 ≤ (chainAt s .data).abandons) ∧
    (let o := { open1 with phase := .gap };
     let s := writing o;
      s.cart.openCut = some o ∧ o.phase = .gap ∧ s.xport.state = .moving ∧ o.cut.serial ≠ 0 ∧
      (findRoom o.cut.chain { s with cart := { s.cart with openCut := none } }).isSome = true) ∧
    (let o := { open1 with phase := .gap, cut := { open1.cut with chain := .zone 0 } };
     let s := cartWith (fun c => { c with chains := vset c.chains 2 ⟨2, areaBits (.zone 0) 2, 5, 0⟩ }) (writing o);
      (findRoom o.cut.chain { s with cart := { s.cart with openCut := none } }).isNone = true) := by decide +kernel

theorem meets_VerifiedCutsReleaseTheirContent :
    (let o := { open1 with passed := List.range 32 };
     let s := writing o;
      released s = true ∧ s.cart.openCut = some o ∧ o.phase = .writing ∧ s.power.failing = false ∧
      (∀ n ∈ List.range 32, n ∈ o.passed) ∧ (tape s).isSome = true ∧ (∀ d, (domOf s d).slots = [])) ∧
    (0 < 32 ∧ 0 ∉ open1.passed) ∧ open1.cut.kind = .data ∧ open1.cut.dom = some 2 ∧ open1.cut.reallocated = false := by
  decide +kernel

/-- At the boundary of a cut in a streaming burst, HOLDUP READY. -/
def boundary (l : List CompBlock) : State :=
  ready |> powerWith (fun p => { p with ready := true }) |> withBlocks l
    |> schedWith (fun x => { x with burst := true, mode := .streaming, pooled := false })
    |> xportWith (fun x => { x with
        state := .moving, headLoaded := true, servo := { x.servo with wrap := 4, lowerValid := true, upperValid := true } })
    |> cartWith (fun c => { c with chains := vset c.chains 0 ⟨4, 0, 5, 0⟩ })

theorem meets_BoundariesBuildCutsOrEndBursts :
    (let s := boundary [];
      released s = true ∧ blockBusy s 0x0D = false ∧ atBoundary s = true ∧ s.power.ready = true ∧ s.sched.pooled = false ∧
      boundaryStep (reclaimCheck (closeForCut s)) = some 0 ∧
      chooseWork (runAtStep (setStep 0 (reclaimCheck (closeForCut s)))) = none ∧ chooseWork s = none) ∧
    (let s := powerWith (fun p => { p with ready := false }) (boundary []); atBoundary s = true ∧ s.power.ready = false) ∧
    (let s := schedWith (fun x => { x with target := some 15 }) (setObj Obj.rampAccel 0x1000 (boundary []));
      boundaryStep (reclaimCheck (closeForCut s)) = none) ∧
    (let s := schedWith (fun x => { x with aged := [2] }) (boundary [readyBlock1]);
      chooseWork (runAtStep (setStep 0 (reclaimCheck (closeForCut s)))) = some (.domain 2) ∧
      (findRoom .data (runAtStep (setStep 0 (reclaimCheck (closeForCut s))))).any (fun u =>
        seedCut u (chainAt u .data).wrap == none && tapeAt u .data) = true) ∧
    (let s := schedWith (fun x => { x with pooled := true }) (boundary []); s.sched.pooled = true) := by decide +kernel

theorem meets_BurstsAndSpeedFollowDemand :
    (let s := boundary [readyBlock1] |> schedWith (fun x => { x with burst := false, aged := [2] })
        |> xportWith (fun x => { x with state := .stopped });
      released s = true ∧ s.xport.state = .stopped ∧ tapeFree s = true ∧ s.xport.servo.lowerValid = true ∧
      s.xport.servo.upperValid = true ∧ powerNow s = 0 ∧ burstDue (reclaimCheck (closeForCut s)) = true ∧
      waitingBytes s 2 ≠ 0 ∧ (2 : Dom) ∈ s.sched.aged ∧ (3 : Dom) ∉ s.sched.aged) ∧
    (let s := xportWith (fun x => { x with state := .stopped }) live0;
      s.sched.burst = false ∧ s.sched.mode = .idle ∧ s.xport.state = .stopped ∧ waitingBytes s 2 = 0) ∧
    (let s := boundary [readyBlock1]; waitingBytes s 2 ≠ 0 ∧ (2 : Dom) ∉ s.sched.aged) := by decide +kernel

/-- The cartridge unit in a state, in PREOP, with a cartridge and an idle transport. -/
def cartIn (x : CartState) : State :=
  preop |> cartWith (fun c => { c with state := x, medium := some taped1, threaded := x != .present }) |> xportWith (fun y => { y with state := .idle })

theorem meets_CartridgeStatesFollowRequests :
    (released State.reset = false ∧ State.reset.cart.medium = none) ∧
    (live0.cart.state = .absent ∧ obj (setObj Obj.autoLoad 0 live0) Obj.autoLoad = 0 ∧
      obj (setObj Obj.autoLoad 1 live0) Obj.autoLoad ≠ 0 ∧ ((stateBlockOf blank).getD blankStateBlock).loadCount < 20000) ∧
    (∀ x ∈ [CartState.present, .faulted, .ready, .unformatted, .mismatch],
      requestPasses .sdo 0x2C00 0 (cartIn x) (cartIn x) ∧ (cartIn x).cart.state = x ∧ canMove (cartIn x) = true ∧
      ((cartIn x).cart.medium.map (fun c => ((stateBlockOf c).getD blankStateBlock).loadCount)).getD 0 < 20500) := by
  refine ⟨by decide +kernel, by decide +kernel, ?_⟩
  intro x hx
  simp only [List.mem_cons, List.not_mem_nil, or_false] at hx
  rcases hx with rfl | rfl | rfl | rfl | rfl <;>
    exact ⟨sdo_request (by decide +kernel) (by decide +kernel) (by decide +kernel) (by decide +kernel), by decide +kernel⟩

/-- Threading a cartridge. -/
def threading (c : Cartridge) : State :=
  live0 |> cartWith (fun x => { x with state := .threading, medium := some c }) |> xportWith (fun x => { x with state := .threading })
/-- A state block that says formatted. -/
def block0 : StateBlock := ⟨1, 2, 96, 1, 9, 0, 0, 0, 0, 0, 0, 0, 0⟩
/-- SEARCHING on the cartridge. -/
def searching : State := ready |> cartWith (fun c => { c with state := .searching })
/-- The take bound to another cartridge. -/
def foreignTake : RingItem := { ring1 with cartridge := some 8 }

theorem meets_CartridgesAreReadAndLeft :
    (let s := threading blank;
      released s = true ∧ s.cart.state = .threading ∧ s.xport.state = .threading ∧ s.cart.medium = some blank ∧
      blank.manufacturer = true ∧ ((stateBlockOf blank).getD blankStateBlock).formatState ≠ 2 ∧ opOf s 1 = none ∧
      s.ring.items = []) ∧
    ((threading { blank with manufacturer := false }).cart.state = .threading) ∧
    (let c := { blank with stateA := some block0 };
      ((stateBlockOf c).getD blankStateBlock).formatState = 2 ∧
      (let s : State := { threading c with ring := { inRing.ring with items := [foreignTake] } };
        (∃ r ∈ s.ring.items, r.done = false ∧ r.cartridge.isSome = true ∧ r.cartridge ≠ some c.id) ∧
          s.cart.medium = some c)) ∧
    (let c := { blank with stateA := some { block0 with formatState := 1 } };
     let o : OpRecord := ⟨1, 38, 0, some 7, 0⟩;
     let s : State := { threading c with jour := { live0.jour with openOps := [o] } };
      ((stateBlockOf c).getD blankStateBlock).formatState = 1 ∧ opOf s 1 = some o ∧ o.cartridge = some c.id) ∧
    (replayDue (cartWith (fun c => { c with state := .searching }) inRing) = true) ∧
    (searching.cart.state = .searching ∧ replayDue searching = false) ∧
    (cartQuiescent (cartWith (fun c => { c with state := .draining, goal := .unload }) ready) = true) ∧
    (let s := cartWith (fun c => { c with state := .unloading }) (xportWith (fun x => { x with state := .threading }) ready);
      s.cart.state = .unloading ∧ s.xport.state = .threading) := by decide +kernel

/-- Formatting, with wraps up to `w - 1` done. -/
def formatting (w : Nat) : State :=
  { ready with jour := { ready.jour with openOps := [⟨1, w + 1, 0, some 7, 0⟩] } } |> cartWith (fun c => { c with state := .formatting })

theorem meets_FormatsAndRebuildsComplete :
    (released (formatting 95) = true ∧ (tape (formatting 95)).isSome = true ∧ (formatting 95).cart.state = .formatting ∧
      opOf (formatting 95) 1 = some ⟨1, 96, 0, some 7, 0⟩ ∧ opOf (formatting 96) 1 = some ⟨1, 97, 0, some 7, 0⟩) ∧
    (∀ d, (domOf (formatting 96) d).slots = []) ∧
    (let s := cartWith (fun c => { c with index := ⟨some 7, 99, [], [], 1⟩ }) ready;
      s.cart.threaded = true ∧ s.cart.index.cartridge = tapeId s ∧ s.cart.index.status ≠ 0x80 ∧ s.cart.index.todo = []) ∧
    (let s := cartWith (fun c => { c with index := ⟨some 7, 0, [], [5], 1⟩ }) ready; s.cart.index.todo ≠ []) := by
  decide +kernel

/-- The servo changed. -/
def servoWith (f : Servo → Servo) (s : State) : State := xportWith (fun x => { x with servo := f x.servo }) s

/-- Four equal wedge words. -/
def fourOf (w : DWord) : Vector DWord 4 := Vector.replicate 4 w

theorem meets_LocatesAndClockFollowTheTape :
    (let s := servoWith (fun v => { v with locate := some (100, 41) }) live0;
      released s = true ∧ s.xport.servo.locate = some (100, 41) ∧ wedgeConfirms 100 41 (wedgeWord 41 3 120) = some 120 ∧
      wedgeConfirms 100 41 (wedgeWord 40 3 120) = none ∧ wrapFound 3 (fourOf (wedgeWord 41 3 100)).toList = some 41 ∧
      wrapFound 3 (fourOf (wedgeWord 53 3 100)).toList = some 53 ∧ (((53 : Nat) : Int) - 41).natAbs = 12 ∧
      wrapFound 3 (fourOf (wedgeWord 17 3 100)).toList = some 17 ∧ (((17 : Nat) : Int) - 41).natAbs = 24 ∧
      s.xport.servo.corrections < 2) ∧
    (wrapFound 3 (fourOf 0).toList = none ∧ wrapFound 3 (fourOf (wedgeWord 42 3 100)).toList = some 42) ∧
    (let s := xportWith (fun x => { x with state := .moving, servo := { x.servo with locate := some (100, 41), corrections := 2 } }) live0;
      s.xport.state ≠ .off ∧ s.xport.state ≠ .braking ∧ s.xport.state ≠ .faulted ∧ 2 ≤ s.xport.servo.corrections) ∧
    (let s := servoWith (fun v => { v with clockLocked := true }) live0;
      s.xport.servo.clockLocked = true ∧ s.xport.servo.holdover = false) ∧
    (let s := servoWith (fun v => { v with holdover := true }) live0; s.xport.servo.holdover = true ∧ s.xport.servo.overrun = false) ∧
    (let s := servoWith (fun v => { v with holdover := true, overrun := true }) live0; s.xport.servo.overrun = true) ∧
    (ready.cart.threaded = true ∧ (95 : BitVec 7).toNat < 96) ∧
    (0 ≤ (vget ready.xport.servo.afe 0).seed ∧ (vget ready.xport.servo.afe 0).seed ≤ 240) ∧
    (let s := cartWith (fun c => { c with calibration := true }) ready; s.cart.calibration = true ∧ s.cart.threaded = true) := by
  decide +kernel

/-- A read excursion to the cut. -/
def reading : State := ready |> schedWith (fun x => { x with reading := some 5, mode := .excursion })
  |> xportWith (fun x => { x with state := .moving })
/-- Domain 2's READ_LOG that waits for it. -/
def reader : Slot := { admittedSlot (cmd opReadLog { logBody 0 with argA := 1, argB := 1 }) 0 logged with phase := .tape [5] }
/-- No codeword of the cut failed. -/
def clean : Symbols := ⟨[], []⟩
/-- Codewords that C2 and C3 leave unrecovered: codeword 0 of frames 0 to 3 in frame sets 0 to 4. -/
def lost : Symbols := ⟨(List.range 5).flatMap (fun fs => (List.range 4).map (fun n => (fs, n, 0))), []⟩
/-- A ladder on it. -/
def onLadder (step reread : Nat) (y : Symbols) : State :=
  cartWith (fun c => { c with ladder := some ⟨5, step, reread, .host, y.failed.length, y, []⟩ }) reading
/-- Frames 0 to 3 of frame sets 0 to 4 whose sync mark was not found. -/
def noSync : List CopyRead :=
  (List.range 5).flatMap (fun fs => (List.range 4).map (fun n =>
    ⟨BitVec.ofNat 5 fs, 0, ⟨Fin.ofNat 16 n, false, [], [], Vector.replicate 4 0, []⟩⟩))
/-- The state in which a normal read's completeness is judged. -/
def judged (frames : List CopyRead) (s : State) : State :=
  weighRead 5 (countDecoding (c1Decode ((tapeId s).getD 0) cut1 (readLimit s) frames)
    (bumpBy Obj.c1FailedCodewords (c1Failures ((tapeId s).getD 0) cut1 (readLimit s) frames) s))
/-- A cut with one log block. -/
def cut2 : Cut := { cut1 with blocks := [⟨.log, 3, 68, [⟨1, 1, 0, take1.entry⟩], []⟩] }
/-- Its block captured, with another capture behind it. -/
def captured (second : Bool) (rest : List Captured) : State := ready
  |> cartWith (fun x => { x with medium := some { blank with cuts := [cut2] } })
  |> (fun t => { t with comp := { t.comp with captured := ⟨5, 0, second, []⟩ :: rest } })

theorem meets_CutsAreReadAndRecovered :
    (released reading = true ∧ blockBusy reading 2 = false ∧ reading.sched.reading = some 5 ∧
      reading.sched.mode = .excursion ∧ reading.xport.state = .moving ∧ reading.xport.servo.locate = none ∧
      reading.cart.ladder = none ∧ findCut reading 5 = some cut1 ∧ (∀ d, (domOf reading d).slots = [])) ∧
    (let y := c1Decode ((tapeId reading).getD 0) cut1 (readLimit reading) [];
      readComplete (judged [] reading) cut1 y = true ∧ siltBlocks (judged [] (slotted reader reading)) cut1 ≠ []) ∧
    (let s := slotted reader reading;
     let y := c1Decode ((tapeId s).getD 0) cut1 (readLimit s) noSync;
      readComplete (judged noSync s) cut1 y = false) ∧
    ((onLadder 1 0 clean).cart.ladder = some ⟨5, 1, 0, .host, 0, clean, []⟩ ∧ 0 < obj (onLadder 1 0 clean) Obj.rereadLimit ∧
      obj (onLadder 2 6 lost) Obj.rereadLimit ≤ 6 ∧ findCut (onLadder 3 6 lost) 5 = some cut1 ∧ cut1.kind = .data ∧
      (onLadder 1 0 clean).cart.reallocs = [] ∧ 0 < commonFree (setObj Obj.domainPagePool 100 (onLadder 1 0 clean))) := by
  decide +kernel

theorem meets_CutsAreReadAndRecovered_captured :
    ((captured false []).comp.captured = ⟨5, 0, false, []⟩ :: [] ∧ blockBusy (captured false []) 8 = false ∧
      findCut (captured false []) 5 = some cut2 ∧ cut2.blocks[0]? = some ⟨.log, 3, 68, [⟨1, 1, 0, take1.entry⟩], []⟩ ∧
      (∀ b ∈ cut2.blocks, (siltDecode 65536 (spoil [] (blockBytes b))).isRight = true ∧
        (siltDecode 65536 (spoil [(20, 1)] (blockBytes b))).isLeft = true) ∧
      (captured true [⟨5, 0, false, []⟩]).comp.captured = ⟨5, 0, true, []⟩ :: [⟨5, 0, false, []⟩] ∧
      (∀ d, (domOf (captured true []) d).slots = []) ∧
      ∀ b ∈ cut2.blocks, blockNeeded (slotted reader (captured false [])) cut2 b = true) := by decide +kernel

theorem meets_ExcursionsDailiesAndGenerations :
    (reading.sched.mode = .excursion ∧ reading.cart.ladder = none ∧ writesWait reading = false ∧
      writesWait (cartWith (fun c => { c with mapDue := true }) reading) = true) ∧
    (slotOfTag (slotted reader ready) 2 .a 9 = some reader ∧ readsTape reader = true ∧
      slotOfTag (slotted append2 ready) 2 .a 9 = some append2 ∧ readsTape append2 = false) ∧
    (let s := setObj Obj.dailiesEnable 1 logged;
      released s = true ∧ s.cart.threaded = true ∧ obj s Obj.dailiesEnable ≠ 0 ∧ s.sched.dailies = none ∧ dailiesCuts s ≠ []) ∧
    (indexValid ready = true ∧ bootNewer ready = false ∧
      (let s := cartWith (fun c => { c with index := ⟨some 7, 0x80, [⟨2, 0, 0, 5, 0⟩], [], 0⟩ }) ready;
        indexValid s = true ∧ bootNewer s = true)) ∧
    (let s := schedWith (fun x => { x with dailiesStopped := true }) ready;
      s.sched.dailiesStopped = true ∧ otherWork s = false ∧
      otherWork (schedWith (fun x => { x with dailiesStopped := true }) (cartWith (fun c => { c with mapDue := true }) ready)) = true) := by
  decide +kernel

theorem meets_PeriodsLatchRunAndRefill :
    (let s := setObj (Obj.slotControl 3) 0 live0;
      released s = true ∧ blockBusy s 0x0E = false ∧ slotEnabled s 3 = false ∧ ∀ d, (domOf s d).slots = []) ∧
    (let s := xportWith (fun x => { x with state := .moving }) live0; s.xport.state = .moving ∧ slotDue s 4 = true) ∧
    ((-5 : Int) ≤ 5 ∧ (-5 : Int) ≤ 5 ∧ (5 : Int) ≤ 5) := by decide +kernel

/-- The transport in a state, in PREOP. -/
def xportIn (x : XportState) : State := xportWith (fun y => { y with state := x }) preop

theorem meets_TransportStatesFollowHeadAndRequests :
    (let s := ready |> xportWith (fun x => { x with state := .stopped }) |> setObj Obj.tensionFaultLow 1;
      tensionJudged s = true ∧ tensionOut s = true) ∧
    tensionJudged live0 = false ∧
    (let s := xportWith (fun x => { x with capture := ⟨.running, List.replicate 4096 [], 0⟩ }) live0;
      s.xport.capture.state = .running ∧ 4096 ≤ s.xport.capture.samples.length) ∧
    live0.xport.capture.samples.length < 4096 ∧
    (let s := threading blank |> cartWith (fun c => { c with threaded := true });
      s.xport.state = .threading ∧ s.cart.threaded = true ∧ s.cart.state ≠ .unloading ∧ s.xport.headLoaded = false) ∧
    (let s := setObj Obj.headLoads 49999 (xportIn .parked);
      s.xport.state = .parked ∧ powerToward s = 0 ∧ obj s Obj.headLoads = 49999) ∧
    (∀ x ∈ [XportState.faulted, .idle, .stopped, .test],
      requestPasses .sdo 0x3400 0 (xportIn x) (xportIn x) ∧ (xportIn x).xport.state = x ∧ (xportIn x).xport.atRest = true ∧
      causePresent (xportIn x) = false ∧ cartBusy (xportIn x).cart.state = false) := by
  refine ⟨by decide +kernel, by decide +kernel, by decide +kernel, by decide +kernel, by decide +kernel, by decide +kernel, ?_⟩
  intro x hx
  simp only [List.mem_cons, List.not_mem_nil, or_false] at hx
  rcases hx with rfl | rfl | rfl | rfl <;>
    exact ⟨sdo_request (by decide +kernel) (by decide +kernel) (by decide +kernel) (by decide +kernel), by decide +kernel⟩

/-- An encoder changed. -/
def encWith (f : EncoderRt → EncoderRt) (s : State) : State := xportWith (fun x => { x with enc := vset x.enc 0 (f (vget x.enc 0)) }) s
/-- A tape that moves with its head loaded and 5 tone cycles counted. -/
def speeding : State := live0 |> xportWith (fun x => { x with
    state := .moving, headLoaded := true, servo := { x.servo with lowerValid := true, upperValid := true, cycles := [5] } })
  |> setObj Obj.tapeSpeedEncoder 0x100000

theorem meets_EncodersAndServoAreWatched :
    (released live0 = true ∧ majority (obj live0 Obj.filterLength) 0 (encOf live0 0).a = (encOf live0 0).a ∧
      majority (obj live0 Obj.filterLength) 0x7FFF (encOf live0 0).b ≠ (encOf live0 0).b ∧
      majority (obj live0 Obj.filterLength) 0x7FFF (encOf live0 0).a ≠ (encOf live0 0).a) ∧
    (lposOf (lposWordOf 0x123456) = some 0x123456 ∧ lposOf (lposWordOf 0x123456 ^^^ 1) = none) ∧
    (let s := encWith (fun e => { e with doubles := [1023, 500, 200, 0] }) speeding;
      (encOf s 0).fault = false ∧ fourDoubles (encOf s 0) = true ∧ s.xport.state ≠ .off ∧ s.xport.state ≠ .braking ∧
      s.xport.state ≠ .faulted) ∧
    (let s := encWith (fun e => { e with revValid := true, count := -8192 }) live0;
      (1 : Fin 2) ≠ 0 ∧ (encOf s 0).revValid = true ∧ s.xport.servo.fromEncoders = false ∧
      8192 ≤ ((encOf s 0).count - (encOf s 0).revCount).natAbs) ∧
    (encodersHealthy speeding = true ∧ servoSpeedValid speeding = true ∧ speeding.xport.useServo = false ∧
      speedsDiffer speeding = true) ∧
    (let s := xportWith (fun x => { x with useServo := true }) live0; s.xport.useServo = true ∧ speedsDiffer s = false) ∧
    (let s := setObj Obj.tension 0x100000 speeding;
      s.xport.state = .moving ∧ s.xport.speedRamp = s.xport.target ∧
      objQ16 s Obj.tensionCheckTolerance < (torqueTension s - objQ16 s Obj.tension).natAbs) ∧
    (speeding.xport.headLoaded = true ∧ onTrack speeding (ofBits 16 (0x7FFF : Half).toNat) = false) ∧
    (let s := xportWith (fun x => { x with servo := { x.servo with upperValid := false } }) speeding;
      s.xport.servo.lowerValid ≠ s.xport.servo.upperValid) ∧
    (let s := xportWith (fun x => { x with servo := { x.servo with lowerValid := false, upperValid := false } }) speeding;
      s.xport.servo.lowerValid = false ∧ s.xport.servo.upperValid = false) := by decide +kernel

/-- Kiln powered and enabled, its main side hearing it. -/
def kiln0 : State := live0 |> bootWith (fun b => { b with straps := 0x8000 })
  |> kilnWith (fun k => { k with powered := true, enabled := true, bridgeOk := true })
/-- The same SEALED with a valid time. -/
def sealed : State := kilnWith (fun k => { k with state := .sealed, timeValid := true, params := ⟨4, 2, 1⟩ }) kiln0

theorem meets_SealAndPowerDecideKilnsState :
    (sealed.kiln.enabled = true ∧ sealed.kiln.sealOpen = false ∧ sealed.kiln.powered = true ∧ sealed.kiln.state = .sealed) ∧
    (let s := kilnWith (fun k => { k with powered := false }) sealed; s.kiln.powered = false) ∧
    (let s := kilnWith (fun k => { k with sealOpen := true }) kiln0;
      s.kiln.enabled = true ∧ s.kiln.sealOpen = true ∧ sealedProcedure s.kiln = true ∧
      ¬(s.kiln.timeValid = true ∨ s.kiln.staged.setTime.isSome = true)) ∧
    (let s := kilnWith (fun k => { k with sealOpen := true }) sealed; sealedProcedure s.kiln = false) ∧
    (let s := kilnWith (fun k => { k with sealOpen := true, staged := ⟨some 4, some 6, none, some 86400⟩ }) kiln0;
      sealedProcedure s.kiln = true ∧ s.kiln.staged.setTime.isSome = true ∧
      s.kiln.audit.length + (stagedChanges s.kiln 0).length + 1 < 1024) ∧
    (let s := kilnWith (fun k => { k with sealOpen := true, timeValid := true, audit := List.replicate 1023 ⟨0, 0, 0, 0, 0, 0, 0, 0, 0, 0, 0⟩ }) kiln0;
      1024 ≤ s.kiln.audit.length + (stagedChanges s.kiln 0).length + 1) := by decide +kernel

/-- A SUBMIT of domain 1 on its way. -/
def submit1 : BridgeMsg := .submit 2 1 0 false 1 (List.replicate 64 0)
/-- Messages on their way to Kiln. -/
def toKiln (l : List BridgeMsg) (s : State) : State := kilnWith (fun k => { k with toKiln := l }) s
/-- Messages on their way to the main side. -/
def toMain (l : List BridgeMsg) (s : State) : State := kilnWith (fun k => { k with toMain := l }) s

theorem meets_KilnTakesWhatReachesIt :
    (let s := toKiln [.confirm 3 5, submit1] sealed;
      bridgeRuns s = true ∧ s.kiln.toKiln = [.confirm 3 5] ++ submit1 :: [] ∧ (∀ x ∈ [BridgeMsg.confirm 3 5], isSubmit x = false) ∧
      submitRefusal s.kiln 2 1 = 0 ∧ submitRefusal s.kiln 2 2 = 1 ∧ submitRefusal kiln0.kiln 2 1 = 2) ∧
    ((toKiln [.confirm 3 5] sealed).kiln.toKiln = [] ++ .confirm 3 5 :: []) ∧
    ((toKiln [.requestCopy 1 2] sealed).kiln.toKiln = [] ++ .requestCopy 1 2 :: []) ∧
    (let s := kilnWith (fun k => { k with sealOpen := true }) (toKiln [.stage .sdo 1 [(1, 4)]] kiln0);
      s.kiln.toKiln = [] ++ .stage .sdo 1 [(1, 4)] :: [] ∧ stageOutcome s.kiln [(1, 4)] = none) ∧
    stageOutcome sealed.kiln [(1, 4)] = some .kilnRange := by decide +kernel

/-- A record of the store. -/
def record1 : KilnRecord := ⟨9, 2, 1, 0, 0, 0, 0, List.replicate 64 0⟩
/-- A METER_RECORD of domain 2 that waits for Kiln. -/
def metering : Slot := { meter with phase := .kiln, order := 1 }

theorem meets_MainSideHearsKiln :
    (let s := toMain [.recordCopy record1, .result 2 2 1 (some 9) 0] (slotted metering sealed);
      bridgeRuns s = true ∧ (∀ y ∈ [BridgeMsg.recordCopy record1], isResult y = false) ∧ s.power.failing = false ∧
      meterSlot s (Fin.ofNat 8 2) 1 = some metering ∧ slotOf s (Fin.ofNat 8 2) metering.no = some metering ∧
      metering.cmd.head.dom = Fin.ofNat 8 2 ∧ s.kiln.confirmed < record1.seq ∧ s.kiln.copies.length < 6553) ∧
    ((toMain [.stageResult .sdo 1 0] sealed).kiln.toMain = [] ++ .stageResult .sdo 1 0 :: []) ∧
    (let s := kilnWith (fun k => { k with confirmed := 9 }) sealed; record1.seq ≤ s.kiln.confirmed) ∧
    (sealed.kiln.news = [] ∧ missingCopies sealed.kiln = []) ∧
    (released sealed = true ∧ kilnEnabled sealed = true ∧ (∀ m ∈ sealed.kiln.toKiln, isSubmit m = false ∧ isStage m = false)) ∧
    (let s := kilnWith (fun k => { k with copies := [record1] }) sealed; s.kiln.copies ≠ []) ∧ sealed.kiln.copies = [] := by
  decide +kernel

/-- Line 0 watching PA0. -/
def watching : State := setObj (Obj.eventConfig 0) 0x18000001 live0

theorem meets_PinsAndEnergyAreFollowed :
    (released watching = true ∧ linePort watching (0 : Fin 8).val = (0 : Fin 5).val ∧
      fieldOf (obj watching (Obj.eventConfig 0)) 0 16 ≠ 0 ∧ linePort (setObj (Obj.eventConfig 0) 0x20000000 live0) 0 ≠ 0) ∧
    (let s : State := { watching with pins := { watching.pins with lines := vset watching.pins.lines 0 ⟨true, true, false⟩ } };
      linePort s 0 < 5 ∧ (lineOf s 0).counting = true ∧ (lineOf s 0).filtered ≠ (lineOf s 0).accepted ∧ linePending s 0 = false) ∧
    (live0.energy.clearDue = false ∧ live0.energy.ticks < 1000) ∧
    (let s : State := { live0 with energy := { live0.energy with ticks := 1000, clearDue := true } };
      1000 ≤ s.energy.ticks ∧ s.energy.clearDue = true) := by decide +kernel

/-- A block under recovery since period 0. -/
def recovering (b : Nat) : State := { live0 with recov := { live0.recov with busy := [(b, 0)], history := [(b, 0)] } }

theorem meets_StuckBlocksRecoverOrEscalate :
    (released live0 = true ∧ blockBusy live0 0x02 = false ∧ live0.power.failing = false ∧ recoverable 0x02 = true ∧
      recentFaults live0 0x02 < obj live0 Obj.recoveryLimit ∧ live0.dram.taken = [] ∧
      (onLadder 2 1 lost).cart.ladder.isSome = true ∧ blockBusy (onLadder 2 1 lost) 2 = false) ∧
    (let s : State := { live0 with recov := { live0.recov with rebuilding := true } };
      s.recov.rebuilding = true ∧ (∀ d, (domOf s d).slots = []) ∧ live0.recov.rebuilding = false) ∧
    blockBusy (recovering 3) 3 = true ∧
    (let s : State := { live0 with recov := { live0.recov with history := [(3, 0), (3, 0), (3, 0)] } };
      obj s Obj.recoveryLimit ≤ recentFaults s 3) ∧
    (escalatesAtOnce 0x10 = true ∧ recoverable 0x0F = false ∧ escalatesAtOnce 0x0F = false) ∧
    (nextRecovery (recovering 3) = some 3 ∧ 3 ∉ [0x01, 0x0A, 0x0D, 0x0E] ∧ (10000 : Half).toNat ≤ 10000 ∧
      10000 < (10001 : Half).toNat ∧ nextRecovery live0 = none) ∧
    (live0.recov.cpRestart = none ∧
      (let s : State := { live0 with recov := { live0.recov with cpRestart := some 1 } };
        s.recov.cpRestart = some 1 ∧ s.periods < 1 + 2400000)) := by decide +kernel

theorem meets_StaleRequestsHaveNoSideEffect :
    ∀ i ∈ [domIndex 0, portIndex .a, 0x2C00, 0x3400],
      arrived .sdo i 3 (typeWidth i 3 / 8) preop = some preop ∧ firstReason (accessChecks preop .sdo i 3) = none ∧
      (5 : Half).toNat ≠ obj preop (Obj.unitGen i) := by
  intro i hi
  simp only [List.mem_cons, List.not_mem_nil, or_false] at hi
  rcases hi with rfl | rfl | rfl | rfl <;> exact ⟨rfl, by decide +kernel⟩

theorem meets_StepsRunTheFrontCommand : live0.pending = [] := by decide +kernel

theorem meets_StepsKeepTheInvariant : Inv live0 = true ∧ step live0 = .next live0 := ⟨by decide +kernel, rfl⟩

/-! ### Worked examples of the spec -/

/-- The check value of R105. -/
theorem test_crc32c_check_value :
    crc32c [0x31, 0x32, 0x33, 0x34, 0x35, 0x36, 0x37, 0x38, 0x39] = 0xE3069283#32 := by decide +kernel

/-- The window addresses of chapters 0, 3 and 24. -/
theorem test_window_addresses :
    windowTarget 0x00800004 = some (0x2000, 1, false) ∧ windowTarget 0x010C000C = some (0x4300, 3, false) ∧
    windowTarget 0x010C1014 = some (0x4304, 5, false) ∧ windowTarget 0x010C1018 = some (0x4304, 5, true) ∧
    windowTarget 0x00D00428 = some (0x3401, 0x0A, false) := by decide +kernel

/-- The driver of chapter 0 reads PART_CODE and REVISION_CODE, from a domain the port is not bound to. -/
theorem test_identity_reads :
    lastSent (regr .a 3 7 0x00800004 site) .a = some (.regd 3 0x00800004 7 0 0x880) ∧
    lastSent (regr .a 3 7 0x00800008 site) .a = some (.regd 3 0x00800008 7 0 0xA1) := by decide +kernel

/-- D3 reads D2's ENERGY_UJ (chapter 24): 0x1A, and the detail shows 0x4204:05. -/
theorem test_foreign_read_refused :
    (let t := regr .a 3 7 0x01081014 (setObj (Obj.linkBinding 3) 1 site)
     lastSent t .a = some (.regd 3 0x01081014 7 0x1A 0) ∧
     obj t Obj.refusalDetailLink / 2 ^ 48 = 0x4204 ∧ obj t Obj.refusalDetailLink / 2 ^ 40 % 256 = 5) := by decide +kernel

/-- The guarantees of cell 14 (chapter 2). -/
def cell14 : State := live0
  |> setObj (Obj.writeGuarantee 1) 12000 |> setObj (Obj.writeGuarantee 2) 12000 |> setObj (Obj.writeGuarantee 3) 8000
  |> setObj (Obj.tapeReadGuarantee 1) 4000 |> setObj (Obj.tapeReadGuarantee 2) 4000 |> setObj (Obj.tapeReadGuarantee 3) 4000
  |> setObj (Obj.bufferReadGuarantee 1) 200000 |> setObj (Obj.bufferReadGuarantee 2) 200000
  |> setObj (Obj.bufferReadGuarantee 3) 200000 |> setObj (Obj.linkBinding 1) 1 |> setObj (Obj.linkBinding 2) 1
  |> setObj (Obj.linkBinding 3) 1
  |> domWith 1 (fun d => { d with state := .online }) |> domWith 2 (fun d => { d with state := .online })
  |> domWith 3 (fun d => { d with state := .online })

theorem test_guarantee_demands :
    demandDram cell14 (confDoms cell14) = 1376000 ∧ demandTape cell14 (confDoms cell14) = 44000 ∧
    demandLink cell14 (confDoms cell14) .a = 644000 ∧
    demandsWithin cell14 (confDoms cell14) = true ∧
    (let s := setObj (Obj.writeGuarantee 2) 60000 cell14; demandsWithin s (confDoms s) = false) := by decide +kernel

/-- The motion scheduler caps at 2.00 m/s, step 3: scale 837. -/
theorem test_guarantee_scale :
    after (exec .guaranteeRecompute (setObj Obj.maxSpeedStep 3 cell14)) (fun t =>
      obj t Obj.budgetTape == 36000 && obj t Obj.guaranteeScale == 837 && obj t Obj.limitingBudget == 2 &&
      obj t (Obj.effectiveWrite 1) == 9808 && obj t (Obj.effectiveWrite 3) == 6539 &&
      obj t (Obj.effectiveBufferRead 2) == 163476) = true := by decide +kernel

/-- D3 ONLINE with GEN 0x31, both the line PLC and the cell controller about to take it offline (chapter 3). -/
def contested : State := admin |> domWith 3 (fun d => { d with state := .online }) |> setObj (Obj.unitGen 0x4300) 0x31

/-- The REGW comes first, the SDO is refused with a detail word of the newer generation. -/
theorem test_takeovers :
    after (exec (.goOffline 3 (.regw .a 2 7) 0x31) contested) (fun s =>
      (domOf s 3).state == .draining && obj s (Obj.unitGen 0x4300) == 0x32 &&
      after (exec (.goOffline 3 .sdo 0x31) { s with ecat := preop.ecat }) (fun t =>
        (domOf t 3).state == .draining && obj t (Obj.unitGen 0x4300) == 0x32 &&
        obj t Obj.refusalDetailField == 0x4300031900320401)) = true := by decide +kernel

/-- The pages of cell 14 (chapter 8). -/
def pages14 : State := live0 |> setObj Obj.domainPagePool 29696
  |> setObj (Obj.pageFloor 0) 64 |> setObj (Obj.pageCeiling 0) 512
  |> setObj (Obj.pageFloor 1) 2048 |> setObj (Obj.pageCeiling 1) 16000
  |> setObj (Obj.pageFloor 2) 2048 |> setObj (Obj.pageCeiling 2) 16000
  |> setObj (Obj.pageFloor 3) 2048 |> setObj (Obj.pageCeiling 3) 16000
  |> domWith 0 (fun d => { d with state := .online, pages := 40 }) |> domWith 1 (fun d => { d with state := .online, pages := 13583 })
  |> domWith 2 (fun d => { d with state := .online, pages := 14000 }) |> domWith 3 (fun d => { d with state := .online, pages := 1500 })

/-- The commit-ring mover of D2, the decompressor of D1 and the pager of D3 meet in one cycle. -/
theorem test_last_common_page :
    commonFree pages14 = 1 ∧
    after (exec (.pageRequest [(.domain 1, 6), (.domain 2, 2), (.domain 3, 2)]) pages14) (fun s =>
      (domOf s 3).pages == 1501 && (domOf s 2).pages == 14001 && (domOf s 1).pages == 13583 && commonFree s == 0 &&
      s.dram.commonWait.length == 1 &&
      after (exec (.pageRelease (.domain 2) 2 9) s) (fun t =>
        (domOf t 2).pages == 14000 && (domOf t 1).pages == 13584 && commonFree t == 0 && t.dram.commonWait == [])) = true := by
  decide +kernel

/-- A CUT_QUOTA of 300 is 115,425 cuts of 832 sectors (chapter 10). -/
theorem test_cut_quota : quotaSectors 300 = 115425 * 832 := by decide +kernel

/-- The carry on leg U (chapter 13): DEAD_TIME 50, MIN_PULSE 100. -/
theorem test_pwm_carry :
    (let l1 := applyWindow 50 100 60 ⟨0, 0, 0, 0, 0⟩
     let l2 := applyWindow 50 100 60 l1
     let l3 := applyWindow 50 100 2400 l2
     let l4 := applyWindow 50 100 2400 l3
     (l1.window, l1.carry) = (0, 60) ∧ (l2.window, l2.carry) = (120, 0) ∧ (l3.window, l3.carry) = (2500, -100) ∧
     (l4.window, l4.carry) = (2300, 0)) := by decide +kernel

/-- The window of heavy work (chapter 19): the pool of 300,000 µJ is split 6 : 2 : 2. -/
theorem test_energy_window :
    after (exec .energyWindow { cell14 with energy := { cell14.energy with
        ticks := 1000, pool := 300000000
        accounts := #v[0, 900000000, 300000000, 0, 0, 0, 0, 0, 100000000]
        window := #v[0, 6000000, 2000000, 0, 0, 0, 0, 0, 2000000] } }) (fun t =>
      viewObj t 0x4104 5 == 1080000 && viewObj t 0x4204 5 == 360000 && viewObj t 0x4304 5 == 0 &&
      viewObj t 0x2160 7 == 160000 && viewObj t 0x2160 1 == 1600000) = true := by decide +kernel

/-- The straps of cell 14's board (chapter 22), EQTAB row 3 and four domains, give STRAPS 0x8260, and 2 GiB give a pool of
29,696 pages. -/
theorem test_board_straps :
    after (exec .poresetNLow State.reset) (fun s =>
      after (exec (.startReference { env0 with straps := 0x8260 }) s) (fun t =>
        viewObj t 0x2000 3 == 0x8260 && obj t Obj.domainPagePool == 29696)) = true := by decide +kernel

/-- The EVENT_CONFIG of the door switch (chapter 20): PD5 on line 5; D2 owns the pin. -/
theorem test_door_switch :
    (let s := live0 |> setObj (Obj.pinConfig 3 5) 0x7F309000 |> setObj (Obj.eventConfig 5) 0x7C0007D0
     pinOwner s 29 = 3 ∧ linePin s 5 = 29 ∧ viewObj s 0x4204 3 = 0x20000000) := by decide +kernel

/-- An APPEND whose content has come takes the next number of its log, 147,879 (chapter 6). -/
theorem test_append_commits :
    (let s := slotted { append2 with cmd := { append2.cmd with body := logBody 2 } } (domWith 2 (fun d => { d with
        logs := vset d.logs 3 ⟨1, 147878, 0, []⟩ }) ready)
     after (exec (.data head9 0 [1, 2] true 0) s) (fun t =>
       lastSent t .a == some (.cpl 2 9 (some 0) ⟨1, 0, 0, 0, 2, 147879⟩) && (vget (domOf t 2).logs 3).lastCommitted == 147879)) =
    true := by decide +kernel

/-- The queue idles when it is empty, and a command goes through the queue. -/
theorem test_queue_steps :
    step State.reset = .next State.reset ∧
    after (step { live0 with pending := [.laneFramePeriod .a, .energyWindow] }) (fun t => t.pending == [.energyWindow]) = true ∧
    State.reset.withFetchWord 8 0 = State.reset := ⟨rfl, by decide +kernel, rfl⟩

/-- With no image, a part released in order takes the strap defaults: 0b10 is D0 to D3 with a RING_SHARE of 40 (chapter 22). -/
theorem test_strap_defaults :
    after (exec (.startReference { env0 with straps := 0x0263 }) State.reset) (fun s =>
      after (exec (.release 33500 0) s) (fun t =>
        t.boot.phase == .released && obj t (Obj.ringShare 3) == 40 && obj t (Obj.cutQuota 3) == 256 &&
        obj t (Obj.pageFloor 3) == 3712 && obj t (Obj.pageCeiling 3) == 29696)) = true := by decide +kernel
end Sys2Proof.Tests
end

section
/-!
PROOFS. Commands on a port outside LINK_BINDING (R26). The completion of such a command does join its port's queue, but the poll
of the power state that follows can call off an entry to P2. A link found lost then raises an event, and a port that owes
EVENTS_LOST sends it before the events that already wait (R472). So the queue need not begin with what stood in it before.
-/
namespace Sys2Proof.Machine

/-- Messages that join a queue leave its oldest message in front. -/
theorem sends_keeps_first {p : PortId} {ms : List TxMsg} {s t : State} {m : TxMsg} (h : sends p ms s t)
    (hm : (portOf s p).txWait.head? = some m) : (portOf t p).txWait.head? = some m := by
  obtain ⟨rest, hq, -⟩ := h
  rw [hq, List.append_assoc, List.head?_append, hm, Option.some_or]

/-- SYNC goes to the queue engine as the host command of its opcode (R132, R150). -/
theorem exec_sync (h : CmdHead) (b : CmdBody) (s : State) :
    exec (.sync h b) s = .next (live s (receiveCmd ⟨opSync, h, b, false⟩ s)) := rfl

/-- The code of the event that a message carries. -/
def TxMsg.eventCode : TxMsg → Option Nat
  | .evt _ e => some e.code
  | _ => none

/-- LINK_UP of port A at width 4, as a waiting message (R476). -/
def linkUpA : TxMsg := .evt 0 ⟨0x0201, unitPort .a, 0, 4, 0⟩

/-- A port that drains for idle with no lane locked; LINK_UP waits, and one event has been dropped (R98, R472). -/
def drainingInDebt (q : Port) : Port :=
  { q with state := .draining, goal := .idle, evtLost := 1, txWait := [linkUpA] }

/-- A released part in P1 on its way to P2, port A as `drainingInDebt`. Domain 2 is ONLINE, bound to port B alone, and not idle,
so that the next poll calls the entry off (R27, R183, R184). -/
def enteringP2 : State :=
  { State.reset with boot := { State.reset.boot with phase := .released } }
    |> setPowerState 1 2
    |> setObj (Obj.linkBinding 2) 2
    |> modDom 2 (fun d => { d with state := .online, idle := false })
    |> modPort .a drainingInDebt

/-- A SYNC of domain 2 with TAG 9 on port A, whose other fields are 0. -/
def unboundSync : HostCmd := ⟨opSync, ⟨.a, 2, 9⟩, ⟨0, 0, 0, 0, 0, 0, 0, 0, 0, 0⟩, false⟩

theorem enteringP2_released : released enteringP2 = true := by decide +kernel

theorem enteringP2_configured : configured enteringP2 2 = true := by decide +kernel

theorem enteringP2_unbound : bound enteringP2 2 .a = false := by decide +kernel

theorem enteringP2_first : (portOf enteringP2 .a).txWait.head? = some linkUpA := by decide +kernel

theorem unboundSync_reaches : cmdReaches unboundSync enteringP2 := by
  unfold cmdReaches
  decide +kernel

/-- The refused SYNC calls the entry to P2 off, and LINK_DOWN of port A makes it pay its EVENTS_LOST in front of LINK_UP. The
event's TIME is left out: its microseconds below a period are a free value (log entry 3). -/
theorem unboundSync_puts_eventsLost_first :
    (portOf (receiveCmd unboundSync enteringP2) .a).txWait.head?.bind TxMsg.eventCode = some 0xFFFF := by decide +kernel

/-- Refutes O29: where the poll after the refusal calls off an entry to P2, a port's EVENTS_LOST goes before the messages that
waited there, so the completion does not stand directly behind what was queued. -/
theorem not_unboundPortsAreNotAuthorized : ¬ Obligations.UnboundPortsAreNotAuthorized := by
  unfold Obligations.UnboundPortsAreNotAuthorized
  intro h
  have hrow : HostRow (.sync unboundSync.head unboundSync.body) enteringP2 unboundSync enteringP2 := .sync _ _ _
  obtain ⟨t, detail, hexec, hsends, -, -⟩ :=
    (h _ _ _ _ hrow enteringP2_released unboundSync_reaches).1 (by decide) enteringP2_configured enteringP2_unbound
  have hlinkUp : (portOf t .a).txWait.head? = some linkUpA := sends_keeps_first hsends enteringP2_first
  have ht : receiveCmd unboundSync enteringP2 = t := by
    rw [exec_sync, live_eq _ enteringP2_released] at hexec
    exact Host.Outcome.next.inj hexec
  have hlost := unboundSync_puts_eventsLost_first
  rw [ht, hlinkUp] at hlost
  exact absurd hlost (by decide)

end Sys2Proof.Machine
end

section
/-!
PROOFS. A miswired lane (R91). LANE_MISWIRED joins the queues of ports, which may leave IDLE for it (R99); only lanes in IDLE
take part in that, so the miswired lane stays in RETRAIN_WAIT. There it is not locked (R85), and M holds locked lanes only (R92).
-/
namespace Sys2Proof.Machine

/-! ### What an event leaves of a lane (R99, R472) -/

@[simp] theorem laneOf_bump (k : Nat) (s : State) (p : PortId) (l : Lane) : laneOf (bump k s) p l = laneOf s p l := rfl

@[simp] theorem laneOf_bumpGen (i : Nat) (s : State) (p : PortId) (l : Lane) : laneOf (bumpGen i s) p l = laneOf s p l := rfl

theorem laneOf_setPort {q : PortId} {x : Port} {s : State} (hx : x.lanes = (portOf s q).lanes) (p : PortId) (l : Lane) :
    laneOf (setPort q x s) p l = laneOf s p l := by
  by_cases h : q = p
  · subst h
    simp [laneOf, hx]
  · simp [laneOf, portOf_setPort_other x s h]

theorem laneOf_modPort {q : PortId} {f : Port → Port} {s : State} (hf : (f (portOf s q)).lanes = (portOf s q).lanes)
    (p : PortId) (l : Lane) : laneOf (modPort q f s) p l = laneOf s p l := laneOf_setPort hf p l

theorem laneOf_modLanes (q : PortId) (f : Lane → LaneRt → LaneRt) (s : State) (p : PortId) (l : Lane) :
    laneOf (modLanes q f s) p l = if q = p then f l (laneOf s p l) else laneOf s p l := by
  split
  next h =>
    subst h
    simp [laneOf, modLanes, vget]
  next h => simp [laneOf, modLanes, portOf_modPort_other _ s h]

theorem laneOf_enterPort (q : PortId) (st : PortState) (s : State) (p : PortId) (l : Lane) :
    laneOf (enterPort q st s) p l = laneOf s p l := by
  unfold enterPort
  rw [laneOf_bumpGen, laneOf_modPort rfl]

/-- The exit from IDLE takes the lanes in IDLE along and no other (R99). -/
theorem laneOf_idleExit (q : PortId) {s : State} {p : PortId} {l : Lane} (h : (laneOf s p l).state ≠ .idle) :
    laneOf (idleExit q s) p l = laneOf s p l := by
  unfold idleExit
  split
  · rw [laneOf_enterPort, laneOf_modPort rfl, laneOf_modLanes, if_neg h, ite_self]
  · rfl

theorem laneOf_sendMsg (q : PortId) (m : TxMsg) {s : State} {p : PortId} {l : Lane} (h : (laneOf s p l).state ≠ .idle) :
    laneOf (sendMsg q m s) p l = laneOf s p l := by
  unfold sendMsg
  rw [laneOf_idleExit q (by rwa [laneOf_modPort rfl]), laneOf_modPort rfl]

theorem laneOf_dropEvent (q : PortId) (s : State) (p : PortId) (l : Lane) :
    laneOf (dropEvent q s) p l = laneOf s p l := by
  unfold dropEvent
  rw [laneOf_bump, laneOf_modPort rfl]

theorem laneOf_payLost (q : PortId) (s : State) (p : PortId) (l : Lane) : laneOf (payLost q s) p l = laneOf s p l := by
  unfold payLost
  extract_lets x
  split
  · rfl
  · rfl
  · rfl
  · split
    · rfl
    · exact laneOf_setPort (by rfl) p l

theorem laneOf_queueEvent (dom : Dom) (e : EventRec) (q : PortId) {s : State} {p : PortId} {l : Lane}
    (h : (laneOf s p l).state ≠ .idle) : laneOf (queueEvent dom e q s) p l = laneOf s p l := by
  have hpay := laneOf_payLost q s p l
  unfold queueEvent
  split
  · exact laneOf_dropEvent q s p l
  · exact (laneOf_sendMsg q _ (by rwa [hpay])).trans hpay

theorem laneOf_offerEvent (dom : Dom) (e : EventRec) (q : PortId) {s : State} {p : PortId} {l : Lane}
    (h : (laneOf s p l).state ≠ .idle) : laneOf (offerEvent dom e q s) p l = laneOf s p l := by
  have hdrop := laneOf_dropEvent q s p l
  have hqueue := laneOf_queueEvent dom e q h
  unfold offerEvent
  split <;> assumption

theorem laneOf_offerEvents (dom : Dom) (e : EventRec) (qs : List PortId) {s : State} {p : PortId} {l : Lane}
    (h : (laneOf s p l).state ≠ .idle) :
    laneOf (qs.foldl (fun t q => offerEvent dom e q t) s) p l = laneOf s p l := by
  induction qs generalizing s with
  | nil => rfl
  | cons q qs ih =>
    have hq := laneOf_offerEvent dom e q h
    exact (ih (by rwa [hq])).trans hq

theorem laneOf_settleEvent (e : EventRec) (s : State) (p : PortId) (l : Lane) :
    laneOf (settleEvent e s) p l = laneOf s p l := by
  have hports : (settleEvent e s).ports = s.ports :=
    (settleEvent_kept (mask := [.free, .dict, .ev]) e (Kept.refl _ s) (fun _ h => h)).same_of .ports rfl
  simp only [laneOf, portOf, hports]

/-- Posting an event leaves a lane that is not in IDLE as it stands. -/
theorem laneOf_postEvent (code unit detail : Nat) {s : State} {p : PortId} {l : Lane} (h : (laneOf s p l).state ≠ .idle) :
    laneOf (postEvent code unit detail s) p l = laneOf s p l := by
  unfold postEvent publish
  extract_lets e s1
  split
  · have hs1 : laneOf s1 p l = laneOf s p l := rfl
    rw [laneOf_settleEvent, laneOf_offerEvents _ _ _ (by rwa [hs1]), hs1]
  · rfl

theorem laneOf_postEvent_setLane (code unit detail : Nat) (s : State) (p : PortId) (l : Lane) {x : LaneRt}
    (hx : x.state ≠ .idle) : laneOf (postEvent code unit detail (setLane p l x s)) p l = x := by
  rw [laneOf_postEvent _ _ _ (by rwa [laneOf_setLane_same]), laneOf_setLane_same]

/-! ### An event outside the fault history (R475) -/

theorem logEvent_of_not_fault {e : EventRec} (he : isFault e = false) (s : State) : logEvent e s = enterPages e s := by
  simp [logEvent, he]

theorem recordEvent_kept_of_not_fault {m : List Part} {s0 s : State} {e : EventRec} (he : isFault e = false)
    (h : Kept m s0 s) (hm : [.dict, .ev] ⊆ m) : Kept m s0 (recordEvent e s) := by
  unfold recordEvent
  rw [logEvent_of_not_fault he]
  exact bump_kept _ (enterPages_kept e h (sub_trans rfl hm)) (sub_trans rfl hm)

theorem publish_kept_of_not_fault {m : List Part} {s0 s : State} {e : EventRec} (he : isFault e = false)
    (h : Kept m s0 s) (hm : [.free, .dict, .ev, .ports] ⊆ m) : Kept m s0 (publish e s) := by
  have hrec : Kept m s0 (recordEvent e s) := recordEvent_kept_of_not_fault he h (sub_trans rfl hm)
  refine settleEvent_kept e (kept_foldl _ hrec fun t p ht => ?_) (sub_trans rfl hm)
  exact offerEvent_kept _ e p ht (sub_trans rfl hm)

/-- An event outside the fault history leaves the operation log as it stands. -/
theorem postEvent_kept_of_not_fault {m : List Part} {s0 s : State} {code unit detail : Nat}
    (he : ∀ now, isFault ⟨code, unit, (eventClass code).1, detail, now⟩ = false) (h : Kept m s0 s)
    (hm : [.free, .dict, .ev, .ports] ⊆ m) : Kept m s0 (postEvent code unit detail s) := by
  unfold postEvent
  extract_lets e
  split
  · exact publish_kept_of_not_fault (he _) h hm
  · exact kept_ev h (hm (by simp)) id

/-! ### The lanes that carry the port (R85, R92) -/

theorem bitOf_eq_testBit (v n : Nat) : bitOf v n = v.testBit n := by
  rw [Nat.testBit_eq_decide_div_mod_eq]
  rfl

theorem bitOf_laneSum : ∀ (f : Lane → Bool) (l : Lane),
    bitOf (allLanes.map (fun k => if f k then 2 ^ k.val else 0)).sum l.val = f l := by decide

/-- A bit of RX_LOCKED is its lane's receiver (R85). -/
theorem bitOf_lockMask (q : Port) (l : Lane) : bitOf (lockMask q) l.val = (vget q.lanes l).locked :=
  bitOf_laneSum (fun k => (vget q.lanes k).locked) l

theorem locked_of_mem_commonLanes {q : Port} {l : Lane} (h : l ∈ commonLanes q) : (vget q.lanes l).locked = true := by
  have hcommon : common q l = true := (List.mem_filter.1 h).2
  rw [common, bitOf_eq_testBit, Nat.testBit_and, ← bitOf_eq_testBit, bitOf_lockMask, Bool.and_eq_true,
    Bool.and_eq_true] at hcommon
  obtain ⟨-, hlocked, -⟩ := hcommon
  exact hlocked

theorem not_locked_of_retrainWait {x : LaneRt} (h : x.state = .retrainWait) : x.locked = false := by
  simp [LaneRt.locked, h]

theorem not_mem_commonLanes_of_retrainWait {s : State} {p : PortId} {l : Lane} (h : (laneOf s p l).state = .retrainWait) :
    l ∉ commonLanes (portOf s p) := by
  intro hl
  have hlocked : (laneOf s p l).locked = true := locked_of_mem_commonLanes hl
  rw [not_locked_of_retrainWait h] at hlocked
  exact Bool.false_ne_true hlocked

/-! ### ALIGN_COMPLETE of a miswired lane (R91) -/

theorem exec_alignComplete (p : PortId) (l : Lane) (word : DWord) (hits : List SlipHit) (s : State) :
    exec (.alignComplete p l word hits) s = execAlignComplete p l word hits s := rfl

/-- A lane in ALIGN once its search has ended and a word that names another lane has come. -/
def miswiredLane (w : LaneWord) (h : SlipHit) (x : LaneRt) : LaneRt :=
  { takeLaneWord w { x with slip := h.slip.toNat, rxInverted := h.inverted, missed := 0 } with
    state := .retrainWait, alone := false, txLine := [] }

theorem miswiredLane_state (w : LaneWord) (h : SlipHit) (x : LaneRt) : (miswiredLane w h x).state = .retrainWait := rfl

theorem exec_alignComplete_miswired {p : PortId} {l : Lane} {word : DWord} {hits : List SlipHit} {h : SlipHit}
    {w : LaneWord} {s : State} (hrel : released s = true) (halign : (laneOf s p l).state = .align)
    (hhit : searchSlip (portOf s p) (laneOf s p l) hits = some h) (hword : LaneWord.decode word = some w)
    (hlane : w.lane.toNat ≠ l.val) :
    exec (.alignComplete p l word hits) s = .next (postEvent 0x0207 (unitPort p) (l.val + 0x100 * w.lane.toNat)
      (setLane p l (miswiredLane w h (laneOf s p l)) s)) := by
  rw [exec_alignComplete, execAlignComplete, live_eq _ hrel]
  simp [hhit, hword, halign, hlane, miswiredLane]

/-- Settles O7: the lane enters RETRAIN_WAIT, the event leaves it there, and a lane there is not in M. -/
theorem miswiredLaneTakesNoPart : Obligations.MiswiredLaneTakesNoPart := by
  unfold Obligations.MiswiredLaneTakesNoPart
  intro p l word hits h w s hrel halign hhit hword hlane
  have hwaits := miswiredLane_state w h (laneOf s p l)
  have hafter := laneOf_postEvent_setLane 0x0207 (unitPort p) (l.val + 0x100 * w.lane.toNat) s p l
    (x := miswiredLane w h (laneOf s p l)) (by rw [hwaits]; decide)
  rw [← hafter] at hwaits
  refine ⟨_, exec_alignComplete_miswired hrel halign hhit hword hlane, ?posted, hwaits,
    not_mem_commonLanes_of_retrainWait hwaits, ?frame⟩
  case posted => exact postEvent_postedOne _ _ _ hrel rfl rfl rfl rfl
  case frame =>
    have hset := setLane_kept p l (miswiredLane w h (laneOf s p l)) (Kept.refl [.free, .dict, .ev, .ports] s) (by simp)
    exact (postEvent_kept_of_not_fault (fun _ => rfl) hset (fun _ hp => hp)).only

end Sys2Proof.Machine
end

section
/-!
PROOFS. What leaves Kiln as it is, one rule per operation: its Kept rule does not name Kiln among the parts that it touches.
-/
namespace Sys2Proof.Machine

/-- An operation's Kept rule, read from the state that it meets. -/
theorem kiln_of_kept {l : List Part} {s t : State} (h : Kept l s s → l ⊆ l → Kept l s t)
    (hl : l.contains .kiln = false) : t.kiln = s.kiln :=
  (h (Kept.refl l s) (List.Subset.refl l)).same_of .kiln hl

/-! ### Objects, events and credits -/

@[simp] theorem setObjInt_kiln (k : Nat) (v : Int) (s : State) : (setObjInt k v s).kiln = s.kiln :=
  kiln_of_kept (setObjInt_kept k v) rfl
@[simp] theorem bumpBy_kiln (k n : Nat) (s : State) : (bumpBy k n s).kiln = s.kiln := kiln_of_kept (bumpBy_kept k n) rfl
@[simp] theorem bump_kiln (k : Nat) (s : State) : (bump k s).kiln = s.kiln := kiln_of_kept (bump_kept k) rfl
@[simp] theorem bumpGen_kiln (i : Nat) (s : State) : (bumpGen i s).kiln = s.kiln := kiln_of_kept (bumpGen_kept i) rfl
@[simp] theorem modPort_kiln (p : PortId) (f : Port → Port) (s : State) : (modPort p f s).kiln = s.kiln :=
  kiln_of_kept (modPort_kept p f) rfl
@[simp] theorem modDom_kiln (d : Dom) (f : DomainRt → DomainRt) (s : State) : (modDom d f s).kiln = s.kiln :=
  kiln_of_kept (modDom_kept d f) rfl
@[simp] theorem sendMsg_kiln (p : PortId) (m : TxMsg) (s : State) : (sendMsg p m s).kiln = s.kiln :=
  kiln_of_kept (sendMsg_kept p m) rfl
@[simp] theorem payLost_kiln (p : PortId) (s : State) : (payLost p s).kiln = s.kiln := kiln_of_kept (payLost_kept p) rfl
@[simp] theorem postEvent_kiln (code unit detail : Nat) (s : State) : (postEvent code unit detail s).kiln = s.kiln :=
  kiln_of_kept (postEvent_kept code unit detail) rfl
@[simp] theorem returnUnits_kiln (p : PortId) (k : CreditClass) (n : Nat) (s : State) :
    (returnUnits p k n s).kiln = s.kiln := kiln_of_kept (returnUnits_kept p k n) rfl
@[simp] theorem returnAdmin_kiln (p : PortId) (n : Nat) (s : State) : (returnAdmin p n s).kiln = s.kiln :=
  kiln_of_kept (returnAdmin_kept p n) rfl

/-! ### Answers to object accesses -/

@[simp] theorem answer_kiln (w : Writer) (i sub : Nat) (r : Option Reason) (s : State) :
    (answer w i sub r s).kiln = s.kiln := kiln_of_kept (answer_kept w i sub r) rfl
@[simp] theorem refuse_kiln (w : Writer) (i sub : Nat) (r : Reason) (s : State) : (refuse w i sub r s).kiln = s.kiln :=
  kiln_of_kept (refuse_kept w i sub r) rfl
@[simp] theorem dropPair_kiln (p : PortId) (s : State) :
    (dropPair p s).kiln = s.kiln := kiln_of_kept (dropPair_kept p) rfl

/-! ### Pages, caches and lines of LPDDR4X -/

@[simp] theorem runPagers_kiln (s : State) : (runPagers s).kiln = s.kiln := kiln_of_kept runPagers_kept rfl
@[simp] theorem rotCache_kiln (rot : List CacheRot) (s : State) : (rotCache rot s).kiln = s.kiln :=
  kiln_of_kept (rotCache_kept rot) rfl
@[simp] theorem fitUnits_kiln (d : Dom) (s : State) : (fitUnits d s).kiln = s.kiln := kiln_of_kept (fitUnits_kept d) rfl
@[simp] theorem servePages_kiln (s : State) : (servePages s).kiln = s.kiln := kiln_of_kept servePages_kept rfl
@[simp] theorem correctedLine_kiln (line : Nat) (h : PageHolder) (s : State) : (correctedLine line h s).kiln = s.kiln :=
  kiln_of_kept (correctedLine_kept line h) rfl
@[simp] theorem uncorrectableLine_kiln (line : Nat) (h : PageHolder) (s : State) :
    (uncorrectableLine line h s).kiln = s.kiln := kiln_of_kept (uncorrectableLine_kept line h) rfl

/-! ### The medium, and the states of cartridge and transport -/

@[simp] theorem writeStateBlock_kiln (f : StateBlock → StateBlock) (s : State) : (writeStateBlock f s).kiln = s.kiln :=
  kiln_of_kept (writeStateBlock_kept f) rfl
@[simp] theorem modCut_kiln (serial : Nat) (f : Cut → Cut) (s : State) : (modCut serial f s).kiln = s.kiln :=
  kiln_of_kept (modCut_kept serial f) rfl
@[simp] theorem enterCart_kiln (st : CartState) (s : State) : (enterCart st s).kiln = s.kiln :=
  kiln_of_kept (enterCart_kept st) rfl
@[simp] theorem enterXport_kiln (st : XportState) (s : State) : (enterXport st s).kiln = s.kiln :=
  kiln_of_kept (enterXport_kept st) rfl
@[simp] theorem followCart_kiln (s : State) : (followCart s).kiln = s.kiln := kiln_of_kept followCart_kept rfl
@[simp] theorem startUnloading_kiln (push : Bool) (s : State) : (startUnloading push s).kiln = s.kiln :=
  kiln_of_kept (startUnloading_kept push) rfl
@[simp] theorem startFormat_kiln (resume : Bool) (s : State) : (startFormat resume s).kiln = s.kiln :=
  kiln_of_kept (startFormat_kept resume) rfl

/-! ### Protocol errors and power states -/

@[simp] theorem leaveP2_kiln (s : State) : (leaveP2 s).kiln = s.kiln := kiln_of_kept leaveP2_kept rfl
@[simp] theorem protocolError_kiln (p : PortId) (type cause : Nat) (s : State) :
    (protocolError p type cause s).kiln = s.kiln := kiln_of_kept (protocolError_kept p type cause) rfl
@[simp] theorem setPowerState_kiln (now toward : Nat) (s : State) : (setPowerState now toward s).kiln = s.kiln :=
  kiln_of_kept (setPowerState_kept now toward) rfl
@[simp] theorem pollPower_kiln (s : State) : (pollPower s).kiln = s.kiln := kiln_of_kept pollPower_kept rfl

/-! ### Slots of commands -/

@[simp] theorem modSlot_kiln (d : Dom) (no : Nat) (f : Slot → Slot) (s : State) : (modSlot d no f s).kiln = s.kiln :=
  kiln_of_kept (modSlot_kept d no f) rfl
@[simp] theorem completeSlot_kiln (d : Dom) (no status detail count value flags : Nat) (s : State) :
    (completeSlot d no status detail count value flags s).kiln = s.kiln :=
  kiln_of_kept (completeSlot_kept d no status detail count value flags) rfl
@[simp] theorem drawWrite_kiln (d : Dom) (n : Nat) (s : State) : (drawWrite d n s).kiln = s.kiln :=
  kiln_of_kept (drawWrite_kept d n) rfl
@[simp] theorem commitSlot_kiln (d : Dom) (no : Nat) (s : State) : (commitSlot d no s).kiln = s.kiln :=
  kiln_of_kept (commitSlot_kept d no) rfl
@[simp] theorem sendData_kiln (h : CmdHead) (bytes : List Byte) (s : State) : (sendData h bytes s).kiln = s.kiln :=
  kiln_of_kept (sendData_kept h bytes) rfl
@[simp] theorem servePort_kiln (p : PortId) (s : State) : (servePort p s).kiln = s.kiln :=
  kiln_of_kept (servePort_kept p) rfl
@[simp] theorem runRead_kiln (d : Dom) (no : Nat) (s : State) : (runRead d no s).kiln = s.kiln :=
  kiln_of_kept (runRead_kept d no) rfl
@[simp] theorem runTrim_kiln (d : Dom) (no : Nat) (s : State) : (runTrim d no s).kiln = s.kiln :=
  kiln_of_kept (runTrim_kept d no) rfl
@[simp] theorem enterDom_kiln (d : Dom) (st : DomState) (s : State) : (enterDom d st s).kiln = s.kiln :=
  kiln_of_kept (enterDom_kept d st) rfl
@[simp] theorem setOnline_kiln (d : Dom) (b : Bool) (s : State) : (setOnline d b s).kiln = s.kiln :=
  kiln_of_kept (setOnline_kept d b) rfl
@[simp] theorem loseCartridge_kiln (status : Nat) (s : State) : (loseCartridge status s).kiln = s.kiln :=
  kiln_of_kept (loseCartridge_kept status) rfl
@[simp] theorem wakeCartridge_kiln (s : State) : (wakeCartridge s).kiln = s.kiln := kiln_of_kept wakeCartridge_kept rfl
@[simp] theorem faultCartridge_kiln (s : State) : (faultCartridge s).kiln = s.kiln := kiln_of_kept faultCartridge_kept rfl

/-! ### Host commands -/

@[simp] theorem stopTest_kiln (result step : Nat) (s : State) : (stopTest result step s).kiln = s.kiln :=
  kiln_of_kept (stopTest_kept result step) rfl
@[simp] theorem yieldTest_kiln (needs : List Nat) (s : State) : (yieldTest needs s).kiln = s.kiln :=
  kiln_of_kept (yieldTest_kept needs) rfl
@[simp] theorem dropAnswer_kiln (x : Slot) (s : State) : (dropAnswer x s).kiln = s.kiln :=
  kiln_of_kept (dropAnswer_kept x) rfl
@[simp] theorem runSelfTest_kiln (d : Dom) (x : Slot) (s : State) : (runSelfTest d x s).kiln = s.kiln :=
  kiln_of_kept (runSelfTest_kept d x) rfl
@[simp] theorem runPage_kiln (d : Dom) (x : Slot) (s : State) : (runPage d x s).kiln = s.kiln :=
  kiln_of_kept (runPage_kept d x) rfl
@[simp] theorem runSetPower_kiln (d : Dom) (x : Slot) (s : State) : (runSetPower d x s).kiln = s.kiln :=
  kiln_of_kept (runSetPower_kept d x) rfl
@[simp] theorem runLoad_kiln (d : Dom) (x : Slot) (s : State) : (runLoad d x s).kiln = s.kiln :=
  kiln_of_kept (runLoad_kept d x) rfl
@[simp] theorem grantRoom_kiln (x0 : Nat) (x1 : Dom) (s : State) : (grantRoom x0 x1 s).kiln = s.kiln :=
  kiln_of_kept (grantRoom_kept x0 x1) rfl
@[simp] theorem closeTag_kiln (d : Dom) (p : PortId) (tag : Nat) (s : State) : (closeTag d p tag s).kiln = s.kiln :=
  kiln_of_kept (closeTag_kept d p tag) rfl
@[simp] theorem useSpares_kiln (n : Nat) (s : State) :
    (useSpares n s).kiln = s.kiln := kiln_of_kept (useSpares_kept n) rfl
@[simp] theorem closeAtCutOff_kiln (s : State) : (closeAtCutOff s).kiln = s.kiln := kiln_of_kept closeAtCutOff_kept rfl
@[simp] theorem noteUntaped_kiln (s : State) : (noteUntaped s).kiln = s.kiln := kiln_of_kept noteUntaped_kept rfl
@[simp] theorem returnCmd_kiln (h : CmdHead) (s : State) : (returnCmd h s).kiln = s.kiln :=
  kiln_of_kept (returnCmd_kept h) rfl
@[simp] theorem refuseCmd_kiln (c : HostCmd) (status detail : Nat) (s : State) :
    (refuseCmd c status detail s).kiln = s.kiln := kiln_of_kept (refuseCmd_kept c status detail) rfl
@[simp] theorem passTest_kiln (r : SelfTestRun) (s : State) : (passTest r s).kiln = s.kiln :=
  kiln_of_kept (passTest_kept r) rfl

/-! ### Loops and samples -/

@[simp] theorem modLoop_kiln (n : SlotNo) (f : LoopRt → LoopRt) (s : State) : (modLoop n f s).kiln = s.kiln :=
  kiln_of_kept (modLoop_kept n f) rfl
@[simp] theorem takeSamples_kiln (x : PeriodInputs) (s : State) : (takeSamples x s).kiln = s.kiln :=
  kiln_of_kept (takeSamples_kept x) rfl
@[simp] theorem modEnc_kiln (r : Reel) (f : EncoderRt → EncoderRt) (s : State) : (modEnc r f s).kiln = s.kiln :=
  kiln_of_kept (modEnc_kept r f) rfl
@[simp] theorem advanceLpos_kiln (cycles : Nat) (s : State) : (advanceLpos cycles s).kiln = s.kiln :=
  kiln_of_kept (advanceLpos_kept cycles) rfl
@[simp] theorem latchEncoders_kiln (s : State) : (latchEncoders s).kiln = s.kiln := kiln_of_kept latchEncoders_kept rfl
@[simp] theorem meterPeriod_kiln (s : State) : (meterPeriod s).kiln = s.kiln := kiln_of_kept meterPeriod_kept rfl
@[simp] theorem showLoop_kiln (n : SlotNo) (s : State) :
    (showLoop n s).kiln = s.kiln := kiln_of_kept (showLoop_kept n) rfl
@[simp] theorem runRamps_kiln (s : State) : (runRamps s).kiln = s.kiln := kiln_of_kept runRamps_kept rfl
@[simp] theorem valley_kiln (s : State) : (valley s).kiln = s.kiln := kiln_of_kept valley_kept rfl
@[simp] theorem runCapture_kiln (s : State) : (runCapture s).kiln = s.kiln := kiln_of_kept runCapture_kept rfl
@[simp] theorem showCapture_kiln (s : State) : (showCapture s).kiln = s.kiln := kiln_of_kept showCapture_kept rfl

/-! ### Tape work -/

@[simp] theorem startLocate_kiln (lpos wrap : Nat) (s : State) : (startLocate lpos wrap s).kiln = s.kiln :=
  kiln_of_kept (startLocate_kept lpos wrap) rfl
@[simp] theorem stopTape_kiln (s : State) : (stopTape s).kiln = s.kiln := kiln_of_kept stopTape_kept rfl
@[simp] theorem modReaders_kiln (serial : Nat) (f : Slot → Slot) (s : State) : (modReaders serial f s).kiln = s.kiln :=
  kiln_of_kept (modReaders_kept serial f) rfl
@[simp] theorem startExcursion_kiln (cls serial : Nat) (s : State) : (startExcursion cls serial s).kiln = s.kiln :=
  kiln_of_kept (startExcursion_kept cls serial) rfl
@[simp] theorem startReads_kiln (s : State) : (startReads s).kiln = s.kiln := kiln_of_kept startReads_kept rfl

/-! ### Transport -/

@[simp] theorem dropOpenCut_kiln (s : State) : (dropOpenCut s).kiln = s.kiln := kiln_of_kept dropOpenCut_kept rfl
@[simp] theorem shortBridges_kiln (s : State) : (shortBridges s).kiln = s.kiln := kiln_of_kept shortBridges_kept rfl
@[simp] theorem holdupFault_kiln (n : Nat) (s : State) : (holdupFault n s).kiln = s.kiln :=
  kiln_of_kept (holdupFault_kept n) rfl
@[simp] theorem judgeSpeed_kiln (s : State) : (judgeSpeed s).kiln = s.kiln := kiln_of_kept judgeSpeed_kept rfl
@[simp] theorem takeServo_kiln (x : PeriodInputs) (s : State) : (takeServo x s).kiln = s.kiln :=
  kiln_of_kept (takeServo_kept x) rfl
@[simp] theorem reqClearFault_kiln (w : Writer) (gen : Half) (s : State) : (reqClearFault w gen s).kiln = s.kiln :=
  kiln_of_kept (reqClearFault_kept w gen) rfl
@[simp] theorem reqEnterTest_kiln (w : Writer) (gen : Half) (s : State) : (reqEnterTest w gen s).kiln = s.kiln :=
  kiln_of_kept (reqEnterTest_kept w gen) rfl
@[simp] theorem reqEndTest_kiln (w : Writer) (gen : Half) (s : State) : (reqEndTest w gen s).kiln = s.kiln :=
  kiln_of_kept (reqEndTest_kept w gen) rfl
@[simp] theorem runAlign_kiln (s : State) : (runAlign s).kiln = s.kiln := kiln_of_kept runAlign_kept rfl
@[simp] theorem runSlots_kiln (s : State) : (runSlots s).kiln = s.kiln := kiln_of_kept runSlots_kept rfl
@[simp] theorem settleMotion_kiln (s : State) : (settleMotion s).kiln = s.kiln := kiln_of_kept settleMotion_kept rfl
@[simp] theorem refillTokens_kiln (s : State) : (refillTokens s).kiln = s.kiln := kiln_of_kept refillTokens_kept rfl

/-! ### The operation log and resets -/

@[simp] theorem stepOp_kiln (kind step param : Nat) (s : State) : (stepOp kind step param s).kiln = s.kiln :=
  kiln_of_kept (stepOp_kept kind step param) rfl
@[simp] theorem endOp_kiln (kind : Nat) (s : State) : (endOp kind s).kiln = s.kiln := kiln_of_kept (endOp_kept kind) rfl
@[simp] theorem requestReset_kiln (cause : Nat) (s : State) : (requestReset cause s).kiln = s.kiln :=
  kiln_of_kept (requestReset_kept cause) rfl
@[simp] theorem lastRecovery_kiln (unit outcome us : Nat) (s : State) : (lastRecovery unit outcome us s).kiln = s.kiln :=
  kiln_of_kept (lastRecovery_kept unit outcome us) rfl
@[simp] theorem escalate_kiln (unit : Nat) (s : State) : (escalate unit s).kiln = s.kiln :=
  kiln_of_kept (escalate_kept unit) rfl

/-! ### Lines lost -/

@[simp] theorem startRebuild_kiln (s : State) : (startRebuild s).kiln = s.kiln := kiln_of_kept startRebuild_kept rfl
@[simp] theorem failServicePage_kiln (s : State) :
    (failServicePage s).kiln = s.kiln := kiln_of_kept failServicePage_kept rfl

/-! ### Compression -/

@[simp] theorem blockDone_kiln (sel : CompBlock → Bool) (new : Block) (s : State) : (blockDone sel new s).kiln = s.kiln :=
  kiln_of_kept (blockDone_kept sel new) rfl
@[simp] theorem uncache_kiln (d : Dom) (n : Nat) (s : State) : (uncache d n s).kiln = s.kiln :=
  kiln_of_kept (uncache_kept d n) rfl
@[simp] theorem repage_kiln (d : Dom) (v : Nat) (groups : List Nat) (s : State) : (repage d v groups s).kiln = s.kiln :=
  kiln_of_kept (repage_kept d v groups) rfl
@[simp] theorem startBlock_kiln (s : State) : (startBlock s).kiln = s.kiln := kiln_of_kept startBlock_kept rfl
@[simp] theorem countCheckFailure_kiln (n : Fin 2) (s : State) : (countCheckFailure n s).kiln = s.kiln :=
  kiln_of_kept (countCheckFailure_kept n) rfl

/-! ### Cuts -/

@[simp] theorem modChain_kiln (c : Chain) (f : ChainPos → ChainPos) (s : State) : (modChain c f s).kiln = s.kiln :=
  kiln_of_kept (modChain_kept c f) rfl
@[simp] theorem flushWear_kiln (unload : Bool) (s : State) : (flushWear unload s).kiln = s.kiln :=
  kiln_of_kept (flushWear_kept unload) rfl
@[simp] theorem flushZones_kiln (s : State) : (flushZones s).kiln = s.kiln := kiln_of_kept flushZones_kept rfl
@[simp] theorem updateMemory_kiln (f : StateBlock → StateBlock) (s : State) : (updateMemory f s).kiln = s.kiln :=
  kiln_of_kept (updateMemory_kept f) rfl
@[simp] theorem addCharge_kiln (serial n : Nat) (s : State) : (addCharge serial n s).kiln = s.kiln :=
  kiln_of_kept (addCharge_kept serial n) rfl
@[simp] theorem refreshTape_kiln (s : State) : (refreshTape s).kiln = s.kiln := kiln_of_kept refreshTape_kept rfl
@[simp] theorem openArea_kiln (c : Chain) (w : Nat) (s : State) : (openArea c w s).kiln = s.kiln :=
  kiln_of_kept (openArea_kept c w) rfl
@[simp] theorem blankEnd_kiln (c : Chain) (s : State) : (blankEnd c s).kiln = s.kiln := kiln_of_kept (blankEnd_kept c) rfl
@[simp] theorem startCut_kiln (c : Chain) (f : Cut → Cut) (source : List CompBlock) (s : State) :
    (startCut c f source s).kiln = s.kiln := kiln_of_kept (startCut_kept c f source) rfl
@[simp] theorem closeForCut_kiln (s : State) : (closeForCut s).kiln = s.kiln := kiln_of_kept closeForCut_kept rfl
@[simp] theorem buildDomainCut_kiln (d : Dom) (s : State) : (buildDomainCut d s).kiln = s.kiln :=
  kiln_of_kept (buildDomainCut_kept d) rfl
@[simp] theorem noteRecent_kiln (abandoned : Bool) (s : State) : (noteRecent abandoned s).kiln = s.kiln :=
  kiln_of_kept (noteRecent_kept abandoned) rfl
@[simp] theorem logRewrite_kiln (o : OpenCut) (outcome forced : Nat) (s : State) :
    (logRewrite o outcome forced s).kiln = s.kiln := kiln_of_kept (logRewrite_kept o outcome forced) rfl
@[simp] theorem showAbandons_kiln (c : Chain) (s : State) : (showAbandons c s).kiln = s.kiln :=
  kiln_of_kept (showAbandons_kept c) rfl
@[simp] theorem layDown_kiln (cut : Cut) (s : State) :
    (layDown cut s).kiln = s.kiln := kiln_of_kept (layDown_kept cut) rfl
@[simp] theorem buildMapCut_kiln (s : State) : (buildMapCut s).kiln = s.kiln := kiln_of_kept buildMapCut_kept rfl
@[simp] theorem buildReallocCut_kiln (r : Realloc) (s : State) : (buildReallocCut r s).kiln = s.kiln :=
  kiln_of_kept (buildReallocCut_kept r) rfl
@[simp] theorem startGeneration_kiln (s : State) :
    (startGeneration s).kiln = s.kiln := kiln_of_kept startGeneration_kept rfl
@[simp] theorem buildBedrockCut_kiln (s : State) :
    (buildBedrockCut s).kiln = s.kiln := kiln_of_kept buildBedrockCut_kept rfl
@[simp] theorem reclaimCheck_kiln (s : State) : (reclaimCheck s).kiln = s.kiln := kiln_of_kept reclaimCheck_kept rfl
@[simp] theorem buildReclaimCut_kiln (s : State) :
    (buildReclaimCut s).kiln = s.kiln := kiln_of_kept buildReclaimCut_kept rfl

/-! ### Pins and domains -/

@[simp] theorem applyPinConfig_kiln (q v : Nat) (s : State) : (applyPinConfig q v s).kiln = s.kiln :=
  kiln_of_kept (applyPinConfig_kept q v) rfl
@[simp] theorem retargetLine_kiln (n : Fin 8) (s : State) : (retargetLine n s).kiln = s.kiln :=
  kiln_of_kept (retargetLine_kept n) rfl
@[simp] theorem restartLine_kiln (n : Fin 8) (s : State) : (restartLine n s).kiln = s.kiln :=
  kiln_of_kept (restartLine_kept n) rfl
@[simp] theorem filterLines_kiln (s : State) : (filterLines s).kiln = s.kiln := kiln_of_kept filterLines_kept rfl
@[simp] theorem resetDomainPins_kiln (d : Dom) (s : State) : (resetDomainPins d s).kiln = s.kiln :=
  kiln_of_kept (resetDomainPins_kept d) rfl
@[simp] theorem reqConfigure_kiln (d : Dom) (w : Writer) (gen : Half) (s : State) :
    (reqConfigure d w gen s).kiln = s.kiln := kiln_of_kept (reqConfigure_kept d w gen) rfl
@[simp] theorem reqGoOnline_kiln (d : Dom) (w : Writer) (gen : Half) (s : State) :
    (reqGoOnline d w gen s).kiln = s.kiln := kiln_of_kept (reqGoOnline_kept d w gen) rfl
@[simp] theorem reqGoOffline_kiln (d : Dom) (w : Writer) (gen : Half) (s : State) :
    (reqGoOffline d w gen s).kiln = s.kiln := kiln_of_kept (reqGoOffline_kept d w gen) rfl
@[simp] theorem reqUnconfigure_kiln (d : Dom) (w : Writer) (gen : Half) (s : State) :
    (reqUnconfigure d w gen s).kiln = s.kiln := kiln_of_kept (reqUnconfigure_kept d w gen) rfl
@[simp] theorem checkBoot_kiln (d : Dom) (s : State) :
    (checkBoot d s).kiln = s.kiln := kiln_of_kept (checkBoot_kept d) rfl

/-! ### The cartridge -/

@[simp] theorem cartRequest_kiln (a : CartAction) (w : Writer) (gen : Half) (s : State) :
    (cartRequest a w gen s).kiln = s.kiln := kiln_of_kept (cartRequest_kept a w gen) rfl
@[simp] theorem loadZones_kiln (s : State) : (loadZones s).kiln = s.kiln := kiln_of_kept loadZones_kept rfl
@[simp] theorem loadWear_kiln (s : State) : (loadWear s).kiln = s.kiln := kiln_of_kept loadWear_kept rfl
@[simp] theorem showCartridge_kiln (s : State) : (showCartridge s).kiln = s.kiln := kiln_of_kept showCartridge_kept rfl
@[simp] theorem hideCartridge_kiln (s : State) : (hideCartridge s).kiln = s.kiln := kiln_of_kept hideCartridge_kept rfl
@[simp] theorem afterThreading_kiln (s : State) : (afterThreading s).kiln = s.kiln := kiln_of_kept afterThreading_kept rfl
@[simp] theorem readTapeEnd_kiln (s : State) : (readTapeEnd s).kiln = s.kiln := kiln_of_kept readTapeEnd_kept rfl
@[simp] theorem passOpen_kiln (s : State) : (passOpen s).kiln = s.kiln := kiln_of_kept passOpen_kept rfl
@[simp] theorem scheduleRing_kiln (s : State) : (scheduleRing s).kiln = s.kiln := kiln_of_kept scheduleRing_kept rfl
@[simp] theorem meetLogs_kiln (s : State) : (meetLogs s).kiln = s.kiln := kiln_of_kept meetLogs_kept rfl
@[simp] theorem rollBack_kiln (kind : Nat) (s : State) : (rollBack kind s).kiln = s.kiln :=
  kiln_of_kept (rollBack_kept kind) rfl
@[simp] theorem meetOps_kiln (s : State) : (meetOps s).kiln = s.kiln := kiln_of_kept meetOps_kept rfl
@[simp] theorem meetIndex_kiln (s : State) : (meetIndex s).kiln = s.kiln := kiln_of_kept meetIndex_kept rfl
@[simp] theorem indexRead_kiln (serial : Nat) (s : State) : (indexRead serial s).kiln = s.kiln :=
  kiln_of_kept (indexRead_kept serial) rfl
@[simp] theorem dropTapeWork_kiln (s : State) : (dropTapeWork s).kiln = s.kiln := kiln_of_kept dropTapeWork_kept rfl
@[simp] theorem formatCut_kiln (kind : CutKind) (c : Chain) (w start : Nat) (last : Bool) (s : State) :
    (formatCut kind c w start last s).kiln = s.kiln := kiln_of_kept (formatCut_kept kind c w start last) rfl
@[simp] theorem writeCalibration_kiln (s : State) : (writeCalibration s).kiln = s.kiln :=
  kiln_of_kept writeCalibration_kept rfl
@[simp] theorem writeEmptyZone_kiln (z : Fin 2) (s : State) : (writeEmptyZone z s).kiln = s.kiln :=
  kiln_of_kept (writeEmptyZone_kept z) rfl
@[simp] theorem restartChains_kiln (s : State) : (restartChains s).kiln = s.kiln := kiln_of_kept restartChains_kept rfl
@[simp] theorem emptyContent_kiln (s : State) : (emptyContent s).kiln = s.kiln := kiln_of_kept emptyContent_kept rfl

/-! ### Object writes and images -/

@[simp] theorem activate_kiln (s : State) : (activate s).kiln = s.kiln := kiln_of_kept activate_kept rfl
@[simp] theorem writeControl_kiln (n : SlotNo) (v : Nat) (s : State) : (writeControl n v s).kiln = s.kiln :=
  kiln_of_kept (writeControl_kept n v) rfl
@[simp] theorem captureControl_kiln (v : Nat) (s : State) : (captureControl v s).kiln = s.kiln :=
  kiln_of_kept (captureControl_kept v) rfl
@[simp] theorem clearHoldup_kiln (s : State) : (clearHoldup s).kiln = s.kiln := kiln_of_kept clearHoldup_kept rfl
@[simp] theorem commitPush_kiln (w : Writer) (v : Nat) (s : State) : (commitPush w v s).kiln = s.kiln :=
  kiln_of_kept (commitPush_kept w v) rfl
@[simp] theorem writePush_kiln (w : Writer) (bytes : List Byte) (s : State) : (writePush w bytes s).kiln = s.kiln :=
  kiln_of_kept (writePush_kept w bytes) rfl
@[simp] theorem sendRegd_kiln (p : PortId) (d : Dom) (addr : Word) (reqId : Byte) (status word : Nat) (s : State) :
    (sendRegd p d addr reqId status word s).kiln = s.kiln := kiln_of_kept (sendRegd_kept p d addr reqId status word) rfl
@[simp] theorem refuseWindow_kiln (p : PortId) (d : Dom) (addr : Word) (reqId : Byte) (i sub : Nat) (r : Reason)
    (word : Nat) (s : State) : (refuseWindow p d addr reqId i sub r word s).kiln = s.kiln :=
  kiln_of_kept (refuseWindow_kept p d addr reqId i sub r word) rfl
@[simp] theorem putSdo_kiln (x : Option SdoTransfer) (r : MailboxReply) (s : State) : (putSdo x r s).kiln = s.kiln :=
  kiln_of_kept (putSdo_kept x r) rfl
@[simp] theorem closeSdo_kiln (s : State) : (closeSdo s).kiln = s.kiln := kiln_of_kept closeSdo_kept rfl
@[simp] theorem dropSdo_kiln (code : Nat) (s : State) : (dropSdo code s).kiln = s.kiln :=
  kiln_of_kept (dropSdo_kept code) rfl
@[simp] theorem mgmtReply_kiln (p : PortId) (d : Dom) (op : Nat) (m : MgmtReq) (r : Option Reason) (total : Nat)
    (bytes : List Byte) (s : State) : (mgmtReply p d op m r total bytes s).kiln = s.kiln :=
  kiln_of_kept (mgmtReply_kept p d op m r total bytes) rfl
@[simp] theorem mgmtRefuse_kiln (p : PortId) (d : Dom) (op : Nat) (m : MgmtReq) (r : Reason) (s : State) :
    (mgmtRefuse p d op m r s).kiln = s.kiln := kiln_of_kept (mgmtRefuse_kept p d op m r) rfl
@[simp] theorem closeTransfer_kiln (p : PortId) (s : State) : (closeTransfer p s).kiln = s.kiln :=
  kiln_of_kept (closeTransfer_kept p) rfl

/-! ### Lanes and requests to ports -/

@[simp] theorem silence_kiln (p : PortId) (s : State) : (silence p s).kiln = s.kiln := kiln_of_kept (silence_kept p) rfl
@[simp] theorem reqEnable_kiln (p : PortId) (w : Writer) (gen : Half) (s : State) : (reqEnable p w gen s).kiln = s.kiln :=
  kiln_of_kept (reqEnable_kept p w gen) rfl
@[simp] theorem reqDisable_kiln (p : PortId) (w : Writer) (gen : Half) (s : State) :
    (reqDisable p w gen s).kiln = s.kiln := kiln_of_kept (reqDisable_kept p w gen) rfl
@[simp] theorem reqRetrain_kiln (p : PortId) (w : Writer) (gen : Half) (s : State) :
    (reqRetrain p w gen s).kiln = s.kiln := kiln_of_kept (reqRetrain_kept p w gen) rfl
@[simp] theorem reqEnterIdle_kiln (p : PortId) (w : Writer) (gen : Half) (s : State) :
    (reqEnterIdle p w gen s).kiln = s.kiln := kiln_of_kept (reqEnterIdle_kept p w gen) rfl
@[simp] theorem reqLoopbackNes_kiln (p : PortId) (w : Writer) (gen : Half) (s : State) :
    (reqLoopbackNes p w gen s).kiln = s.kiln := kiln_of_kept (reqLoopbackNes_kept p w gen) rfl
@[simp] theorem reqLoopbackNep_kiln (p : PortId) (w : Writer) (gen : Half) (s : State) :
    (reqLoopbackNep p w gen s).kiln = s.kiln := kiln_of_kept (reqLoopbackNep_kept p w gen) rfl
@[simp] theorem reqLoopbackFe_kiln (p : PortId) (w : Writer) (gen : Half) (s : State) :
    (reqLoopbackFe p w gen s).kiln = s.kiln := kiln_of_kept (reqLoopbackFe_kept p w gen) rfl
@[simp] theorem reqEndLoopback_kiln (p : PortId) (w : Writer) (gen : Half) (s : State) :
    (reqEndLoopback p w gen s).kiln = s.kiln := kiln_of_kept (reqEndLoopback_kept p w gen) rfl

/-! ### Main side of the bridge, field network and link frames -/

@[simp] theorem meterTaken_kiln (source sourceId tag : Nat) (s : State) :
    (meterTaken source sourceId tag s).kiln = s.kiln := kiln_of_kept (meterTaken_kept source sourceId tag) rfl
@[simp] theorem finishMeter_kiln (d : Dom) (tag : Nat) (seq : Option Nat) (detail : Nat) (s : State) :
    (finishMeter d tag seq detail s).kiln = s.kiln := kiln_of_kept (finishMeter_kept d tag seq detail) rfl
@[simp] theorem finishStage_kiln (w : Writer) (sub code : Nat) (s : State) : (finishStage w sub code s).kiln = s.kiln :=
  kiln_of_kept (finishStage_kept w sub code) rfl
@[simp] theorem withdrawMsg_kiln (m : BridgeMsg) (s : State) : (withdrawMsg m s).kiln = s.kiln :=
  kiln_of_kept (withdrawMsg_kept m) rfl
@[simp] theorem enterAl_kiln (a : AlState) (s : State) : (enterAl a s).kiln = s.kiln := kiln_of_kept (enterAl_kept a) rfl
@[simp] theorem alError_kiln (code : Nat) (s : State) : (alError code s).kiln = s.kiln :=
  kiln_of_kept (alError_kept code) rfl
@[simp] theorem messageLeft_kiln (m : TxMsg) (s : State) : (messageLeft m s).kiln = s.kiln :=
  kiln_of_kept (messageLeft_kept m) rfl
@[simp] theorem sendStomped_kiln (p : PortId) (r : FrameRoute) (msgs : List RxMsg) (s : State) :
    (sendStomped p r msgs s).kiln = s.kiln := kiln_of_kept (sendStomped_kept p r msgs) rfl
@[simp] theorem putFrame_kiln (p : PortId) (s : State) :
    (putFrame p s).kiln = s.kiln := kiln_of_kept (putFrame_kept p) rfl

/-! ### The start, and the exit of P2 -/

@[simp] theorem takeStraps_kiln (env : StartEnv) (s : State) : (takeStraps env s).kiln = s.kiln :=
  kiln_of_kept (takeStraps_kept env) rfl
@[simp] theorem initDram_kiln (env : StartEnv) (s : State) : (initDram env s).kiln = s.kiln :=
  kiln_of_kept (initDram_kept env) rfl
@[simp] theorem loadImage_kiln (env : StartEnv) (s : State) : (loadImage env s).kiln = s.kiln :=
  kiln_of_kept (loadImage_kept env) rfl
@[simp] theorem readJournal_kiln (s : State) : (readJournal s).kiln = s.kiln := kiln_of_kept readJournal_kept rfl
@[simp] theorem xportExit_kiln (s : State) : (xportExit s).kiln = s.kiln := kiln_of_kept xportExit_kept rfl

/-! ### Bursts -/

@[simp] theorem runAtStep_kiln (s : State) : (runAtStep s).kiln = s.kiln := kiln_of_kept runAtStep_kept rfl
@[simp] theorem setStep_kiln (n : Nat) (s : State) : (setStep n s).kiln = s.kiln := kiln_of_kept (setStep_kept n) rfl
@[simp] theorem endBurst_kiln (s : State) : (endBurst s).kiln = s.kiln := kiln_of_kept endBurst_kept rfl
@[simp] theorem boundaryIdle_kiln (s : State) : (boundaryIdle s).kiln = s.kiln := kiln_of_kept boundaryIdle_kept rfl

/-! ### Writing -/

@[simp] theorem lockClock_kiln (s : State) : (lockClock s).kiln = s.kiln := kiln_of_kept lockClock_kept rfl
@[simp] theorem passFrame_kiln (fs : Nat) (s : State) : (passFrame fs s).kiln = s.kiln :=
  kiln_of_kept (passFrame_kept fs) rfl
@[simp] theorem rewriteFrame_kiln (fs miss window : Nat) (s : State) : (rewriteFrame fs miss window s).kiln = s.kiln :=
  kiln_of_kept (rewriteFrame_kept fs miss window) rfl
@[simp] theorem refuseArea_kiln (c : Chain) (s : State) : (refuseArea c s).kiln = s.kiln :=
  kiln_of_kept (refuseArea_kept c) rfl
@[simp] theorem countKiln_kiln (f : StateBlock → StateBlock) (s : State) : (countKiln f s).kiln = s.kiln :=
  kiln_of_kept (countKiln_kept f) rfl
@[simp] theorem countData_kiln (s : State) : (countData s).kiln = s.kiln := kiln_of_kept countData_kept rfl
@[simp] theorem startReplacement_kiln (o : OpenCut) (s : State) : (startReplacement o s).kiln = s.kiln :=
  kiln_of_kept (startReplacement_kept o) rfl
@[simp] theorem finishCopy_kiln (cut : Cut) (s : State) : (finishCopy cut s).kiln = s.kiln :=
  kiln_of_kept (finishCopy_kept cut) rfl
@[simp] theorem afterData_kiln (cut : Cut) (d : Dom) (s : State) : (afterData cut d s).kiln = s.kiln :=
  kiln_of_kept (afterData_kept cut d) rfl
@[simp] theorem afterBedrock_kiln (cut : Cut) (z : Fin 2) (s : State) : (afterBedrock cut z s).kiln = s.kiln :=
  kiln_of_kept (afterBedrock_kept cut z) rfl
@[simp] theorem afterMap_kiln (cut : Cut) (s : State) : (afterMap cut s).kiln = s.kiln :=
  kiln_of_kept (afterMap_kept cut) rfl
@[simp] theorem payOwed_kiln (k : CutKind) (s : State) : (payOwed k s).kiln = s.kiln := kiln_of_kept (payOwed_kept k) rfl

/-! ### Reading -/

@[simp] theorem modServo_kiln (f : Servo → Servo) (s : State) : (modServo f s).kiln = s.kiln :=
  kiln_of_kept (modServo_kept f) rfl
@[simp] theorem modBlockReaders_kiln (c : Cut) (b : Block) (f : Slot → Slot) (s : State) :
    (modBlockReaders c b f s).kiln = s.kiln := kiln_of_kept (modBlockReaders_kept c b f) rfl
@[simp] theorem reallocate_kiln (c : Cut) (s : State) : (reallocate c s).kiln = s.kiln :=
  kiln_of_kept (reallocate_kept c) rfl
@[simp] theorem dailiesDone_kiln (serial : Nat) (s : State) : (dailiesDone serial s).kiln = s.kiln :=
  kiln_of_kept (dailiesDone_kept serial) rfl
@[simp] theorem ownRead_kiln (c : Cut) (seed : Nat) (wrong : List (Nat × Nat × Nat × Byte)) (s : State) :
    (ownRead c seed wrong s).kiln = s.kiln := kiln_of_kept (ownRead_kept c seed wrong) rfl
@[simp] theorem nextInExcursion_kiln (s : State) :
    (nextInExcursion s).kiln = s.kiln := kiln_of_kept nextInExcursion_kept rfl
@[simp] theorem countDecoding_kiln (y : Symbols) (s : State) : (countDecoding y s).kiln = s.kiln :=
  kiln_of_kept (countDecoding_kept y) rfl
@[simp] theorem enterLadder_kiln (serial : Nat) (y : Symbols) (s : State) : (enterLadder serial y s).kiln = s.kiln :=
  kiln_of_kept (enterLadder_kept serial y) rfl
@[simp] theorem weighRead_kiln (serial : Nat) (s : State) : (weighRead serial s).kiln = s.kiln :=
  kiln_of_kept (weighRead_kept serial) rfl
@[simp] theorem logLadder_kiln (l : Ladder) (c : Cut) (outcome : Nat) (s : State) :
    (logLadder l c outcome s).kiln = s.kiln := kiln_of_kept (logLadder_kept l c outcome) rfl
@[simp] theorem startReread_kiln (n : Nat) (s : State) : (startReread n s).kiln = s.kiln :=
  kiln_of_kept (startReread_kept n) rfl
@[simp] theorem startLastStep_kiln (s : State) : (startLastStep s).kiln = s.kiln := kiln_of_kept startLastStep_kept rfl
@[simp] theorem leaveLadder_kiln (s : State) : (leaveLadder s).kiln = s.kiln := kiln_of_kept leaveLadder_kept rfl
@[simp] theorem failSelfTestRead_kiln (l : Ladder) (s : State) : (failSelfTestRead l s).kiln = s.kiln :=
  kiln_of_kept (failSelfTestRead_kept l) rfl
@[simp] theorem rereadDone_kiln (c : Captured) (s : State) : (rereadDone c s).kiln = s.kiln :=
  kiln_of_kept (rereadDone_kept c) rfl

/-! ### Recovery of blocks -/

@[simp] theorem maskBlock_kiln (b : Nat) (s : State) :
    (maskBlock b s).kiln = s.kiln := kiln_of_kept (maskBlock_kept b) rfl
@[simp] theorem unmaskBlock_kiln (b : Nat) (s : State) : (unmaskBlock b s).kiln = s.kiln :=
  kiln_of_kept (unmaskBlock_kept b) rfl
@[simp] theorem resendReads_kiln (p : PortId) (s : State) : (resendReads p s).kiln = s.kiln :=
  kiln_of_kept (resendReads_kept p) rfl
@[simp] theorem revertPages_kiln (b : Nat) (pages : List Half) (s : State) : (revertPages b pages s).kiln = s.kiln :=
  kiln_of_kept (revertPages_kept b pages) rfl

end Sys2Proof.Machine
end

section
/-!
PROOFS. The event counter and the PARAM_CHANGED entries (R402): what each operation that may touch Kiln does to the two
numbers. All but the commit leave both as they are.
-/
namespace Sys2Proof.Machine

/-- The two numbers that R402 ties together: the event counter and the PARAM_CHANGED entries of the audit log. -/
def Kiln.tally (k : Kiln) : Nat × Nat := (k.eventCounter, (k.audit.filter (fun e => e.event == 2)).length)

theorem modKiln_tally {f : Kiln → Kiln} (hf : ∀ k, (f k).tally = k.tally) (s : State) :
    (modKiln f s).kiln.tally = s.kiln.tally := hf s.kiln

@[simp] theorem ite_tally {c : Prop} [Decidable c] (s t : State) :
    (if c then s else t).kiln.tally = if c then s.kiln.tally else t.kiln.tally := apply_ite (·.kiln.tally) c s t

@[simp] theorem foldl_tally {α : Type} {f : State → α → State} (hf : ∀ t a, (f t a).kiln.tally = t.kiln.tally)
    (l : List α) (s : State) : (l.foldl f s).kiln.tally = s.kiln.tally := by
  induction l generalizing s with
  | nil => rfl
  | cons a l ih => exact (ih (f s a)).trans (hf s a)

theorem live_tally {s t : State} (h : t.kiln.tally = s.kiln.tally) : (live s t).kiln.tally = s.kiln.tally := by
  simp [live, h]

theorem working_tally {b : Nat} {s t : State} (h : t.kiln.tally = s.kiln.tally) :
    (working b s t).kiln.tally = s.kiln.tally := by
  simp [working, live, h]

@[simp] theorem stateRequest_tally (w : Writer) (i action gen top : Nat) (legal within : Bool) {f : State → State}
    (hf : ∀ t, (f t).kiln.tally = t.kiln.tally) (s : State) :
    (stateRequest w i action gen top legal within f s).kiln.tally = s.kiln.tally := by
  unfold stateRequest
  split
  · simp
  · split <;> simp [hf]

@[simp] theorem arrive_tally (w : Writer) (i sub n : Nat) {f : State → State}
    (hf : ∀ t, (f t).kiln.tally = t.kiln.tally) (s : State) : (arrive w i sub n f s).kiln.tally = s.kiln.tally := by
  cases w with
  | sdo => simp [arrive, hf]
  | rxpdo => simp [arrive, hf]
  | regw p d r => simp [arrive, hf]
  | mgmt p d tid =>
    simp only [arrive]
    split
    · split
      · split <;> simp
      · simp [hf]
    · rfl

@[simp] theorem arriveValue_tally (w : Writer) (i sub : Nat) {f : State → State}
    (hf : ∀ t, (f t).kiln.tally = t.kiln.tally) (s : State) : (arriveValue w i sub f s).kiln.tally = s.kiln.tally :=
  arrive_tally w i sub _ hf s

@[simp] theorem withCap_tally {f : State → State} (hf : ∀ t, (f t).kiln.tally = t.kiln.tally) (s : State) :
    (withCap f s).kiln.tally = s.kiln.tally := by
  simp [withCap, hf]

/-! ### Commands in their queues -/

@[simp] theorem submitMeter_tally (d : Dom) (no : Nat) (s : State) :
    (submitMeter d no s).kiln.tally = s.kiln.tally := by
  unfold submitMeter
  split
  · rfl
  · split
    · simp
    · simp only [modSlot_kiln]; rfl

@[simp] theorem dropSubmits_tally (d : Dom) (gone : Nat → Bool) (s : State) :
    (dropSubmits d gone s).kiln.tally = s.kiln.tally := rfl

@[simp] theorem advance_tally (d : Dom) (no : Nat) (s : State) : (advance d no s).kiln.tally = s.kiln.tally := by
  unfold advance
  repeat' split
  all_goals simp

@[simp] theorem progress_tally (d : Dom) (s : State) : (progress d s).kiln.tally = s.kiln.tally := by simp [progress]

@[simp] theorem progressAll_tally (s : State) : (progressAll s).kiln.tally = s.kiln.tally := by simp [progressAll]

@[simp] theorem abortSlot_tally (d : Dom) (x : Slot) (s : State) : (abortSlot d x s).kiln.tally = s.kiln.tally := by
  simp [abortSlot]

@[simp] theorem runAbort_tally (d : Dom) (x : Slot) (s : State) : (runAbort d x s).kiln.tally = s.kiln.tally := by
  simp [runAbort]

@[simp] theorem startSlot_tally (d : Dom) (no : Nat) (s : State) : (startSlot d no s).kiln.tally = s.kiln.tally := by
  unfold startSlot
  split <;> simp

@[simp] theorem retryHeld_tally (d : Dom) (held : List Nat) (s : State) :
    (retryHeld d held s).kiln.tally = s.kiln.tally := by
  induction held generalizing s with
  | nil => rfl
  | cons no rest ih =>
    unfold retryHeld
    split
    · rfl
    · rw [ih]
      split
      · rfl
      · split <;> simp

@[simp] theorem runResume_tally (d : Dom) (x : Slot) (s : State) : (runResume d x s).kiln.tally = s.kiln.tally := by
  simp [runResume]

@[simp] theorem takeData_tally (x : Slot) (off : Nat) (bytes : List Byte) (last : Bool) (s : State) :
    (takeData x off bytes last s).kiln.tally = s.kiln.tally := by simp [takeData]

@[simp] theorem receiveData_tally (h : CmdHead) (off : Nat) (bytes : List Byte) (last : Bool) (s : State) :
    (receiveData h off bytes last s).kiln.tally = s.kiln.tally := by
  unfold receiveData
  repeat' split
  all_goals simp

@[simp] theorem dataArrives_tally (h : CmdHead) (off : Nat) (bytes : List Byte) (last : Bool) (spares : Nat) (s : State) :
    (dataArrives h off bytes last spares s).kiln.tally = s.kiln.tally := by simp [dataArrives]

@[simp] theorem takeIn_tally (c : HostCmd) (no : Nat) (s : State) : (takeIn c no s).kiln.tally = s.kiln.tally := by
  simp [takeIn]

@[simp] theorem judgeCmd_tally (c : HostCmd) (s : State) : (judgeCmd c s).kiln.tally = s.kiln.tally := by
  unfold judgeCmd
  split
  · simp
  · split <;> simp

@[simp] theorem receiveCmd_tally (c : HostCmd) (s : State) : (receiveCmd c s).kiln.tally = s.kiln.tally := by
  simp [receiveCmd]

@[simp] theorem drainBacklog_tally (p : PortId) (waiting : List Waiting) (s : State) :
    (drainBacklog p waiting s).kiln.tally = s.kiln.tally := by
  induction waiting generalizing s with
  | nil => simp [drainBacklog]
  | cons x rest ih => cases x <;> simp [drainBacklog, ih]

@[simp] theorem drainBacklogs_tally (s : State) : (drainBacklogs s).kiln.tally = s.kiln.tally := by
  simp [drainBacklogs]

@[simp] theorem enterStep_kiln (r : SelfTestRun) (progress : Nat) (s : State) :
    (enterStep r progress s).kiln = s.kiln := rfl

/-! ### Transport, lines and cuts -/

@[simp] theorem transportFault_tally (cause : Nat) (s : State) : (transportFault cause s).kiln.tally = s.kiln.tally := by
  unfold transportFault
  split <;> simp

@[simp] theorem loopFault_tally (n : SlotNo) (s : State) : (loopFault n s).kiln.tally = s.kiln.tally := by
  simp [loopFault]

@[simp] theorem raiseLoopFaults_tally (s : State) : (raiseLoopFaults s).kiln.tally = s.kiln.tally := by
  simp [raiseLoopFaults]

@[simp] theorem pwmPeriod_tally (x : PeriodInputs) (s : State) : (pwmPeriod x s).kiln.tally = s.kiln.tally := by
  simp [pwmPeriod, pwmPeriod.setObjIntTension]

@[simp] theorem askCopiesAgain_tally (s : State) : (askCopiesAgain s).kiln.tally = s.kiln.tally := by
  unfold askCopiesAgain
  split <;> rfl

@[simp] theorem lineLost_tally (u : LineUse) (s : State) : (lineLost u s).kiln.tally = s.kiln.tally := by
  cases u <;> simp [lineLost]

@[simp] theorem meetLine_tally (h : EccHit) (s : State) : (meetLine h s).kiln.tally = s.kiln.tally := by
  simp [meetLine]

@[simp] theorem meetLines_tally (hits : List EccHit) (s : State) : (meetLines hits s).kiln.tally = s.kiln.tally := by
  simp [meetLines]

@[simp] theorem spoilItem_tally (idx : Nat) (wrong : List (Nat × Byte)) (s : State) :
    (spoilItem idx wrong s).kiln.tally = s.kiln.tally := by
  unfold spoilItem
  split <;> simp

@[simp] theorem clearCutDue_tally (s : State) : (clearCutDue s).kiln.tally = s.kiln.tally := rfl

@[simp] theorem buildKilnCut_tally (s : State) : (buildKilnCut s).kiln.tally = s.kiln.tally := by
  unfold buildKilnCut
  split
  · rfl
  · exact (clearCutDue_tally _).trans (congrArg Kiln.tally (startCut_kiln ..))

@[simp] theorem buildWork_tally (w : Work) (s : State) : (buildWork w s).kiln.tally = s.kiln.tally := by
  unfold buildWork
  split <;> simp

@[simp] theorem serveWork_tally (w : Work) (s : State) : (serveWork w s).kiln.tally = s.kiln.tally := by
  unfold serveWork
  split
  case h_5 =>
    split
    · rfl
    · dsimp only
      split <;> simp
  all_goals simp

@[simp] theorem writePathFault_tally (s : State) : (writePathFault s).kiln.tally = s.kiln.tally := by
  simp [writePathFault]

@[simp] theorem abandonCut_tally (miss window written : Nat) (s : State) :
    (abandonCut miss window written s).kiln.tally = s.kiln.tally := by
  unfold abandonCut
  split
  · rfl
  · extract_lets c windows length o' dead _ n s1 s2 s3
    have hs1 : s1.kiln.tally = s.kiln.tally := by simp [s1]
    have hs2 : s2.kiln.tally = s.kiln.tally := by simp [s2, hs1]
    have hs3 : s3.kiln.tally = s.kiln.tally := by
      simp only [s3, ite_tally]
      split
      · simp [hs2]
      · split
        · simp [hs2]
        · split <;> simp [hs2]
    simp [hs3]

@[simp] theorem afterKiln_tally (cut : Cut) (s : State) : (afterKiln cut s).kiln.tally = s.kiln.tally := by
  unfold afterKiln
  extract_lets last s1 _ s2
  have hs1 : s1.kiln = s.kiln := by simp [s1]
  have hs2 : s2.kiln.tally = s1.kiln.tally := rfl
  simp [hs2, hs1]

@[simp] theorem afterCut_tally (cut : Cut) (s : State) : (afterCut cut s).kiln.tally = s.kiln.tally := by
  unfold afterCut
  repeat' split
  all_goals simp

/-! ### Reads and the recovery of blocks -/

@[simp] theorem serveCut_tally (serial : Nat) (s : State) : (serveCut serial s).kiln.tally = s.kiln.tally := by
  simp [serveCut]

@[simp] theorem serveIfDone_tally (serial : Nat) (s : State) : (serveIfDone serial s).kiln.tally = s.kiln.tally := by
  simp [serveIfDone]

@[simp] theorem readGood_tally (serial seed : Nat) (wrong : List (Nat × Byte)) (s : State) :
    (readGood serial seed wrong s).kiln.tally = s.kiln.tally := by
  unfold readGood
  split <;> simp

@[simp] theorem cutDecoded_tally (c : Cut) (frames : List CopyRead) (seed : Nat) (s : State) :
    (cutDecoded c frames seed s).kiln.tally = s.kiln.tally := by
  simp [cutDecoded]

@[simp] theorem ladderRecovered_tally (l : Ladder) (s : State) : (ladderRecovered l s).kiln.tally = s.kiln.tally := by
  unfold ladderRecovered
  split <;> simp

@[simp] theorem ladderFailed_tally (l : Ladder) (s : State) : (ladderFailed l s).kiln.tally = s.kiln.tally := by
  unfold ladderFailed
  split <;> simp

@[simp] theorem climb_tally (l : Ladder) (s : State) : (climb l s).kiln.tally = s.kiln.tally := by
  simp [climb]

@[simp] theorem stepDone_tally (l : Ladder) (c : Cut) (frames : List CopyRead) (s : State) :
    (stepDone l c frames s).kiln.tally = s.kiln.tally := by
  simp [stepDone]

@[simp] theorem blockPassed_tally (c : Captured) (cut : Cut) (b : Block) (s : State) :
    (blockPassed c cut b s).kiln.tally = s.kiln.tally := by
  simp [blockPassed]

@[simp] theorem blockFailed_tally (c : Captured) (cut : Cut) (b : Block) (s : State) :
    (blockFailed c cut b s).kiln.tally = s.kiln.tally := by
  simp [blockFailed]

@[simp] theorem faultEffect_tally (b : Nat) (s : State) : (faultEffect b s).kiln.tally = s.kiln.tally := by
  unfold faultEffect
  split
  -- the two compression engines
  case h_4 | h_5 =>
    extract_lets n mine s1
    have hs1 : s1.kiln.tally = s.kiln.tally := by
      simp only [s1]
      split <;> simp
    simp [hs1]
  all_goals simp

@[simp] theorem releaseEffect_tally (b written : Nat) (tablesBad : Bool) (s : State) :
    (releaseEffect b written tablesBad s).kiln.tally = s.kiln.tally := by
  unfold releaseEffect
  repeat' split
  all_goals simp

@[simp] theorem blockFaulty_tally (b : Nat) (pages : List Half) (s : State) :
    (blockFaulty b pages s).kiln.tally = s.kiln.tally := by
  simp [blockFaulty]

/-! ### State requests and object writes -/

@[simp] theorem abortAll_tally (d : Dom) (s : State) : (abortAll d s).kiln.tally = s.kiln.tally := by
  unfold abortAll
  split <;> simp

@[simp] theorem reqReset_tally (d : Dom) (w : Writer) (gen : Half) (s : State) :
    (reqReset d w gen s).kiln.tally = s.kiln.tally := by
  simp [reqReset, domainRequest]

@[simp] theorem applyWrite_tally (w : Writer) (i sub v : Nat) (s : State) :
    (applyWrite w i sub v s).kiln.tally = s.kiln.tally := by
  unfold applyWrite
  extract_lets put
  have hput : put.kiln = s.kiln := setObj_kiln ..
  split
  -- the control of a loop slot
  case h_8 => exact congrArg Kiln.tally (writeControl_kiln ..)
  -- MAX_SPEED_STEP, a cap on the speed steps
  case h_11 => exact withCap_tally (fun t => congrArg Kiln.tally (setObj_kiln _ v t)) s
  -- a Kiln parameter, which goes to Kiln as a STAGE
  case h_23 => rfl
  all_goals simp [hput]

@[simp] theorem unitRequest_tally (w : Writer) (i v : Nat) (s : State) :
    (unitRequest w i v s).kiln.tally = s.kiln.tally := by
  simp only [unitRequest, portRequest, domainRequest, transportRequest]
  repeat' split
  all_goals simp

@[simp] theorem writeValue_tally (w : Writer) (i sub len v : Nat) (s : State) :
    (writeValue w i sub len v s).kiln.tally = s.kiln.tally := by
  unfold writeValue
  split
  · split <;> simp
  · split <;> simp

@[simp] theorem writeBytes_tally (w : Writer) (i sub : Nat) (bytes : List Byte) (s : State) :
    (writeBytes w i sub bytes s).kiln.tally = s.kiln.tally := by
  simp [writeBytes]

@[simp] theorem writeComplete_tally (w : Writer) (i sub : Nat) (bytes : List Byte) (s : State) :
    (writeComplete w i sub bytes s).kiln.tally = s.kiln.tally := by
  simp only [writeComplete]
  split
  · simp
  · split
    · simp
    · split
      · rfl
      · simp

@[simp] theorem regw_tally (p : PortId) (d : Dom) (reqId : Byte) (addr value : Word) (s : State) :
    (regw p d reqId addr value s).kiln.tally = s.kiln.tally := by
  simp only [regw]
  repeat' split
  all_goals simp

@[simp] theorem sdoValue_tally (complete : Bool) (i sub : Nat) (bytes : List Byte) (s : State) :
    (sdoValue complete i sub bytes s).kiln.tally = s.kiln.tally := by
  simp [sdoValue]

@[simp] theorem sdoSegment_tally (toggle last : Bool) (bytes : List Byte) (s : State) :
    (sdoSegment toggle last bytes s).kiln.tally = s.kiln.tally := by
  unfold sdoSegment
  split <;> simp

@[simp] theorem objectWrite_tally (w : ObjWrite) (s : State) : (objectWrite w s).kiln.tally = s.kiln.tally := by
  cases w <;> simp [objectWrite]

@[simp] theorem valueArrives_tally (w : Writer) (i sub v : Nat) (s : State) :
    (valueArrives w i sub v s).kiln.tally = s.kiln.tally := live_tally (by simp)

@[simp] theorem latchInput_tally (n : Fin 8) (v : Nat) (s : State) : (latchInput n v s).kiln.tally = s.kiln.tally := by
  unfold latchInput
  extract_lets bytes s1 data count
  have hs1 : s1.kiln.tally = s.kiln.tally := rfl
  split
  · exact hs1
  · split
    · split <;> exact hs1
    · split <;> exact hs1

@[simp] theorem takeOutput_tally (e : Nat × Nat × Nat) (s : State) : (takeOutput e s).kiln.tally = s.kiln.tally := by
  unfold takeOutput
  split
  · split <;> simp
  · simp

@[simp] theorem applyOutputs_tally (image : List Byte) (s : State) : (applyOutputs image s).kiln.tally = s.kiln.tally := by
  simp [applyOutputs]

/-! ### Link frames, resets and starts -/

@[simp] theorem sendFrame_tally (p : PortId) (s : State) : (sendFrame p s).kiln.tally = s.kiln.tally := by
  simp [sendFrame]

@[simp] theorem chooseFrame_tally (p : PortId) (s : State) : (chooseFrame p s).kiln.tally = s.kiln.tally := by
  simp only [chooseFrame]
  repeat' split
  all_goals simp

@[simp] theorem resetState_tally (cause : Nat) (s : State) : (resetState cause s).kiln.tally = s.kiln.tally := rfl

@[simp] theorem afterReset_tally (cause : Nat) (s : State) : (afterReset cause s).kiln.tally = s.kiln.tally := by
  simp [afterReset]

@[simp] theorem bringUp_tally (env : StartEnv) (s : State) : (bringUp env s).kiln.tally = s.kiln.tally := by
  unfold bringUp
  extract_lets s1
  change s1.kiln.tally = s.kiln.tally
  simp [s1]

@[simp] theorem loadStart_tally (env : StartEnv) (s : State) : (loadStart env s).kiln.tally = s.kiln.tally := by
  simp [loadStart]

@[simp] theorem startPart_tally (env : StartEnv) (s : State) : (startPart env s).kiln.tally = s.kiln.tally := by
  simp [startPart]

@[simp] theorem deviceFault_tally (cause : Nat) (s : State) : (deviceFault cause s).kiln.tally = s.kiln.tally := by
  unfold deviceFault
  split <;> simp

/-! ### Kiln -/

@[simp] theorem toMain_tally (m : BridgeMsg) (s : State) : (toMain m s).kiln.tally = s.kiln.tally := by
  unfold toMain
  split <;> rfl

@[simp] theorem kilnEvent_tally (code detail : Nat) (s : State) : (kilnEvent code detail s).kiln.tally = s.kiln.tally := by
  unfold kilnEvent
  split
  · simp
  · rfl

@[simp] theorem storeRecord_tally (r : KilnRecord) (s : State) : (storeRecord r s).kiln.tally = s.kiln.tally :=
  toMain_tally ..

/-- Entries are counted by their EVENT alone. -/
theorem length_filter_event (entries : List AuditEntry) :
    (entries.filter (fun e => e.event == 2)).length = (entries.map (·.event)).count 2 := by
  rw [← List.countP_eq_length_filter, List.count, List.countP_map]
  rfl

theorem map_event_set {entries : List AuditEntry} {n : Nat} {e e' : AuditEntry} (he : entries[n]? = some e)
    (hevent : e'.event = e.event) : (entries.set n e').map (·.event) = entries.map (·.event) := by
  obtain ⟨hn, rfl⟩ := List.getElem?_eq_some_iff.1 he
  have hsame : (entries.map (·.event)).set n ((entries.map (·.event))[n]'(by simpa using hn)) = entries.map (·.event) :=
    List.set_getElem_self ..
  rwa [List.getElem_map, ← hevent, ← List.map_set] at hsame

@[simp] theorem issueEntry_tally (crystal n : Nat) (s : State) : (issueEntry crystal n s).kiln.tally = s.kiln.tally := by
  unfold issueEntry
  split
  · rfl
  next e he =>
    rw [storeRecord_tally]
    simp only [modKiln_kiln, Kiln.tally, length_filter_event]
    rw [map_event_set he]
    rfl

@[simp] theorem issueEntries_tally (crystal n : Nat) (s : State) :
    (issueEntries crystal n s).kiln.tally = s.kiln.tally := by
  induction n generalizing s with
  | zero => rfl
  | succ n ih =>
    unfold issueEntries
    split
    · rfl
    · split
      · simp only [ih, issueEntry_tally]; rfl
      · rfl

@[simp] theorem issueAudit_tally (crystal : Nat) (s : State) : (issueAudit crystal s).kiln.tally = s.kiln.tally :=
  issueEntries_tally ..

/-- An entry that is no PARAM_CHANGED. -/
theorem addEntry_tally {f : AuditEntry → AuditEntry} (hf : ∀ e, (f e).event ≠ 2) (time : Nat) (s : State) :
    (addEntry f time s).kiln.tally = s.kiln.tally := by
  simp only [addEntry]
  split
  · rfl
  · simp [Kiln.tally, hf]

@[simp] theorem kilnGen_tally (s : State) : (kilnGen s).kiln.tally = s.kiln.tally := rfl

@[simp] theorem sealOpened_tally (latched : Bool) (time crystal : Nat) (s : State) :
    (sealOpened latched time crystal s).kiln.tally = s.kiln.tally := by
  unfold sealOpened
  extract_lets broken s1
  have hs1 : s1.kiln.tally = s.kiln.tally := addEntry_tally (by simp) ..
  simp [hs1]

@[simp] theorem refuseCommit_tally (reason : Nat) (s : State) : (refuseCommit reason s).kiln.tally = s.kiln.tally := by
  unfold refuseCommit
  extract_lets s1 s2
  have hs2 : s2.kiln.tally = s.kiln.tally := by
    simp only [s2]
    split
    · exact kilnEvent_tally ..
    · rfl
  simp [hs2]

@[simp] theorem rollBackCommit_tally (now : Nat) (s : State) : (rollBackCommit now s).kiln.tally = s.kiln.tally := by
  unfold rollBackCommit
  split
  · exact addEntry_tally (by simp) ..
  · rfl

@[simp] theorem findClock_tally (now : Nat) (s : State) : (findClock now s).kiln.tally = s.kiln.tally := by
  unfold findClock
  split
  · exact addEntry_tally (by simp) ..
  · rfl

@[simp] theorem kilnWakes_tally (clockLost : Bool) (crystal : Nat) (s : State) :
    (kilnWakes clockLost crystal s).kiln.tally = s.kiln.tally := by
  unfold kilnWakes
  extract_lets lost s1 now s2
  have hs1 : s1.kiln.tally = s.kiln.tally := rfl
  have hs2 : s2.kiln.tally = s.kiln.tally := by simp [s2, hs1]
  split
  · exact (sealOpened_tally ..).trans hs2
  · exact hs2

theorem kilnReceives_tally (p : BridgeMsg → Bool) (withdrawn : Bool) {f : BridgeMsg → State → State}
    (hf : ∀ m t, (f m t).kiln.tally = t.kiln.tally) (s : State) :
    (kilnReceives p withdrawn f s).kiln.tally = s.kiln.tally := by
  unfold kilnReceives
  split
  · rfl
  · split
    · rfl
    · rw [hf, modKiln_tally]
      · simp
      · exact fun _ => rfl

theorem mainReceives_tally (p : BridgeMsg → Bool) {f : BridgeMsg → State → State}
    (hf : ∀ m t, (f m t).kiln.tally = t.kiln.tally) (s : State) : (mainReceives p f s).kiln.tally = s.kiln.tally := by
  unfold mainReceives
  split
  · rfl
  · split
    · rfl
    · exact hf ..

@[simp] theorem takeSubmit_tally (crystal : Nat) (m : BridgeMsg) (s : State) :
    (takeSubmit crystal m s).kiln.tally = s.kiln.tally := by
  unfold takeSubmit
  split
  · extract_lets s0 why gap r s1
    have hs0 : s0.kiln = s.kiln := meterTaken_kiln ..
    have hs1 : s1.kiln.tally = s0.kiln.tally := modKiln_tally (fun _ => rfl) s0
    split
    · simp [hs0]
    · rw [storeRecord_tally]
      split <;> simp [hs1, hs0]
  · rfl

@[simp] theorem takeReport_tally (crystal : Nat) (s : State) : (takeReport crystal s).kiln.tally = s.kiln.tally := by
  unfold takeReport
  extract_lets k
  rw [modKiln_tally]
  · repeat rw [setObj_kiln]
  · exact fun _ => rfl

@[simp] theorem postNews_tally (s : State) : (postNews s).kiln.tally = s.kiln.tally := by
  unfold postNews
  exact foldl_tally (by simp) ..

@[simp] theorem askMissing_tally (s : State) : (askMissing s).kiln.tally = s.kiln.tally := by
  unfold askMissing
  extract_lets k room
  split
  · rfl
  · split <;> rfl

/-! ### A commit (R402, R406) -/

/-- The commit counts a change, and then appends its PARAM_CHANGED entry where one is free. -/
theorem countedEntry_tally {f : AuditEntry → AuditEntry} (hf : ∀ e, (f e).event = 2) (time : Nat) {s : State}
    (hroom : s.kiln.audit.length < auditEntries) :
    (addEntry f time (modKiln (fun k => { k with eventCounter := k.eventCounter + 1 }) s)).kiln.tally =
      s.kiln.tally + (1, 1) ∧
    (addEntry f time (modKiln (fun k => { k with eventCounter := k.eventCounter + 1 }) s)).kiln.audit.length =
      s.kiln.audit.length + 1 := by
  simp [addEntry, Kiln.tally, hf, Nat.not_le.2 hroom]

/-- A run of counted entries that fit in the log raises both numbers by their count. -/
theorem foldl_counted {α : Type} {f : State → α → State}
    (hf : ∀ t a, t.kiln.audit.length < auditEntries →
      (f t a).kiln.tally = t.kiln.tally + (1, 1) ∧ (f t a).kiln.audit.length = t.kiln.audit.length + 1)
    (l : List α) (s : State) (hroom : s.kiln.audit.length + l.length ≤ auditEntries) :
    (l.foldl f s).kiln.tally = s.kiln.tally + (l.length, l.length) := by
  induction l generalizing s with
  | nil => rfl
  | cons a l ih =>
    rw [List.length_cons] at hroom
    obtain ⟨htally, hlength⟩ := hf s a (by omega)
    rw [List.foldl_cons, ih (f s a) (by omega), htally, List.length_cons, add_assoc, add_comm l.length 1]
    rfl

/-- How many staged values differ does not depend on the time: a SET_TIME always does. -/
theorem length_stagedChanges (k : Kiln) (now now' : Nat) :
    (stagedChanges k now).length = (stagedChanges k now').length := by
  cases h : k.staged.setTime <;> simp [stagedChanges, stagedValues, h]

/-- A commit that has room counts as many changes as it logs. -/
theorem runCommit_tally {crystal : Nat} {s : State}
    (hroom : auditRoom s.kiln ((stagedChanges s.kiln 0).length + 1) = true) :
    ∃ n, (runCommit crystal s).kiln.tally = s.kiln.tally + (n, n) := by
  unfold runCommit
  extract_lets now s1 s2 s3 s4
  have hfree : s1.kiln.audit.length + (stagedChanges s.kiln now).length ≤ auditEntries := by
    rw [length_stagedChanges _ now 0]
    exact (Nat.le_add_right _ 1).trans (of_decide_eq_true hroom).le
  have hs2 : s2.kiln.tally = s1.kiln.tally + _ :=
    foldl_counted (fun t _ ht => countedEntry_tally (by simp) now ht) _ _ hfree
  have hs3 : s3.kiln.tally = s2.kiln.tally := addEntry_tally (by simp) ..
  have hs4 : s4.kiln.tally = s3.kiln.tally := rfl
  refine ⟨(stagedChanges s.kiln now).length, ?_⟩
  rw [issueAudit_tally, kilnEvent_tally, hs4, hs3, hs2]
  rfl

theorem sealCommit_tally (interrupted : Bool) (crystal : Nat) (s : State) :
    ∃ n, (sealCommit interrupted crystal s).kiln.tally = s.kiln.tally + (n, n) := by
  unfold sealCommit
  extract_lets k n
  split
  · exact ⟨0, refuseCommit_tally ..⟩
  · split
    · exact ⟨0, refuseCommit_tally ..⟩
    next hroom =>
      split
      · exact ⟨0, rfl⟩
      · exact runCommit_tally (by simpa using hroom)

end Sys2Proof.Machine
end

section
/-!
PROOFS. R402 over every command: the counter has risen by the PARAM_CHANGED entries that the command has added.
-/
namespace Sys2Proof.Machine

/-- The state an outcome goes on in has counted as many parameter changes as its log holds more PARAM_CHANGED entries. -/
def Tallies (s : State) (o : Host.Outcome State Fault Refusal) : Prop :=
  ∃ t n, o = .next t ∧ t.kiln.tally = s.kiln.tally + (n, n)

theorem tallies_next {s t : State} (h : t.kiln.tally = s.kiln.tally) : Tallies s (.next t) := ⟨t, 0, rfl, h⟩

theorem tallies_live {s t : State} (h : t.kiln.tally = s.kiln.tally) : Tallies s (.next (live s t)) :=
  tallies_next (live_tally h)

theorem tallies_working {b : Nat} {s t : State} (h : t.kiln.tally = s.kiln.tally) : Tallies s (.next (working b s t)) :=
  tallies_next (working_tally h)

theorem tallies_of_kept {m : List Part} {s : State} {o : Host.Outcome State Fault Refusal}
    (h : ∃ t, o = .next t ∧ Kept m s t) (hm : m.contains .kiln = false) : Tallies s o := by
  obtain ⟨t, ht, hk⟩ := h
  exact ⟨t, 0, ht, congrArg Kiln.tally (hk.same_of .kiln hm)⟩

theorem execSequenceEnd_tallies (energyMj : Word) (s : State) : Tallies s (execSequenceEnd energyMj s) := by
  refine tallies_live ?_
  split
  · rfl
  · extract_lets ms r at' _ _ s1
    have hs1 : s1.kiln.tally = s.kiln.tally := by simp [s1]
    split <;> exact hs1

theorem execMgmtWrite_tallies (p : PortId) (d : Dom) (m : MgmtReq) (bytes : List Byte) (s : State) :
    Tallies s (execMgmtWrite p d m bytes s) := by
  refine tallies_live ?_
  split
  · rfl
  · extract_lets s1 w i sub t all
    have hs1 : s1.kiln = s.kiln := returnAdmin_kiln ..
    split
    · simp [hs1]
    · split
      · simp [hs1]
      · split
        · simp [hs1]
        · split <;> simp [hs1]

theorem execDataStallTimeout_tallies (h : CmdHead) (s : State) : Tallies s (execDataStallTimeout h s) := by
  refine tallies_live ?_
  split <;> simp

theorem execRingWaitLimitExpiry_tallies (h : CmdHead) (s : State) : Tallies s (execRingWaitLimitExpiry h s) := by
  refine tallies_live ?_
  split <;> simp

theorem execSelfTestStepComplete_tallies (pass : Bool) (progress : Byte) (s : State) :
    Tallies s (execSelfTestStepComplete pass progress s) := by
  refine tallies_live ?_
  split <;> simp

theorem execBlockStart_tallies (hits : List EccHit) (bad : List (Nat × Byte)) (spares : Byte) (s : State) :
    Tallies s (execBlockStart hits bad spares s) := by
  refine tallies_working ?_
  extract_lets s1 s2
  have hs1 : s1.kiln.tally = s.kiln.tally := by simp [s1]
  have hs2 : s2.kiln.tally = s1.kiln.tally := by
    simp only [s2]
    split <;> simp
  simp [hs2, hs1]

theorem execBlockDecompressed_tallies (wrong : List (Nat × Byte)) (hits : List EccHit) (s : State) :
    Tallies s (execBlockDecompressed wrong hits s) := by
  refine tallies_working ?_
  split
  · rfl
  · extract_lets s1
    have hs1 : s1.kiln.tally = s.kiln.tally := by simp [s1]
    split
    · exact hs1
    · extract_lets s2
      have hs2 : s2.kiln.tally = s1.kiln.tally := by simp [s2]
      split <;> simp [hs2, hs1]

theorem execCutBoundary_tallies (s : State) : Tallies s (execCutBoundary s) := by
  refine tallies_working ?_
  split
  · rfl
  · split
    · simp
    · extract_lets s1
      split
      · simp [s1]
      · extract_lets s2
        split <;> simp [s2, s1]

theorem execFrameSetDecision_tallies (fs : BitVec 5) (clock : DWord) (frames : List FrameRead) (window : Half)
    (written : BitVec 6) (s : State) : Tallies s (execFrameSetDecision fs clock frames window written s) := by
  refine tallies_working ?_
  split <;> simp

theorem execSpliceGapEnd_tallies (s : State) : Tallies s (execSpliceGapEnd s) := by
  refine tallies_live ?_
  split
  · rfl
  next o =>
    split
    · rfl
    · extract_lets s1
      have hs1 : s1.kiln.tally = s.kiln.tally := by simp [s1]
      split
      · simp [hs1]
      · exact hs1

theorem execCutVerified_tallies (s : State) : Tallies s (execCutVerified s) := by
  refine tallies_live ?_
  split
  · rfl
  · split <;> simp

theorem execCartridgeQuiescent_tallies (s : State) : Tallies s (execCartridgeQuiescent s) := by
  refine tallies_live ?_
  split
  · rfl
  · extract_lets _ s1 s2
    have hs1 : s1.kiln = s.kiln := stopTape_kiln _
    have hs2 : s2.kiln = s.kiln := by
      simp only [s2]
      split <;> simp [hs1]
    simp [hs2]

theorem execCutReadComplete_tallies (frames : List CopyRead) (seed : BitVec 24) (s : State) :
    Tallies s (execCutReadComplete frames seed s) := by
  refine tallies_working ?_
  split
  · rfl
  · split
    · rfl
    · split <;> simp

theorem execLadderStepComplete_tallies (frames : List CopyRead) (s : State) :
    Tallies s (execLadderStepComplete frames s) := by
  refine tallies_working ?_
  split
  · rfl
  · split <;> simp

theorem execWrapCheck_tallies (track : Fin 16) (wedges : Vector DWord 4) (s : State) :
    Tallies s (execWrapCheck track wedges s) := by
  refine tallies_live ?_
  split
  · rfl
  · split <;> simp

theorem execSealOpen_tallies (crystal : DWord) (s : State) : Tallies s (execSealOpen crystal s) := by
  refine tallies_next ?_
  extract_lets k now s1
  split
  · rfl
  · split
    · exact sealOpened_tally ..
    · rfl

theorem execSealClosed_tallies (crystal : DWord) (interrupted : Bool) (s : State) :
    Tallies s (execSealClosed crystal interrupted s) := by
  unfold execSealClosed
  extract_lets k s1
  split
  · exact tallies_next rfl
  · split
    · obtain ⟨n, hn⟩ := sealCommit_tally interrupted crystal.toNat s1
      exact ⟨_, n, rfl, hn⟩
    · exact tallies_next rfl

theorem execKilnPowerOn_tallies (enabled clockLost : Bool) (crystal : DWord) (s : State) :
    Tallies s (execKilnPowerOn enabled clockLost crystal s) := by
  refine tallies_next ?_
  split
  · rfl
  · split
    · rfl
    · exact kilnWakes_tally ..

theorem execVbatLow_tallies (s : State) : Tallies s (execVbatLow s) := by
  refine tallies_next ?_
  split <;> rfl

theorem execSubmit_tallies (crystal : DWord) (withdrawn : Bool) (s : State) : Tallies s (execSubmit crystal withdrawn s) :=
  tallies_next (kilnReceives_tally _ _ (takeSubmit_tally _) s)

theorem execConfirm_tallies (crystal : DWord) (withdrawn : Bool) (s : State) :
    Tallies s (execConfirm crystal withdrawn s) := by
  refine tallies_next (kilnReceives_tally _ _ (fun m t => ?_) s)
  split
  · exact issueAudit_tally ..
  · rfl

theorem execRequestCopy_tallies (withdrawn : Bool) (s : State) : Tallies s (execRequestCopy withdrawn s) := by
  refine tallies_next (kilnReceives_tally _ _ (fun m t => ?_) s)
  split <;> simp

theorem execStage_tallies (withdrawn : Bool) (s : State) : Tallies s (execStage withdrawn s) := by
  refine tallies_next (kilnReceives_tally _ _ (fun m t => ?_) s)
  split
  · extract_lets why t1 code
    rw [toMain_tally]
    simp only [t1]
    split <;> rfl
  · rfl

theorem execResult_tallies (s : State) : Tallies s (execResult s) := by
  refine tallies_next (mainReceives_tally _ (fun m t => ?_) s)
  split <;> simp

theorem execRecordCopy_tallies (s : State) : Tallies s (execRecordCopy s) := by
  refine tallies_next (mainReceives_tally _ (fun m t => ?_) s)
  split
  · split <;> rfl
  · rfl

theorem execKilnNotResponding_tallies (s : State) : Tallies s (execKilnNotResponding s) := by
  refine tallies_live ?_
  split
  · rfl
  · extract_lets gone s1
    have hs1 : s1.kiln.tally = s.kiln.tally := by
      simp only [s1, postEvent_kiln, setObj_kiln, modKiln_kiln]
      rfl
    simp [hs1]

theorem execKilnCutAgeExpiry_tallies (s : State) : Tallies s (execKilnCutAgeExpiry s) := by
  refine tallies_live ?_
  split <;> rfl

theorem execMasterRequestsOp_tallies (s : State) : Tallies s (execMasterRequestsOp s) := by
  refine tallies_live ?_
  split
  · split <;> simp
  all_goals simp

theorem execNewOutputBuffer_tallies (image : List Byte) (s : State) : Tallies s (execNewOutputBuffer image s) := by
  refine tallies_live ?_
  split <;> simp

theorem execLaneFramePeriod_tallies (p : PortId) (s : State) : Tallies s (execLaneFramePeriod p s) := by
  refine tallies_live ?_
  split <;> simp

theorem execStartReference_tallies (env : StartEnv) (s : State) : Tallies s (execStartReference env s) := by
  refine tallies_next ?_
  split <;> simp

theorem execBlockRecoveryComplete_tallies (us : Half) (written : BitVec 6) (tablesBad : Bool) (s : State) :
    Tallies s (execBlockRecoveryComplete us written tablesBad s) := by
  refine tallies_live ?_
  split <;> simp

/-- Commands that do not touch Kiln count nothing by their Kept rules; of the others, only SEAL_CLOSED commits. -/
theorem exec_tallies : ∀ (c : Instr) (s : State), Tallies s (exec c s)
  | .poresetNLow, _ => tallies_next (afterReset_tally ..)
  | .startReference .., _ => execStartReference_tallies ..
  | .fuseLoadRetry .., _ => tallies_next (by simp)
  | .release .., _ => tallies_of_kept (execRelease_kept ..) rfl
  | .rootUnlock .., _ => tallies_next (deviceFault_tally ..)
  | .supplyFault, _ => tallies_next (deviceFault_tally ..)
  | .thermalTrip, _ => tallies_of_kept (execThermalTrip_kept ..) rfl
  | .thermalRestart .., _ => tallies_live (by simp)
  | .resetRequest .., _ => tallies_next (valueArrives_tally ..)
  | .warmReset .., _ => tallies_live (by simp)
  | .powerFailureDetected .., _ => tallies_of_kept (execPowerFailureDetected_kept ..) rfl
  | .holdupExhausted .., _ => tallies_of_kept (execHoldupExhausted_kept ..) rfl
  | .sequenceEnd .., _ => execSequenceEnd_tallies ..
  | .powerFailRestart .., _ => tallies_next (by simp)
  | .holdupReady, _ => tallies_of_kept (execHoldupReady_kept ..) rfl
  | .holdupLow, _ => tallies_of_kept (execHoldupLow_kept ..) rfl
  | .holdupControl .., _ => tallies_next (valueArrives_tally ..)
  | .signalDetected .., _ => tallies_of_kept (execSignalDetected_kept ..) rfl
  | .los .., _ => tallies_of_kept (execLos_kept ..) rfl
  | .lol .., _ => tallies_of_kept (execLol_kept ..) rfl
  | .lockComplete .., _ => tallies_of_kept (execLockComplete_kept ..) rfl
  | .alignComplete .., _ => tallies_of_kept (execAlignComplete_kept ..) rfl
  | .phaseTimerExpiry .., _ => tallies_of_kept (execPhaseTimerExpiry_kept ..) rfl
  | .laneFrameReceived .., _ => tallies_of_kept (execLaneFrameReceived_kept ..) rfl
  | .deskewComplete .., _ => tallies_of_kept (execDeskewComplete_kept ..) rfl
  | .listenBurst .., _ => tallies_of_kept (execListenBurst_kept ..) rfl
  | .loneRetrain .., _ => tallies_of_kept (execLoneRetrain_kept ..) rfl
  | .tapRequestTimeout .., _ => tallies_of_kept (execTapRequestTimeout_kept ..) rfl
  | .narrowingTimeout .., _ => tallies_of_kept (execNarrowingTimeout_kept ..) rfl
  | .clapperBurst .., _ => tallies_of_kept (execClapperBurst_kept ..) rfl
  | .endOfTransmission .., _ => tallies_of_kept (execEndOfTransmission_kept ..) rfl
  | .idleEntryTimeout .., _ => tallies_of_kept (execIdleEntryTimeout_kept ..) rfl
  | .portQuiescent .., _ => tallies_of_kept (execPortQuiescent_kept ..) rfl
  | .enable .., _ => tallies_of_kept (execEnable_kept ..) rfl
  | .disable .., _ => tallies_of_kept (execDisable_kept ..) rfl
  | .retrain .., _ => tallies_of_kept (execRetrain_kept ..) rfl
  | .enterIdle .., _ => tallies_of_kept (execEnterIdle_kept ..) rfl
  | .loopbackNes .., _ => tallies_of_kept (execLoopbackNes_kept ..) rfl
  | .loopbackNep .., _ => tallies_of_kept (execLoopbackNep_kept ..) rfl
  | .loopbackFe .., _ => tallies_of_kept (execLoopbackFe_kept ..) rfl
  | .endLoopback .., _ => tallies_of_kept (execEndLoopback_kept ..) rfl
  | .linkFrameReceived .., _ => tallies_of_kept (execLinkFrameReceived_kept ..) rfl
  | .enumerationFrame .., _ => tallies_of_kept (execEnumerationFrame_kept ..) rfl
  | .ack .., _ => tallies_of_kept (execAck_kept ..) rfl
  | .nak p seq reason, s => tallies_of_kept (execNak_kept p seq reason s) rfl
  | .credit .., _ => tallies_of_kept (execCredit_kept ..) rfl
  | .replayTimeout .., _ => tallies_of_kept (execReplayTimeout_kept ..) rfl
  | .creditRefresh .., _ => tallies_of_kept (execCreditRefresh_kept ..) rfl
  | .objectWrite .., _ => tallies_live (objectWrite_tally ..)
  | .regwLowerWord .., _ => tallies_live (by simp)
  | .mgmtRead .., _ => tallies_of_kept (execMgmtRead_kept ..) rfl
  | .mgmtWrite .., _ => execMgmtWrite_tallies ..
  | .getDescription .., _ => tallies_of_kept (execGetDescription_kept ..) rfl
  | .abortTransfer .., _ => tallies_of_kept (execAbortTransfer_kept ..) rfl
  | .undefinedMgmtOpcode .., _ => tallies_of_kept (execUndefinedMgmtOpcode_kept ..) rfl
  | .mgmtTransferTimeout .., _ => tallies_of_kept (execMgmtTransferTimeout_kept ..) rfl
  | .sdoTransferTimeout .., _ => tallies_of_kept (execSdoTransferTimeout_kept ..) rfl
  | .masterRequestsInit, _ => tallies_of_kept (execMasterRequestsInit_kept ..) rfl
  | .masterRequestsPreop, _ => tallies_of_kept (execMasterRequestsPreop_kept ..) rfl
  | .masterRequestsSafeop .., _ => tallies_of_kept (execMasterRequestsSafeop_kept ..) rfl
  | .masterRequestsOp, _ => execMasterRequestsOp_tallies ..
  | .masterRequestsBoot, _ => tallies_of_kept (execMasterRequestsBoot_kept ..) rfl
  | .sm2WatchdogExpiry, _ => tallies_of_kept (execSm2WatchdogExpiry_kept ..) rfl
  | .newOutputBuffer .., _ => execNewOutputBuffer_tallies ..
  | .foeWrite .., _ => tallies_of_kept (execFoeWrite_kept ..) rfl
  | .foeRead, _ => tallies_of_kept (execFoeRead_kept ..) rfl
  | .foePacket .., _ => tallies_of_kept (execFoePacket_kept ..) rfl
  | .downloadTimeout, _ => tallies_of_kept (execDownloadTimeout_kept ..) rfl
  | .imagePushData .., _ => tallies_of_kept (execImagePushData_kept ..) rfl
  | .imagePushCommit .., _ => tallies_next (valueArrives_tally ..)
  | .imageActivate .., _ => tallies_next (valueArrives_tally ..)
  | .configure .., _ => tallies_of_kept (execConfigure_kept ..) rfl
  | .goOnline .., _ => tallies_of_kept (execGoOnline_kept ..) rfl
  | .goOffline .., _ => tallies_of_kept (execGoOffline_kept ..) rfl
  | .reset .., _ => tallies_live (by simp)
  | .unconfigure .., _ => tallies_of_kept (execUnconfigure_kept ..) rfl
  | .domainQuiescent .., _ => tallies_of_kept (execDomainQuiescent_kept ..) rfl
  | .domainOnline .., _ => tallies_of_kept (execDomainOnline_kept ..) rfl
  | .domainReset .., _ => tallies_of_kept (execDomainReset_kept ..) rfl
  | .guaranteeRecompute, _ => tallies_of_kept (execGuaranteeRecompute_kept ..) rfl
  | .append .., _ => tallies_live (receiveCmd_tally ..)
  | .readLog .., _ => tallies_live (by simp)
  | .writeVol .., _ => tallies_live (receiveCmd_tally ..)
  | .readVol .., _ => tallies_live (by simp)
  | .sync .., _ => tallies_live (receiveCmd_tally ..)
  | .trimLog .., _ => tallies_live (receiveCmd_tally ..)
  | .identify .., _ => tallies_live (receiveCmd_tally ..)
  | .getLogPage .., _ => tallies_live (receiveCmd_tally ..)
  | .selfTest .., _ => tallies_live (receiveCmd_tally ..)
  | .resume .., _ => tallies_live (receiveCmd_tally ..)
  | .setPower .., _ => tallies_live (receiveCmd_tally ..)
  | .abort .., _ => tallies_live (receiveCmd_tally ..)
  | .meterRecord .., _ => tallies_live (receiveCmd_tally ..)
  | .loadUnload .., _ => tallies_live (receiveCmd_tally ..)
  | .undefinedOpcode .., _ => tallies_live (by simp)
  | .data .., _ => tallies_live (by simp)
  | .dataStallTimeout .., _ => execDataStallTimeout_tallies ..
  | .tagCloseTimeout .., _ => tallies_of_kept (execTagCloseTimeout_kept ..) rfl
  | .ringRoomGranted .., _ => tallies_live (by simp)
  | .ringWaitLimitExpiry .., _ => execRingWaitLimitExpiry_tallies ..
  | .selfTestResume, _ => tallies_of_kept (execSelfTestResume_kept ..) rfl
  | .selfTestStepComplete .., _ => execSelfTestStepComplete_tallies ..
  | .idleTimeout .., _ => tallies_of_kept (execIdleTimeout_kept ..) rfl
  | .p1Reached, _ => tallies_of_kept (execP1Reached_kept ..) rfl
  | .p2Entry, _ => tallies_of_kept (execP2Entry_kept ..) rfl
  | .idleEntryRetry, _ => tallies_of_kept (execIdleEntryRetry_kept ..) rfl
  | .p0Reached, _ => tallies_live (by simp)
  | .mr4Read .., _ => tallies_of_kept (execMr4Read_kept ..) rfl
  | .pageRequest .., _ => tallies_of_kept (execPageRequest_kept ..) rfl
  | .pageRelease .., _ => tallies_of_kept (execPageRelease_kept ..) rfl
  | .arbiterRequest .., _ => tallies_of_kept (execArbiterRequest_kept ..) rfl
  | .arbiterWithdraw .., _ => tallies_of_kept (execArbiterWithdraw_kept ..) rfl
  | .arbiterStarvation .., _ => tallies_of_kept (execArbiterStarvation_kept ..) rfl
  | .blockGatherExpiry .., _ => tallies_of_kept (execBlockGatherExpiry_kept ..) rfl
  | .blockStart .., _ => execBlockStart_tallies ..
  | .blockCompressed .., _ => tallies_of_kept (execBlockCompressed_kept ..) rfl
  | .blockDecompressed .., _ => execBlockDecompressed_tallies ..
  | .cutBoundary, _ => execCutBoundary_tallies ..
  | .streamGapExpiry, _ => tallies_of_kept (execStreamGapExpiry_kept ..) rfl
  | .frameSetDecision .., _ => execFrameSetDecision_tallies ..
  | .spliceGapEnd, _ => execSpliceGapEnd_tallies ..
  | .cutVerified, _ => execCutVerified_tallies ..
  | .backhitchComplete, _ => tallies_of_kept (execBackhitchComplete_kept ..) rfl
  | .burstStart, _ => tallies_of_kept (execBurstStart_kept ..) rfl
  | .cartridgeInserted .., _ => tallies_of_kept (execCartridgeInserted_kept ..) rfl
  | .cartridgeRemoved, _ => tallies_of_kept (execCartridgeRemoved_kept ..) rfl
  | .load .., _ => tallies_of_kept (execLoad_kept ..) rfl
  | .unload .., _ => tallies_of_kept (execUnload_kept ..) rfl
  | .eject .., _ => tallies_of_kept (execEject_kept ..) rfl
  | .format .., _ => tallies_of_kept (execFormat_kept ..) rfl
  | .formatForce .., _ => tallies_of_kept (execFormatForce_kept ..) rfl
  | .discardRing .., _ => tallies_of_kept (execDiscardRing_kept ..) rfl
  | .threaded .., _ => tallies_live (by simp)
  | .powerLossReplay, _ => tallies_of_kept (execPowerLossReplay_kept ..) rfl
  | .eodFound .., _ => tallies_live (by simp)
  | .cartridgeQuiescent, _ => execCartridgeQuiescent_tallies ..
  | .unthreaded, _ => tallies_live (by simp)
  | .formatWrapDone, _ => tallies_of_kept (execFormatWrapDone_kept ..) rfl
  | .formatComplete, _ => tallies_live (by simp)
  | .indexRebuildComplete, _ => tallies_live (by simp)
  | .cutReadComplete .., _ => execCutReadComplete_tallies ..
  | .ladderStepComplete .., _ => execLadderStepComplete_tallies ..
  | .holdover, _ => tallies_of_kept (execHoldover_kept ..) rfl
  | .holdoverOverrun, _ => tallies_of_kept (execHoldoverOverrun_kept ..) rfl
  | .clockRelock, _ => tallies_of_kept (execClockRelock_kept ..) rfl
  | .zoneExit .., _ => tallies_of_kept (execZoneExit_kept ..) rfl
  | .wrapCheck .., _ => execWrapCheck_tallies ..
  | .locateComplete .., _ => tallies_of_kept (execLocateComplete_kept ..) rfl
  | .writeInhibit .., _ => tallies_of_kept (execWriteInhibit_kept ..) rfl
  | .servoReaderLost .., _ => tallies_of_kept (execServoReaderLost_kept ..) rfl
  | .servoReaderFault, _ => tallies_live (by simp)
  | .lposWord .., _ => tallies_of_kept (execLposWord_kept ..) rfl
  | .lposWordLoss, _ => tallies_of_kept (execLposWordLoss_kept ..) rfl
  | .calibrate .., _ => tallies_next (valueArrives_tally ..)
  | .headCalibrationComplete .., _ => tallies_of_kept (execHeadCalibrationComplete_kept ..) rfl
  | .pwmPeriod .., _ => tallies_live (pwmPeriod_tally ..)
  | .tensionFault, _ => tallies_live (by simp)
  | .reelsAtRest, _ => tallies_of_kept (execReelsAtRest_kept ..) rfl
  | .headLoaded .., _ => tallies_of_kept (execHeadLoaded_kept ..) rfl
  | .clearFault .., _ => tallies_of_kept (execClearFault_kept ..) rfl
  | .enterTest .., _ => tallies_of_kept (execEnterTest_kept ..) rfl
  | .endTest .., _ => tallies_of_kept (execEndTest_kept ..) rfl
  | .apply .., _ => tallies_next (valueArrives_tally ..)
  | .injectWaveform .., _ => tallies_next (valueArrives_tally ..)
  | .captureArm .., _ => tallies_next (valueArrives_tally ..)
  | .captureStop .., _ => tallies_next (valueArrives_tally ..)
  | .captureFull, _ => tallies_of_kept (execCaptureFull_kept ..) rfl
  | .encoderFault .., _ => tallies_live (by simp)
  | .standstill .., _ => tallies_of_kept (execStandstill_kept ..) rfl
  | .radiusMeasured .., _ => tallies_of_kept (execRadiusMeasured_kept ..) rfl
  | .speedMismatch, _ => tallies_of_kept (execSpeedMismatch_kept ..) rfl
  | .speedAgreement, _ => tallies_of_kept (execSpeedAgreement_kept ..) rfl
  | .tensionArmMismatch, _ => tallies_of_kept (execTensionArmMismatch_kept ..) rfl
  | .speedEvaluation, _ => tallies_of_kept (execSpeedEvaluation_kept ..) rfl
  | .poolMaxAgeExpiry .., _ => tallies_of_kept (execPoolMaxAgeExpiry_kept ..) rfl
  | .readExcursionLimit, _ => tallies_of_kept (execReadExcursionLimit_kept ..) rfl
  | .readWaitPriority .., _ => tallies_of_kept (execReadWaitPriority_kept ..) rfl
  | .dailiesDue, _ => tallies_of_kept (execDailiesDue_kept ..) rfl
  | .dailiesResume, _ => tallies_of_kept (execDailiesResume_kept ..) rfl
  | .bedrockDelayExpiry, _ => tallies_of_kept (execBedrockDelayExpiry_kept ..) rfl
  | .derateRecovery, _ => tallies_of_kept (execDerateRecovery_kept ..) rfl
  | .sealOpen .., _ => execSealOpen_tallies ..
  | .sealClosed .., _ => execSealClosed_tallies ..
  | .kilnPowerOn .., _ => execKilnPowerOn_tallies ..
  | .vbatLow, _ => execVbatLow_tallies ..
  | .submit .., _ => execSubmit_tallies ..
  | .confirm .., _ => execConfirm_tallies ..
  | .requestCopy .., _ => execRequestCopy_tallies ..
  | .stage .., _ => execStage_tallies ..
  | .result, _ => execResult_tallies ..
  | .recordCopy, _ => execRecordCopy_tallies ..
  | .stateReport .., _ => tallies_next (by simp)
  | .kilnNotResponding, _ => execKilnNotResponding_tallies ..
  | .kilnCutAgeExpiry, _ => execKilnCutAgeExpiry_tallies ..
  | .pinConfig .., _ => tallies_next (valueArrives_tally ..)
  | .eventConfig .., _ => tallies_next (valueArrives_tally ..)
  | .pinOut .., _ => tallies_next (valueArrives_tally ..)
  | .devicePinOut .., _ => tallies_next (valueArrives_tally ..)
  | .eventAccepted .., _ => tallies_of_kept (execEventAccepted_kept ..) rfl
  | .energyTick .., _ => tallies_of_kept (execEnergyTick_kept ..) rfl
  | .energyWindow, _ => tallies_of_kept (execEnergyWindow_kept ..) rfl
  | .energyClear .., _ => tallies_next (valueArrives_tally ..)
  | .watchdogExpiry .., _ => tallies_live (by simp)
  | .blockRecoveryComplete .., _ => execBlockRecoveryComplete_tallies ..
  | .cpWatchdog, _ => tallies_of_kept (execCpWatchdog_kept ..) rfl
  | .tableRebuildComplete .., _ => tallies_live (by simp)
  | .laneFramePeriod .., _ => execLaneFramePeriod_tallies ..
  | .encoderEdge .., _ => tallies_of_kept (execEncoderEdge_kept ..) rfl
  | .pinLevelChange .., _ => tallies_of_kept (execPinLevelChange_kept ..) rfl
  | .headUnloaded, _ => tallies_of_kept (execHeadUnloaded_kept ..) rfl
  | .exitP1Reached, _ => tallies_live (by simp)
  | .unsupportedProtocol .., _ => tallies_of_kept (execUnsupportedProtocol_kept ..) rfl
  | .siiWrite word value, s => tallies_of_kept (execSiiWrite_kept word value s) rfl
  | .regrLowerWord .., _ => tallies_of_kept (execRegrLowerWord_kept ..) rfl
  | .bankSupplyRises .., _ => tallies_of_kept (execBankSupplyRises_kept ..) rfl

/-- Settles O60: every command but the seal's closing leaves both numbers, and a commit that has room adds an entry for each
change that it counts. -/
theorem eventCounterCountsParameterChanges : Obligations.EventCounterCountsParameterChanges := by
  unfold Obligations.EventCounterCountsParameterChanges
  intro changes
  refine ⟨rfl, fun c s t hnext => ?_⟩
  obtain ⟨t', n, hexec, htally⟩ := exec_tallies c s
  obtain rfl : t' = t := Host.Outcome.next.inj (hexec.symm.trans hnext)
  exact ⟨n, congrArg Prod.fst htally, congrArg Prod.snd htally⟩

end Sys2Proof.Machine
end
